-- ==== Sys2Proof/Word.lean ====
section
/-! DEFINITION. The widths of the LY-7's data: the words every other file uses (spec R9, R10, R57). -/
namespace Sys2Proof

/-- One byte of any memory, buffer or record. -/
abbrev Byte := BitVec 8
/-- A 32-bit register, half or FP32 pattern. -/
abbrev W32 := BitVec 32
/-- A 64-bit register or scalar. -/
abbrev W64 := BitVec 64
/-- An address register of a Sage core (R57). -/
abbrev W48 := BitVec 48
/-- A device address, a host address or an offset, once computed. -/
abbrev Addr := Nat

end Sys2Proof
end

