-- ==== Sys2Proof/Syntax.lean ====
section
/-! DEFINITION. The commands the block takes: one constructor of Instr per row of spec/opcode_table.json, with
the operands the command carries.  An operand is what the command's sender gives, or what the spec leaves to
time, to an arbiter or to another party (the content of a host read, a sensor's reading, an arriving packet). -/
namespace Sys2Proof

abbrev CoreId := Fin 1536
abbrev Stn := Fin 256
abbrev Die := Fin 16
abbrev PartId := Fin 64
abbrev CndId := Fin 64
abbrev ChanId := Fin 1024
abbrev DomId := Fin 96
abbrev FuncId := Fin 65
abbrev RingId := Fin 262144
abbrev PortId := Fin 6
/-- An SPDM endpoint: 0 the physical function, 1-64 the virtual functions, 65 the I3C port (R503). -/
abbrev Endpoint := Fin 66
abbrev SlotId := Fin 256

/-- Who makes an access: the partition tag, sub-consist and OPER bit it carries, and the agent's kind, die
and index as the trouble record names them (R111, R349, R446, R515).  `lent` marks an access accepted under a
lend grant (R351). -/
structure Who where
  part : Nat
  sub : Nat
  oper : Bool
  kind : Nat
  die : Nat
  index : Nat
  lent : Bool
deriving DecidableEq, Repr

/-- The way a register access comes in: a host access to PF BAR0, PF BAR2 or the BAR0 of a virtual function,
or a device agent's access through the alias of R591. -/
inductive RegPath where
  | pf0
  | pf2
  | vf (v : PartId)
  | device (w : Who)
deriving DecidableEq, Repr

/-- What an ECC check finds on the way of an access. -/
inductive Ecc where
  | clean | corrected | uncorrectable
deriving DecidableEq, Repr

/-- What the check codes of HBM and depot SRAM find on an access (R248, R249, R257). -/
inductive HbmEcc where
  | clean | corrected | bad | depotCorrected | depotBad
deriving DecidableEq, Repr

/-- What an access asks of a home, a station or a directory. -/
inductive AccessOp where
  | read (n : Nat)
  | write (data : List Byte)
  | atomic (op : Nat) (operand : W64) (posted : Bool)
  | cas (cmp swap : W64) (posted : Bool)
deriving DecidableEq, Repr

/-- What a conductor meets when it fetches an instruction: what the check codes of its caches find, and a peer's answers to
its fetches through the remote aperture, none where none came in time (R305, R326). -/
structure Fetched where
  ecc : Ecc
  peers : List (Option (List Byte))
deriving DecidableEq, Repr

/-- A conductor that comes to an instruction, and what it meets when it fetches it. -/
structure CndInsn where
  cnd : CndId
  fetched : Fetched
deriving DecidableEq, Repr

/-- One access as a mesh packet carries it. -/
structure Access where
  who : Who
  addr : Addr
  op : AccessOp
  nt : Bool
  stream : Bool
deriving DecidableEq, Repr

/-- A request that reaches a directory (R310): a holder's, with the tag of the work it does and, where it wants to own the
line for a store, the place in the line and the bytes; or a non-caching access. -/
inductive DirAsk where
  | gets (h : Fin 72) (part : Nat) (oper : Bool)
  | getx (h : Fin 72) (part : Nat) (oper : Bool) (store : Option (Nat × List Byte))
  | upgrade (h : Fin 72) (part : Nat) (oper : Bool) (store : Option (Nat × List Byte))
  | nc (a : Access)
deriving DecidableEq, Repr

/-- A line of control memory that a request names, and what the check codes of its directory entry find (R326). -/
structure DirLine where
  line : Nat
  ecc : Ecc
deriving DecidableEq, Repr

/-- The tag that a request carries (R318). -/
structure DirTag where
  part : Nat
  oper : Bool
deriving DecidableEq, Repr

/-- What ownership is asked for: the store that follows, if any, and the requests of others for the line in the same cycle
(R315-R317). -/
structure DirWant where
  store : Option (Nat × List Byte)
  rivals : List DirAsk
deriving DecidableEq, Repr

/-- A non-caching access, what the check codes of its line's directory entry find, and the requests of others for the line
in the same cycle (R310, R315-R317, R326). -/
structure NcAsk where
  access : Access
  ecc : Ecc
  rivals : List DirAsk
deriving DecidableEq, Repr

/-- How far an access of a core is carried (R286, R287): the lines of its transfer that are performed now, 0 for all of them,
and the lines that the station cache evicts of itself before. -/
structure Carry where
  lines : Nat
  evict : List Nat
deriving DecidableEq, Repr

/-- A Branch-line unit that takes a command, and whether one of the command's accesses to another module gets no answer in
time (R181). -/
structure BlTurn where
  unit : PartId
  late : Bool
deriving DecidableEq, Repr

/-- A station whose reset has drained: how many rows or blocks of its KV gate's command were processed, and how far the next
had come (R157). -/
structure StnDrained where
  stn : Stn
  rows : Nat
  torn : Nat
deriving DecidableEq, Repr

/-- How the parts of a partition's reset end: whether one overran its bound, and how many effects the Branch-line unit's
abandoned command had (R205, R559). -/
structure PartEnd where
  overran : Bool
  done : Nat
deriving DecidableEq, Repr

/-- A message of the signal network (R121, R122): its class, destination, partition tag and payload flits. -/
structure Signal where
  cls : Nat
  die : Nat
  stop : Nat
  part : Nat
  oper : Bool
  payload : List W32
deriving DecidableEq, Repr

/-- A bulk-mesh packet at a junction: the stops it comes from and goes to, each a die and a junction, its virtual channel,
its tag, class and deadline, and its data (R117, R134, R274, R467, R473). -/
structure MeshPacket where
  srcDie : Nat
  src : Nat
  dstDie : Nat
  dst : Nat
  response : Bool
  part : Nat
  oper : Bool
  cls : Nat
  deadline : Nat
  data : List Byte
deriving DecidableEq, Repr

/-- A launch a conductor makes: the program image and its arguments, the core's rank, the launch's size and how many of
its cores lie on this module (R102-R104). -/
structure LaunchReq where
  id : Nat
  part : Nat
  sub : Nat
  image : Addr
  args : List Byte
  rank : Nat
  size : Nat
  here : Nat
  label : Nat
  cnd : CndId
deriving DecidableEq, Repr

/-- A Belyan packet (R365): its header fields and its payload. -/
structure Packet where
  typ : Nat
  vc : Nat
  dir : Nat
  dim : Nat
  oper : Bool
  err : Bool
  dst : Nat
  src : Nat
  part : Nat
  tc : Nat
  consist : Nat
  epoch : Nat
  deadline : Nat
  tag : Nat
  addr : Addr
  srcDie : Nat
  len : Nat
  aop : Nat
  hops : Nat
  payload : List Byte
deriving DecidableEq, Repr

/-- A layer of a bundle (R25, R138): its attention (0 multi-head, 1 grouped-query, 2 sliding-window, 3 latent-compressed;
anything else is another architecture), its KV heads, the widths of K and V, or of LATENT and ROPE, its window, its experts (0
where it is dense) and how many of them a token takes. -/
structure LayerDecl where
  attn : Nat
  heads : Nat
  widthA : Nat
  widthB : Nat
  window : Nat
  experts : Nat
  topk : Nat
deriving DecidableEq, Repr

/-- What the loop reads of a model bundle (R25, R138, R139, R180, R213, R227, R233, R237; DESIGN CHOICE, log 27): whether it is a
decoder-only transformer, its KV format and rounding, its layers, the query heads per KV head, the context limit, the
end-of-sequence tokens, the vocabulary table with its strings, and the identity digest. -/
structure Bundle where
  decoder : Bool
  ns4 : Bool
  stochastic : Bool
  layers : List LayerDecl
  group : Nat
  limit : Nat
  eos : List Nat
  vocab : List Byte
  strings : List Byte
  digest : List Byte
deriving DecidableEq, Repr

/-- Where a KV gate WRITE of the loop runs: the station, the buffer, and the source rows that the layer program has left there
(R152, R218; DESIGN CHOICE, log 124). -/
structure KvPut where
  stn : Nat
  buf : Nat
  rows : List Byte
deriving DecidableEq, Repr

/-- What a step brings for one request: the logits of its sampled position, or of each node of its tree (R230), where its rows'
WRITEs run, the draft list of its draft heads (R184), and whether a read of its state on the tier timed out (R229). -/
structure StepResult where
  logits : List (List W32)
  puts : List KvPut
  drafts : List Byte
  lost : Bool
deriving DecidableEq, Repr

/-- A tile program of the bundle that a step launches (R216, R219): its image, its arguments, its cores and its label. -/
structure LoopProg where
  image : Addr
  args : List Byte
  cores : Nat
  label : Nat
deriving DecidableEq, Repr

/-- What the loop's firmware chooses at a boundary, and what it meets there (DESIGN CHOICE, log 124): the fraction and duration of
each attempt of R220 and of the IDLE_GAP notice; the pool pages it prefers, by number; where it puts the structures of
the requests it admits; the programs it launches; and what the devices of the tier answer. -/
structure Plan where
  asks : List (Nat × Nat)
  pages : List Nat
  heap : List Nat
  progs : List LoopProg
  peers : List (Option (List Byte))
deriving DecidableEq, Repr

/-- A unit whose work does not end (R549): a ROUTE in progress, by its place among them; a Branch-line unit; a Chervil
channel. -/
inductive StuckUnit where
  | route (i : Nat)
  | branch (u : PartId)
  | channel (n : ChanId)
deriving DecidableEq, Repr

/-- What arrives on a link beside whole packets (R374): a flit with its sequence number, whether its CRC and its error
correction pass, the lanes on which a symbol was corrected; an acknowledgement of the oldest `packets` queued packets; a request to replay. -/
inductive Flit where
  | data (seq : Nat) (crcOk fecOk : Bool) (fixed : List (Fin 32))
  | ack (packets : Nat)
  | replay
deriving DecidableEq, Repr

/-- What the capabilities that R386 lists can be asked for. -/
inductive ConfigFeature where
  | totalVfs | firstVfOffset | vfStride | invalidateDepth | pageAligned | msixVectors | ari | functionReset
  | maxPayload | maxRead
  | serial (high : Bool)
deriving DecidableEq, Repr

/-- A configuration request (R386, R387, R413, R582; PRESUMED, log 6): a read of a 32-bit register by its number, or a write of what
the spec's rules turn on: Bus Master Enable, Enable Relaxed Ordering, ATS Enable, MSI-X Enable and Function Mask, VF
Enable with NumVFs (the physical function's), D3hot, Max Payload Size and Max Read Request Size in the standard's codes,
and reads of the Link Status and AER registers and of what the capabilities give. -/
inductive ConfigReq where
  | read (dword : Nat)
  | busMaster (on : Bool)
  | relaxed (on : Bool)
  | ats (on : Bool)
  | msix (on mask : Bool)
  | sriov (on : Bool) (numVfs : Nat)
  | power (d3 : Bool)
  | linkStatus
  | aerStatus
  | aerClear (bits : Nat)
  | payload (code : Fin 3)
  | readRequest (code : Fin 6)
  | feature (k : ConfigFeature)
deriving DecidableEq, Repr

/-- The widths and rates at which the host link trains (R5, R581). -/
inductive LinkWidth where
  | x16 | x8 | x4 | x2 | x1
deriving DecidableEq, Repr

inductive LinkRate where
  | gt64 | gt32 | gt16
deriving DecidableEq, Repr

/-- The commands, one constructor per row of spec/opcode_table.json, in the table's order. -/
inductive Instr where
  /-- R12. A write to a register field that has no row of its own sets, clears, locks or ignores the field according to its access type. -/
  | registerWrite (path : RegPath) (off bytes value : Nat)
  /-- R65. A Sage core NOP occupies the sequencer for one cycle and does nothing else. -/
  | sageNop (c : CoreId) (ecc : Ecc)
  /-- R107. A reserved opcode or a forbidden encoding faults the Sage core with ILLEGAL_OP. -/
  | illegalOp (c : CoreId) (ecc : Ecc)
  /-- R82. A TLD loads strided memory rows into a tile register, after the window check, through the station cache. -/
  | tld (c : CoreId) (ecc : Ecc)
  /-- R82. A TST stores the rows of a tile register to memory; overlapping rows are written in row order. -/
  | tst (c : CoreId) (ecc : Ecc)
  /-- R82. An ALD loads FP32 rows into an accumulator. -/
  | ald (c : CoreId) (ecc : Ecc)
  /-- R82. An AST stores FP32 rows of an accumulator to memory. -/
  | ast (c : CoreId) (ecc : Ecc)
  /-- R88. An SLD loads 32 or 64 bits into a scalar register; a 32-bit load is zero-extended. -/
  | sld (c : CoreId) (ecc : Ecc)
  /-- R88. An SST stores 32 or 64 bits of a scalar register. -/
  | sst (c : CoreId) (ecc : Ecc)
  /-- R604. A PREF requests the lines of a TLD-shaped range into the station cache as clean lines, without a range-table entry. -/
  | pref (c : CoreId) (ecc : Ecc)
  /-- R66. An MMA performs a same-width matrix multiply-accumulate into an accumulator. -/
  | mma (c : CoreId) (ecc : Ecc)
  /-- R67. An MMAX multiplies an 8-bit tile pair by a 4-bit tile with K = 64 and accumulates the result. -/
  | mmax (c : CoreId) (ecc : Ecc)
  /-- R77. A ZERO clears a tile or an accumulator, including the row maxima and row sums. -/
  | zeroReg (c : CoreId) (ecc : Ecc)
  /-- R77. A TMOV copies a tile or accumulator to another of the same file, scale store or row vectors included. -/
  | tmov (c : CoreId) (ecc : Ecc)
  /-- R70. A CVT converts accumulator values to a tile format, with rounding and scale selection. -/
  | cvt (c : CoreId) (ecc : Ecc)
  /-- R71. A DQ writes the exact values of a tile into an accumulator. -/
  | dq (c : CoreId) (ecc : Ecc)
  /-- R73. A VOP performs an elementwise add, subtract, multiply, maximum or minimum in FP32. -/
  | vop (c : CoreId) (ecc : Ecc)
  /-- R73. A VFMA performs an elementwise fused multiply-add rounded once. -/
  | vfma (c : CoreId) (ecc : Ecc)
  /-- R73. A VUN computes an elementwise unary function. -/
  | vun (c : CoreId) (ecc : Ecc)
  /-- R73. A VACT computes SiLU, GELU or sigmoid elementwise. -/
  | vact (c : CoreId) (ecc : Ecc)
  /-- R73. A VSEL compares elements and selects between two operands. -/
  | vsel (c : CoreId) (ecc : Ecc)
  /-- R75. A VROT rotates element pairs by cos and sin values from the scratchpad. -/
  | vrot (c : CoreId) (ecc : Ecc)
  /-- R76. A RED reduces accumulator rows or columns with a fixed pairwise tree. -/
  | red (c : CoreId) (ecc : Ecc)
  /-- R78. An SMX performs one fused online-softmax block and writes the probability tile. -/
  | smx (c : CoreId) (ecc : Ecc)
  /-- R81. An SMXF normalises accumulator rows by their sums and resets the statistics. -/
  | smxf (c : CoreId) (ecc : Ecc)
  /-- R90. A FLUSH writes back and/or invalidates a station-cache range. -/
  | flush (c : CoreId) (ecc : Ecc)
  /-- R290. A Sage core FENCE waits for earlier accesses at its scope and clears clean lines at die scope or wider. -/
  | sageFence (c : CoreId) (ecc : Ecc)
  /-- R288. A REL is a store performed only after every earlier access has completed at its scope. -/
  | rel (c : CoreId) (ecc : Ecc)
  /-- R289. An ACQ is a load that holds back later accesses and clears clean lines at die scope or wider. -/
  | acq (c : CoreId) (ecc : Ecc)
  /-- R89. An ATOM performs an atomic read-modify-write at the home of its address. -/
  | atom (c : CoreId) (ecc : Ecc)
  /-- R89. A CAS performs an atomic compare-and-swap at the home of its address. -/
  | cas (c : CoreId) (ecc : Ecc)
  /-- R97. A SALU performs scalar arithmetic. -/
  | salu (c : CoreId) (ecc : Ecc)
  /-- R97. An SMOV writes an immediate to a scalar register. -/
  | smov (c : CoreId) (ecc : Ecc)
  /-- R97. An AMOV computes an address register value modulo 2^48. -/
  | amov (c : CoreId) (ecc : Ecc)
  /-- R98. A MOVSR reads or writes a special register; a write of RSEED reseeds the generator. -/
  | movsr (c : CoreId) (ecc : Ecc)
  /-- R99. A BR branches conditionally and faults with PC_RANGE on a target outside the program. -/
  | br (c : CoreId) (ecc : Ecc)
  /-- R100. A LOOP starts a counted hardware loop on the loop stack. -/
  | loopOp (c : CoreId) (ecc : Ecc)
  /-- R95. A WAITR waits for the range table to clear a range, or polls a word against a condition. -/
  | waitr (c : CoreId) (ecc : Ecc)
  /-- R95. Every 64 cycles a polling WAITR reads its word again and completes on success. -/
  | waitrPollRead (c : CoreId)
  /-- R95. A polling WAITR whose cycle limit passes writes 1 to its destination, without a fault. -/
  | waitrTimeout (c : CoreId)
  /-- R96. A BAR releases at its scope and registers the core's arrival at the barrier. -/
  | bar (c : CoreId) (ecc : Ecc)
  /-- R126. Once every core of the launch within the scope has arrived, the barrier releases them and acts as an acquire. -/
  | barrierRelease (c : CoreId) (remoteArrived : Bool)
  /-- R101. An END stops issue and waits for the range table to empty. -/
  | endProg (c : CoreId) (ecc : Ecc)
  /-- R92. A load, store, atomic or flush completes and its range-table entry leaves, releasing waiting accesses. -/
  | sageAccessComplete (c : CoreId) (slot : Nat) (how : Carry)
  /-- R106. A conductor assigns a launch to a free core, which loads its code, data and arguments. -/
  | launchAssign (c : CoreId) (r : LaunchReq)
  /-- R104. Loading completes, the start state is set and the core enters RUNNING. -/
  | loadComplete (c : CoreId)
  /-- R106. An ending or faulted core whose range table has emptied reports its end or fault over the signal network. -/
  | coreDrained (c : CoreId)
  /-- R130. Writing 1 to STN_CORE_FENCE.FENCE fences a core according to its current state. -/
  | coreFence (c : CoreId)
  /-- R132. Writing 0 to STN_CORE_FENCE.FENCE releases a fenced core, which clears its state and enters FREE. -/
  | coreRelease (c : CoreId)
  /-- R127. A COMPOSE message binds a slice's station: it clears its stores and loads the new partition tag. -/
  | composeBindStation (k : Stn)
  /-- R334. The station's COMPOSE reply moves the slice from BINDING to IDLE. -/
  | bindingReply (k : Stn)
  /-- R119. An access arriving at a station stop is tag-checked and served by station memory or the station cache. -/
  | stationMeshAccess (k : Stn) (a : Access) (corrected : Bool)
  /-- R117. A junction forwards a mesh packet along its route under the class rules. -/
  | meshPacketHop (d : Die) (junction : Nat) (p : MeshPacket) (ecc : Ecc)
  /-- R124. A signal-network message is delivered to its stop within its class bound. -/
  | signalDeliver (index latency : Nat) (late : Bool) (core : Nat)
  /-- R147. A write to KVG_DOORBELL0 or KVG_DOORBELL1 records a ring's new tail. -/
  | kvgDoorbell (k : Stn) (ring tail : Nat)
  /-- R151. A KV gate FETCH stages KV blocks below LENGTH into a staged buffer and writes its completion word. -/
  | kvgFetch (k : Stn) (peers : List (Option (List Byte)))
  /-- R152. A KV gate WRITE converts source rows into KV pages, sets scales and FILL, and optionally updates a staged buffer. -/
  | kvgWrite (k : Stn)
  /-- R148. A KV gate MARK does nothing and completes in ring order. -/
  | kvgMark (k : Stn)
  /-- R155. A write to KVG_RSEED seeds the KV gate's rounding generator. -/
  | kvgRseedWrite (k : Stn) (seed : W64)
  /-- R172. A write to PTS_DOORBELLr records a Points-unit ring's new tail. -/
  | ptsDoorbell (d : Die) (r : Fin 4) (tail : Nat)
  /-- R168. A ROUTE selects experts, assigns tokens, dispatches input rows to shards and writes dispatch complete. -/
  | route (d : Die) (sub : Nat) (answers : List (List Byte)) (lost : List Nat)
  /-- R174. Once every shard's READY covers its slots, the Points unit combines the weighted partials and writes the completion word. -/
  | pointsCombine (d : Die) (r : Fin 4) (order : List Nat) (peers : List (List (Option (List Byte))))
  /-- R173. When PTS_TIMEOUT passes without the READY words, the ROUTE ends PARTIAL_TIMEOUT. -/
  | partialTimeout (d : Die) (r : Fin 4) (order : List Nat) (peers : List (List (Option (List Byte))))
  /-- R179. A write to BL_DOORBELLr records a Branch-line ring's new tail. -/
  | blDoorbell (u : PartId) (r : Fin 4) (tail : Nat)
  /-- R188. A BUILD builds a draft tree best-first, writes the tree record and marks PTEs provisional. -/
  | build (x : BlTurn)
  /-- R193. An ACCEPT walks the tree against the target lists and writes the accept record. -/
  | accept (x : BlTurn)
  /-- R199. A COMMIT exchanges PTEs of the winning way, clears marks, appends tokens to the history and closes the tree. -/
  | commit (x : BlTurn)
  /-- R202. A Branch-line CANCEL clears the PROV marks and closes the tree without exchanging PTEs. -/
  | blCancel (x : BlTurn)
  /-- R213. A fetched SUBMIT request is validated and appended to the join queue, or ended at once with a refusal status. -/
  | submit (i : Nat) (prompt ext emitted : List Byte) (fail : Option Nat)
  /-- R234. A CANCEL request ends the live requests with its TAG at the next boundary. -/
  | requestCancel (i : Nat)
  /-- R216. When a step ends, the loop emits tokens, processes leaves, provisions pages, admits joins, composes the batch and asks for a grant. -/
  | stepBoundary (p : PartId) (sub : Fin 4) (results : List (Nat × StepResult)) (plan : Plan) (draw : Nat)
  /-- R220. Every 10 µs the loop asks again for a refused DECODE_STREAM or prefill-only grant. -/
  | grantRetry (p : PartId) (sub : Fin 4) (plan : Plan)
  /-- R224. When a group's spill copies complete, its PTEs are marked SPILLED and the local pages are freed. -/
  | spillComplete (p : PartId) (sub : Fin 4) (n : Nat) (plan : Plan) (peers : List (Option (List Byte)))
  /-- R228. When a RESUME image has been copied, it is checked and the request enters DECODE or ends MODEL_MISMATCH. -/
  | importComplete (i : Nat) (peers : List (Option (List Byte)))
  /-- R227. When the export image has been written, the request ends with EXPORTED. -/
  | exportComplete (i : Nat) (peers : List (Option (List Byte)))
  /-- R246. An HBM home serves a read, write or atomic in arrival order, after the tag check, through the depot cache. -/
  | hbmAccess (a : Access) (cls : Nat) (queues : List Nat) (aged : Bool) (ecc : HbmEcc)
  /-- R476. A home's level falls by one step after 256 mesh cycles below its threshold. -/
  | fbLevelFall (home : Fin 64) (occupancy : Nat)
  /-- R250. The Sorrel scrubber's patrol reads and corrects lines once per HBM_PATROL.PERIOD. -/
  | patrolRead (d : Die) (line : Nat) (ecc : Ecc) (last : Bool)
  /-- R251. A COMPOSE message starts the release scrub of a slice: SCRUBBING is set, the depot share cleared and zeros written. -/
  | scrubStart (k : Stn)
  /-- R251. The scrub ends: SCRUBBING clears, HBM_SCRUBS counts, and the composer makes the slice FREE. -/
  | scrubComplete (k : Stn)
  /-- R259. A write of DEP_SLICE_CFG.PIN_WAYS moves ways between window and cache and clears their valid bits. -/
  | pinWaysWrite (k : Stn) (ways : Nat)
  /-- R270. A write to DILL_DECLARE declares a warm stream, which takes an entry and starts filling the depot share. -/
  | dillDeclare (m : Fin 8) (w : Who) (addr : Addr)
  /-- R271. A warm stream ends and writes its completion word with its status. -/
  | warmStreamDone (i rows : Nat)
  /-- R268. A Dill lane requests lines ahead of its position while the station stays under its 512 KiB limit. -/
  | prefetchIssue (i core : Nat)
  /-- R273. A prefetch fill arrives and installs as a clean line unless the line is already present. -/
  | prefetchFill (i : Nat)
  /-- R268. A lane or detected stream without an advance for 8,192 cycles retires. -/
  | laneRetire (i core : Nat)
  /-- R303. A conductor core executes an ordinary RV64GC instruction. -/
  | riscvInstruction (x : CndInsn) (ecc : Ecc) (peer : Option (List Byte))
  /-- R304. A FENCE.I makes instruction writes visible to the core's instruction cache. -/
  | fenceI (x : CndInsn)
  /-- R307. A conductor FENCE orders control memory and acts as a fabric-scope fence towards other ranges. -/
  | conductorFence (x : CndInsn)
  /-- R313. A conductor AMO takes ownership with GetX and executes in the L1 data cache. -/
  | conductorAmo (x : CndInsn) (ecc : Ecc)
  /-- R313. An LR takes ownership of its line and starts a 64-cycle snoop deferral. -/
  | conductorLr (x : CndInsn) (ecc : Ecc)
  /-- R313. An SC succeeds only if the reserved line stayed in the cache. -/
  | conductorSc (x : CndInsn) (ecc : Ecc)
  /-- R313. After 64 cycles the core stops deferring snoops of its reserved line. -/
  | lrDeferExpire (g : CndId)
  /-- R322. A SIGSEND sends a signal-network message with the core's own PART and OPER. -/
  | sigsend (x : CndInsn)
  /-- R322. A SIGRECV takes the oldest message from the receive queue. -/
  | sigrecv (x : CndInsn)
  /-- R322. A WFS waits until the receive queue is not empty. -/
  | wfs (x : CndInsn)
  /-- R322. A WFS whose time limit passes returns 1. -/
  | wfsTimeout (g : CndId)
  /-- R322. A PSORT queues a sort descriptor on the partial-sort engine. -/
  | psort (x : CndInsn)
  /-- R325. The partial-sort engine finishes a sort and writes the completion word. -/
  | sortComplete (d : Die)
  /-- R306. The die's local counter raises the conductor's machine timer interrupt. -/
  | machineTimerInterrupt (g : CndId)
  /-- R311. The directory serves a GetS request for a line. -/
  | gets (h : Fin 72) (l : DirLine) (part : Nat) (oper : Bool) (rivals : List DirAsk)
  /-- R311. The directory serves a GetX request, invalidating or snooping the other holders. -/
  | getx (h : Fin 72) (l : DirLine) (part : Nat) (oper : Bool) (want : DirWant)
  /-- R311. The directory serves an Upgrade, or treats it as a GetX when the copy is gone. -/
  | upgrade (h : Fin 72) (l : DirLine) (tag : DirTag) (want : DirWant)
  /-- R314. The directory takes a dirty write-back, or uses it as the answer to a crossing snoop. -/
  | putm (h : Fin 72) (l : DirLine)
  /-- R311. The directory takes a clean return and clears the holder bit. -/
  | putc (h : Fin 72) (l : DirLine)
  /-- R311. The directory serves a non-caching read of control memory. -/
  | readnc (q : NcAsk)
  /-- R311. The directory serves a non-caching masked write and invalidates every holder. -/
  | writenc (q : NcAsk)
  /-- R311. The directory serves a non-caching atomic at the home. -/
  | atomicnc (q : NcAsk)
  /-- R312. A holder answers a snoop after performing its pending access. -/
  | snoopResponse (h : Fin 72) (line : Nat)
  /-- R315. The home accepts a write-back, which lets the directory grant pending ownership. -/
  | writebackRetired (line : Nat)
  /-- R315. The directory presents a held losing request again within 8 cycles of the grant. -/
  | dirRetry (line : Nat)
  /-- R321. A write of CND_CTRL.SWITCH moves a conductor to CND_NEXT_PART through drain, cache return and register clearing. -/
  | cndSwitch (g : CndId)
  /-- R328. A write of CND_CTRL.RUN runs a conductor or halts it at an instruction boundary. -/
  | cndRun (g : CndId) (run : Bool)
  /-- R329. A write of 1 to CTL_LOCK locks the shared-region registers. -/
  | ctlLock (d : Die)
  /-- R334. The composer's BIND binds FREE slices to a partition. -/
  | bind
  /-- R334. The composer's RELEASE writes back and unbinds IDLE slices and starts their scrub. -/
  | release
  /-- R343. FORM creates a consist from the next map at epoch 1 and assigns conductors. -/
  | form
  /-- R345. REBIND checks a next map, stages added slices and notifies the serving loop. -/
  | rebind
  /-- R345. The serving loop reports READY with the next map's CRC to its composer. -/
  | rebindReady (i : SlotId)
  /-- R345. The lead compares the members' READY reports and sets COMP_SWITCH_STEP or ends MAP_MISMATCH. -/
  | memberReady (i : SlotId) (dev crc step : Nat)
  /-- R345. At the agreed boundary the next map becomes current and omitted slices become LEAVING. -/
  | epochSwitch (i : SlotId)
  /-- R345. When OLD's in-flight count reaches 0 on every member, LEAVING slices become IDLE and the slot returns to ACTIVE. -/
  | epochDrained (i : SlotId) (reported : Nat)
  /-- R346. When COMP_DRAIN_LIMIT passes, the composer proceeds and sets DRAIN_FORCED. -/
  | drainLimitExpire (i : SlotId)
  /-- R356. DISSOLVE stops admissions, ends requests and makes every slice of the consist LEAVING. -/
  | dissolve
  /-- R356. When LIMIT_MS of a graceful DISSOLVE passes, the remaining requests end SERVICE_STOPPED. -/
  | dissolveLimitExpire (p : PartId) (sub : Fin 4)
  /-- R351. LEND lends FREE slices to a grantee consist and announces LENT. -/
  | lend
  /-- R355. WITHDRAW sends RECALL or WITHDRAWN, clears the grant and scrubs the slice. -/
  | withdraw
  /-- R355. When RECALLED does not arrive within LIMIT_MS, the composer sets PEER_TIMEOUT and withdraws. -/
  | withdrawRecallTimeout
  /-- R350. The composer's ROLE command changes the module role when every slice allows it. -/
  | role
  /-- R353. A composer notice arriving over Belyan is queued in COMP_NOTICE and passed to the consist's loop. -/
  | noticeReceive (kind slice dev consist : Nat)
  /-- R353. A read of COMP_NOTICE returns and removes the oldest notice. -/
  | compNoticeRead
  /-- R362. A write of 1 to BLY_LOCK.LOCK locks the fabric shape, or is refused with BAD_CONFIG. -/
  | blyLockWrite
  /-- R375. A write of BLY_PORT_CTRL.ENABLE disables a port or lets it train. -/
  | portEnable (p : PortId) (en : Bool)
  /-- R375. A write of BLY_PORT_CTRL.RETRAIN starts training from DOWN or MISCABLED. -/
  | retrain (p : PortId)
  /-- R376. A port's presence pin going low lets it start training. -/
  | presenceChange (p : PortId) (low : Bool)
  /-- R375. A port finishes training and enters UP, or MISCABLED on a wrong neighbour. -/
  | trainingComplete (p : PortId) (half : Option Bool) (dev peer : Nat)
  /-- R375. A port with no trained width after 25 ms enters DOWN. -/
  | trainingTimeout (p : PortId)
  /-- R374. A link flit is checked, acknowledged, or answered with a replay request. -/
  | flitReceive (p : PortId) (f : Flit)
  /-- R374. With no acknowledgement for 1.5 µs, the sender replays; after eight replays the port goes down. -/
  | replayTimeout (p : PortId)
  /-- R375. Loss of signal on four or more lanes for 10 µs takes the port down. -/
  | lossOfSignal (p : PortId)
  /-- R375. 100 ms after entering DOWN with AUTO_RETRAIN set, the port starts training. -/
  | autoRetrain (p : PortId)
  /-- R377. A LINKDOWN notice records a ring break and is passed on around the ring. -/
  | linkdown (p : PortId) (c : Nat)
  /-- R377. A LINKUP notice clears a recorded ring break. -/
  | linkup (p : PortId) (c : Nat)
  /-- R369. A link die forwards a packet not addressed to this device cut-through to its egress port. -/
  | packetForward (p : PortId) (k : Packet)
  /-- R371. An arriving READ packet is given a local tag, checked and served. -/
  | blyRead (p : PortId) (k : Packet)
  /-- R371. An arriving WRITE packet is given a local tag, checked, performed and acknowledged. -/
  | blyWrite (p : PortId) (k : Packet)
  /-- R371. An arriving ATOMIC packet is checked and performed at the home. -/
  | blyAtomic (p : PortId) (k : Packet)
  /-- R380. A READ_RESP completes a remote read, or is discarded as late. -/
  | blyReadResp (p : PortId) (k : Packet)
  /-- R380. A WRITE_ACK completes a remote write. -/
  | blyWriteAck (p : PortId) (k : Packet)
  /-- R380. An ATOMIC_RESP completes a remote atomic. -/
  | blyAtomicResp (p : PortId) (k : Packet)
  /-- R382. A SIGNAL packet delivers a signal-network message across modules. -/
  | blySignal (p : PortId) (k : Packet)
  /-- R380. A remote access not answered within BLY_REMOTE_TIMEOUT ends as timed out and its tag is quarantined. -/
  | remoteTimeout (i : Nat)
  /-- R380. After twice the timeout a timed-out tag may be reused. -/
  | tagQuarantineEnd (i : Nat)
  /-- R395. A doorbell write sets a ring's TAIL or HEAD, or puts the ring in ERROR. -/
  | doorbell (f : FuncId) (ring : Nat) (value : W32)
  /-- R393. RING_CMD CONFIGURE writes a ring entry and enables the ring. -/
  | ringConfigure (f : FuncId)
  /-- R394. RING_CMD DISABLE stops fetching and drains the ring. -/
  | ringDisable (f : FuncId)
  /-- R393. RING_CMD READ loads the set-up registers from the ring entry. -/
  | ringRead (f : FuncId)
  /-- R394. When its last record is written, a DRAINING ring becomes DISABLED. -/
  | ringDrained (r : RingId)
  /-- R397. The queue engine issues the read of new descriptors once tracker, slot and translation allow. -/
  | descriptorFetch (r : RingId)
  /-- R398. Fetched descriptors arrive, take tracker entries and completion slots, and start in ring order. -/
  | descriptorArrive (i : Nat) (data : List (List Byte))
  /-- R400. A NOP command completes with DONE. -/
  | qeNop (i : Nat)
  /-- R401. A COPY command moves bytes on a Chervil channel of the partition. -/
  | copy (i : Nat)
  /-- R447. A waiting COPY takes the first suitable channel to become IDLE. -/
  | copyChannelAssign (i : Nat)
  /-- R401. A LAUNCH command runs a tile program on the first free cores of the consist. -/
  | launch (i : Nat)
  /-- R210. A SERVE command starts the serving loop of a consist or refuses the configuration. -/
  | serve (i : Nat) (bundle : Bundle)
  /-- R401. A STOP command ends every live request of a loop and stops it. -/
  | stop (i : Nat)
  /-- R403. A HINT command passes its phase, power and duration hint to the Lovage power controller. -/
  | hint (i : Nat)
  /-- R406. MOD_TIME after an uncovered record, the ring raises its vector. -/
  | interruptModerationTimer (r : RingId)
  /-- R410. An ATS translation completion fills the translation cache or ends the command TRANSLATION_FAULT. -/
  | atsTranslationComplete (f : FuncId) (addr size target : Nat) (r w : Bool)
  /-- R412. An ATS Invalidate Request removes matching cache entries. -/
  | invalidateRequest (f : FuncId) (addr size tag : Nat)
  /-- R412. Once every TLP issued under an old translation has finished, the Invalidate Completion is sent. -/
  | invalidateComplete (i : Nat)
  /-- R405. A host read completion delivers data, or ends the command HOST_FAULT on UR, CA or poison. -/
  | hostReadCompletion (i : Nat) (data : Option (List Byte))
  /-- R405. A host read that times out ends its command HOST_FAULT. -/
  | completionTimeout (i : Nat)
  /-- R413. A Function Level Reset shuts the function down. -/
  | flr (f : FuncId)
  /-- R386. Entry to D3hot shuts the function down as an FLR does. -/
  | d3hotEntry (f : FuncId)
  /-- R413. Clearing VF Enable shuts down every VF. -/
  | vfEnableClear
  /-- R413. A hot reset shuts down every function. -/
  | hotReset
  /-- R413. A surprise link down shuts down every function. -/
  | surpriseLinkDown
  /-- R413. After started transfers end, the shutdown resets partitions, flushes translations, resets F-class state and clears QUIESCING. -/
  | shutdownResume (f : FuncId)
  /-- R582. A configuration request is answered with Request Retry Status before ready, and normally after. -/
  | configRequest (f : FuncId) (q : ConfigReq)
  /-- R421. CTX_CREATE creates a context with its teardown mode and CONFINE bit. -/
  | ctxCreate (i : Nat)
  /-- R432. CTX_DESTROY marks the context DESTROYING, ends its pending work and errors its fences. -/
  | ctxDestroy (i : Nat)
  /-- R432. Once started commands end, CTX_DESTROY withdraws the mappings, frees the slot and writes its record. -/
  | ctxDestroyResume (i : Nat)
  /-- R427. OBJ_CREATE records a memory object and maps it into the context. -/
  | objCreate (i : Nat)
  /-- R421. OBJ_MAP maps an existing object into the context. -/
  | objMap (i : Nat)
  /-- R431. OBJ_UNMAP removes a mapping and frees the object under the teardown mode. -/
  | objUnmap (i : Nat)
  /-- R431. Under SHARED teardown a FREEING object becomes FREE when its last reference is released. -/
  | objectFreed (p : PartId) (h : BitVec 16)
  /-- R431. Under FORCED teardown the object becomes FREE within 5 ms whatever its commands are doing. -/
  | forcedTeardownLimit (p : PartId) (h : BitVec 16)
  /-- R433. FENCE_CREATE creates a fence with its initial value and mirror. -/
  | fenceCreate (i : Nat)
  /-- R434. FENCE_SIGNAL raises a fence's VALUE, writes its mirror and satisfies waits. -/
  | fenceSignal (i : Nat)
  /-- R435. FENCE_WAIT completes once the fence reaches its target, or ends FENCE_ERROR. -/
  | fenceWait (i : Nat)
  /-- R435. A FENCE_WAIT whose timeout passes completes with TIMED_OUT. -/
  | fenceWaitTimeout (i : Nat)
  /-- R436. FENCE_DESTROY ends pending waits with FENCE_GONE and frees the handle. -/
  | fenceDestroy (i : Nat)
  /-- R440. CTX_QUERY writes a 128-byte result about a context. -/
  | ctxQuery (i : Nat)
  /-- R425. A runnable swapped-out context is given a slot, evicting another context if needed. -/
  | contextSwapIn
  /-- R424. A context's entry has been read and its slot becomes IDLE. -/
  | slotLoaded (i : Fin 96)
  /-- R424. An evicted context's entry has been written back and its slot becomes FREE. -/
  | slotSaved (i : Fin 96)
  /-- R439. 2 µs after its first fault, an open fault is written to the fault queue and closed. -/
  | faultRecordFlush (i : Nat)
  /-- R445. A write of CHV_CH_OWNER assigns an IDLE channel, or is ignored and counted. -/
  | chvOwnerWrite (n : ChanId) (path : RegPath) (part : PartId) (oper valid : Bool) (sub : Fin 4)
  /-- R462. GO.START runs the channel registers as a descriptor. -/
  | chvStart (n : ChanId) (path : RegPath)
  /-- R462. GO.FETCH fetches the first descriptor of a chain from control memory. -/
  | chvFetch (n : ChanId) (path : RegPath)
  /-- R462. GO.STOP asks a running channel to stop at the next descriptor boundary. -/
  | chvStop (n : ChanId) (path : RegPath)
  /-- R462. GO.RESUME restarts a halted channel at its failing burst. -/
  | chvResume (n : ChanId) (path : RegPath)
  /-- R462. GO.ABORT ends a halted chain with an ABORTED record. -/
  | chvAbort (n : ChanId) (path : RegPath)
  /-- R462. A fetched descriptor is loaded, or recorded BAD_DESC if invalid. -/
  | chvDescLoaded (n : ChanId)
  /-- R462. A descriptor's last write is performed: the channel records and loads the next descriptor or ends the chain. -/
  | chvDescDone (n : ChanId) (data : List Byte)
  /-- R458. A bus error halts the channel, latches the address and writes a BUS_ERROR record. -/
  | chvBusError (n : ChanId) (kind at_ : Nat) (write : Bool) (data : List Byte)
  /-- R459. A write of CHV_CH_CQ_HEAD frees queue room and lets a channel in CQ_WAIT write its record. -/
  | chvCqHeadWrite (n : ChanId) (path : RegPath) (head : W32)
  /-- R470. A write of TC_MODE.MODE switches between NORMAL and TEST labels; writes of FIXED are ignored. -/
  | tcModeWrite (mode : Fin 4)
  /-- R475. A real-time request whose DEADLINE reaches 1 sets TC_MISS and counts the miss. -/
  | deadlineMiss (m : Fin 4)
  /-- R488. PART_WIN_COMMIT.GO starts installing the partition's window table at every checker. -/
  | winCommit (p : PartId)
  /-- R488. When every checker holds the new table, PENDING clears. -/
  | winCommitDone (p : PartId)
  /-- R497. PART_METER_SNAP latches every meter of the partition at one instant. -/
  | meterSnap (p : PartId)
  /-- R496. Every 1 ms the Lovage power controller divides measured domain energy among partitions. -/
  | energyAttribution
  /-- R516. The GET_CERT mailbox command copies part of the slot-0 certificate chain to the buffer. -/
  | getCert (f : FuncId)
  /-- R510. The UNWRAP mailbox command unwraps the content key and decrypts a bundle into the partition's memory. -/
  | unwrap (f : FuncId)
  /-- R510. Decryption ends: the tag and digest are checked, the measurement updated and the key erased. -/
  | unwrapComplete (f : FuncId)
  /-- R500. The FW_STAGE mailbox command writes a chunk of a new image into the bank that is not running. -/
  | fwStage (f : FuncId)
  /-- R500. The FW_ACTIVATE mailbox command checks the staged image and names its bank for the next reset. -/
  | fwActivate (f : FuncId)
  /-- R501. The FW_COMMIT mailbox command blows fuses up to the running image's SVN. -/
  | fwCommit (f : FuncId)
  /-- R512. The DEBUG_READ mailbox command reads any device address with OPER 1 into the buffer. -/
  | debugRead (f : FuncId)
  /-- R512. The DEBUG_WRITE mailbox command writes the buffer to any device address with OPER 1. -/
  | debugWrite (f : FuncId)
  /-- R503. Fuane answers the SPDM GET_VERSION request. -/
  | getVersion (e : Endpoint) (req : List Byte)
  /-- R503. Fuane answers the SPDM GET_CAPABILITIES request. -/
  | getCapabilities (e : Endpoint) (req : List Byte)
  /-- R503. Fuane answers the SPDM NEGOTIATE_ALGORITHMS request. -/
  | negotiateAlgorithms (e : Endpoint) (req : List Byte)
  /-- R503. Fuane answers the SPDM GET_DIGESTS request. -/
  | getDigests (e : Endpoint) (req : List Byte)
  /-- R503. Fuane answers the SPDM GET_CERTIFICATE request. -/
  | getCertificate (e : Endpoint) (req : List Byte)
  /-- R507. Fuane answers CHALLENGE with a signed report that states operator access. -/
  | challenge (e : Endpoint) (req : List Byte)
  /-- R504. Fuane returns the measurement blocks visible to the requesting endpoint, signed. -/
  | getMeasurements (e : Endpoint) (req : List Byte)
  /-- R503. Any other SPDM request is answered with ERROR UnsupportedRequest. -/
  | spdmUnsupported (e : Endpoint) (req : List Byte)
  /-- R523. Every 10 µs the Lovage power controller forms domain estimates and measures input energy. -/
  | powerSample (est : List Nat) (rest mv ca : Nat)
  /-- R524. Every 1 ms the estimate and measurement are averaged and the control input is chosen. -/
  | controlAverage
  /-- R527. Every 100 µs the cap is shared among LINKS, MEMORY and COMPUTE and PWR_BUDGET is written. -/
  | budgetShare (est : List (Nat × Nat)) (memDraw : Nat)
  /-- R525. A write of PWR_CAP sets the cap when it lies within 1,200–3,400 W. -/
  | pwrCapWrite (w : Nat)
  /-- R531. A POWER grant request from the serving loop is granted or refused within 2 µs. -/
  | grantRequest (i : SlotId) (phase : Fin 4) (f dur : Nat)
  /-- R532. The loop's step-end message ends a grant. -/
  | grantRelease (i : SlotId) (draw : Nat)
  /-- R532. A grant lapses after twice its duration. -/
  | grantExpire (i : SlotId)
  /-- R533. After STARVE_MS of refused PREFILL_HEAVY requests, the consist's level is lowered until prefill fits. -/
  | prefillStarve (i : SlotId)
  /-- R533. 100 ms without a PREFILL_HEAVY request lifts the starvation limit. -/
  | starveLift (i : SlotId)
  /-- R536. A member reports a change of its allowed level to the consist's lead. -/
  | levelReport (i : SlotId) (members : List Nat) (dev level step : Nat)
  /-- R536. The lead sends the new agreed level and its step to every member. -/
  | levelSet (i : SlotId) (members : List Nat) (level step : Nat)
  /-- R538. At the set step a member changes its regions' supply and glides their frequency to the new level. -/
  | levelChange (i : SlotId)
  /-- R539. A supply 40 mV below the level's voltage stretches the region's clock to half rate. -/
  | droop (d : DomId)
  /-- R539. After 1 µs above the threshold the stretch ends and any paused change resumes. -/
  | droopEnd (d : DomId)
  /-- R540. Every 100 µs junction sensors are read, hot flags set, and levels lowered or raised. -/
  | thermalSample (temps : List Nat)
  /-- R521. A domain whose leave condition holds gates its clocks and enters IDLE. -/
  | domainIdle (d : DomId)
  /-- R521. After NAP_DELAY, or on a long IDLE_GAP hint, a domain lowers to retention voltage. -/
  | domainNap (d : DomId) (held : Nat)
  /-- R521. After DEEP_DELAY, or on a POOL role or long hint, a domain stops its PLL. -/
  | domainDeep (d : DomId) (held : Nat)
  /-- R521. An access, launch, command, doorbell or HOLD_ON wakes a sleeping domain. -/
  | domainWake (d : DomId)
  /-- R520. A domain reaches ON after its wake time, and accesses held at the station stop complete. -/
  | domainWakeDone (d : DomId)
  /-- R522. A region with OFF_REQ set and no bound slice has its power removed. -/
  | domainOff (d : DomId)
  /-- R521. An OFF region is powered again and its stores' valid bits are cleared. -/
  | domainPowerRestore (d : DomId)
  /-- R521. A write of PWR_DOM_CTRL.HOLD_ON keeps a domain out of its sleep states. -/
  | holdOn (d : DomId) (b : Bool)
  /-- R521. A write of PWR_DOM_CTRL.OFF_REQ asks for a region to be switched off or restored. -/
  | offReq (d : DomId) (b : Bool)
  /-- R553. RST_CMD with OP 1 starts a station compute reset. -/
  | rstCmdStation (k : Stn)
  /-- R555. RST_CMD with OP 2 starts a partition compute reset. -/
  | rstCmdPartition (p : PartId)
  /-- R558. RST_CMD with OP 3 starts a device compute reset. -/
  | rstCmdDevice
  /-- R550. A conductor's RST_PART_REQ with OP 1 resets a station of its partition. -/
  | partReqStation (p : PartId) (k : Stn)
  /-- R550. A conductor's RST_PART_REQ with OP 2 resets its partition. -/
  | partReqPartition (p : PartId)
  /-- R549. A conductor's write to RST_KICK restarts its hang detector. -/
  | rstKick (g : CndId)
  /-- R549. A Sage core that issues nothing for CORE_MS triggers a station compute reset. -/
  | coreHang (c : CoreId)
  /-- R549. A core in LOADING longer than 1 ms triggers a station compute reset. -/
  | loadHang (c : CoreId)
  /-- R549. A KV gate command running for KVG_MS triggers a station compute reset. -/
  | kvgHang (k : Stn)
  /-- R549. An access held at a station stop for 2 ms triggers a station compute reset. -/
  | stopHang (k : Stn)
  /-- R549. A conductor without a kick for CND_MS triggers a partition or device compute reset. -/
  | cndHang (g : CndId)
  /-- R549. A Points, Branch-line or Chervil unit stuck past its limit triggers a partition compute reset. -/
  | unitHang (u : StuckUnit)
  /-- R551. A trouble event reaches the partition's conductors, is logged and may start a reset. -/
  | troubleEvent
  /-- R553. After outstanding requests drain, the station writes back its cache, resets its cores and KV gate, and reports RESET_DONE. -/
  | stationResetDrained (x : StnDrained)
  /-- R554. A station reset that overruns 2 ms power-cycles the region, with collateral resets of its other stations. -/
  | regionPowerCycle (k : Stn) (completes : Bool)
  /-- R556. A conductor that misses its 2 ms bound is forced to CND_ENTRY and SERVICE_LOST is set. -/
  | conductorResetOverrun (g : CndId)
  /-- R555. Once its parts finish, the partition reset squashes commands, clears RESETTING and sends RESET_DONE. -/
  | partitionResetDone (p : PartId) (x : PartEnd)
  /-- R560. Writing 1 to RST_PART_STATUS.OUT returns the partition to service. -/
  | partOutClear (p : PartId)
  /-- R580. Asserting PERST# after power-good starts a warm reset. -/
  | perstAssert
  /-- R581. The later of PERST# deassertion and power-good starts bring-up. -/
  | perstDeassert
  /-- R578. MRESET# held low for 1 ms starts a cold reset. -/
  | mreset
  /-- R579. Input rising through 64 V with EN mated starts the cold-start soft ramp. -/
  | inputApplied
  /-- R579. With every rail in regulation, the Lovage power controller declares power-good. -/
  | powerGood
  /-- R567. Input falling below 60 V switches off every output rail. -/
  | inputUndervoltage
  /-- R567. Input at 60–66 V lowers the cap to 52 A times the input voltage. -/
  | inputLow (mv : Nat)
  /-- R567. Input above 80 V for 1 ms switches off every rail with failure code INPUT_OV. -/
  | inputOvervoltage
  /-- R567. Input back within 66–78 V for 100 ms after a shutdown starts a cold start. -/
  | inputRecovered
  /-- R568. EN breaking under load switches off every rail within 50 µs. -/
  | enBreak
  /-- R569. A rail over its current limit or below its set point shuts down the rails and logs RAIL_SHORT. -/
  | railShort (rail : Fin 113)
  /-- R570. A rail whose sense pair fails changes to local sense and adds 25 mV. -/
  | senseFallback (rail : Fin 112)
  /-- R564. Every 100 ms the coolant temperatures are read and COOLANT_HOT is set when out of limits. -/
  | coolantSample (inlet outlet : Fin 256)
  /-- R577. An absent or off-frequency MCLK25 moves the management die to its internal oscillator. -/
  | mclkLoss
  /-- R499. The boot ROM finishes checking a bank, falling back to the other bank on failure. -/
  | bootCheckDone
  /-- R581. A stack finishes training, trains once more on failure, or fails with HBM_TRAIN. -/
  | hbmTrainDone (h : Die) (ok : Bool)
  /-- R581. The PCIe link reaches L0 at the highest width and rate that train. -/
  | pcieLinkUp
  /-- R581. Once the boot check and HBM training are done, Fuane starts firmware, applies fences and frees slices. -/
  | firmwareStart (image : List (Nat × List Byte))
  /-- R581. After the bring-up scrub, Fuane sets TC_MODE NORMAL and declares ready unless a sensor is hot. -/
  | bringupReady
  /-- R584. The I3C target takes part in dynamic address assignment. -/
  | entdaa (addr : Fin 128)
  /-- R584. The I3C target takes a dynamic address from its static address. -/
  | setdasa (static addr : Fin 128)
  /-- R584. The I3C target resets its dynamic address. -/
  | rstdaa
  /-- R584. The I3C target returns its provisional ID. -/
  | getpid (addr : Fin 128)
  /-- R584. The I3C target returns its BCR. -/
  | getbcr (addr : Fin 128)
  /-- R584. The I3C target returns its DCR. -/
  | getdcr (addr : Fin 128)
  /-- R584. The I3C target returns its status. -/
  | getstatus (addr : Fin 128)
  /-- R585. ENEC enables in-band interrupts from the target. -/
  | enec (target : Option (Fin 128)) (events : Nat)
  /-- R584. DISEC disables in-band interrupts from the target. -/
  | disec (target : Option (Fin 128)) (events : Nat)
  /-- R586. The GET_STATE management message returns the state, failure code and status. -/
  | getState
  /-- R586. The GET_TELEMETRY management message returns input, coolant, thermal and power values. -/
  | getTelemetry
  /-- R586. The SET_CAP management message writes PWR_CAP under R525. -/
  | setCap (watts : Fin 65536)
  /-- R586. The WARM_RESET management message starts a warm reset within 1 ms. -/
  | warmReset
  /-- R585. The CLEAR_ALERT management message deasserts ALERT# unless a trip or rail fault holds it. -/
  | clearAlert
  /-- R586. The GET_FAULT_LOG management message returns the last eight fault-log entries. -/
  | getFaultLog
  /-- R568. When the EN pin of P1 mates while input is already within range, the hot-swap stage starts the cold-start soft ramp. -/
  | enMate
  /-- R578. When MRESET# has returned high and the rails have been off for at least 20 ms, the cold-start sequence runs. -/
  | mresetRelease
  /-- R359. When a member's READY or a grantee's answer has not arrived within COMP_DRAIN_LIMIT, the command ends PEER_TIMEOUT and COMP_TROUBLE.PEER_TIMEOUT is set. -/
  | composerPeerTimeout (i : SlotId)
deriving DecidableEq, Repr

end Sys2Proof
end

