-- ==== Sys2Proof/Config.lean ====
section
/-! DEFINITION. What an implementation of the LY-7 fixes and the spec leaves open: the free values.
Every constant here is opaque: nothing in Lean can evaluate it, so a claim that holds of the model
holds whatever the hardware chooses.  Each one is named in the assumption log. -/
namespace Sys2Proof.Config

/-- A fresh unstated value: `freeWord n` is the n-th value the machine draws where the spec states no
result (DESIGN CHOICE, log 3).  The counter n is `State.freeCtr`. -/
opaque freeWord : Nat → W64

/-- Which FP32 value near the exact one a unary operation gives (R55, R74): the operation's number, its
operand, and an index that the caller reduces to the candidates the spec allows (DESIGN CHOICE, log 10). -/
opaque ulpPick : Nat → W32 → Nat

/-- The FP32 result of a unary operation at an operand where the spec states none: 1/0, the logarithm of
zero, the square root of a negative number (DESIGN CHOICE, log 11). -/
opaque unstated : Nat → W32 → W32

/-- The offset of a die's or the host port's counter from the management die's at its local reset
(R560): counters of different dies have no common start (DESIGN CHOICE, log 12). -/
opaque dieSkew : Nat → Nat

/-- SHA-512 of a byte string (FIPS 180-4), uninterpreted (DESIGN CHOICE, log 13). -/
opaque sha512 : List Byte → List Byte
/-- The bytes that AES-256-GCM decrypts a ciphertext to: key, IV, ciphertext (FIPS 197, SP 800-38D), uninterpreted
(DESIGN CHOICE, log 13). -/
opaque aesGcmBytes : List Byte → List Byte → List Byte → List Byte
/-- Whether a GCM tag verifies: key, IV, additional data, ciphertext, tag, uninterpreted (DESIGN CHOICE, log 13). -/
opaque aesGcmTagOk : List Byte → List Byte → List Byte → List Byte → List Byte → Bool
/-- RSAES-OAEP decryption with the device key; none where it fails (RFC 8017), uninterpreted (DESIGN CHOICE, log 13). -/
opaque oaepOpen : List Byte → Option (List Byte)
/-- RSASSA-PSS signature of a message with the device key (RFC 8017), uninterpreted (DESIGN CHOICE, log 13).  The first
argument picks the salt. -/
opaque pssSign : Nat → List Byte → List Byte
/-- Whether the signing key of a firmware header is the one the fuses name and its signature verifies (R499, RFC 8017),
uninterpreted (DESIGN CHOICE, log 13). -/
opaque imageSigned : List Byte → Bool
/-- The DER-encoded SubjectPublicKeyInfo of the device's identity key (R502), uninterpreted (DESIGN CHOICE, log 13). -/
opaque identityKey : List Byte
/-- What Fuane measures beside flash banks: the boot ROM, and the configuration area of flash without the fence list
(R504), uninterpreted (DESIGN CHOICE, log 13). -/
opaque bootRom : List Byte
opaque flashConfig : List Byte
/-- The slot-0 certificate chain (the device's own data), uninterpreted (DESIGN CHOICE, log 13). -/
opaque certChain : List Byte
/-- The Device Serial Number, from the fuses (R386). -/
opaque serialNumber : Nat
/-- The device's silicon revision and other die-identity values that the manufacturing fixes (DESIGN CHOICE, log 14). -/
opaque deviceRev : Nat
/-- The order in which an FP32 sum takes its terms, where the spec leaves it open (R56): of sum `nonce`, the picks of
its steps (DESIGN CHOICE, log 25). -/
opaque sumPick : Nat → Nat → Nat

/-- What an SPDM responder chooses for itself: its timing exponent and the sizes it can take and give (PRESUMED, log 34). -/
opaque spdmParam : Nat → Nat

/-- What the I3C target is known by: its provisional ID's six bytes, then its BCR and its DCR (PRESUMED, log 34). -/
opaque i3cId : Nat → Nat

end Sys2Proof.Config
end

