-- ==== Sys2Proof/Machine/Bits.lean ====
section
/-! DEFINITION. The plain helpers every family uses: bit fields, little-endian bytes (R9), CRC-32 (R102),
and sparse maps in one canonical form, which hold memory, registers and everything indexed. -/
namespace Sys2Proof.Machine

/-- Bits [lo+w-1:lo] of a number (R8). -/
def bits (x lo w : Nat) : Nat := x / 2 ^ lo % 2 ^ w

/-- One bit of a number. -/
def bit (x i : Nat) : Bool := bits x i 1 == 1

/-- x with bits [lo+w-1:lo] replaced by v. -/
def setBits (x lo w v : Nat) : Nat :=
  x - bits x lo w * 2 ^ lo + v % 2 ^ w * 2 ^ lo

/-- The signed value of the low w bits of x. -/
def signed (w x : Nat) : Int :=
  let y := x % 2 ^ w
  if y < 2 ^ (w - 1) then (y : Int) else (y : Int) - (2 ^ w : Nat)

/-- An integer modulo 2^w. -/
def wrap (w : Nat) (x : Int) : Nat := (x % ((2 ^ w : Nat) : Int)).toNat

/-- A truth value as a one-bit number. -/
def b2n (b : Bool) : Nat := if b then 1 else 0

/-- The little-endian number of a byte string (R9). -/
def leNat : List Byte → Nat
  | [] => 0
  | b :: bs => b.toNat + 256 * leNat bs

/-- The n little-endian bytes of a number (R9). -/
def leBytes : Nat → Nat → List Byte
  | 0, _ => []
  | n + 1, x => BitVec.ofNat 8 x :: leBytes n (x / 256)

/-- The n-byte little-endian field at an offset of a record. -/
def fieldAt (bs : List Byte) (off n : Nat) : Nat := leNat ((bs.drop off).take n)

/-- x rounded down to a multiple of n. -/
def alignDown (x n : Nat) : Nat := x / n * n

/-- Saturating increment of a counter of w bits. -/
def satAdd (w x y : Nat) : Nat := min (x + y) (2 ^ w - 1)

/-- One bit step of the reflected IEEE 802.3 CRC-32. -/
def crcStep (c : Nat) : Nat := if c % 2 = 1 then Nat.xor (c / 2) 0xEDB88320 else c / 2

/-- The CRC register after one byte. -/
def crcByte (c : Nat) (b : Byte) : Nat :=
  let c := Nat.xor c b.toNat
  crcStep (crcStep (crcStep (crcStep (crcStep (crcStep (crcStep (crcStep c)))))))

/-- CRC-32 with the IEEE 802.3 polynomial over a byte string (R102, R337). -/
def crc32 (bs : List Byte) : Nat := Nat.xor (bs.foldl crcByte 0xFFFFFFFF) 0xFFFFFFFF

/-- A sparse map from numbers: keys strictly rising, no entry equal to what an unlisted key reads as. -/
abbrev SMap (α : Type) := List (Nat × α)

/-- The value at a key; d gives what an unlisted key reads as. -/
def SMap.get {α : Type} (d : Nat → α) : SMap α → Nat → α
  | [], k => d k
  | p :: m, k => if k = p.1 then p.2 else SMap.get d m k

/-- Put an entry before the first larger key. -/
def SMap.insert {α : Type} (k : Nat) (v : α) : SMap α → SMap α
  | [] => [(k, v)]
  | p :: m => if k < p.1 then (k, v) :: p :: m else p :: SMap.insert k v m

/-- Remove every entry of a key. -/
def SMap.erase {α : Type} (k : Nat) (m : SMap α) : SMap α := m.filter (fun p => p.1 != k)

/-- Write a key: an entry equal to what the unlisted key reads as is removed. -/
def SMap.set {α : Type} [DecidableEq α] (d : Nat → α) (m : SMap α) (k : Nat) (v : α) : SMap α :=
  if v = d k then SMap.erase k m else SMap.insert k v (SMap.erase k m)

/-- Remove every entry whose key satisfies p: those keys read their default again. -/
def SMap.clear {α : Type} (p : Nat → Bool) (m : SMap α) : SMap α := m.filter (fun e => !p e.1)

/-- The canonical form. -/
abbrev SMap.wf {α : Type} (d : Nat → α) (m : SMap α) : Prop :=
  m.Pairwise (fun a b => a.1 < b.1) ∧ ∀ p ∈ m, p.2 ≠ d p.1

/-- A byte memory: what nothing has written reads 0. -/
abbrev Bytes := SMap Byte

/-- What an unlisted byte of any memory of the device reads as (R128, R251, R547). -/
def zeroByte : Nat → Byte := fun _ => 0

def Bytes.get (m : Bytes) (a : Nat) : Byte := SMap.get zeroByte m a
def Bytes.set (m : Bytes) (a : Nat) (b : Byte) : Bytes := SMap.set zeroByte m a b

/-- The canonical form of a byte memory: addresses strictly rising, no byte equal to what an unlisted one reads as. -/
abbrev Memory.wf (m : Bytes) : Prop := SMap.wf zeroByte m

/-- n bytes from address a. -/
def Bytes.read (m : Bytes) (a n : Nat) : List Byte := (List.range n).map (fun i => Bytes.get m (a + i))

/-- Write a byte string at address a, lowest address first. -/
def Bytes.write (m : Bytes) (a : Nat) : List Byte → Bytes
  | [] => m
  | b :: bs => Bytes.write (Bytes.set m a b) (a + 1) bs

/-- The n-byte little-endian number at address a. -/
def Bytes.le (m : Bytes) (a n : Nat) : Nat := leNat (Bytes.read m a n)

/-- The list with its i-th element replaced (unchanged beyond its end). -/
def setAt {α : Type} (xs : List α) (i : Nat) (v : α) : List α := xs.set i v

/-- The first index from n whose element satisfies p. -/
def findIdx? {α : Type} (p : α → Bool) (xs : List α) : Option Nat := xs.findIdx? p

end Sys2Proof.Machine
end

