-- ==== Sys2Proof/Machine/Num.lean ====
section
/-! DEFINITION. Number formats, rounding, conversions and FP32 arithmetic (spec chapter 02, R27-R56, R72-R76).
Values are exact until the one rounding the spec names. -/
namespace Sys2Proof.Machine

/-- The formats of R27, with the codes of R63. -/
inductive Fmt where
  | fp32 | fp16 | bf16 | e4m3 | e5m2 | int8 | int4 | mxfp8e4 | mxfp8e5 | mxfp6e3 | mxfp6e2 | mxfp4 | mxint8 | ns4
deriving DecidableEq, Repr

/-- R63: the format of a code; none where reserved. -/
def Fmt.ofCode : Nat → Option Fmt
  | 0 => some .fp32 | 1 => some .fp16 | 2 => some .bf16 | 3 => some .e4m3 | 4 => some .e5m2
  | 5 => some .int8 | 6 => some .int4 | 7 => some .mxfp8e4 | 8 => some .mxfp8e5 | 9 => some .mxfp6e3
  | 10 => some .mxfp6e2 | 11 => some .mxfp4 | 12 => some .mxint8 | 13 => some .ns4 | _ => none

/-- R63: the width class of a format. -/
def Fmt.width : Fmt → Nat
  | .fp32 => 32 | .fp16 => 16 | .bf16 => 16 | .int4 => 4 | .mxfp4 => 4 | .ns4 => 4
  | .e4m3 => 8 | .e5m2 => 8 | .int8 => 8 | .mxfp8e4 => 8 | .mxfp8e5 => 8 | .mxfp6e3 => 8 | .mxfp6e2 => 8
  | .mxint8 => 8

/-- INT8 and INT4 pair only with each other (R69). -/
def Fmt.isInt : Fmt → Bool
  | .int8 => true | .int4 => true | _ => false

/-- Scale bytes of a tile row (R60). -/
def Fmt.scaleBytes : Fmt → Nat
  | .mxfp8e4 => 1 | .mxfp8e5 => 1 | .mxfp6e3 => 1 | .mxfp6e2 => 1 | .mxint8 => 1 | .mxfp4 => 2 | .ns4 => 3
  | _ => 0

/-- Bytes of a memory row (R83). -/
def Fmt.rowBytes : Fmt → Nat
  | .fp16 => 64 | .bf16 => 64 | .e4m3 => 32 | .e5m2 => 32 | .int8 => 32 | .int4 => 32
  | .mxfp8e4 => 33 | .mxfp8e5 => 33 | .mxint8 => 33 | .mxfp6e3 => 25 | .mxfp6e2 => 25
  | .mxfp4 => 34 | .ns4 => 35 | .fp32 => 256

/-- Which codes of an encoding are special (R28). -/
inductive Special where
  | ieee   -- e all ones: infinity (m = 0) or NaN
  | e4m3   -- e = 1111 and m = 111: NaN; no infinity
  | none
deriving DecidableEq, Repr

/-- A floating-point encoding of R28. -/
structure Enc where
  eb : Nat
  mb : Nat
  bias : Nat
  special : Special
  /-- The code of the largest finite magnitude. -/
  maxCode : Nat
  /-- The canonical NaN (R45). -/
  nan : Nat
deriving DecidableEq, Repr

def Enc.f32 : Enc := ⟨8, 23, 127, .ieee, 0x7F7FFFFF, 0x7FC00000⟩
def Enc.f16 : Enc := ⟨5, 10, 15, .ieee, 0x7BFF, 0x7E00⟩
def Enc.bf16 : Enc := ⟨8, 7, 127, .ieee, 0x7F7F, 0x7FC0⟩
def Enc.e4m3 : Enc := ⟨4, 3, 7, .e4m3, 0x7E, 0x7F⟩
def Enc.e5m2 : Enc := ⟨5, 2, 15, .ieee, 0x7B, 0x7E⟩
def Enc.e3m2 : Enc := ⟨3, 2, 3, .none, 0x1F, 0⟩
def Enc.e2m3 : Enc := ⟨2, 3, 1, .none, 0x1F, 0⟩
def Enc.e2m1 : Enc := ⟨2, 1, 1, .none, 0x7, 0⟩
/-- The RISC-V double (R5: RV64GC on the conductor cores). -/
def Enc.f64 : Enc := ⟨11, 52, 1023, .ieee, 0x7FEFFFFFFFFFFFFF, 0x7FF8000000000000⟩

/-- An exact value: NaN, an infinity, or (−1)^neg × m × 2^e. -/
inductive Num where
  | nan
  | inf (neg : Bool)
  | fin (neg : Bool) (m : Nat) (e : Int)
deriving DecidableEq, Repr

/-- R28: the value of a code. -/
def Enc.decode (c : Enc) (code : Nat) : Num :=
  let s := bit code (c.eb + c.mb)
  let e := bits code c.mb c.eb
  let m := bits code 0 c.mb
  let normal : Num := if e = 0 then .fin s m (1 - (c.bias : Int) - c.mb)
    else .fin s (2 ^ c.mb + m) ((e : Int) - c.bias - c.mb)
  match c.special with
  | .ieee => if e = 2 ^ c.eb - 1 then (if m = 0 then .inf s else .nan) else normal
  | .e4m3 => if e = 15 ∧ m = 7 then .nan else normal
  | .none => normal

/-- An integer as an exact value. -/
def Num.ofInt (i : Int) (e : Int := 0) : Num := .fin (i < 0) i.natAbs e

/-- One rounding's mode: to nearest-even, or by a 16-bit draw (R40, R41). -/
inductive Rnd where
  | rne
  | draw (u : Nat)
deriving DecidableEq, Repr

/-- R41: n/d rounded to an integer. -/
def roundQuot (r : Rnd) (n d : Nat) : Nat :=
  let lo := n / d
  let rem := n % d
  if rem = 0 then lo else
  match r with
  | .rne => if 2 * rem < d then lo else if d < 2 * rem then lo + 1 else if lo % 2 = 0 then lo else lo + 1
  | .draw u => if u < 2 ^ 16 * rem / d then lo + 1 else lo

/-- n/d with a power of two multiplied in, as a quotient of naturals. -/
def scalePair (n d : Nat) (e : Int) : Nat × Nat :=
  if 0 ≤ e then (n * 2 ^ e.toNat, d) else (n, d * 2 ^ (-e).toNat)

/-- floor(log2(n/d)) for n, d > 0. -/
def log2Quot (n d : Nat) : Int :=
  let k : Int := (Nat.log2 n : Int) - Nat.log2 d
  let p := scalePair d 1 k
  if p.1 ≤ n * p.2 then k else k - 1

/-- R41: the magnitude code (exponent unbounded above) of n/d rounded into an encoding. -/
def Enc.roundMag (c : Enc) (r : Rnd) (n d : Nat) : Nat :=
  if n = 0 then 0 else
  let e := max (log2Quot n d) (1 - (c.bias : Int))
  let p := scalePair n d (c.mb - e)
  (e + c.bias - 1).toNat * 2 ^ c.mb + roundQuot r p.1 p.2

/-- What a magnitude above the largest finite value becomes (R44). -/
inductive Over where
  | toInf | saturate
deriving DecidableEq, Repr

def Enc.signBit (c : Enc) (neg : Bool) : Nat := if neg then 2 ^ (c.eb + c.mb) else 0

/-- R44: the code of an infinity; E4M3 has none and gives NaN; element encodings saturate. -/
def Enc.infCode (c : Enc) (neg : Bool) : Nat :=
  match c.special with
  | .ieee => c.signBit neg + (2 ^ c.eb - 1) * 2 ^ c.mb
  | .e4m3 => c.nan
  | .none => c.signBit neg + c.maxCode

/-- R41, R44: (−1)^neg × n/d rounded and encoded. -/
def Enc.encodeQuot (c : Enc) (o : Over) (r : Rnd) (neg : Bool) (n d : Nat) : Nat :=
  let k := c.roundMag r n d
  if c.maxCode < k then
    (match o with
     | .toInf => c.infCode neg
     | .saturate => c.signBit neg + c.maxCode)
  else c.signBit neg + k

/-- R41, R44, R45: an exact value rounded and encoded. -/
def Enc.encode (c : Enc) (o : Over) (r : Rnd) : Num → Nat
  | .nan => c.nan
  | .inf neg => c.infCode neg
  | .fin neg m e => let p := scalePair m 1 e; c.encodeQuot o r neg p.1 p.2

/-- R44: rounding to an integer of w bits. -/
def encodeInt (w : Nat) (r : Rnd) : Num → Int
  | .nan => 0
  | .inf neg => if neg then -(2 ^ (w - 1) : Nat) else (2 ^ (w - 1) - 1 : Nat)
  | .fin neg m e =>
    let p := scalePair m 1 e
    let k := roundQuot r p.1 p.2
    if neg then -(min k (2 ^ (w - 1)) : Nat) else (min k (2 ^ (w - 1) - 1) : Nat)

/-- The exact product (R52, R53).  A zero product has the sign of its operands, an integer operand's too: 0 times a
negative integer is a −0 term (DESIGN CHOICE, log 118). -/
def Num.mul : Num → Num → Num
  | .nan, _ => .nan
  | _, .nan => .nan
  | .inf s, .inf t => .inf (s != t)
  | .inf s, .fin t m _ => if m = 0 then .nan else .inf (s != t)
  | .fin s m _, .inf t => if m = 0 then .nan else .inf (s != t)
  | .fin s m e, .fin t m' e' => .fin (s != t) (m * m') (e + e')

def Num.isNan : Num → Bool
  | .nan => true | _ => false
def Num.isInf : Num → Bool
  | .inf _ => true | _ => false
def Num.neg? : Num → Bool
  | .nan => false | .inf s => s | .fin s _ _ => s
def Num.negate : Num → Num
  | .nan => .nan | .inf s => .inf (!s) | .fin s m e => .fin (!s) m e

/-- The exponent a term needs; the specials need none. -/
def Num.expOr (d : Int) : Num → Int
  | .fin _ _ e => e
  | _ => d

/-- The term as an integer multiple of 2^e0, for e0 at most its exponent. -/
def Num.scaled (e0 : Int) : Num → Int
  | .fin s m e => let k : Int := (m * 2 ^ (e - e0).toNat : Nat); if s then -k else k
  | _ => 0

/-- R52, R53: the exact sum.  An exact zero is −0 only when every term is negative (IEEE 754; DEDUCED, log 15). -/
def Num.sum (xs : List Num) : Num :=
  if xs.any Num.isNan then .nan else
  let pos := xs.any (fun x => x == .inf false)
  let neg := xs.any (fun x => x == .inf true)
  if pos && neg then .nan else if pos then .inf false else if neg then .inf true else
  let e0 := xs.foldl (fun a x => min a (x.expOr a)) 0
  let t : Int := xs.foldl (fun a x => a + x.scaled e0) 0
  if t = 0 then .fin (!xs.isEmpty && xs.all Num.neg?) 0 0 else .fin (t < 0) t.natAbs e0

/-! FP32 operations on patterns. -/

def f32dec (x : W32) : Num := Enc.f32.decode x.toNat
/-- An exact value rounded once, to nearest-even, to FP32 (R40, R52). -/
def f32enc (x : Num) : W32 := BitVec.ofNat 32 (Enc.f32.encode .toInf .rne x)
def f32nan : W32 := 0x7FC00000
def f32inf : W32 := 0x7F800000
def f32ninf : W32 := 0xFF800000
def f32one : W32 := 0x3F800000

def fadd (a b : W32) : W32 := f32enc (.sum [f32dec a, f32dec b])
def fsub (a b : W32) : W32 := f32enc (.sum [f32dec a, (f32dec b).negate])
def fmul (a b : W32) : W32 := f32enc ((f32dec a).mul (f32dec b))
/-- a × b + c rounded once (R55). -/
def ffma (a b c : W32) : W32 := f32enc (.sum [(f32dec a).mul (f32dec b), f32dec c])
/-- −(a × b) + c rounded once (R73). -/
def ffnma (a b c : W32) : W32 := f32enc (.sum [((f32dec a).mul (f32dec b)).negate, f32dec c])

/-- a / b rounded once to an encoding (R81; IEEE 754 for the specials). -/
def numDiv (c : Enc) (a b : Num) : Nat :=
  match a, b with
  | .nan, _ => c.nan
  | _, .nan => c.nan
  | .inf _, .inf _ => c.nan
  | .inf s, .fin t _ _ => c.infCode (s != t)
  | .fin s _ _, .inf t => c.signBit (s != t)
  | .fin s m e, .fin t m' e' =>
    if m' = 0 then (if m = 0 then c.nan else c.infCode (s != t)) else
    let p := scalePair m m' (e - e')
    c.encodeQuot .toInf .rne (s != t) p.1 p.2

def fdiv (a b : W32) : W32 := BitVec.ofNat 32 (numDiv Enc.f32 (f32dec a) (f32dec b))

def fIsNan (x : W32) : Bool := (f32dec x).isNan

/-- R45: a NaN that an operation produces is the canonical one. -/
def canonNan (x : W32) : W32 := if fIsNan x then f32nan else x

/-- A result that the spec does not state, as an operation would give it (R45, R74). -/
def unstatedF (op : Nat) (x : W32) : W32 := canonNan (Config.unstated op x)

/-- The order of R74: −0 below +0; the place of a pattern that is no NaN on one line of integers. -/
def fKey (x : W32) : Int :=
  let n := x.toNat
  if n < 2 ^ 31 then (n : Int) else -((n - 2 ^ 31 : Nat) : Int) - 1

/-- R74. -/
def fmax (a b : W32) : W32 :=
  if fIsNan a || fIsNan b then f32nan else if fKey a < fKey b then b else a
/-- R74. -/
def fmin (a b : W32) : W32 :=
  if fIsNan a || fIsNan b then f32nan else if fKey b < fKey a then b else a
/-- R74, R45. -/
def fabs (x : W32) : W32 := if fIsNan x then f32nan else x &&& 0x7FFFFFFF
def fneg (x : W32) : W32 := if fIsNan x then f32nan else x ^^^ 0x80000000

/-- The FP32 pattern at a place of the value line where 0 is zero and −n is the negative of n. -/
def codeOfLine (n : Int) : W32 :=
  if n < 0 then BitVec.ofNat 32 (2 ^ 31 + n.natAbs) else BitVec.ofNat 32 n.toNat

/-- The results the spec allows within k ulp: of the candidates on the value line from `lo` (the value
at or just below the exact magnitude) the implementation picks one (R55, R74; DESIGN CHOICE, log 10). -/
def pickUlp (op : Nat) (x : W32) (neg : Bool) (lo : Nat) (exact : Bool) (k : Nat) : W32 :=
  let below := if exact then k else k - 1
  let i : Int := (lo : Int) - below + (Config.ulpPick op x % (below + k + 1) : Nat)
  let i := min i 0x7F800000
  codeOfLine (if neg then -i else i)

/-- Newton's iteration for the integer square root, on fuel. -/
def isqrtLoop : Nat → Nat → Nat → Nat
  | 0, _, x => x
  | f + 1, n, x => let y := (x + n / x) / 2; if y < x then isqrtLoop f n y else x

/-- floor(sqrt n). -/
def isqrt (n : Nat) : Nat := if n = 0 then 0 else isqrtLoop (Nat.log2 n + 8) n (2 ^ (Nat.log2 n / 2 + 1))

/-- The largest FP32 magnitude code whose value is at most n/d. -/
def floorCode (n d : Nat) : Nat :=
  if n = 0 then 0 else
  let e := max (log2Quot n d) (-126)
  let p := scalePair n d (23 - e)
  (e + 126).toNat * 2 ^ 23 + p.1 / p.2

/-- Whether n/d is exactly an FP32 magnitude. -/
def exactCode (n d : Nat) : Bool :=
  if n = 0 then true else
  let e := max (log2Quot n d) (-126)
  let p := scalePair n d (23 - e)
  p.1 % p.2 == 0

/-- Bits of precision of the fixed-point evaluations below. -/
def prec : Nat := 256

/-- Product over the bits of a fraction of 2^(2^−i): 2^(f/2^prec) in units of 2^−prec, rounded down. -/
def exp2FracLoop : Nat → Nat → Nat → Nat → Nat
  | 0, _, _, acc => acc
  | i + 1, root, f, acc =>
    let acc := if bit f i then acc * root / 2 ^ prec else acc
    exp2FracLoop i (isqrt (root * 2 ^ prec)) f acc

/-- 2^(f/2^prec) for a fraction f below 2^prec, in units of 2^−prec. -/
def exp2Frac (f : Nat) : Nat :=
  exp2FracLoop prec (isqrt (2 * 2 ^ prec * 2 ^ prec)) f (2 ^ prec)

/-- 2^(t/2^prec) as (n, d), for a signed fixed-point t. -/
def exp2Fix (t : Int) : Nat × Nat :=
  let i := t / ((2 ^ prec : Nat) : Int)
  let f := (t % ((2 ^ prec : Nat) : Int)).toNat
  scalePair (exp2Frac f) (2 ^ prec) i

/-- The signed fixed-point value of an exact number (rounded toward zero below 2^−prec). -/
def Num.toFix : Num → Int
  | .fin s m e => let p := scalePair m 1 (e + prec); let k : Int := (p.1 / p.2 : Nat); if s then -k else k
  | _ => 0

/-- R55: exp2. -/
def fexp2 (x : W32) : W32 :=
  match f32dec x with
  | .nan => f32nan
  | .inf neg => if neg then 0 else f32inf
  | .fin neg m e =>
    let p := scalePair m 1 e
    if ¬neg ∧ 128 * p.2 ≤ p.1 then f32inf
    else if neg ∧ 149 * p.2 < p.1 then (if 150 * p.2 ≤ p.1 then 0 else 1)
    else if p.1 % p.2 = 0 then
      let k : Int := if neg then -((p.1 / p.2 : Nat) : Int) else (p.1 / p.2 : Nat)
      f32enc (.fin false 1 k)
    else
      let q := exp2Fix (Num.fin neg m e).toFix
      pickUlp 2 x false (floorCode q.1 q.2) false 1

/-- R73, R74: 1/a. -/
def frcp (x : W32) : W32 :=
  match f32dec x with
  | .nan => f32nan
  | .inf _ => unstatedF 3 x
  | .fin neg m e =>
    if m = 0 then unstatedF 3 x else
    let p := scalePair 1 m (-e)
    if 0x7F7FFFFF < Enc.f32.roundMag .rne p.1 p.2 then (if neg then f32ninf else f32inf)
    else pickUlp 3 x neg (floorCode p.1 p.2) (exactCode p.1 p.2) 1

/-- An exact positive number as q^2/2^(2k): numerator of its square root in units of 2^−k. -/
def sqrtUnits (m : Nat) (e : Int) : Nat × Nat :=
  let p := scalePair m 1 (e + 2 * (prec : Int))
  (isqrt (p.1 / p.2), 2 ^ prec)

/-- R74: √a; √(−0) is −0. -/
def fsqrt (x : W32) : W32 :=
  match f32dec x with
  | .nan => f32nan
  | .inf _ => unstatedF 5 x
  | .fin neg m e =>
    if m = 0 then x else if neg then unstatedF 5 x else
    let q := sqrtUnits m e
    let p := scalePair m 1 e
    pickUlp 5 x false (floorCode q.1 q.2) (q.1 * q.1 * p.2 == p.1 * (q.2 * q.2) && exactCode q.1 q.2) 1

/-- R73, R74: 1/√a. -/
def frsqrt (x : W32) : W32 :=
  match f32dec x with
  | .nan => f32nan
  | .inf _ => unstatedF 4 x
  | .fin neg m e =>
    if m = 0 then unstatedF 4 x else if neg then unstatedF 4 x else
    let p := scalePair 1 m (-e)
    let n := isqrt (p.1 * 2 ^ (2 * prec) / p.2)
    pickUlp 4 x false (floorCode n (2 ^ prec)) (n * n * p.2 == p.1 * 2 ^ (2 * prec) && exactCode n (2 ^ prec)) 1

/-- The bits of log2 of y/2^prec, 1 ≤ y/2^prec < 2, most significant first, on fuel. -/
def log2Loop : Nat → Nat → Nat → Nat
  | 0, _, acc => acc
  | i + 1, y, acc =>
    let z := y * y / 2 ^ prec
    if 2 ^ (prec + 1) ≤ z then log2Loop i (z / 2) (2 * acc + 1) else log2Loop i z (2 * acc)

/-- R73, R74: log2. -/
def flog2 (x : W32) : W32 :=
  match f32dec x with
  | .nan => f32nan
  | .inf _ => unstatedF 6 x
  | .fin neg m e =>
    if m = 0 ∨ neg then unstatedF 6 x else
    let k := Nat.log2 m
    let whole : Int := e + k
    if m = 2 ^ k then
      pickUlp 6 x (whole < 0) (floorCode whole.natAbs 1) true 1
    else
      let f := log2Loop 96 (m * 2 ^ prec / 2 ^ k) 0
      let v : Int := whole * ((2 ^ 96 : Nat) : Int) + f
      if v < 0 then pickUlp 6 x true (floorCode (v.natAbs - 1) (2 ^ 96)) false 1
      else pickUlp 6 x false (floorCode v.toNat (2 ^ 96)) false 1

/-- log2 e in units of 2^−prec. -/
def log2e : Nat :=
  0x171547652B82FE1777D0FFDA0D23A7D11D6AEF551BAD2B4B1164A2CD9A342648F

/-- 1 + exp2(−t·log2 e) for t = n/d (signed), as a quotient; t is capped at ±4096, where every FP32
result has reached its limit. -/
def onePlusExp (neg : Bool) (n d : Nat) : Nat × Nat :=
  let t := min (n * 2 ^ prec / d) (4096 * 2 ^ prec)
  let u : Int := (t * log2e / 2 ^ prec : Nat)
  let q := exp2Fix (if neg then u else -u)
  (q.1 + q.2, q.2)

/-- R73, R74: SiLU (0), GELU (1), sigmoid (2), within 4 ulp of the exact function. -/
def fvact (op : Nat) (x : W32) : W32 :=
  match f32dec x with
  | .nan => f32nan
  | .inf neg => if op = 2 then (if neg then 0 else f32one) else (if neg then 0x80000000 else f32inf)
  | .fin neg m e =>
    let p := scalePair m 1 e
    -- the argument t of exp2(−t·log2 e): a itself, or 2·0.79788456·(a + 0.044715·a³) for GELU
    let t : Nat × Nat :=
      if op = 1 then
        (2 * 79788456 * (p.1 * (1000000 * p.2 * p.2 + 44715 * p.1 * p.1)),
         100000000 * 1000000 * (p.2 * p.2 * p.2))
      else p
    let q := onePlusExp neg t.1 t.2
    if op = 2 then pickUlp 18 x false (floorCode q.2 q.1) (exactCode q.2 q.1) 4
    else pickUlp (16 + op) x neg (floorCode (p.1 * q.2) (p.2 * q.1)) (exactCode (p.1 * q.2) (p.2 * q.1)) 4

/-! The generator of R42. -/

/-- R42: the sixteen lanes seeded with q. -/
def genSeed (q : W64) : List W64 :=
  (List.range 16).map (fun i =>
    let l := q ^^^ (BitVec.ofNat 64 i * 0x9E3779B97F4A7C15)
    if l = 0 then 0x9E3779B97F4A7C15 else l)

/-- R42: one lane's step. -/
def laneStep (x : W64) : W64 :=
  let x := x ^^^ (x <<< 13)
  let x := x ^^^ (x >>> 7)
  x ^^^ (x <<< 17)

/-- R42: the four draws of a lane. -/
def laneDraws (x : W64) : List Nat := (List.range 4).map (fun j => bits x.toNat (16 * j) 16)

/-- Successive steps of the generator, as many as n draws need: the lanes after, and the draws (R43). -/
def genDraws : Nat → List W64 → List W64 × List Nat
  | 0, lanes => (lanes, [])
  | k + 1, lanes =>
    let lanes := lanes.map laneStep
    let rest := genDraws k lanes
    (rest.1, lanes.flatMap laneDraws ++ rest.2)

/-! Blocks (R32-R39, R47-R50). -/

/-- The element encoding of a format, where its elements are floating-point. -/
def Fmt.enc : Fmt → Option Enc
  | .fp32 => some .f32 | .fp16 => some .f16 | .bf16 => some .bf16 | .e4m3 => some .e4m3 | .e5m2 => some .e5m2
  | .mxfp8e4 => some .e4m3 | .mxfp8e5 => some .e5m2 | .mxfp6e3 => some .e3m2 | .mxfp6e2 => some .e2m3
  | .mxfp4 => some .e2m1 | .ns4 => some .e2m1 | .int8 => none | .int4 => none | .mxint8 => none

/-- An element code without its scale: R28-R30, and 2^−6 steps for MXINT8 (R33). -/
def Fmt.elem (f : Fmt) (code : Nat) : Num :=
  match f with
  | .int8 => .ofInt (signed 8 code)
  | .int4 => .ofInt (signed 4 code)
  | .mxint8 => .ofInt (signed 8 code) (-6)
  | f => match f.enc with
    | some c => c.decode (code % 2 ^ (c.eb + c.mb + 1))
    | none => .nan

/-- Multiply by 2^k exactly. -/
def Num.shift (x : Num) (k : Int) : Num :=
  match x with
  | .fin s m e => .fin s m (e + k)
  | x => x

/-- R35: the multiplier of a sub-scale code, in quarters and a power of two. -/
def subScale (code : Nat) : Num := .fin false (4 + code % 4) (-2 - ((code / 4 % 4 : Nat) : Int))

/-- The value of an element under its row's scale bytes (R33, R36, R37); `i` is the element's index in its
row and `sc` the row's scale bytes. -/
def Fmt.value (f : Fmt) (sc : List Nat) (i : Nat) (code : Nat) : Num :=
  match f with
  | .mxfp8e4 | .mxfp8e5 | .mxfp6e3 | .mxfp6e2 | .mxint8 | .mxfp4 =>
    let x := sc.getD (i / 32) 0
    if x = 255 then .nan else (f.elem code).shift ((x : Int) - 127)
  | .ns4 =>
    let x := sc.getD 0 0
    if x = 255 then .nan else
    let sub := sc.getD 1 0 + 256 * sc.getD 2 0
    ((f.elem code).shift ((x : Int) - 127)).mul (subScale (bits sub (4 * (i / 16)) 4))
  | f => f.elem code

/-- The magnitude of a finite value as a quotient; zero for the specials. -/
def Num.mag : Num → Nat × Nat
  | .fin _ m e => scalePair m 1 e
  | _ => (0, 1)

/-- The larger of two quotients. -/
def maxQuot (a b : Nat × Nat) : Nat × Nat := if a.1 * b.2 < b.1 * a.2 then b else a

def amax (xs : List Num) : Nat × Nat := xs.foldl (fun a x => maxQuot a x.mag) (0, 1)

def Num.special : Num → Bool
  | .fin _ _ _ => false
  | _ => true

/-- R48: emax of an MX element type. -/
def Fmt.emax : Fmt → Int
  | .mxfp8e4 => 8 | .mxfp8e5 => 15 | .mxfp6e3 => 4 | .mxfp6e2 => 2 | .mxfp4 => 2 | _ => 0

/-- R48. -/
def mxScale (f : Fmt) (a : Nat × Nat) : Nat :=
  if a.1 = 0 then 0 else (max (-127) (min 127 (log2Quot a.1 a.2 - f.emax)) + 127).toNat

/-- R50: one element divided by its scale n/d × 2^k, rounded, saturated. -/
def quantElem (f : Fmt) (r : Rnd) (sn sd : Nat) (k : Int) (x : Num) : Nat :=
  match x with
  | .fin neg m e =>
    let p := scalePair (m * sd) sn (e - k)
    (match f.enc with
     | some c => c.encodeQuot .saturate r neg p.1 p.2
     | none =>
       -- MXINT8: an integer code in steps of 2^−6, saturated to two's complement (R44, R50)
       let q := roundQuot r (p.1 * 64) p.2
       wrap 8 (if neg then -(min q 128 : Nat) else (min q 127 : Nat)))
  | _ => 0

/-- A converted block: the element codes and the scale bytes that follow them in a row. -/
structure Block where
  codes : List Nat
  scales : List Nat
deriving DecidableEq, Repr

/-- R47, R48, R50: one MX block of 32 values; `rs` gives each element's rounding. -/
def mxBlock (f : Fmt) (rs : List Rnd) (xs : List Num) : Block :=
  if xs.any Num.special then ⟨xs.map (fun _ => 0), [255]⟩ else
  let x := mxScale f (amax xs)
  ⟨(xs.zip rs).map (fun p => quantElem f p.2 1 1 ((x : Int) - 127) p.1), [x]⟩

/-- R49: the smallest sub-scale code of the table whose multiplier covers amax_k.  The codes are tried
from the smallest multiplier up: D = 3 … 0, F = 0 … 3. -/
def nsSub (x : Nat) (a : Nat × Nat) : Nat :=
  let order := [12, 13, 14, 15, 8, 9, 10, 11, 4, 5, 6, 7, 0, 1, 2, 3]
  if a.1 = 0 then 12 else
  (order.find? (fun c =>
    let q := (subScale c).mag
    let p := scalePair (6 * q.1) q.2 ((x : Int) - 127)
    decide (a.1 * p.2 ≤ p.1 * a.2))).getD 3

/-- R49: X. -/
def nsScale (a : Nat × Nat) : Nat :=
  if a.1 = 0 then 0 else (max (log2Quot a.1 a.2 + 125) 0).toNat

/-- R47, R49, R50: one NS4 block of 64 values.  R49 puts no upper bound on X; a block whose X is above 255 keeps the low
8 bits of X as its byte (DESIGN CHOICE, log 119). -/
def nsBlock (rs : List Rnd) (xs : List Num) : Block :=
  if xs.any Num.special then ⟨xs.map (fun _ => 0), [255, 0, 0]⟩ else
  let x := nsScale (amax xs)
  let subs := (List.range 4).map (fun k => nsSub x (amax ((xs.drop (16 * k)).take 16)))
  let sub := subs.getD 0 0 + 16 * subs.getD 1 0 + 256 * subs.getD 2 0 + 4096 * subs.getD 3 0
  let codes := ((xs.zip rs).zip (List.range 64)).map (fun p =>
    let c := subs.getD (p.2 / 16) 0
    quantElem .ns4 p.1.2 (4 + c % 4) 4 ((x : Int) - 127 - ((c / 4 : Nat) : Int)) p.1.1)
  ⟨codes, [x, sub % 256, sub / 256]⟩

/-- R44: one value to an element of a format without block scales. -/
def scalarElem (f : Fmt) (r : Rnd) (x : Num) : Nat :=
  match f with
  | .int8 => wrap 8 (encodeInt 8 r x)
  | .int4 => wrap 4 (encodeInt 4 r x)
  | .e4m3 => Enc.e4m3.encode .saturate r x
  | .e5m2 => Enc.e5m2.encode .saturate r x
  | .fp16 => Enc.f16.encode .toInf r x
  | .bf16 => Enc.bf16.encode .toInf r x
  | _ => Enc.f32.encode .toInf r x

/-- A row of values converted to a format: its element codes and scale bytes (R38, R44, R47-R50).
`rs` gives each element's rounding. -/
def convertRow (f : Fmt) (rs : List Rnd) (xs : List Num) : Block :=
  match f with
  | .mxfp8e4 | .mxfp8e5 | .mxfp6e3 | .mxfp6e2 | .mxint8 => mxBlock f rs xs
  | .mxfp4 =>
    let a := mxBlock f (rs.take 32) (xs.take 32)
    let b := mxBlock f (rs.drop 32) (xs.drop 32)
    ⟨a.codes ++ b.codes, a.scales ++ b.scales⟩
  | .ns4 => nsBlock rs xs
  | f => ⟨(xs.zip rs).map (fun p => scalarElem f p.2 p.1), []⟩

/-- R43: the rounding of n elements: to nearest-even, or the next n draws of the generator. -/
def roundings (stochastic : Bool) (lanes : List W64) (n : Nat) : List W64 × List Rnd :=
  if stochastic then
    let g := genDraws ((n + 63) / 64) lanes
    (g.1, g.2.take n |>.map Rnd.draw)
  else (lanes, List.replicate n .rne)

end Sys2Proof.Machine
end

