-- ==== Sys2Proof/Machine/RegMap.lean ====
section
/-! DEFINITION. The register map (spec chapter 21, with the field tables R108, R135-R137, R176, R177, R207,
R277-R279, R328, R329, R360, R384, R385, R416-R418, R442, R465, R480, R514-R516, R544, R545, R561, R588): every
field of every register, its bits, access type, reset class and reset value, and the register's address. -/
namespace Sys2Proof.Machine

/-- The access types of R12. -/
inductive Acc where
  | ro | rw | w1c | w1s | rws | rwl | wo
deriving DecidableEq, Repr

/-- The reset classes of R13: cleared by compute reset, function reset, warm reset, power loss. -/
inductive Cls where
  | C | F | W | P
deriving DecidableEq, Repr

/-- One row of a register table: bits [lo+w-1:lo], access type, reset class, reset value. -/
structure FieldSpec where
  lo : Nat
  w : Nat
  acc : Acc
  cls : Cls
  reset : Nat
deriving DecidableEq, Repr

/-- The register fields, each under REGISTER_FIELD in the spec's names.  A repeated register is one
constructor with an instance number. -/
inductive F where
  | SAGE_STATUS_STATE | SAGE_PC_PC | SAGE_FAULT_CODE | SAGE_FAULT_FAULT_PC | SAGE_FAULT_DETAIL
  | SAGE_ECC_COUNT_CORRECTED | SAGE_CYCLES_RUN | SAGE_RETIRED_COUNT | STN_STATUS_PART | STN_STATUS_BOUND
  | STN_STATUS_CLEARING | STN_STATUS_FREE | STN_STATUS_FENCED | STN_CORE_FENCE_FENCE | STN_CORE_FENCE_FW
  | STN_TROUBLE_TAG_MISMATCH | STN_TROUBLE_REGION_OFF | STN_CLEARS_COUNT | STN_MEM_ECC_CORRECTED
  | JCT_STATUS_UNCORR | JCT_ECC_COUNT_CORRECTED | JCT_FLITS_COUNT | JCT_STALLS_CYCLES | SEAM_STATUS_WEST_DIV
  | SEAM_STATUS_EAST_DIV | SEAM_STATUS_BACKPRESSURE | SEAM_BP_CYCLES_CYCLES | SIG_LATE_CLASS | SIG_DROPPED_COUNT
  | SIG_MAX_LAT_A_RESET | SIG_MAX_LAT_A_POWER | SIG_MAX_LAT_A_BARRIER | SIG_MAX_LAT_A_LAUNCH
  | SIG_MAX_LAT_B_COMPOSE | SIG_MAX_LAT_B_NOTIFY | KVG_CTRL_ENABLE | KVG_RING0_BASE_OFFSET | KVG_RING1_BASE_OFFSET
  | KVG_DOORBELL0_TAIL | KVG_DOORBELL1_TAIL | KVG_HEAD_HEAD0 | KVG_HEAD_HEAD1 | KVG_HEAD_BUSY | KVG_RSEED_SEED
  | KVG_SAT_COUNT | KVG_SEALS_COUNT | KVG_LAST_STATUS_STATUS | KVG_LAST_STATUS_RING | KVG_LAST_STATUS_SLOT
  | KVG_BYTES_COUNT | PTS_RING_BASE_ADDR | PTS_DOORBELL_TAIL | PTS_HEAD_HEAD0 | PTS_HEAD_HEAD1 | PTS_HEAD_HEAD2
  | PTS_HEAD_HEAD3 | PTS_TIMEOUT_MICROSECONDS | PTS_DROPPED_COUNT | PTS_REROUTED_COUNT | PTS_TOKENS_COUNT
  | PTS_STATUS_BUSY | PTS_STATUS_LAST_ERROR | BL_CTRL_ENABLE | BL_RING_BASE_ADDR | BL_DOORBELL_TAIL
  | BL_HEAD_HEAD0 | BL_HEAD_HEAD1 | BL_HEAD_HEAD2 | BL_HEAD_HEAD3 | BL_POOL_BASE_ADDR | BL_POOL_SIZE_PAGES
  | BL_OPEN_COUNT | BL_STATUS_BUSY | BL_STATUS_LAST_ERROR | BL_STATUS_RING | BL_TREES_COUNT | BL_DRAFTED_COUNT
  | BL_ACCEPTED_COUNT | BL_PROV_READS_COUNT | HBM_STATUS_TRAINED | HBM_STATUS_PATROL_BUSY | HBM_STATUS_SCRUBBING
  | HBM_CE_COUNT_CORRECTED | HBM_UE_COUNT_COUNT | HBM_ERR_LOG_ADDR | HBM_ERR_LOG_KIND | HBM_ERR_LOG_VALID
  | HBM_PATROL_ENABLE | HBM_PATROL_PERIOD | HBM_SCRUBS_COUNT | HBM_TAG_DROPS_COUNT | HBM_READ_BYTES_COUNT
  | HBM_WRITE_BYTES_COUNT | DEP_SLICE_CFG_PIN_WAYS | DEP_SLICE_CFG_DEMAND | DEP_ECC_COUNT_CORRECTED
  | DEP_UE_COUNT_COUNT | DILL_CTRL_DETECT | DILL_CTRL_AHEAD | DILL_DECLARE_ADDR | DILL_STATUS_ACTIVE
  | DILL_REFUSED_COUNT | DEP_HITS_COUNT | DEP_MISSES_COUNT | DEP_FILLS_COUNT | SC_HITS_COUNT | SC_MISSES_COUNT
  | SC_WRITEBACKS_COUNT | SC_PREFETCHED_COUNT | CND_STATUS_STATE | CND_STATUS_PART | CND_STATUS_OPER
  | CND_CTRL_RUN | CND_CTRL_SWITCH | CND_NEXT_PART_PART | CND_NEXT_PART_OPER | CND_ENTRY_ADDR
  | CND_ECC_COUNT_CORRECTED | CND_CYCLES_COUNT | CND_INSTRET_COUNT | CTL_SHARED_BASE_ADDR | CTL_SHARED_LIMIT_ADDR
  | CTL_LOCK_LOCK | CTL_DIR_STATUS_ENTRIES | CTL_TAG_DROPS_COUNT | CTL_DIR_EVICTS_COUNT | CTL_RETRIES_COUNT
  | CTL_XWB_COUNT | CTL_ECC_COUNT_CORRECTED | CTL_DIR_UE_COUNT | PSE_STATUS_QUEUED | PSE_SORTS_COUNT
  | COMP_ROLE_ROLE | COMP_CMD_DATA | COMP_CMD_GO_GO | COMP_CMD_STATUS_BUSY | COMP_CMD_STATUS_STATUS
  | COMP_CMD_STATUS_SEQ | COMP_IRQ_VECTOR | COMP_IRQ_ENABLE | COMP_DRAIN_LIMIT_MILLISECONDS
  | COMP_TROUBLE_DRAIN_FORCED | COMP_TROUBLE_MAP_MISMATCH | COMP_TROUBLE_PEER_TIMEOUT | COMP_TROUBLE_NOTICE_LOST
  | COMP_NOTICE_KIND | COMP_NOTICE_SLICE | COMP_NOTICE_DEV | COMP_NOTICE_CONSIST | COMP_NOTICE_VALID
  | COMP_PART_CFG_MODE | COMP_PART_CFG_CONSISTS | COMP_PART_CFG_SLICES | COMP_SLICE_STATUS_STATE
  | COMP_SLICE_STATUS_PART | COMP_SLICE_STATUS_SLOT | COMP_SLICE_STATUS_CORES | COMP_CONSIST_ID_ID
  | COMP_CONSIST_ID_PART | COMP_CONSIST_ID_SUB | COMP_CONSIST_ID_STATE | COMP_CONSIST_ID_MEMBERS
  | COMP_MAP_EPOCH_CUR | COMP_MAP_EPOCH_OLD | COMP_MAP_CUR_OFF | COMP_MAP_CUR_LEN | COMP_MAP_NEXT_OFF
  | COMP_MAP_NEXT_LEN | COMP_INFLIGHT_CUR | COMP_INFLIGHT_OLD | COMP_WINDOWS_MASK | COMP_SWITCH_STEP_STEP
  | COMP_MAP_CRC_CRC | COMP_LEND_DEV | COMP_LEND_PART | COMP_LEND_CONSIST | COMP_LEND_VALID | COMP_MAP_STORE_ENTRY
  | BLY_DEVICE_DEVNUM | BLY_TOPO_SX | BLY_TOPO_SY | BLY_TOPO_SZ | BLY_LOCK_LOCK | BLY_LOCK_BAD_CONFIG
  | BLY_REMOTE_TIMEOUT_MICROSECONDS | BLY_FWD_SHARE_SHARE | BLY_TAG_DROPS_COUNT | BLY_TIMEOUTS_COUNT
  | BLY_LATE_COUNT | BLY_UNROUTABLE_COUNT | BLY_RING_DOWN_X_BREAK0 | BLY_RING_DOWN_X_VALID0
  | BLY_RING_DOWN_X_BREAK1 | BLY_RING_DOWN_X_VALID1 | BLY_RING_DOWN_X_MORE | BLY_RING_DOWN_Y_BREAK0
  | BLY_RING_DOWN_Y_VALID0 | BLY_RING_DOWN_Y_BREAK1 | BLY_RING_DOWN_Y_VALID1 | BLY_RING_DOWN_Y_MORE
  | BLY_RING_DOWN_Z_BREAK0 | BLY_RING_DOWN_Z_VALID0 | BLY_RING_DOWN_Z_BREAK1 | BLY_RING_DOWN_Z_VALID1
  | BLY_RING_DOWN_Z_MORE | BLY_PORT_STATUS_STATE | BLY_PORT_STATUS_HALF_WIDTH | BLY_PORT_STATUS_UPPER
  | BLY_PORT_STATUS_PEER_DEV | BLY_PORT_STATUS_PEER_PORT | BLY_PORT_CTRL_ENABLE | BLY_PORT_CTRL_AUTO_RETRAIN
  | BLY_PORT_CTRL_RETRAIN | BLY_PORT_CTRL_ALLOW_HALF | BLY_PORT_EVENTS_DOWN_REPLAY | BLY_PORT_EVENTS_DOWN_LOS
  | BLY_PORT_EVENTS_MISCABLED | BLY_PORT_EVENTS_DEGRADED | BLY_REPLAYS_COUNT | BLY_DISCARDS_COUNT
  | BLY_FEC_UNCORR_COUNT | BLY_TX_BYTES_COUNT | BLY_RX_BYTES_COUNT | BLY_FWD_BYTES_COUNT | BLY_LANE_ERR_CORRECTED
  | DEV_ID_VENDOR | DEV_ID_DEVICE | DEV_REV_STEPPING | DEV_REV_ORDER_CODE | DEV_FW_VERSION | QE_RING_SEL_RING
  | QE_RING_BASE_ADDR | QE_RING_CFG_KIND | QE_RING_CFG_FORMAT | QE_RING_CFG_SIZE_LOG2 | QE_RING_CFG_COMPLETION
  | QE_RING_CFG_SUB | QE_RING_CFG2_VECTOR | QE_RING_CFG2_IRQ | QE_RING_CFG2_MOD_COUNT | QE_RING_CFG2_MOD_TIME
  | QE_RING_CFG2_CONTEXT | QE_RING_CMD_OP | QE_RING_STATUS_BUSY | QE_RING_STATUS_RESULT | QE_RING_STATUS_STATE
  | QE_TRACKERS_IN_USE | QE_ERR_RANGE | QE_RECORDS_LOST_COUNT | QE_PF_ATC_QUOTA_ENTRIES
  | QE_FUNC_EVENTS_RING_ERROR | QE_PART_RINGS_BASE | QE_PART_RINGS_COUNT | QE_PART_CFG_VF | QE_PART_CFG_TRACKERS
  | QE_PART_CFG_ATC_QUOTA | QE_FUNC_STATUS_QUIESCING | QE_FUNC_STATUS_RESETS | QE_FUNC_STATUS_DB_DROPS
  | QE_FAULT_BASE_ADDR | QE_FAULT_CFG_SIZE_LOG2 | QE_FAULT_CFG_VECTOR | QE_FAULT_CFG_IRQ | QE_FAULT_CFG_ENABLE
  | QE_FAULT_HEAD_HEAD | QE_FAULT_TAIL_TAIL | QE_FAULT_LOST_COUNT | QE_CTX_LOADS_COUNT | QE_PART_CTX_BASE_ADDR
  | QE_PART_OBJ_BASE_ADDR | QE_PART_FENCE_BASE_ADDR | QE_PART_LIMITS_CONTEXTS | QE_PART_LIMITS_RESERVED
  | QE_PART_LIMITS_OBJECTS | QE_PART_LIMITS_FENCES | QE_CTX_SLOT_VALID | QE_CTX_SLOT_STATE | QE_CTX_SLOT_PART
  | QE_CTX_SLOT_CONTEXT | QE_CTX_SLOT_LAST_RUN | CHV_CH_OWNER_PART | CHV_CH_OWNER_OPER | CHV_CH_OWNER_VALID
  | CHV_CH_OWNER_SUB | CHV_CH_SRC_ADDR | CHV_CH_DST_ADDR | CHV_CH_COUNT_BYTES | CHV_CH_CTRL_CTRL | CHV_CH_TAG_TAG
  | CHV_CH_NEXT_ADDR | CHV_CH_GO_START | CHV_CH_GO_FETCH | CHV_CH_GO_STOP | CHV_CH_GO_RESUME | CHV_CH_GO_ABORT
  | CHV_CH_STATUS_STATE | CHV_CH_STATUS_PROVISIONAL | CHV_CH_STATUS_INDEX | CHV_CH_ERR_ADDR_ADDR
  | CHV_CH_ERR_ADDR_DEV | CHV_CH_ERR_ADDR_HOST | CHV_CH_ERR_ADDR_DIR | CHV_CH_ERR_ADDR_KIND
  | CHV_CH_ERR_ADDR_VALID | CHV_CH_CQ_BASE_ADDR | CHV_CH_CQ_CFG_SIZE_LOG2 | CHV_CH_CQ_CFG_VECTOR
  | CHV_CH_CQ_CFG_IRQ | CHV_CH_CQ_HEAD_HEAD | CHV_CH_CQ_TAIL_TAIL | CHV_CH_BYTES_COUNT | CHV_CH_IGNORED_COUNT
  | TC_MODE_MODE | TC_MODE_RECOVERY | TC_IRQ_VECTOR | TC_IRQ_ENABLE | TC_MISS_FWD | TC_MISS_COMPL | TC_MISS_TOKEN
  | TC_MISS_TELEM | TC_RT_CFG_SHARE | TC_RT_BUDGET_FWD | TC_RT_BUDGET_COMPL | TC_RT_BUDGET_TOKEN
  | TC_RT_BUDGET_TELEM | TC_FB_THRESH_YELLOW | TC_FB_THRESH_ORANGE | TC_FB_THRESH_RED | TC_AGE_CYCLES
  | TC_AGED_COUNT | TC_CLASS_CFG_WEIGHT | TC_CLASS_CFG_HBM_LIMIT | TC_MISS_COUNT_COUNT | TC_FB_LEVEL_LEVEL
  | TC_PART_CFG_DEFAULT | TC_PART_CFG_MAX | PART_CTRL_CLASS | PART_WIN_COMMIT_GO | PART_WIN_COMMIT_PENDING
  | PART_WIN_BASE_ENABLE | PART_WIN_BASE_R | PART_WIN_BASE_W | PART_WIN_BASE_A | PART_WIN_BASE_REMOTE
  | PART_WIN_BASE_ADDR | PART_WIN_BASE_DEV | PART_WIN_LIMIT_ADDR | PART_METER_SNAP_GO | PART_M_TIME_NS
  | PART_M_CORE_CYCLES_COUNT | PART_M_HBM_BYTES_COUNT | PART_M_DEPOT_BYTES_COUNT | PART_M_LINK_BYTES_COUNT
  | PART_M_HOST_BYTES_COUNT | PART_M_ENERGY_MJ_COUNT | PART_M_JOBS_COUNT | TRB_PART_STICKY_VIOL_READ
  | TRB_PART_STICKY_VIOL_WRITE | TRB_PART_STICKY_VIOL_ATOMIC | TRB_PART_STICKY_TAG_REFUSED | TRB_PART_STICKY_EVENT
  | TRB_PART_STICKY_FIRST_VALID | TRB_PART_FIRST_ADDR | TRB_PART_FIRST_DEV | TRB_PART_FIRST_RIGHT
  | TRB_PART_AGENT_KIND | TRB_PART_AGENT_DIE | TRB_PART_AGENT_INDEX | TRB_PART_VIOL_COUNT_COUNT
  | TRB_PART_OPER_ACCESSES_COUNT | FUA_MB_CMD_OP | FUA_MB_CMD_PART | FUA_MB_STATUS_BUSY | FUA_MB_STATUS_STATUS
  | FUA_MB_STATUS_SEQ | FUA_MB_ARG_VALUE | FUA_MB_RESULT_VALUE | FUA_BOOT_STATUS_BANK | FUA_BOOT_STATUS_PENDING
  | FUA_BOOT_STATUS_FALLBACK | FUA_BOOT_STATUS_SVN | FUA_BOOT_STATUS_FUSES | PWR_CAP_WATTS | PWR_PRIO_FIRST
  | PWR_PRIO_SECOND | PWR_PRIO_THIRD | PWR_MEASURED_MEASURED | PWR_MEASURED_ESTIMATE | PWR_MEASURED_SOURCE
  | PWR_EVENTS_MISMATCH | PWR_EVENTS_EMERGENCY | PWR_EVENTS_TRIP | PWR_EVENTS_CAP_EXCEEDED
  | PWR_EVENTS_MEM_THROTTLED | PWR_BUDGET_LINKS | PWR_BUDGET_MEMORY | PWR_BUDGET_COMPUTE | PWR_GRANT_CFG_STARVE_MS
  | PWR_GRANTS_COUNT | PWR_REFUSED_COUNT | PWR_DROOP_COUNT_COUNT | PWR_THERM_CFG_HOT | PWR_THERM_CFG_EMERG
  | PWR_THERM_CFG_TRIP | PWR_THERM_MAX_TEMP | PWR_THERM_MAX_DOMAIN | PWR_ENERGY_MICROJOULES
  | PWR_SLEEP_CFG_NAP_DELAY | PWR_SLEEP_CFG_DEEP_DELAY | PWR_LEVEL_MAX_LEVEL | PWR_DOM_STATUS_STATE
  | PWR_DOM_STATUS_LEVEL | PWR_DOM_STATUS_ALLOWED | PWR_DOM_STATUS_HOT | PWR_DOM_STATUS_STRETCH
  | PWR_DOM_STATUS_TEMP | PWR_DOM_CTRL_HOLD_ON | PWR_DOM_CTRL_OFF_REQ | PWR_DOM_RES_ON_NS | PWR_DOM_RES_IDLE_NS
  | PWR_DOM_RES_NAP_NS | PWR_DOM_RES_DEEP_NS | PWR_DOM_RES_OFF_NS | PWR_DOM_ENERGY_MICROJOULES | RST_CMD_OP
  | RST_CMD_TARGET | RST_STATUS_BUSY | RST_STATUS_DEV_OUT | RST_HANG_CFG_CORE_MS | RST_HANG_CFG_KVG_MS
  | RST_HANG_CFG_CND_MS | RST_DEV_COUNT_IN_WINDOW | RST_DEV_COUNT_TOTAL | RST_LOG_HEAD_HEAD | RST_LOG_CAUSE
  | RST_LOG_SCOPE | RST_LOG_CYCLED | RST_LOG_TARGET | RST_LOG_RESULT | RST_LOG_NO_CAPTURE | RST_LOG_TIME_US
  | RST_KICK_KICK | RST_PART_STATUS_OUT | RST_PART_STATUS_RESETTING | RST_PART_STATUS_SERVICE_LOST
  | RST_PART_STATUS_IN_WINDOW | RST_PART_STATUS_TOTAL | RST_PART_DUMP_ENABLE | RST_PART_DUMP_ADDR
  | RST_PART_DUMP_SLOTS | RST_PART_CAPTURE_SPAD_OFF | RST_PART_CAPTURE_STN_OFF | RST_PART_REQ_OP
  | RST_PART_REQ_STATION | RST_PART_DUMP_SEQ_SEQ | MOD_STATUS_STATE | MOD_STATUS_INPUT_LOW | MOD_STATUS_INPUT_HIGH
  | MOD_STATUS_COOLANT_HOT | MOD_STATUS_MCLK_INTERNAL | MOD_STATUS_FALLBACK_SENSE | MOD_INPUT_VIN_MV
  | MOD_INPUT_IIN_MA | MOD_INPUT_PIN_W | MOD_COOLANT_INLET | MOD_COOLANT_OUTLET | MOD_SENSE0_RAILS
  | MOD_SENSE1_RAILS | MOD_LAST_FAULT_CODE | MOD_LAST_FAULT_DETAIL
deriving DecidableEq, Repr

/-- The number of a field in the store of register values. -/
def F.num (f : F) : Nat := f.ctorIdx

/-- The row of each field in its chapter's register table.  Where the table gives no reset value, 0 (DESIGN CHOICE, log 1). -/
def F.spec : F → FieldSpec
  | .SAGE_STATUS_STATE => ⟨0, 3, .ro, .C, 0⟩
  | .SAGE_PC_PC => ⟨0, 11, .ro, .C, 0⟩
  | .SAGE_FAULT_CODE => ⟨0, 8, .ro, .C, 0⟩
  | .SAGE_FAULT_FAULT_PC => ⟨8, 11, .ro, .C, 0⟩
  | .SAGE_FAULT_DETAIL => ⟨32, 32, .ro, .C, 0⟩
  | .SAGE_ECC_COUNT_CORRECTED => ⟨0, 32, .rw, .W, 0⟩
  | .SAGE_CYCLES_RUN => ⟨0, 64, .ro, .C, 0⟩
  | .SAGE_RETIRED_COUNT => ⟨0, 64, .ro, .C, 0⟩
  | .STN_STATUS_PART => ⟨0, 6, .ro, .W, 0⟩
  | .STN_STATUS_BOUND => ⟨6, 1, .ro, .W, 0⟩
  | .STN_STATUS_CLEARING => ⟨7, 1, .ro, .W, 0⟩
  | .STN_STATUS_FREE => ⟨16, 6, .ro, .C, 0⟩
  | .STN_STATUS_FENCED => ⟨24, 6, .ro, .P, 0⟩
  | .STN_CORE_FENCE_FENCE => ⟨0, 6, .rws, .P, 0⟩
  | .STN_CORE_FENCE_FW => ⟨8, 6, .ro, .P, 0⟩
  | .STN_TROUBLE_TAG_MISMATCH => ⟨0, 1, .w1c, .W, 0⟩
  | .STN_TROUBLE_REGION_OFF => ⟨1, 1, .w1c, .W, 0⟩
  | .STN_CLEARS_COUNT => ⟨0, 32, .ro, .W, 0⟩
  | .STN_MEM_ECC_CORRECTED => ⟨0, 32, .rw, .W, 0⟩
  | .JCT_STATUS_UNCORR => ⟨0, 1, .w1c, .W, 0⟩
  | .JCT_ECC_COUNT_CORRECTED => ⟨0, 32, .rw, .W, 0⟩
  | .JCT_FLITS_COUNT => ⟨0, 64, .ro, .W, 0⟩
  | .JCT_STALLS_CYCLES => ⟨0, 64, .ro, .W, 0⟩
  | .SEAM_STATUS_WEST_DIV => ⟨0, 2, .ro, .W, 0⟩
  | .SEAM_STATUS_EAST_DIV => ⟨2, 2, .ro, .W, 0⟩
  | .SEAM_STATUS_BACKPRESSURE => ⟨4, 1, .ro, .W, 0⟩
  | .SEAM_BP_CYCLES_CYCLES => ⟨0, 64, .ro, .W, 0⟩
  | .SIG_LATE_CLASS => ⟨0, 6, .w1c, .W, 0⟩
  | .SIG_DROPPED_COUNT => ⟨0, 32, .ro, .W, 0⟩
  | .SIG_MAX_LAT_A_RESET => ⟨0, 16, .ro, .W, 0⟩
  | .SIG_MAX_LAT_A_POWER => ⟨16, 16, .ro, .W, 0⟩
  | .SIG_MAX_LAT_A_BARRIER => ⟨32, 16, .ro, .W, 0⟩
  | .SIG_MAX_LAT_A_LAUNCH => ⟨48, 16, .ro, .W, 0⟩
  | .SIG_MAX_LAT_B_COMPOSE => ⟨0, 16, .ro, .W, 0⟩
  | .SIG_MAX_LAT_B_NOTIFY => ⟨16, 16, .ro, .W, 0⟩
  | .KVG_CTRL_ENABLE => ⟨0, 1, .rw, .C, 0⟩
  | .KVG_RING0_BASE_OFFSET => ⟨12, 11, .rw, .C, 0⟩
  | .KVG_RING1_BASE_OFFSET => ⟨12, 11, .rw, .C, 0⟩
  | .KVG_DOORBELL0_TAIL => ⟨0, 8, .wo, .C, 0⟩
  | .KVG_DOORBELL1_TAIL => ⟨0, 8, .wo, .C, 0⟩
  | .KVG_HEAD_HEAD0 => ⟨0, 8, .ro, .C, 0⟩
  | .KVG_HEAD_HEAD1 => ⟨8, 8, .ro, .C, 0⟩
  | .KVG_HEAD_BUSY => ⟨16, 1, .ro, .C, 0⟩
  | .KVG_RSEED_SEED => ⟨0, 64, .rw, .C, 0⟩
  | .KVG_SAT_COUNT => ⟨0, 32, .rw, .W, 0⟩
  | .KVG_SEALS_COUNT => ⟨0, 32, .ro, .W, 0⟩
  | .KVG_LAST_STATUS_STATUS => ⟨0, 8, .ro, .C, 0⟩
  | .KVG_LAST_STATUS_RING => ⟨8, 1, .ro, .C, 0⟩
  | .KVG_LAST_STATUS_SLOT => ⟨16, 8, .ro, .C, 0⟩
  | .KVG_BYTES_COUNT => ⟨0, 64, .ro, .W, 0⟩
  | .PTS_RING_BASE_ADDR => ⟨6, 42, .rw, .W, 0⟩
  | .PTS_DOORBELL_TAIL => ⟨0, 6, .wo, .W, 0⟩
  | .PTS_HEAD_HEAD0 => ⟨0, 6, .ro, .C, 0⟩
  | .PTS_HEAD_HEAD1 => ⟨8, 6, .ro, .C, 0⟩
  | .PTS_HEAD_HEAD2 => ⟨16, 6, .ro, .C, 0⟩
  | .PTS_HEAD_HEAD3 => ⟨24, 6, .ro, .C, 0⟩
  | .PTS_TIMEOUT_MICROSECONDS => ⟨0, 16, .rw, .W, 1000⟩
  | .PTS_DROPPED_COUNT => ⟨0, 64, .ro, .W, 0⟩
  | .PTS_REROUTED_COUNT => ⟨0, 64, .ro, .W, 0⟩
  | .PTS_TOKENS_COUNT => ⟨0, 64, .ro, .W, 0⟩
  | .PTS_STATUS_BUSY => ⟨0, 4, .ro, .C, 0⟩
  | .PTS_STATUS_LAST_ERROR => ⟨8, 8, .ro, .C, 0⟩
  | .BL_CTRL_ENABLE => ⟨0, 1, .rw, .F, 0⟩
  | .BL_RING_BASE_ADDR => ⟨6, 42, .rw, .F, 0⟩
  | .BL_DOORBELL_TAIL => ⟨0, 6, .wo, .F, 0⟩
  | .BL_HEAD_HEAD0 => ⟨0, 6, .ro, .C, 0⟩
  | .BL_HEAD_HEAD1 => ⟨8, 6, .ro, .C, 0⟩
  | .BL_HEAD_HEAD2 => ⟨16, 6, .ro, .C, 0⟩
  | .BL_HEAD_HEAD3 => ⟨24, 6, .ro, .C, 0⟩
  | .BL_POOL_BASE_ADDR => ⟨16, 32, .rw, .F, 0⟩
  | .BL_POOL_SIZE_PAGES => ⟨0, 25, .rw, .F, 0⟩
  | .BL_OPEN_COUNT => ⟨0, 16, .ro, .W, 0⟩
  | .BL_STATUS_BUSY => ⟨0, 4, .ro, .C, 0⟩
  | .BL_STATUS_LAST_ERROR => ⟨8, 8, .ro, .C, 0⟩
  | .BL_STATUS_RING => ⟨16, 2, .ro, .C, 0⟩
  | .BL_TREES_COUNT => ⟨0, 64, .ro, .W, 0⟩
  | .BL_DRAFTED_COUNT => ⟨0, 64, .ro, .W, 0⟩
  | .BL_ACCEPTED_COUNT => ⟨0, 64, .ro, .W, 0⟩
  | .BL_PROV_READS_COUNT => ⟨0, 64, .ro, .W, 0⟩
  | .HBM_STATUS_TRAINED => ⟨0, 1, .ro, .W, 0⟩
  | .HBM_STATUS_PATROL_BUSY => ⟨1, 1, .ro, .W, 0⟩
  | .HBM_STATUS_SCRUBBING => ⟨16, 16, .ro, .W, 0⟩
  | .HBM_CE_COUNT_CORRECTED => ⟨0, 32, .rw, .W, 0⟩
  | .HBM_UE_COUNT_COUNT => ⟨0, 32, .ro, .W, 0⟩
  | .HBM_ERR_LOG_ADDR => ⟨0, 40, .ro, .W, 0⟩
  | .HBM_ERR_LOG_KIND => ⟨62, 1, .ro, .W, 0⟩
  | .HBM_ERR_LOG_VALID => ⟨63, 1, .w1c, .W, 0⟩
  | .HBM_PATROL_ENABLE => ⟨0, 1, .rw, .W, 1⟩
  | .HBM_PATROL_PERIOD => ⟨8, 8, .rw, .W, 24⟩
  | .HBM_SCRUBS_COUNT => ⟨0, 32, .ro, .W, 0⟩
  | .HBM_TAG_DROPS_COUNT => ⟨0, 32, .ro, .W, 0⟩
  | .HBM_READ_BYTES_COUNT => ⟨0, 64, .ro, .W, 0⟩
  | .HBM_WRITE_BYTES_COUNT => ⟨0, 64, .ro, .W, 0⟩
  | .DEP_SLICE_CFG_PIN_WAYS => ⟨0, 5, .rw, .W, 0⟩
  | .DEP_SLICE_CFG_DEMAND => ⟨8, 1, .rw, .W, 0⟩
  | .DEP_ECC_COUNT_CORRECTED => ⟨0, 32, .rw, .W, 0⟩
  | .DEP_UE_COUNT_COUNT => ⟨0, 32, .ro, .W, 0⟩
  | .DILL_CTRL_DETECT => ⟨0, 1, .rw, .W, 1⟩
  | .DILL_CTRL_AHEAD => ⟨8, 6, .rw, .W, 16⟩
  | .DILL_DECLARE_ADDR => ⟨5, 43, .wo, .W, 0⟩
  | .DILL_STATUS_ACTIVE => ⟨0, 7, .ro, .C, 0⟩
  | .DILL_REFUSED_COUNT => ⟨0, 32, .ro, .W, 0⟩
  | .DEP_HITS_COUNT => ⟨0, 64, .ro, .W, 0⟩
  | .DEP_MISSES_COUNT => ⟨0, 64, .ro, .W, 0⟩
  | .DEP_FILLS_COUNT => ⟨0, 64, .ro, .W, 0⟩
  | .SC_HITS_COUNT => ⟨0, 64, .ro, .W, 0⟩
  | .SC_MISSES_COUNT => ⟨0, 64, .ro, .W, 0⟩
  | .SC_WRITEBACKS_COUNT => ⟨0, 64, .ro, .W, 0⟩
  | .SC_PREFETCHED_COUNT => ⟨0, 64, .ro, .W, 0⟩
  | .CND_STATUS_STATE => ⟨0, 3, .ro, .W, 0⟩
  | .CND_STATUS_PART => ⟨8, 6, .ro, .W, 0⟩
  | .CND_STATUS_OPER => ⟨14, 1, .ro, .W, 0⟩
  | .CND_CTRL_RUN => ⟨0, 1, .rw, .W, 0⟩
  | .CND_CTRL_SWITCH => ⟨1, 1, .wo, .W, 0⟩
  | .CND_NEXT_PART_PART => ⟨0, 6, .rw, .W, 0⟩
  | .CND_NEXT_PART_OPER => ⟨8, 1, .rw, .W, 0⟩
  | .CND_ENTRY_ADDR => ⟨0, 48, .rw, .W, 0⟩
  | .CND_ECC_COUNT_CORRECTED => ⟨0, 32, .rw, .W, 0⟩
  | .CND_CYCLES_COUNT => ⟨0, 64, .ro, .W, 0⟩
  | .CND_INSTRET_COUNT => ⟨0, 64, .ro, .W, 0⟩
  | .CTL_SHARED_BASE_ADDR => ⟨6, 42, .rwl, .W, 0⟩
  | .CTL_SHARED_LIMIT_ADDR => ⟨6, 42, .rwl, .W, 0⟩
  | .CTL_LOCK_LOCK => ⟨0, 1, .w1s, .W, 0⟩
  | .CTL_DIR_STATUS_ENTRIES => ⟨0, 18, .ro, .W, 0⟩
  | .CTL_TAG_DROPS_COUNT => ⟨0, 32, .ro, .W, 0⟩
  | .CTL_DIR_EVICTS_COUNT => ⟨0, 32, .ro, .W, 0⟩
  | .CTL_RETRIES_COUNT => ⟨0, 32, .ro, .W, 0⟩
  | .CTL_XWB_COUNT => ⟨0, 32, .ro, .W, 0⟩
  | .CTL_ECC_COUNT_CORRECTED => ⟨0, 32, .rw, .W, 0⟩
  | .CTL_DIR_UE_COUNT => ⟨0, 32, .ro, .W, 0⟩
  | .PSE_STATUS_QUEUED => ⟨0, 4, .ro, .C, 0⟩
  | .PSE_SORTS_COUNT => ⟨0, 64, .ro, .W, 0⟩
  | .COMP_ROLE_ROLE => ⟨0, 2, .ro, .W, 0⟩
  | .COMP_CMD_DATA => ⟨0, 64, .rw, .W, 0⟩
  | .COMP_CMD_GO_GO => ⟨0, 1, .w1s, .W, 0⟩
  | .COMP_CMD_STATUS_BUSY => ⟨0, 1, .ro, .W, 0⟩
  | .COMP_CMD_STATUS_STATUS => ⟨8, 8, .ro, .W, 0⟩
  | .COMP_CMD_STATUS_SEQ => ⟨16, 16, .ro, .W, 0⟩
  | .COMP_IRQ_VECTOR => ⟨0, 11, .rw, .W, 0⟩
  | .COMP_IRQ_ENABLE => ⟨31, 1, .rw, .W, 0⟩
  | .COMP_DRAIN_LIMIT_MILLISECONDS => ⟨0, 16, .rw, .W, 100⟩
  | .COMP_TROUBLE_DRAIN_FORCED => ⟨0, 1, .w1c, .W, 0⟩
  | .COMP_TROUBLE_MAP_MISMATCH => ⟨1, 1, .w1c, .W, 0⟩
  | .COMP_TROUBLE_PEER_TIMEOUT => ⟨2, 1, .w1c, .W, 0⟩
  | .COMP_TROUBLE_NOTICE_LOST => ⟨3, 1, .w1c, .W, 0⟩
  | .COMP_NOTICE_KIND => ⟨0, 8, .ro, .W, 0⟩
  | .COMP_NOTICE_SLICE => ⟨8, 8, .ro, .W, 0⟩
  | .COMP_NOTICE_DEV => ⟨16, 10, .ro, .W, 0⟩
  | .COMP_NOTICE_CONSIST => ⟨32, 16, .ro, .W, 0⟩
  | .COMP_NOTICE_VALID => ⟨63, 1, .ro, .W, 0⟩
  | .COMP_PART_CFG_MODE => ⟨0, 1, .rw, .W, 0⟩
  | .COMP_PART_CFG_CONSISTS => ⟨8, 3, .ro, .W, 0⟩
  | .COMP_PART_CFG_SLICES => ⟨16, 9, .ro, .W, 0⟩
  | .COMP_SLICE_STATUS_STATE => ⟨0, 3, .ro, .W, 0⟩
  | .COMP_SLICE_STATUS_PART => ⟨8, 6, .ro, .W, 0⟩
  | .COMP_SLICE_STATUS_SLOT => ⟨16, 8, .ro, .W, 0⟩
  | .COMP_SLICE_STATUS_CORES => ⟨24, 3, .ro, .W, 0⟩
  | .COMP_CONSIST_ID_ID => ⟨0, 16, .ro, .W, 0⟩
  | .COMP_CONSIST_ID_PART => ⟨16, 6, .ro, .W, 0⟩
  | .COMP_CONSIST_ID_SUB => ⟨22, 2, .ro, .W, 0⟩
  | .COMP_CONSIST_ID_STATE => ⟨24, 3, .ro, .W, 0⟩
  | .COMP_CONSIST_ID_MEMBERS => ⟨28, 4, .ro, .W, 0⟩
  | .COMP_MAP_EPOCH_CUR => ⟨0, 16, .ro, .W, 0⟩
  | .COMP_MAP_EPOCH_OLD => ⟨16, 16, .ro, .W, 0⟩
  | .COMP_MAP_CUR_OFF => ⟨0, 15, .ro, .W, 0⟩
  | .COMP_MAP_CUR_LEN => ⟨16, 12, .ro, .W, 0⟩
  | .COMP_MAP_NEXT_OFF => ⟨0, 15, .rw, .W, 0⟩
  | .COMP_MAP_NEXT_LEN => ⟨16, 12, .rw, .W, 0⟩
  | .COMP_INFLIGHT_CUR => ⟨0, 32, .ro, .W, 0⟩
  | .COMP_INFLIGHT_OLD => ⟨32, 32, .ro, .W, 0⟩
  | .COMP_WINDOWS_MASK => ⟨0, 32, .ro, .W, 0⟩
  | .COMP_SWITCH_STEP_STEP => ⟨0, 64, .ro, .W, 0⟩
  | .COMP_MAP_CRC_CRC => ⟨0, 32, .ro, .W, 0⟩
  | .COMP_LEND_DEV => ⟨0, 10, .ro, .W, 0⟩
  | .COMP_LEND_PART => ⟨10, 6, .ro, .W, 0⟩
  | .COMP_LEND_CONSIST => ⟨16, 16, .ro, .W, 0⟩
  | .COMP_LEND_VALID => ⟨32, 1, .ro, .W, 0⟩
  | .COMP_MAP_STORE_ENTRY => ⟨0, 32, .rw, .W, 0⟩
  | .BLY_DEVICE_DEVNUM => ⟨0, 10, .rwl, .W, 0⟩
  | .BLY_TOPO_SX => ⟨0, 11, .rwl, .W, 1⟩
  | .BLY_TOPO_SY => ⟨16, 11, .rwl, .W, 1⟩
  | .BLY_TOPO_SZ => ⟨32, 11, .rwl, .W, 1⟩
  | .BLY_LOCK_LOCK => ⟨0, 1, .w1s, .W, 0⟩
  | .BLY_LOCK_BAD_CONFIG => ⟨1, 1, .ro, .W, 0⟩
  | .BLY_REMOTE_TIMEOUT_MICROSECONDS => ⟨0, 20, .rw, .W, 250⟩
  | .BLY_FWD_SHARE_SHARE => ⟨0, 8, .rw, .W, 192⟩
  | .BLY_TAG_DROPS_COUNT => ⟨0, 32, .ro, .W, 0⟩
  | .BLY_TIMEOUTS_COUNT => ⟨0, 32, .ro, .W, 0⟩
  | .BLY_LATE_COUNT => ⟨0, 32, .ro, .W, 0⟩
  | .BLY_UNROUTABLE_COUNT => ⟨0, 32, .ro, .W, 0⟩
  | .BLY_RING_DOWN_X_BREAK0 => ⟨0, 10, .ro, .W, 0⟩
  | .BLY_RING_DOWN_X_VALID0 => ⟨10, 1, .ro, .W, 0⟩
  | .BLY_RING_DOWN_X_BREAK1 => ⟨16, 10, .ro, .W, 0⟩
  | .BLY_RING_DOWN_X_VALID1 => ⟨26, 1, .ro, .W, 0⟩
  | .BLY_RING_DOWN_X_MORE => ⟨31, 1, .ro, .W, 0⟩
  | .BLY_RING_DOWN_Y_BREAK0 => ⟨0, 10, .ro, .W, 0⟩
  | .BLY_RING_DOWN_Y_VALID0 => ⟨10, 1, .ro, .W, 0⟩
  | .BLY_RING_DOWN_Y_BREAK1 => ⟨16, 10, .ro, .W, 0⟩
  | .BLY_RING_DOWN_Y_VALID1 => ⟨26, 1, .ro, .W, 0⟩
  | .BLY_RING_DOWN_Y_MORE => ⟨31, 1, .ro, .W, 0⟩
  | .BLY_RING_DOWN_Z_BREAK0 => ⟨0, 10, .ro, .W, 0⟩
  | .BLY_RING_DOWN_Z_VALID0 => ⟨10, 1, .ro, .W, 0⟩
  | .BLY_RING_DOWN_Z_BREAK1 => ⟨16, 10, .ro, .W, 0⟩
  | .BLY_RING_DOWN_Z_VALID1 => ⟨26, 1, .ro, .W, 0⟩
  | .BLY_RING_DOWN_Z_MORE => ⟨31, 1, .ro, .W, 0⟩
  | .BLY_PORT_STATUS_STATE => ⟨0, 3, .ro, .W, 4⟩
  | .BLY_PORT_STATUS_HALF_WIDTH => ⟨3, 1, .ro, .W, 0⟩
  | .BLY_PORT_STATUS_UPPER => ⟨4, 1, .ro, .W, 0⟩
  | .BLY_PORT_STATUS_PEER_DEV => ⟨16, 10, .ro, .W, 0⟩
  | .BLY_PORT_STATUS_PEER_PORT => ⟨26, 3, .ro, .W, 0⟩
  | .BLY_PORT_CTRL_ENABLE => ⟨0, 1, .rw, .W, 1⟩
  | .BLY_PORT_CTRL_AUTO_RETRAIN => ⟨1, 1, .rw, .W, 1⟩
  | .BLY_PORT_CTRL_RETRAIN => ⟨2, 1, .wo, .W, 0⟩
  | .BLY_PORT_CTRL_ALLOW_HALF => ⟨3, 1, .rw, .W, 1⟩
  | .BLY_PORT_EVENTS_DOWN_REPLAY => ⟨0, 1, .w1c, .W, 0⟩
  | .BLY_PORT_EVENTS_DOWN_LOS => ⟨1, 1, .w1c, .W, 0⟩
  | .BLY_PORT_EVENTS_MISCABLED => ⟨2, 1, .w1c, .W, 0⟩
  | .BLY_PORT_EVENTS_DEGRADED => ⟨3, 1, .w1c, .W, 0⟩
  | .BLY_REPLAYS_COUNT => ⟨0, 32, .ro, .W, 0⟩
  | .BLY_DISCARDS_COUNT => ⟨0, 32, .ro, .W, 0⟩
  | .BLY_FEC_UNCORR_COUNT => ⟨0, 32, .ro, .W, 0⟩
  | .BLY_TX_BYTES_COUNT => ⟨0, 64, .ro, .W, 0⟩
  | .BLY_RX_BYTES_COUNT => ⟨0, 64, .ro, .W, 0⟩
  | .BLY_FWD_BYTES_COUNT => ⟨0, 64, .ro, .W, 0⟩
  | .BLY_LANE_ERR_CORRECTED => ⟨0, 32, .rw, .W, 0⟩
  | .DEV_ID_VENDOR => ⟨0, 16, .ro, .P, 8062⟩
  | .DEV_ID_DEVICE => ⟨16, 16, .ro, .P, 31344⟩
  | .DEV_REV_STEPPING => ⟨0, 8, .ro, .P, 0⟩
  | .DEV_REV_ORDER_CODE => ⟨16, 1, .ro, .P, 0⟩
  | .DEV_FW_VERSION => ⟨0, 64, .ro, .W, 0⟩
  | .QE_RING_SEL_RING => ⟨0, 18, .rw, .F, 0⟩
  | .QE_RING_BASE_ADDR => ⟨12, 52, .rw, .F, 0⟩
  | .QE_RING_CFG_KIND => ⟨0, 3, .rw, .F, 0⟩
  | .QE_RING_CFG_FORMAT => ⟨3, 2, .rw, .F, 0⟩
  | .QE_RING_CFG_SIZE_LOG2 => ⟨5, 5, .rw, .F, 0⟩
  | .QE_RING_CFG_COMPLETION => ⟨10, 16, .rw, .F, 0⟩
  | .QE_RING_CFG_SUB => ⟨26, 2, .rw, .F, 0⟩
  | .QE_RING_CFG2_VECTOR => ⟨0, 11, .rw, .F, 0⟩
  | .QE_RING_CFG2_IRQ => ⟨11, 1, .rw, .F, 0⟩
  | .QE_RING_CFG2_MOD_COUNT => ⟨12, 8, .rw, .F, 0⟩
  | .QE_RING_CFG2_MOD_TIME => ⟨20, 10, .rw, .F, 0⟩
  | .QE_RING_CFG2_CONTEXT => ⟨32, 12, .rw, .F, 0⟩
  | .QE_RING_CMD_OP => ⟨0, 2, .wo, .F, 0⟩
  | .QE_RING_STATUS_BUSY => ⟨0, 1, .ro, .F, 0⟩
  | .QE_RING_STATUS_RESULT => ⟨1, 3, .ro, .F, 0⟩
  | .QE_RING_STATUS_STATE => ⟨4, 3, .ro, .F, 0⟩
  | .QE_TRACKERS_IN_USE => ⟨0, 14, .ro, .W, 0⟩
  | .QE_ERR_RANGE => ⟨0, 1, .w1c, .W, 0⟩
  | .QE_RECORDS_LOST_COUNT => ⟨0, 32, .ro, .W, 0⟩
  | .QE_PF_ATC_QUOTA_ENTRIES => ⟨0, 14, .rw, .W, 252⟩
  | .QE_FUNC_EVENTS_RING_ERROR => ⟨0, 1, .w1c, .F, 0⟩
  | .QE_PART_RINGS_BASE => ⟨0, 18, .rw, .W, 0⟩
  | .QE_PART_RINGS_COUNT => ⟨32, 17, .rw, .W, 0⟩
  | .QE_PART_CFG_VF => ⟨0, 1, .rw, .W, 0⟩
  | .QE_PART_CFG_TRACKERS => ⟨4, 14, .rw, .W, 128⟩
  | .QE_PART_CFG_ATC_QUOTA => ⟨18, 14, .rw, .W, 252⟩
  | .QE_FUNC_STATUS_QUIESCING => ⟨0, 1, .ro, .W, 0⟩
  | .QE_FUNC_STATUS_RESETS => ⟨16, 16, .ro, .W, 0⟩
  | .QE_FUNC_STATUS_DB_DROPS => ⟨32, 32, .ro, .W, 0⟩
  | .QE_FAULT_BASE_ADDR => ⟨12, 52, .rw, .F, 0⟩
  | .QE_FAULT_CFG_SIZE_LOG2 => ⟨0, 5, .rw, .F, 0⟩
  | .QE_FAULT_CFG_VECTOR => ⟨8, 11, .rw, .F, 0⟩
  | .QE_FAULT_CFG_IRQ => ⟨19, 1, .rw, .F, 0⟩
  | .QE_FAULT_CFG_ENABLE => ⟨20, 1, .rw, .F, 0⟩
  | .QE_FAULT_HEAD_HEAD => ⟨0, 32, .rw, .F, 0⟩
  | .QE_FAULT_TAIL_TAIL => ⟨0, 32, .ro, .F, 0⟩
  | .QE_FAULT_LOST_COUNT => ⟨0, 32, .ro, .F, 0⟩
  | .QE_CTX_LOADS_COUNT => ⟨0, 64, .ro, .W, 0⟩
  | .QE_PART_CTX_BASE_ADDR => ⟨12, 36, .rw, .W, 0⟩
  | .QE_PART_OBJ_BASE_ADDR => ⟨12, 36, .rw, .W, 0⟩
  | .QE_PART_FENCE_BASE_ADDR => ⟨12, 36, .rw, .W, 0⟩
  | .QE_PART_LIMITS_CONTEXTS => ⟨0, 13, .rw, .W, 1⟩
  | .QE_PART_LIMITS_RESERVED => ⟨16, 7, .rw, .W, 0⟩
  | .QE_PART_LIMITS_OBJECTS => ⟨32, 16, .rw, .W, 0⟩
  | .QE_PART_LIMITS_FENCES => ⟨48, 16, .rw, .W, 0⟩
  | .QE_CTX_SLOT_VALID => ⟨0, 1, .ro, .W, 0⟩
  | .QE_CTX_SLOT_STATE => ⟨1, 3, .ro, .W, 0⟩
  | .QE_CTX_SLOT_PART => ⟨8, 6, .ro, .W, 0⟩
  | .QE_CTX_SLOT_CONTEXT => ⟨16, 12, .ro, .W, 0⟩
  | .QE_CTX_SLOT_LAST_RUN => ⟨32, 32, .ro, .W, 0⟩
  | .CHV_CH_OWNER_PART => ⟨0, 6, .rw, .W, 0⟩
  | .CHV_CH_OWNER_OPER => ⟨6, 1, .rw, .W, 0⟩
  | .CHV_CH_OWNER_VALID => ⟨7, 1, .rw, .W, 0⟩
  | .CHV_CH_OWNER_SUB => ⟨8, 2, .rw, .W, 0⟩
  | .CHV_CH_SRC_ADDR => ⟨0, 48, .rw, .C, 0⟩
  | .CHV_CH_DST_ADDR => ⟨0, 48, .rw, .C, 0⟩
  | .CHV_CH_COUNT_BYTES => ⟨0, 24, .rw, .C, 0⟩
  | .CHV_CH_CTRL_CTRL => ⟨0, 27, .rw, .C, 0⟩
  | .CHV_CH_TAG_TAG => ⟨0, 32, .rw, .C, 0⟩
  | .CHV_CH_NEXT_ADDR => ⟨6, 42, .rw, .C, 0⟩
  | .CHV_CH_GO_START => ⟨0, 1, .wo, .C, 0⟩
  | .CHV_CH_GO_FETCH => ⟨1, 1, .wo, .C, 0⟩
  | .CHV_CH_GO_STOP => ⟨2, 1, .wo, .C, 0⟩
  | .CHV_CH_GO_RESUME => ⟨3, 1, .wo, .C, 0⟩
  | .CHV_CH_GO_ABORT => ⟨4, 1, .wo, .C, 0⟩
  | .CHV_CH_STATUS_STATE => ⟨0, 3, .ro, .C, 0⟩
  | .CHV_CH_STATUS_PROVISIONAL => ⟨3, 1, .ro, .C, 0⟩
  | .CHV_CH_STATUS_INDEX => ⟨16, 16, .ro, .C, 0⟩
  | .CHV_CH_ERR_ADDR_ADDR => ⟨0, 48, .ro, .C, 0⟩
  | .CHV_CH_ERR_ADDR_DEV => ⟨48, 10, .ro, .C, 0⟩
  | .CHV_CH_ERR_ADDR_HOST => ⟨58, 1, .ro, .C, 0⟩
  | .CHV_CH_ERR_ADDR_DIR => ⟨59, 1, .ro, .C, 0⟩
  | .CHV_CH_ERR_ADDR_KIND => ⟨60, 3, .ro, .C, 0⟩
  | .CHV_CH_ERR_ADDR_VALID => ⟨63, 1, .ro, .C, 0⟩
  | .CHV_CH_CQ_BASE_ADDR => ⟨6, 42, .rw, .F, 0⟩
  | .CHV_CH_CQ_CFG_SIZE_LOG2 => ⟨0, 5, .rw, .F, 0⟩
  | .CHV_CH_CQ_CFG_VECTOR => ⟨8, 11, .rw, .F, 0⟩
  | .CHV_CH_CQ_CFG_IRQ => ⟨19, 1, .rw, .F, 0⟩
  | .CHV_CH_CQ_HEAD_HEAD => ⟨0, 32, .rw, .F, 0⟩
  | .CHV_CH_CQ_TAIL_TAIL => ⟨0, 32, .ro, .F, 0⟩
  | .CHV_CH_BYTES_COUNT => ⟨0, 64, .ro, .W, 0⟩
  | .CHV_CH_IGNORED_COUNT => ⟨0, 32, .ro, .W, 0⟩
  | .TC_MODE_MODE => ⟨0, 2, .rw, .W, 0⟩
  | .TC_MODE_RECOVERY => ⟨4, 1, .ro, .W, 0⟩
  | .TC_IRQ_VECTOR => ⟨0, 11, .rw, .W, 0⟩
  | .TC_IRQ_ENABLE => ⟨31, 1, .rw, .W, 0⟩
  | .TC_MISS_FWD => ⟨0, 1, .w1c, .W, 0⟩
  | .TC_MISS_COMPL => ⟨1, 1, .w1c, .W, 0⟩
  | .TC_MISS_TOKEN => ⟨2, 1, .w1c, .W, 0⟩
  | .TC_MISS_TELEM => ⟨3, 1, .w1c, .W, 0⟩
  | .TC_RT_CFG_SHARE => ⟨0, 8, .rw, .W, 32⟩
  | .TC_RT_BUDGET_FWD => ⟨0, 16, .rw, .W, 400⟩
  | .TC_RT_BUDGET_COMPL => ⟨16, 16, .rw, .W, 2000⟩
  | .TC_RT_BUDGET_TOKEN => ⟨32, 16, .rw, .W, 2000⟩
  | .TC_RT_BUDGET_TELEM => ⟨48, 16, .rw, .W, 20000⟩
  | .TC_FB_THRESH_YELLOW => ⟨0, 7, .rw, .W, 24⟩
  | .TC_FB_THRESH_ORANGE => ⟨8, 7, .rw, .W, 40⟩
  | .TC_FB_THRESH_RED => ⟨16, 7, .rw, .W, 56⟩
  | .TC_AGE_CYCLES => ⟨0, 16, .rw, .W, 4096⟩
  | .TC_AGED_COUNT => ⟨0, 64, .ro, .W, 0⟩
  | .TC_CLASS_CFG_WEIGHT => ⟨0, 8, .rw, .W, 1⟩
  | .TC_CLASS_CFG_HBM_LIMIT => ⟨8, 8, .rw, .W, 64⟩
  | .TC_MISS_COUNT_COUNT => ⟨0, 64, .ro, .W, 0⟩
  | .TC_FB_LEVEL_LEVEL => ⟨0, 64, .ro, .W, 0⟩
  | .TC_PART_CFG_DEFAULT => ⟨0, 3, .rw, .W, 3⟩
  | .TC_PART_CFG_MAX => ⟨4, 3, .rw, .W, 6⟩
  | .PART_CTRL_CLASS => ⟨0, 1, .rw, .W, 0⟩
  | .PART_WIN_COMMIT_GO => ⟨0, 1, .w1s, .W, 0⟩
  | .PART_WIN_COMMIT_PENDING => ⟨1, 1, .ro, .W, 0⟩
  | .PART_WIN_BASE_ENABLE => ⟨0, 1, .rw, .W, 0⟩
  | .PART_WIN_BASE_R => ⟨1, 1, .rw, .W, 0⟩
  | .PART_WIN_BASE_W => ⟨2, 1, .rw, .W, 0⟩
  | .PART_WIN_BASE_A => ⟨3, 1, .rw, .W, 0⟩
  | .PART_WIN_BASE_REMOTE => ⟨4, 1, .rw, .W, 0⟩
  | .PART_WIN_BASE_ADDR => ⟨16, 32, .rw, .W, 0⟩
  | .PART_WIN_BASE_DEV => ⟨48, 10, .rw, .W, 0⟩
  | .PART_WIN_LIMIT_ADDR => ⟨16, 32, .rw, .W, 0⟩
  | .PART_METER_SNAP_GO => ⟨0, 1, .wo, .W, 0⟩
  | .PART_M_TIME_NS => ⟨0, 64, .ro, .W, 0⟩
  | .PART_M_CORE_CYCLES_COUNT => ⟨0, 64, .ro, .W, 0⟩
  | .PART_M_HBM_BYTES_COUNT => ⟨0, 64, .ro, .W, 0⟩
  | .PART_M_DEPOT_BYTES_COUNT => ⟨0, 64, .ro, .W, 0⟩
  | .PART_M_LINK_BYTES_COUNT => ⟨0, 64, .ro, .W, 0⟩
  | .PART_M_HOST_BYTES_COUNT => ⟨0, 64, .ro, .W, 0⟩
  | .PART_M_ENERGY_MJ_COUNT => ⟨0, 64, .ro, .W, 0⟩
  | .PART_M_JOBS_COUNT => ⟨0, 64, .ro, .W, 0⟩
  | .TRB_PART_STICKY_VIOL_READ => ⟨0, 1, .w1c, .W, 0⟩
  | .TRB_PART_STICKY_VIOL_WRITE => ⟨1, 1, .w1c, .W, 0⟩
  | .TRB_PART_STICKY_VIOL_ATOMIC => ⟨2, 1, .w1c, .W, 0⟩
  | .TRB_PART_STICKY_TAG_REFUSED => ⟨3, 1, .w1c, .W, 0⟩
  | .TRB_PART_STICKY_EVENT => ⟨4, 1, .w1c, .W, 0⟩
  | .TRB_PART_STICKY_FIRST_VALID => ⟨31, 1, .w1c, .W, 0⟩
  | .TRB_PART_FIRST_ADDR => ⟨6, 42, .ro, .W, 0⟩
  | .TRB_PART_FIRST_DEV => ⟨48, 10, .ro, .W, 0⟩
  | .TRB_PART_FIRST_RIGHT => ⟨58, 2, .ro, .W, 0⟩
  | .TRB_PART_AGENT_KIND => ⟨0, 4, .ro, .W, 0⟩
  | .TRB_PART_AGENT_DIE => ⟨4, 4, .ro, .W, 0⟩
  | .TRB_PART_AGENT_INDEX => ⟨8, 8, .ro, .W, 0⟩
  | .TRB_PART_VIOL_COUNT_COUNT => ⟨0, 32, .ro, .W, 0⟩
  | .TRB_PART_OPER_ACCESSES_COUNT => ⟨0, 32, .ro, .W, 0⟩
  | .FUA_MB_CMD_OP => ⟨0, 8, .wo, .F, 0⟩
  | .FUA_MB_CMD_PART => ⟨8, 6, .wo, .F, 0⟩
  | .FUA_MB_STATUS_BUSY => ⟨0, 1, .ro, .F, 0⟩
  | .FUA_MB_STATUS_STATUS => ⟨8, 8, .ro, .F, 0⟩
  | .FUA_MB_STATUS_SEQ => ⟨16, 16, .ro, .F, 0⟩
  | .FUA_MB_ARG_VALUE => ⟨0, 64, .rw, .F, 0⟩
  | .FUA_MB_RESULT_VALUE => ⟨0, 64, .ro, .F, 0⟩
  | .FUA_BOOT_STATUS_BANK => ⟨0, 1, .ro, .W, 0⟩
  | .FUA_BOOT_STATUS_PENDING => ⟨1, 1, .ro, .W, 0⟩
  | .FUA_BOOT_STATUS_FALLBACK => ⟨2, 1, .ro, .W, 0⟩
  | .FUA_BOOT_STATUS_SVN => ⟨8, 7, .ro, .W, 0⟩
  | .FUA_BOOT_STATUS_FUSES => ⟨16, 7, .ro, .W, 0⟩
  | .PWR_CAP_WATTS => ⟨0, 12, .rw, .W, 3000⟩
  | .PWR_PRIO_FIRST => ⟨0, 2, .rw, .W, 0⟩
  | .PWR_PRIO_SECOND => ⟨2, 2, .rw, .W, 1⟩
  | .PWR_PRIO_THIRD => ⟨4, 2, .rw, .W, 2⟩
  | .PWR_MEASURED_MEASURED => ⟨0, 12, .ro, .W, 0⟩
  | .PWR_MEASURED_ESTIMATE => ⟨16, 12, .ro, .W, 0⟩
  | .PWR_MEASURED_SOURCE => ⟨28, 1, .ro, .W, 0⟩
  | .PWR_EVENTS_MISMATCH => ⟨0, 1, .w1c, .W, 0⟩
  | .PWR_EVENTS_EMERGENCY => ⟨1, 1, .w1c, .W, 0⟩
  | .PWR_EVENTS_TRIP => ⟨2, 1, .w1c, .P, 0⟩
  | .PWR_EVENTS_CAP_EXCEEDED => ⟨3, 1, .w1c, .W, 0⟩
  | .PWR_EVENTS_MEM_THROTTLED => ⟨4, 1, .ro, .W, 0⟩
  | .PWR_BUDGET_LINKS => ⟨0, 12, .ro, .W, 0⟩
  | .PWR_BUDGET_MEMORY => ⟨16, 12, .ro, .W, 0⟩
  | .PWR_BUDGET_COMPUTE => ⟨32, 12, .ro, .W, 0⟩
  | .PWR_GRANT_CFG_STARVE_MS => ⟨0, 8, .rw, .W, 20⟩
  | .PWR_GRANTS_COUNT => ⟨0, 64, .ro, .W, 0⟩
  | .PWR_REFUSED_COUNT => ⟨0, 64, .ro, .W, 0⟩
  | .PWR_DROOP_COUNT_COUNT => ⟨0, 64, .ro, .W, 0⟩
  | .PWR_THERM_CFG_HOT => ⟨0, 7, .rw, .W, 100⟩
  | .PWR_THERM_CFG_EMERG => ⟨8, 7, .ro, .W, 105⟩
  | .PWR_THERM_CFG_TRIP => ⟨16, 7, .ro, .W, 115⟩
  | .PWR_THERM_MAX_TEMP => ⟨0, 8, .ro, .W, 0⟩
  | .PWR_THERM_MAX_DOMAIN => ⟨8, 7, .ro, .W, 0⟩
  | .PWR_ENERGY_MICROJOULES => ⟨0, 64, .ro, .W, 0⟩
  | .PWR_SLEEP_CFG_NAP_DELAY => ⟨0, 16, .rw, .W, 100⟩
  | .PWR_SLEEP_CFG_DEEP_DELAY => ⟨16, 16, .rw, .W, 100⟩
  | .PWR_LEVEL_MAX_LEVEL => ⟨0, 3, .rw, .W, 0⟩
  | .PWR_DOM_STATUS_STATE => ⟨0, 3, .ro, .W, 4⟩
  | .PWR_DOM_STATUS_LEVEL => ⟨4, 3, .ro, .W, 0⟩
  | .PWR_DOM_STATUS_ALLOWED => ⟨8, 3, .ro, .W, 0⟩
  | .PWR_DOM_STATUS_HOT => ⟨12, 1, .ro, .W, 0⟩
  | .PWR_DOM_STATUS_STRETCH => ⟨13, 1, .ro, .W, 0⟩
  | .PWR_DOM_STATUS_TEMP => ⟨16, 8, .ro, .W, 0⟩
  | .PWR_DOM_CTRL_HOLD_ON => ⟨0, 1, .rw, .W, 0⟩
  | .PWR_DOM_CTRL_OFF_REQ => ⟨1, 1, .rw, .W, 0⟩
  | .PWR_DOM_RES_ON_NS => ⟨0, 64, .ro, .W, 0⟩
  | .PWR_DOM_RES_IDLE_NS => ⟨0, 64, .ro, .W, 0⟩
  | .PWR_DOM_RES_NAP_NS => ⟨0, 64, .ro, .W, 0⟩
  | .PWR_DOM_RES_DEEP_NS => ⟨0, 64, .ro, .W, 0⟩
  | .PWR_DOM_RES_OFF_NS => ⟨0, 64, .ro, .W, 0⟩
  | .PWR_DOM_ENERGY_MICROJOULES => ⟨0, 64, .ro, .W, 0⟩
  | .RST_CMD_OP => ⟨0, 2, .wo, .W, 0⟩
  | .RST_CMD_TARGET => ⟨8, 8, .wo, .W, 0⟩
  | .RST_STATUS_BUSY => ⟨0, 1, .ro, .W, 0⟩
  | .RST_STATUS_DEV_OUT => ⟨1, 1, .ro, .P, 0⟩
  | .RST_HANG_CFG_CORE_MS => ⟨0, 10, .rw, .W, 10⟩
  | .RST_HANG_CFG_KVG_MS => ⟨10, 10, .rw, .W, 10⟩
  | .RST_HANG_CFG_CND_MS => ⟨20, 10, .rw, .W, 50⟩
  | .RST_DEV_COUNT_IN_WINDOW => ⟨0, 4, .ro, .P, 0⟩
  | .RST_DEV_COUNT_TOTAL => ⟨16, 16, .ro, .P, 0⟩
  | .RST_LOG_HEAD_HEAD => ⟨0, 8, .ro, .W, 0⟩
  | .RST_LOG_CAUSE => ⟨0, 5, .ro, .W, 0⟩
  | .RST_LOG_SCOPE => ⟨5, 2, .ro, .W, 0⟩
  | .RST_LOG_CYCLED => ⟨7, 1, .ro, .W, 0⟩
  | .RST_LOG_TARGET => ⟨8, 8, .ro, .W, 0⟩
  | .RST_LOG_RESULT => ⟨16, 2, .ro, .W, 0⟩
  | .RST_LOG_NO_CAPTURE => ⟨18, 1, .ro, .W, 0⟩
  | .RST_LOG_TIME_US => ⟨32, 32, .ro, .W, 0⟩
  | .RST_KICK_KICK => ⟨0, 1, .wo, .W, 0⟩
  | .RST_PART_STATUS_OUT => ⟨0, 1, .w1c, .W, 0⟩
  | .RST_PART_STATUS_RESETTING => ⟨1, 1, .ro, .W, 0⟩
  | .RST_PART_STATUS_SERVICE_LOST => ⟨2, 1, .w1c, .W, 0⟩
  | .RST_PART_STATUS_IN_WINDOW => ⟨3, 2, .ro, .W, 0⟩
  | .RST_PART_STATUS_TOTAL => ⟨16, 16, .ro, .W, 0⟩
  | .RST_PART_DUMP_ENABLE => ⟨0, 1, .rw, .W, 0⟩
  | .RST_PART_DUMP_ADDR => ⟨16, 32, .rw, .W, 0⟩
  | .RST_PART_DUMP_SLOTS => ⟨48, 8, .rw, .W, 0⟩
  | .RST_PART_CAPTURE_SPAD_OFF => ⟨0, 4, .rw, .W, 0⟩
  | .RST_PART_CAPTURE_STN_OFF => ⟨8, 5, .rw, .W, 0⟩
  | .RST_PART_REQ_OP => ⟨0, 2, .wo, .W, 0⟩
  | .RST_PART_REQ_STATION => ⟨8, 8, .wo, .W, 0⟩
  | .RST_PART_DUMP_SEQ_SEQ => ⟨0, 32, .ro, .W, 0⟩
  | .MOD_STATUS_STATE => ⟨0, 4, .ro, .W, 0⟩
  | .MOD_STATUS_INPUT_LOW => ⟨4, 1, .w1c, .W, 0⟩
  | .MOD_STATUS_INPUT_HIGH => ⟨5, 1, .w1c, .W, 0⟩
  | .MOD_STATUS_COOLANT_HOT => ⟨6, 1, .w1c, .W, 0⟩
  | .MOD_STATUS_MCLK_INTERNAL => ⟨7, 1, .ro, .W, 0⟩
  | .MOD_STATUS_FALLBACK_SENSE => ⟨8, 1, .ro, .W, 0⟩
  | .MOD_INPUT_VIN_MV => ⟨0, 17, .ro, .W, 0⟩
  | .MOD_INPUT_IIN_MA => ⟨20, 16, .ro, .W, 0⟩
  | .MOD_INPUT_PIN_W => ⟨40, 12, .ro, .W, 0⟩
  | .MOD_COOLANT_INLET => ⟨0, 8, .ro, .W, 0⟩
  | .MOD_COOLANT_OUTLET => ⟨8, 8, .ro, .W, 0⟩
  | .MOD_SENSE0_RAILS => ⟨0, 64, .ro, .W, 0⟩
  | .MOD_SENSE1_RAILS => ⟨0, 48, .ro, .W, 0⟩
  | .MOD_LAST_FAULT_CODE => ⟨0, 4, .ro, .W, 0⟩
  | .MOD_LAST_FAULT_DETAIL => ⟨8, 7, .ro, .W, 0⟩

/-- The reset value of an instance of a field (TC_CLASS_CFG.WEIGHT differs per class, R480). -/
def F.resetAt (f : F) (i : Nat) : Nat :=
  match f with
  | .TC_CLASS_CFG_WEIGHT => [1, 2, 8, 8, 16, 32, 32, 32].getD i 0
  | f => f.spec.reset

/-- A register, or a repeated register, of an address space: its offset, the repetitions (count, stride),
outermost first, its bytes, and its fields.  The instance of an access is mul × (row-major index) + add. -/
structure RegRow where
  off : Nat
  dims : List (Nat × Nat)
  bytes : Nat
  mul : Nat
  add : Nat
  fields : List F
deriving DecidableEq, Repr

/-- The registers of R108. -/
def rowsR108 : List RegRow := [
  ⟨0x2000000, [(16, 0x100000), (96, 0x100)], 4, 1, 0, [.SAGE_STATUS_STATE]⟩,
  ⟨0x2000008, [(16, 0x100000), (96, 0x100)], 4, 1, 0, [.SAGE_PC_PC]⟩,
  ⟨0x2000010, [(16, 0x100000), (96, 0x100)], 8, 1, 0, [.SAGE_FAULT_CODE, .SAGE_FAULT_FAULT_PC, .SAGE_FAULT_DETAIL]⟩,
  ⟨0x2000018, [(16, 0x100000), (96, 0x100)], 4, 1, 0, [.SAGE_ECC_COUNT_CORRECTED]⟩,
  ⟨0x2000020, [(16, 0x100000), (96, 0x100)], 8, 1, 0, [.SAGE_CYCLES_RUN]⟩,
  ⟨0x2000028, [(16, 0x100000), (96, 0x100)], 8, 1, 0, [.SAGE_RETIRED_COUNT]⟩]

/-- The registers of R135. -/
def rowsR135 : List RegRow := [
  ⟨0x2008000, [(16, 0x100000), (16, 0x100)], 4, 1, 0, [.STN_STATUS_PART, .STN_STATUS_BOUND, .STN_STATUS_CLEARING, .STN_STATUS_FREE, .STN_STATUS_FENCED]⟩,
  ⟨0x2008008, [(16, 0x100000), (16, 0x100)], 4, 1, 0, [.STN_CORE_FENCE_FENCE, .STN_CORE_FENCE_FW]⟩,
  ⟨0x2008010, [(16, 0x100000), (16, 0x100)], 4, 1, 0, [.STN_TROUBLE_TAG_MISMATCH, .STN_TROUBLE_REGION_OFF]⟩,
  ⟨0x2008018, [(16, 0x100000), (16, 0x100)], 4, 1, 0, [.STN_CLEARS_COUNT]⟩,
  ⟨0x2008020, [(16, 0x100000), (16, 0x100)], 4, 1, 0, [.STN_MEM_ECC_CORRECTED]⟩]

/-- The registers of R136. -/
def rowsR136 : List RegRow := [
  ⟨0x200A000, [(16, 0x100000), (30, 0x40)], 4, 1, 0, [.JCT_STATUS_UNCORR]⟩,
  ⟨0x200A008, [(16, 0x100000), (30, 0x40)], 4, 1, 0, [.JCT_ECC_COUNT_CORRECTED]⟩,
  ⟨0x200A010, [(16, 0x100000), (30, 0x40)], 8, 1, 0, [.JCT_FLITS_COUNT]⟩,
  ⟨0x200A018, [(16, 0x100000), (30, 0x40)], 8, 1, 0, [.JCT_STALLS_CYCLES]⟩]

/-- The registers of R137. -/
def rowsR137 : List RegRow := [
  ⟨0x200C000, [(16, 0x100000)], 4, 1, 0, [.SEAM_STATUS_WEST_DIV, .SEAM_STATUS_EAST_DIV, .SEAM_STATUS_BACKPRESSURE]⟩,
  ⟨0x200C008, [(16, 0x100000)], 8, 1, 0, [.SEAM_BP_CYCLES_CYCLES]⟩,
  ⟨0x200C100, [(16, 0x100000)], 4, 1, 0, [.SIG_LATE_CLASS]⟩,
  ⟨0x200C108, [(16, 0x100000)], 4, 1, 0, [.SIG_DROPPED_COUNT]⟩,
  ⟨0x200C110, [(16, 0x100000)], 8, 1, 0, [.SIG_MAX_LAT_A_RESET, .SIG_MAX_LAT_A_POWER, .SIG_MAX_LAT_A_BARRIER, .SIG_MAX_LAT_A_LAUNCH]⟩,
  ⟨0x200C118, [(16, 0x100000)], 4, 1, 0, [.SIG_MAX_LAT_B_COMPOSE, .SIG_MAX_LAT_B_NOTIFY]⟩]

/-- The registers of R176. -/
def rowsR176 : List RegRow := [
  ⟨0x200D000, [(16, 0x100000), (16, 0x100)], 4, 1, 0, [.KVG_CTRL_ENABLE]⟩,
  ⟨0x200D008, [(16, 0x100000), (16, 0x100)], 4, 1, 0, [.KVG_RING0_BASE_OFFSET]⟩,
  ⟨0x200D00C, [(16, 0x100000), (16, 0x100)], 4, 1, 0, [.KVG_RING1_BASE_OFFSET]⟩,
  ⟨0x200D010, [(16, 0x100000), (16, 0x100)], 4, 1, 0, [.KVG_DOORBELL0_TAIL]⟩,
  ⟨0x200D014, [(16, 0x100000), (16, 0x100)], 4, 1, 0, [.KVG_DOORBELL1_TAIL]⟩,
  ⟨0x200D018, [(16, 0x100000), (16, 0x100)], 4, 1, 0, [.KVG_HEAD_HEAD0, .KVG_HEAD_HEAD1, .KVG_HEAD_BUSY]⟩,
  ⟨0x200D020, [(16, 0x100000), (16, 0x100)], 8, 1, 0, [.KVG_RSEED_SEED]⟩,
  ⟨0x200D028, [(16, 0x100000), (16, 0x100)], 4, 1, 0, [.KVG_SAT_COUNT]⟩,
  ⟨0x200D02C, [(16, 0x100000), (16, 0x100)], 4, 1, 0, [.KVG_SEALS_COUNT]⟩,
  ⟨0x200D030, [(16, 0x100000), (16, 0x100)], 4, 1, 0, [.KVG_LAST_STATUS_STATUS, .KVG_LAST_STATUS_RING, .KVG_LAST_STATUS_SLOT]⟩,
  ⟨0x200D038, [(16, 0x100000), (16, 0x100)], 8, 1, 0, [.KVG_BYTES_COUNT]⟩]

/-- The registers of R177. -/
def rowsR177 : List RegRow := [
  ⟨0x200E000, [(16, 0x100000), (4, 0x8)], 8, 1, 0, [.PTS_RING_BASE_ADDR]⟩,
  ⟨0x200E020, [(16, 0x100000), (4, 0x4)], 4, 1, 0, [.PTS_DOORBELL_TAIL]⟩,
  ⟨0x200E030, [(16, 0x100000)], 4, 1, 0, [.PTS_HEAD_HEAD0, .PTS_HEAD_HEAD1, .PTS_HEAD_HEAD2, .PTS_HEAD_HEAD3]⟩,
  ⟨0x200E038, [(16, 0x100000)], 4, 1, 0, [.PTS_TIMEOUT_MICROSECONDS]⟩,
  ⟨0x200E040, [(16, 0x100000)], 8, 1, 0, [.PTS_DROPPED_COUNT]⟩,
  ⟨0x200E048, [(16, 0x100000)], 8, 1, 0, [.PTS_REROUTED_COUNT]⟩,
  ⟨0x200E050, [(16, 0x100000)], 8, 1, 0, [.PTS_TOKENS_COUNT]⟩,
  ⟨0x200E058, [(16, 0x100000)], 4, 1, 0, [.PTS_STATUS_BUSY, .PTS_STATUS_LAST_ERROR]⟩]

/-- The registers of R207. -/
def rowsR207 : List RegRow := [
  ⟨0x200F000, [(16, 0x100000), (4, 0x100)], 4, 1, 0, [.BL_CTRL_ENABLE]⟩,
  ⟨0x200F008, [(16, 0x100000), (4, 0x100), (4, 0x8)], 8, 1, 0, [.BL_RING_BASE_ADDR]⟩,
  ⟨0x200F028, [(16, 0x100000), (4, 0x100), (4, 0x4)], 4, 1, 0, [.BL_DOORBELL_TAIL]⟩,
  ⟨0x200F038, [(16, 0x100000), (4, 0x100)], 4, 1, 0, [.BL_HEAD_HEAD0, .BL_HEAD_HEAD1, .BL_HEAD_HEAD2, .BL_HEAD_HEAD3]⟩,
  ⟨0x200F040, [(16, 0x100000), (4, 0x100)], 8, 4, 0, [.BL_POOL_BASE_ADDR]⟩,
  ⟨0x200F048, [(16, 0x100000), (4, 0x100)], 8, 4, 0, [.BL_POOL_SIZE_PAGES]⟩,
  ⟨0x200F050, [(16, 0x100000), (4, 0x100)], 4, 1, 0, [.BL_OPEN_COUNT]⟩,
  ⟨0x200F058, [(16, 0x100000), (4, 0x100)], 4, 1, 0, [.BL_STATUS_BUSY, .BL_STATUS_LAST_ERROR, .BL_STATUS_RING]⟩,
  ⟨0x200F060, [(16, 0x100000), (4, 0x100)], 8, 1, 0, [.BL_TREES_COUNT]⟩,
  ⟨0x200F068, [(16, 0x100000), (4, 0x100)], 8, 1, 0, [.BL_DRAFTED_COUNT]⟩,
  ⟨0x200F070, [(16, 0x100000), (4, 0x100)], 8, 1, 0, [.BL_ACCEPTED_COUNT]⟩,
  ⟨0x200F078, [(16, 0x100000), (4, 0x100)], 8, 1, 0, [.BL_PROV_READS_COUNT]⟩,
  ⟨0x200F080, [(16, 0x100000), (4, 0x100)], 8, 4, 1, [.BL_POOL_BASE_ADDR]⟩,
  ⟨0x200F090, [(16, 0x100000), (4, 0x100)], 8, 4, 2, [.BL_POOL_BASE_ADDR]⟩,
  ⟨0x200F0A0, [(16, 0x100000), (4, 0x100)], 8, 4, 3, [.BL_POOL_BASE_ADDR]⟩,
  ⟨0x200F088, [(16, 0x100000), (4, 0x100)], 8, 4, 1, [.BL_POOL_SIZE_PAGES]⟩,
  ⟨0x200F098, [(16, 0x100000), (4, 0x100)], 8, 4, 2, [.BL_POOL_SIZE_PAGES]⟩,
  ⟨0x200F0A8, [(16, 0x100000), (4, 0x100)], 8, 4, 3, [.BL_POOL_SIZE_PAGES]⟩]

/-- The registers of R277. -/
def rowsR277 : List RegRow := [
  ⟨0x3800000, [(16, 0x40000)], 4, 1, 0, [.HBM_STATUS_TRAINED, .HBM_STATUS_PATROL_BUSY, .HBM_STATUS_SCRUBBING]⟩,
  ⟨0x3800008, [(16, 0x40000)], 4, 1, 0, [.HBM_CE_COUNT_CORRECTED]⟩,
  ⟨0x380000C, [(16, 0x40000)], 4, 1, 0, [.HBM_UE_COUNT_COUNT]⟩,
  ⟨0x3800010, [(16, 0x40000)], 8, 1, 0, [.HBM_ERR_LOG_ADDR, .HBM_ERR_LOG_KIND, .HBM_ERR_LOG_VALID]⟩,
  ⟨0x3800018, [(16, 0x40000)], 4, 1, 0, [.HBM_PATROL_ENABLE, .HBM_PATROL_PERIOD]⟩,
  ⟨0x3800020, [(16, 0x40000)], 4, 1, 0, [.HBM_SCRUBS_COUNT]⟩,
  ⟨0x3800024, [(16, 0x40000)], 4, 1, 0, [.HBM_TAG_DROPS_COUNT]⟩,
  ⟨0x3800028, [(16, 0x40000)], 8, 1, 0, [.HBM_READ_BYTES_COUNT]⟩,
  ⟨0x3800030, [(16, 0x40000)], 8, 1, 0, [.HBM_WRITE_BYTES_COUNT]⟩]

/-- The registers of R278. -/
def rowsR278 : List RegRow := [
  ⟨0x3C00000, [(8, 0x80000), (32, 0x4)], 4, 1, 0, [.DEP_SLICE_CFG_PIN_WAYS, .DEP_SLICE_CFG_DEMAND]⟩,
  ⟨0x3C00100, [(8, 0x80000)], 4, 1, 0, [.DEP_ECC_COUNT_CORRECTED]⟩,
  ⟨0x3C00104, [(8, 0x80000)], 4, 1, 0, [.DEP_UE_COUNT_COUNT]⟩,
  ⟨0x3C00200, [(8, 0x80000)], 4, 1, 0, [.DILL_CTRL_DETECT, .DILL_CTRL_AHEAD]⟩,
  ⟨0x3C00208, [(8, 0x80000)], 8, 1, 0, [.DILL_DECLARE_ADDR]⟩,
  ⟨0x3C00210, [(8, 0x80000)], 4, 1, 0, [.DILL_STATUS_ACTIVE]⟩,
  ⟨0x3C00214, [(8, 0x80000)], 4, 1, 0, [.DILL_REFUSED_COUNT]⟩,
  ⟨0x3C01000, [(8, 0x80000), (32, 0x20)], 8, 1, 0, [.DEP_HITS_COUNT]⟩,
  ⟨0x3C01008, [(8, 0x80000), (32, 0x20)], 8, 1, 0, [.DEP_MISSES_COUNT]⟩,
  ⟨0x3C01010, [(8, 0x80000), (32, 0x20)], 8, 1, 0, [.DEP_FILLS_COUNT]⟩]

/-- The registers of R279. -/
def rowsR279 : List RegRow := [
  ⟨0x2008040, [(16, 0x100000), (16, 0x100)], 8, 1, 0, [.SC_HITS_COUNT]⟩,
  ⟨0x2008048, [(16, 0x100000), (16, 0x100)], 8, 1, 0, [.SC_MISSES_COUNT]⟩,
  ⟨0x2008050, [(16, 0x100000), (16, 0x100)], 8, 1, 0, [.SC_WRITEBACKS_COUNT]⟩,
  ⟨0x2008058, [(16, 0x100000), (16, 0x100)], 8, 1, 0, [.SC_PREFETCHED_COUNT]⟩]

/-- The registers of R328. -/
def rowsR328 : List RegRow := [
  ⟨0x2010000, [(16, 0x100000), (4, 0x100)], 4, 1, 0, [.CND_STATUS_STATE, .CND_STATUS_PART, .CND_STATUS_OPER]⟩,
  ⟨0x2010008, [(16, 0x100000), (4, 0x100)], 4, 1, 0, [.CND_CTRL_RUN, .CND_CTRL_SWITCH]⟩,
  ⟨0x2010010, [(16, 0x100000), (4, 0x100)], 4, 1, 0, [.CND_NEXT_PART_PART, .CND_NEXT_PART_OPER]⟩,
  ⟨0x2010018, [(16, 0x100000), (4, 0x100)], 8, 1, 0, [.CND_ENTRY_ADDR]⟩,
  ⟨0x2010020, [(16, 0x100000), (4, 0x100)], 4, 1, 0, [.CND_ECC_COUNT_CORRECTED]⟩,
  ⟨0x2010028, [(16, 0x100000), (4, 0x100)], 8, 1, 0, [.CND_CYCLES_COUNT]⟩,
  ⟨0x2010030, [(16, 0x100000), (4, 0x100)], 8, 1, 0, [.CND_INSTRET_COUNT]⟩]

/-- The registers of R329. -/
def rowsR329 : List RegRow := [
  ⟨0x2011000, [(16, 0x100000)], 8, 1, 0, [.CTL_SHARED_BASE_ADDR]⟩,
  ⟨0x2011008, [(16, 0x100000)], 8, 1, 0, [.CTL_SHARED_LIMIT_ADDR]⟩,
  ⟨0x2011010, [(16, 0x100000)], 4, 1, 0, [.CTL_LOCK_LOCK]⟩,
  ⟨0x2011018, [(16, 0x100000)], 4, 1, 0, [.CTL_DIR_STATUS_ENTRIES]⟩,
  ⟨0x2011020, [(16, 0x100000)], 4, 1, 0, [.CTL_TAG_DROPS_COUNT]⟩,
  ⟨0x2011024, [(16, 0x100000)], 4, 1, 0, [.CTL_DIR_EVICTS_COUNT]⟩,
  ⟨0x2011028, [(16, 0x100000)], 4, 1, 0, [.CTL_RETRIES_COUNT]⟩,
  ⟨0x201102C, [(16, 0x100000)], 4, 1, 0, [.CTL_XWB_COUNT]⟩,
  ⟨0x2011030, [(16, 0x100000)], 4, 1, 0, [.CTL_ECC_COUNT_CORRECTED]⟩,
  ⟨0x2011034, [(16, 0x100000)], 4, 1, 0, [.CTL_DIR_UE_COUNT]⟩,
  ⟨0x2011040, [(16, 0x100000)], 4, 1, 0, [.PSE_STATUS_QUEUED]⟩,
  ⟨0x2011048, [(16, 0x100000)], 8, 1, 0, [.PSE_SORTS_COUNT]⟩]

/-- The registers of R360. -/
def rowsR360 : List RegRow := [
  ⟨0x100000, [], 4, 1, 0, [.COMP_ROLE_ROLE]⟩,
  ⟨0x100040, [(8, 0x8)], 8, 1, 0, [.COMP_CMD_DATA]⟩,
  ⟨0x100080, [], 4, 1, 0, [.COMP_CMD_GO_GO]⟩,
  ⟨0x100088, [], 4, 1, 0, [.COMP_CMD_STATUS_BUSY, .COMP_CMD_STATUS_STATUS, .COMP_CMD_STATUS_SEQ]⟩,
  ⟨0x100090, [], 4, 1, 0, [.COMP_IRQ_VECTOR, .COMP_IRQ_ENABLE]⟩,
  ⟨0x100098, [], 4, 1, 0, [.COMP_DRAIN_LIMIT_MILLISECONDS]⟩,
  ⟨0x1000A0, [], 4, 1, 0, [.COMP_TROUBLE_DRAIN_FORCED, .COMP_TROUBLE_MAP_MISMATCH, .COMP_TROUBLE_PEER_TIMEOUT, .COMP_TROUBLE_NOTICE_LOST]⟩,
  ⟨0x1000A8, [], 8, 1, 0, [.COMP_NOTICE_KIND, .COMP_NOTICE_SLICE, .COMP_NOTICE_DEV, .COMP_NOTICE_CONSIST, .COMP_NOTICE_VALID]⟩,
  ⟨0x100100, [(64, 0x4)], 4, 1, 0, [.COMP_PART_CFG_MODE, .COMP_PART_CFG_CONSISTS, .COMP_PART_CFG_SLICES]⟩,
  ⟨0x100400, [(256, 0x4)], 4, 1, 0, [.COMP_SLICE_STATUS_STATE, .COMP_SLICE_STATUS_PART, .COMP_SLICE_STATUS_SLOT, .COMP_SLICE_STATUS_CORES]⟩,
  ⟨0x101000, [(256, 0x40)], 4, 1, 0, [.COMP_CONSIST_ID_ID, .COMP_CONSIST_ID_PART, .COMP_CONSIST_ID_SUB, .COMP_CONSIST_ID_STATE, .COMP_CONSIST_ID_MEMBERS]⟩,
  ⟨0x101008, [(256, 0x40)], 4, 1, 0, [.COMP_MAP_EPOCH_CUR, .COMP_MAP_EPOCH_OLD]⟩,
  ⟨0x101010, [(256, 0x40)], 4, 1, 0, [.COMP_MAP_CUR_OFF, .COMP_MAP_CUR_LEN]⟩,
  ⟨0x101018, [(256, 0x40)], 4, 1, 0, [.COMP_MAP_NEXT_OFF, .COMP_MAP_NEXT_LEN]⟩,
  ⟨0x101020, [(256, 0x40)], 8, 1, 0, [.COMP_INFLIGHT_CUR, .COMP_INFLIGHT_OLD]⟩,
  ⟨0x101028, [(256, 0x40)], 4, 1, 0, [.COMP_WINDOWS_MASK]⟩,
  ⟨0x101030, [(256, 0x40)], 8, 1, 0, [.COMP_SWITCH_STEP_STEP]⟩,
  ⟨0x101038, [(256, 0x40)], 4, 1, 0, [.COMP_MAP_CRC_CRC]⟩,
  ⟨0x120000, [(256, 0x8)], 8, 1, 0, [.COMP_LEND_DEV, .COMP_LEND_PART, .COMP_LEND_CONSIST, .COMP_LEND_VALID]⟩,
  ⟨0x180000, [(32768, 0x4)], 4, 1, 0, [.COMP_MAP_STORE_ENTRY]⟩]

/-- The registers of R384. -/
def rowsR384 : List RegRow := [
  ⟨0x3008000, [], 4, 1, 0, [.BLY_DEVICE_DEVNUM]⟩,
  ⟨0x3008008, [], 8, 1, 0, [.BLY_TOPO_SX, .BLY_TOPO_SY, .BLY_TOPO_SZ]⟩,
  ⟨0x3008010, [], 4, 1, 0, [.BLY_LOCK_LOCK, .BLY_LOCK_BAD_CONFIG]⟩,
  ⟨0x3008018, [], 4, 1, 0, [.BLY_REMOTE_TIMEOUT_MICROSECONDS]⟩,
  ⟨0x300801C, [], 4, 1, 0, [.BLY_FWD_SHARE_SHARE]⟩,
  ⟨0x3008020, [], 4, 1, 0, [.BLY_TAG_DROPS_COUNT]⟩,
  ⟨0x3008024, [], 4, 1, 0, [.BLY_TIMEOUTS_COUNT]⟩,
  ⟨0x3008028, [], 4, 1, 0, [.BLY_LATE_COUNT]⟩,
  ⟨0x300802C, [], 4, 1, 0, [.BLY_UNROUTABLE_COUNT]⟩,
  ⟨0x3008030, [], 4, 1, 0, [.BLY_RING_DOWN_X_BREAK0, .BLY_RING_DOWN_X_VALID0, .BLY_RING_DOWN_X_BREAK1, .BLY_RING_DOWN_X_VALID1, .BLY_RING_DOWN_X_MORE]⟩,
  ⟨0x3008034, [], 4, 1, 0, [.BLY_RING_DOWN_Y_BREAK0, .BLY_RING_DOWN_Y_VALID0, .BLY_RING_DOWN_Y_BREAK1, .BLY_RING_DOWN_Y_VALID1, .BLY_RING_DOWN_Y_MORE]⟩,
  ⟨0x3008038, [], 4, 1, 0, [.BLY_RING_DOWN_Z_BREAK0, .BLY_RING_DOWN_Z_VALID0, .BLY_RING_DOWN_Z_BREAK1, .BLY_RING_DOWN_Z_VALID1, .BLY_RING_DOWN_Z_MORE]⟩]

/-- The registers of R385. -/
def rowsR385 : List RegRow := [
  ⟨0x3000000, [(6, 0x1000)], 4, 1, 0, [.BLY_PORT_STATUS_STATE, .BLY_PORT_STATUS_HALF_WIDTH, .BLY_PORT_STATUS_UPPER, .BLY_PORT_STATUS_PEER_DEV, .BLY_PORT_STATUS_PEER_PORT]⟩,
  ⟨0x3000008, [(6, 0x1000)], 4, 1, 0, [.BLY_PORT_CTRL_ENABLE, .BLY_PORT_CTRL_AUTO_RETRAIN, .BLY_PORT_CTRL_RETRAIN, .BLY_PORT_CTRL_ALLOW_HALF]⟩,
  ⟨0x3000010, [(6, 0x1000)], 4, 1, 0, [.BLY_PORT_EVENTS_DOWN_REPLAY, .BLY_PORT_EVENTS_DOWN_LOS, .BLY_PORT_EVENTS_MISCABLED, .BLY_PORT_EVENTS_DEGRADED]⟩,
  ⟨0x3000018, [(6, 0x1000)], 4, 1, 0, [.BLY_REPLAYS_COUNT]⟩,
  ⟨0x300001C, [(6, 0x1000)], 4, 1, 0, [.BLY_DISCARDS_COUNT]⟩,
  ⟨0x3000020, [(6, 0x1000)], 4, 1, 0, [.BLY_FEC_UNCORR_COUNT]⟩,
  ⟨0x3000028, [(6, 0x1000)], 8, 1, 0, [.BLY_TX_BYTES_COUNT]⟩,
  ⟨0x3000030, [(6, 0x1000)], 8, 1, 0, [.BLY_RX_BYTES_COUNT]⟩,
  ⟨0x3000038, [(6, 0x1000)], 8, 1, 0, [.BLY_FWD_BYTES_COUNT]⟩,
  ⟨0x3000100, [(6, 0x1000), (32, 0x4)], 4, 1, 0, [.BLY_LANE_ERR_CORRECTED]⟩]

/-- The registers of R416. -/
def rowsR416 : List RegRow := [
  ⟨0x0, [], 4, 1, 0, [.DEV_ID_VENDOR, .DEV_ID_DEVICE]⟩,
  ⟨0x4, [], 4, 1, 0, [.DEV_REV_STEPPING, .DEV_REV_ORDER_CODE]⟩,
  ⟨0x8, [], 8, 1, 0, [.DEV_FW_VERSION]⟩]

/-- The registers of R417. -/
def rowsR417 : List RegRow := [
  ⟨0x800000, [], 4, 1, 0, [.QE_RING_SEL_RING]⟩,
  ⟨0x800008, [], 8, 1, 0, [.QE_RING_BASE_ADDR]⟩,
  ⟨0x800010, [], 4, 1, 0, [.QE_RING_CFG_KIND, .QE_RING_CFG_FORMAT, .QE_RING_CFG_SIZE_LOG2, .QE_RING_CFG_COMPLETION, .QE_RING_CFG_SUB]⟩,
  ⟨0x800018, [], 8, 1, 0, [.QE_RING_CFG2_VECTOR, .QE_RING_CFG2_IRQ, .QE_RING_CFG2_MOD_COUNT, .QE_RING_CFG2_MOD_TIME, .QE_RING_CFG2_CONTEXT]⟩,
  ⟨0x800020, [], 4, 1, 0, [.QE_RING_CMD_OP]⟩,
  ⟨0x800028, [], 4, 1, 0, [.QE_RING_STATUS_BUSY, .QE_RING_STATUS_RESULT, .QE_RING_STATUS_STATE]⟩,
  ⟨0x800030, [], 4, 1, 0, [.QE_TRACKERS_IN_USE]⟩,
  ⟨0x800038, [], 4, 1, 0, [.QE_ERR_RANGE]⟩,
  ⟨0x800040, [], 4, 1, 0, [.QE_RECORDS_LOST_COUNT]⟩,
  ⟨0x800048, [], 4, 1, 0, [.QE_PF_ATC_QUOTA_ENTRIES]⟩,
  ⟨0x800050, [], 4, 1, 0, [.QE_FUNC_EVENTS_RING_ERROR]⟩,
  ⟨0x801000, [(64, 0x10)], 8, 1, 0, [.QE_PART_RINGS_BASE, .QE_PART_RINGS_COUNT]⟩,
  ⟨0x801008, [(64, 0x10)], 4, 1, 0, [.QE_PART_CFG_VF, .QE_PART_CFG_TRACKERS, .QE_PART_CFG_ATC_QUOTA]⟩,
  ⟨0x802000, [(65, 0x8)], 8, 1, 0, [.QE_FUNC_STATUS_QUIESCING, .QE_FUNC_STATUS_RESETS, .QE_FUNC_STATUS_DB_DROPS]⟩]

/-- The registers of R442. -/
def rowsR442 : List RegRow := [
  ⟨0x800060, [], 8, 1, 0, [.QE_FAULT_BASE_ADDR]⟩,
  ⟨0x800068, [], 4, 1, 0, [.QE_FAULT_CFG_SIZE_LOG2, .QE_FAULT_CFG_VECTOR, .QE_FAULT_CFG_IRQ, .QE_FAULT_CFG_ENABLE]⟩,
  ⟨0x800070, [], 4, 1, 0, [.QE_FAULT_HEAD_HEAD]⟩,
  ⟨0x800074, [], 4, 1, 0, [.QE_FAULT_TAIL_TAIL]⟩,
  ⟨0x800078, [], 4, 1, 0, [.QE_FAULT_LOST_COUNT]⟩,
  ⟨0x800080, [], 8, 1, 0, [.QE_CTX_LOADS_COUNT]⟩,
  ⟨0x803000, [(64, 0x20)], 8, 1, 0, [.QE_PART_CTX_BASE_ADDR]⟩,
  ⟨0x803008, [(64, 0x20)], 8, 1, 0, [.QE_PART_OBJ_BASE_ADDR]⟩,
  ⟨0x803010, [(64, 0x20)], 8, 1, 0, [.QE_PART_FENCE_BASE_ADDR]⟩,
  ⟨0x803018, [(64, 0x20)], 8, 1, 0, [.QE_PART_LIMITS_CONTEXTS, .QE_PART_LIMITS_RESERVED, .QE_PART_LIMITS_OBJECTS, .QE_PART_LIMITS_FENCES]⟩,
  ⟨0x804000, [(96, 0x8)], 8, 1, 0, [.QE_CTX_SLOT_VALID, .QE_CTX_SLOT_STATE, .QE_CTX_SLOT_PART, .QE_CTX_SLOT_CONTEXT, .QE_CTX_SLOT_LAST_RUN]⟩]

/-- The registers of R465. -/
def rowsR465 : List RegRow := [
  ⟨0x1000000, [(1024, 0x100)], 4, 1, 0, [.CHV_CH_OWNER_PART, .CHV_CH_OWNER_OPER, .CHV_CH_OWNER_VALID, .CHV_CH_OWNER_SUB]⟩,
  ⟨0x1000008, [(1024, 0x100)], 8, 1, 0, [.CHV_CH_SRC_ADDR]⟩,
  ⟨0x1000010, [(1024, 0x100)], 8, 1, 0, [.CHV_CH_DST_ADDR]⟩,
  ⟨0x1000018, [(1024, 0x100)], 4, 1, 0, [.CHV_CH_COUNT_BYTES]⟩,
  ⟨0x100001C, [(1024, 0x100)], 4, 1, 0, [.CHV_CH_CTRL_CTRL]⟩,
  ⟨0x1000020, [(1024, 0x100)], 4, 1, 0, [.CHV_CH_TAG_TAG]⟩,
  ⟨0x1000028, [(1024, 0x100)], 8, 1, 0, [.CHV_CH_NEXT_ADDR]⟩,
  ⟨0x1000030, [(1024, 0x100)], 4, 1, 0, [.CHV_CH_GO_START, .CHV_CH_GO_FETCH, .CHV_CH_GO_STOP, .CHV_CH_GO_RESUME, .CHV_CH_GO_ABORT]⟩,
  ⟨0x1000034, [(1024, 0x100)], 4, 1, 0, [.CHV_CH_STATUS_STATE, .CHV_CH_STATUS_PROVISIONAL, .CHV_CH_STATUS_INDEX]⟩,
  ⟨0x1000038, [(1024, 0x100)], 8, 1, 0, [.CHV_CH_ERR_ADDR_ADDR, .CHV_CH_ERR_ADDR_DEV, .CHV_CH_ERR_ADDR_HOST, .CHV_CH_ERR_ADDR_DIR, .CHV_CH_ERR_ADDR_KIND, .CHV_CH_ERR_ADDR_VALID]⟩,
  ⟨0x1000040, [(1024, 0x100)], 8, 1, 0, [.CHV_CH_CQ_BASE_ADDR]⟩,
  ⟨0x1000048, [(1024, 0x100)], 4, 1, 0, [.CHV_CH_CQ_CFG_SIZE_LOG2, .CHV_CH_CQ_CFG_VECTOR, .CHV_CH_CQ_CFG_IRQ]⟩,
  ⟨0x100004C, [(1024, 0x100)], 4, 1, 0, [.CHV_CH_CQ_HEAD_HEAD]⟩,
  ⟨0x1000050, [(1024, 0x100)], 4, 1, 0, [.CHV_CH_CQ_TAIL_TAIL]⟩,
  ⟨0x1000058, [(1024, 0x100)], 8, 1, 0, [.CHV_CH_BYTES_COUNT]⟩,
  ⟨0x1000060, [(1024, 0x100)], 4, 1, 0, [.CHV_CH_IGNORED_COUNT]⟩]

/-- The registers of R480. -/
def rowsR480 : List RegRow := [
  ⟨0x400000, [], 4, 1, 0, [.TC_MODE_MODE, .TC_MODE_RECOVERY]⟩,
  ⟨0x400008, [], 4, 1, 0, [.TC_IRQ_VECTOR, .TC_IRQ_ENABLE]⟩,
  ⟨0x400010, [], 4, 1, 0, [.TC_MISS_FWD, .TC_MISS_COMPL, .TC_MISS_TOKEN, .TC_MISS_TELEM]⟩,
  ⟨0x400018, [], 4, 1, 0, [.TC_RT_CFG_SHARE]⟩,
  ⟨0x400020, [], 8, 1, 0, [.TC_RT_BUDGET_FWD, .TC_RT_BUDGET_COMPL, .TC_RT_BUDGET_TOKEN, .TC_RT_BUDGET_TELEM]⟩,
  ⟨0x400028, [], 4, 1, 0, [.TC_FB_THRESH_YELLOW, .TC_FB_THRESH_ORANGE, .TC_FB_THRESH_RED]⟩,
  ⟨0x400030, [], 4, 1, 0, [.TC_AGE_CYCLES]⟩,
  ⟨0x400038, [], 8, 1, 0, [.TC_AGED_COUNT]⟩,
  ⟨0x400040, [(8, 0x4)], 4, 1, 0, [.TC_CLASS_CFG_WEIGHT, .TC_CLASS_CFG_HBM_LIMIT]⟩,
  ⟨0x400080, [(4, 0x8)], 8, 1, 0, [.TC_MISS_COUNT_COUNT]⟩,
  ⟨0x4000C0, [(2, 0x8)], 8, 1, 0, [.TC_FB_LEVEL_LEVEL]⟩,
  ⟨0x400100, [(64, 0x4)], 4, 1, 0, [.TC_PART_CFG_DEFAULT, .TC_PART_CFG_MAX]⟩]

/-- The registers of R514. -/
def rowsR514 : List RegRow := [
  ⟨0x200000, [(64, 0x1000)], 4, 1, 0, [.PART_CTRL_CLASS]⟩,
  ⟨0x200008, [(64, 0x1000)], 4, 1, 0, [.PART_WIN_COMMIT_GO, .PART_WIN_COMMIT_PENDING]⟩,
  ⟨0x200100, [(64, 0x1000), (32, 0x10)], 8, 1, 0, [.PART_WIN_BASE_ENABLE, .PART_WIN_BASE_R, .PART_WIN_BASE_W, .PART_WIN_BASE_A, .PART_WIN_BASE_REMOTE, .PART_WIN_BASE_ADDR, .PART_WIN_BASE_DEV]⟩,
  ⟨0x200108, [(64, 0x1000), (32, 0x10)], 8, 1, 0, [.PART_WIN_LIMIT_ADDR]⟩,
  ⟨0x200400, [(64, 0x1000)], 4, 1, 0, [.PART_METER_SNAP_GO]⟩,
  ⟨0x200408, [(64, 0x1000)], 8, 1, 0, [.PART_M_TIME_NS]⟩,
  ⟨0x200410, [(64, 0x1000)], 8, 1, 0, [.PART_M_CORE_CYCLES_COUNT]⟩,
  ⟨0x200418, [(64, 0x1000)], 8, 1, 0, [.PART_M_HBM_BYTES_COUNT]⟩,
  ⟨0x200420, [(64, 0x1000)], 8, 1, 0, [.PART_M_DEPOT_BYTES_COUNT]⟩,
  ⟨0x200428, [(64, 0x1000)], 8, 1, 0, [.PART_M_LINK_BYTES_COUNT]⟩,
  ⟨0x200430, [(64, 0x1000)], 8, 1, 0, [.PART_M_HOST_BYTES_COUNT]⟩,
  ⟨0x200438, [(64, 0x1000)], 8, 1, 0, [.PART_M_ENERGY_MJ_COUNT]⟩,
  ⟨0x200440, [(64, 0x1000)], 8, 1, 0, [.PART_M_JOBS_COUNT]⟩]

/-- The registers of R515. -/
def rowsR515 : List RegRow := [
  ⟨0x700000, [(64, 0x100)], 4, 1, 0, [.TRB_PART_STICKY_VIOL_READ, .TRB_PART_STICKY_VIOL_WRITE, .TRB_PART_STICKY_VIOL_ATOMIC, .TRB_PART_STICKY_TAG_REFUSED, .TRB_PART_STICKY_EVENT, .TRB_PART_STICKY_FIRST_VALID]⟩,
  ⟨0x700008, [(64, 0x100)], 8, 1, 0, [.TRB_PART_FIRST_ADDR, .TRB_PART_FIRST_DEV, .TRB_PART_FIRST_RIGHT]⟩,
  ⟨0x700010, [(64, 0x100)], 4, 1, 0, [.TRB_PART_AGENT_KIND, .TRB_PART_AGENT_DIE, .TRB_PART_AGENT_INDEX]⟩,
  ⟨0x700018, [(64, 0x100)], 4, 1, 0, [.TRB_PART_VIOL_COUNT_COUNT]⟩,
  ⟨0x70001C, [(64, 0x100)], 4, 1, 0, [.TRB_PART_OPER_ACCESSES_COUNT]⟩]

/-- The registers of R516. -/
def rowsR516 : List RegRow := [
  ⟨0x10000, [], 4, 1, 0, [.FUA_MB_CMD_OP, .FUA_MB_CMD_PART]⟩,
  ⟨0x10008, [], 4, 1, 0, [.FUA_MB_STATUS_BUSY, .FUA_MB_STATUS_STATUS, .FUA_MB_STATUS_SEQ]⟩,
  ⟨0x10010, [(4, 0x8)], 8, 1, 0, [.FUA_MB_ARG_VALUE]⟩,
  ⟨0x10030, [], 8, 1, 0, [.FUA_MB_RESULT_VALUE]⟩,
  ⟨0x10040, [], 4, 1, 0, [.FUA_BOOT_STATUS_BANK, .FUA_BOOT_STATUS_PENDING, .FUA_BOOT_STATUS_FALLBACK, .FUA_BOOT_STATUS_SVN, .FUA_BOOT_STATUS_FUSES]⟩]

/-- The registers of R544. -/
def rowsR544 : List RegRow := [
  ⟨0x500000, [], 4, 1, 0, [.PWR_CAP_WATTS]⟩,
  ⟨0x500008, [], 4, 1, 0, [.PWR_PRIO_FIRST, .PWR_PRIO_SECOND, .PWR_PRIO_THIRD]⟩,
  ⟨0x500010, [], 8, 1, 0, [.PWR_MEASURED_MEASURED, .PWR_MEASURED_ESTIMATE, .PWR_MEASURED_SOURCE]⟩,
  ⟨0x500018, [], 4, 1, 0, [.PWR_EVENTS_MISMATCH, .PWR_EVENTS_EMERGENCY, .PWR_EVENTS_TRIP, .PWR_EVENTS_CAP_EXCEEDED, .PWR_EVENTS_MEM_THROTTLED]⟩,
  ⟨0x500020, [], 8, 1, 0, [.PWR_BUDGET_LINKS, .PWR_BUDGET_MEMORY, .PWR_BUDGET_COMPUTE]⟩,
  ⟨0x500028, [], 4, 1, 0, [.PWR_GRANT_CFG_STARVE_MS]⟩,
  ⟨0x500030, [], 8, 1, 0, [.PWR_GRANTS_COUNT]⟩,
  ⟨0x500038, [], 8, 1, 0, [.PWR_REFUSED_COUNT]⟩,
  ⟨0x500040, [], 8, 1, 0, [.PWR_DROOP_COUNT_COUNT]⟩,
  ⟨0x500048, [], 4, 1, 0, [.PWR_THERM_CFG_HOT, .PWR_THERM_CFG_EMERG, .PWR_THERM_CFG_TRIP]⟩,
  ⟨0x500050, [], 4, 1, 0, [.PWR_THERM_MAX_TEMP, .PWR_THERM_MAX_DOMAIN]⟩,
  ⟨0x500058, [], 8, 1, 0, [.PWR_ENERGY_MICROJOULES]⟩,
  ⟨0x500060, [], 4, 1, 0, [.PWR_SLEEP_CFG_NAP_DELAY, .PWR_SLEEP_CFG_DEEP_DELAY]⟩,
  ⟨0x500068, [], 4, 1, 0, [.PWR_LEVEL_MAX_LEVEL]⟩]

/-- The registers of R545. -/
def rowsR545 : List RegRow := [
  ⟨0x501000, [(96, 0x40)], 8, 1, 0, [.PWR_DOM_STATUS_STATE, .PWR_DOM_STATUS_LEVEL, .PWR_DOM_STATUS_ALLOWED, .PWR_DOM_STATUS_HOT, .PWR_DOM_STATUS_STRETCH, .PWR_DOM_STATUS_TEMP]⟩,
  ⟨0x501008, [(96, 0x40)], 4, 1, 0, [.PWR_DOM_CTRL_HOLD_ON, .PWR_DOM_CTRL_OFF_REQ]⟩,
  ⟨0x501010, [(96, 0x40)], 8, 1, 0, [.PWR_DOM_RES_ON_NS]⟩,
  ⟨0x501018, [(96, 0x40)], 8, 1, 0, [.PWR_DOM_RES_IDLE_NS]⟩,
  ⟨0x501020, [(96, 0x40)], 8, 1, 0, [.PWR_DOM_RES_NAP_NS]⟩,
  ⟨0x501028, [(96, 0x40)], 8, 1, 0, [.PWR_DOM_RES_DEEP_NS]⟩,
  ⟨0x501030, [(96, 0x40)], 8, 1, 0, [.PWR_DOM_RES_OFF_NS]⟩,
  ⟨0x501038, [(96, 0x40)], 8, 1, 0, [.PWR_DOM_ENERGY_MICROJOULES]⟩]

/-- The registers of R561. -/
def rowsR561 : List RegRow := [
  ⟨0x600000, [], 4, 1, 0, [.RST_CMD_OP, .RST_CMD_TARGET]⟩,
  ⟨0x600008, [], 4, 1, 0, [.RST_STATUS_BUSY, .RST_STATUS_DEV_OUT]⟩,
  ⟨0x600010, [], 4, 1, 0, [.RST_HANG_CFG_CORE_MS, .RST_HANG_CFG_KVG_MS, .RST_HANG_CFG_CND_MS]⟩,
  ⟨0x600018, [], 4, 1, 0, [.RST_DEV_COUNT_IN_WINDOW, .RST_DEV_COUNT_TOTAL]⟩,
  ⟨0x600020, [], 4, 1, 0, [.RST_LOG_HEAD_HEAD]⟩,
  ⟨0x600100, [(32, 0x8)], 8, 1, 0, [.RST_LOG_CAUSE, .RST_LOG_SCOPE, .RST_LOG_CYCLED, .RST_LOG_TARGET, .RST_LOG_RESULT, .RST_LOG_NO_CAPTURE, .RST_LOG_TIME_US]⟩,
  ⟨0x600400, [(64, 0x4)], 4, 1, 0, [.RST_KICK_KICK]⟩,
  ⟨0x600800, [(64, 0x20)], 4, 1, 0, [.RST_PART_STATUS_OUT, .RST_PART_STATUS_RESETTING, .RST_PART_STATUS_SERVICE_LOST, .RST_PART_STATUS_IN_WINDOW, .RST_PART_STATUS_TOTAL]⟩,
  ⟨0x600808, [(64, 0x20)], 8, 1, 0, [.RST_PART_DUMP_ENABLE, .RST_PART_DUMP_ADDR, .RST_PART_DUMP_SLOTS]⟩,
  ⟨0x600810, [(64, 0x20)], 4, 1, 0, [.RST_PART_CAPTURE_SPAD_OFF, .RST_PART_CAPTURE_STN_OFF]⟩,
  ⟨0x600814, [(64, 0x20)], 4, 1, 0, [.RST_PART_REQ_OP, .RST_PART_REQ_STATION]⟩,
  ⟨0x600818, [(64, 0x20)], 4, 1, 0, [.RST_PART_DUMP_SEQ_SEQ]⟩]

/-- The registers of R588. -/
def rowsR588 : List RegRow := [
  ⟨0x10800, [], 4, 1, 0, [.MOD_STATUS_STATE, .MOD_STATUS_INPUT_LOW, .MOD_STATUS_INPUT_HIGH, .MOD_STATUS_COOLANT_HOT, .MOD_STATUS_MCLK_INTERNAL, .MOD_STATUS_FALLBACK_SENSE]⟩,
  ⟨0x10808, [], 8, 1, 0, [.MOD_INPUT_VIN_MV, .MOD_INPUT_IIN_MA, .MOD_INPUT_PIN_W]⟩,
  ⟨0x10810, [], 4, 1, 0, [.MOD_COOLANT_INLET, .MOD_COOLANT_OUTLET]⟩,
  ⟨0x10818, [], 8, 1, 0, [.MOD_SENSE0_RAILS]⟩,
  ⟨0x10820, [], 8, 1, 0, [.MOD_SENSE1_RAILS]⟩,
  ⟨0x10828, [], 4, 1, 0, [.MOD_LAST_FAULT_CODE, .MOD_LAST_FAULT_DETAIL]⟩]

/-- PF BAR0 (R589-R600). -/
def pfRows : List RegRow :=
  rowsR108 ++ rowsR135 ++ rowsR136 ++ rowsR137 ++ rowsR176 ++ rowsR177 ++ rowsR207 ++ rowsR277 ++ rowsR278 ++ rowsR279 ++ rowsR328 ++ rowsR329 ++ rowsR360 ++ rowsR384 ++ rowsR385 ++ rowsR416 ++ rowsR417 ++ rowsR442 ++ rowsR465 ++ rowsR480 ++ rowsR514 ++ rowsR515 ++ rowsR516 ++ rowsR544 ++ rowsR545 ++ rowsR561 ++ rowsR588

/-- The registers of one VF BAR0 whose fields are the same as the PF's, one instance per function (R418, R443,
R602).  The instance of a non-repeated one is the function's number. -/
def vfRows : List RegRow := [
  ⟨0x20, [], 4, 1, 0, [.QE_RING_SEL_RING]⟩,
  ⟨0x24, [], 4, 1, 0, [.QE_RING_CFG_KIND, .QE_RING_CFG_FORMAT, .QE_RING_CFG_SIZE_LOG2, .QE_RING_CFG_COMPLETION, .QE_RING_CFG_SUB]⟩,
  ⟨0x28, [], 8, 1, 0, [.QE_RING_BASE_ADDR]⟩,
  ⟨0x30, [], 8, 1, 0, [.QE_RING_CFG2_VECTOR, .QE_RING_CFG2_IRQ, .QE_RING_CFG2_MOD_COUNT, .QE_RING_CFG2_MOD_TIME, .QE_RING_CFG2_CONTEXT]⟩,
  ⟨0x38, [], 4, 1, 0, [.QE_RING_CMD_OP]⟩,
  ⟨0x3C, [], 4, 1, 0, [.QE_RING_STATUS_BUSY, .QE_RING_STATUS_RESULT, .QE_RING_STATUS_STATE]⟩,
  ⟨0x40, [], 8, 1, 0, [.QE_FAULT_BASE_ADDR]⟩,
  ⟨0x48, [], 4, 1, 0, [.QE_FAULT_CFG_SIZE_LOG2, .QE_FAULT_CFG_VECTOR, .QE_FAULT_CFG_IRQ, .QE_FAULT_CFG_ENABLE]⟩,
  ⟨0x50, [], 4, 1, 0, [.QE_FAULT_HEAD_HEAD]⟩,
  ⟨0x54, [], 4, 1, 0, [.QE_FAULT_TAIL_TAIL]⟩,
  ⟨0x58, [], 4, 1, 0, [.QE_FAULT_LOST_COUNT]⟩,
  ⟨0x8, [], 4, 1, 0, [.QE_FUNC_EVENTS_RING_ERROR]⟩,
  ⟨0x200, [], 4, 1, 0, [.FUA_MB_CMD_OP, .FUA_MB_CMD_PART]⟩,
  ⟨0x208, [], 4, 1, 0, [.FUA_MB_STATUS_BUSY, .FUA_MB_STATUS_STATUS, .FUA_MB_STATUS_SEQ]⟩,
  ⟨0x230, [], 8, 1, 0, [.FUA_MB_RESULT_VALUE]⟩,
  ⟨0x210, [(4, 0x8)], 8, 1, 0, [.FUA_MB_ARG_VALUE]⟩]

/-- The read-only copies of a partition's trouble record in a VF BAR0 (R602). -/
def vfTroubleRows : List RegRow := [
  ⟨0x100, [], 4, 1, 0, [.TRB_PART_STICKY_VIOL_READ, .TRB_PART_STICKY_VIOL_WRITE, .TRB_PART_STICKY_VIOL_ATOMIC, .TRB_PART_STICKY_TAG_REFUSED, .TRB_PART_STICKY_EVENT, .TRB_PART_STICKY_FIRST_VALID]⟩,
  ⟨0x108, [], 8, 1, 0, [.TRB_PART_FIRST_ADDR, .TRB_PART_FIRST_DEV, .TRB_PART_FIRST_RIGHT]⟩,
  ⟨0x110, [], 4, 1, 0, [.TRB_PART_AGENT_KIND, .TRB_PART_AGENT_DIE, .TRB_PART_AGENT_INDEX]⟩,
  ⟨0x118, [], 4, 1, 0, [.TRB_PART_VIOL_COUNT_COUNT]⟩,
  ⟨0x11C, [], 4, 1, 0, [.TRB_PART_OPER_ACCESSES_COUNT]⟩]

/-- The row-major index of an offset within a repeated register, and what is left over. -/
def regIndex : List (Nat × Nat) → Nat → Nat → Option (Nat × Nat)
  | [], d, i => some (i, d)
  | p :: ds, d, i => if d / p.2 < p.1 then regIndex ds (d % p.2) (i * p.1 + d / p.2) else none

/-- The register, instance and byte offset within it that an offset selects in a table (R590: none where no
row lists it). -/
def findReg : List RegRow → Nat → Option (RegRow × Nat × Nat)
  | [], _ => none
  | r :: rs, off =>
    match (if r.off ≤ off then regIndex r.dims (off - r.off) 0 else none) with
    | some (i, k) => if k < r.bytes then some (r, r.mul * i + r.add, k) else findReg rs off
    | none => findReg rs off

end Sys2Proof.Machine
end

