-- ==== Sys2Proof/Machine/State.lean ====
section
/-! DEFINITION. The state of the LY-7 as plain data, and the state after reset. -/
namespace Sys2Proof.Machine

/-- Why the block stops with a fault.  The spec gives every command an effect or a stated lack of one, so no
meaning raises a fault; the type is kept for the step's form. -/
inductive Fault where
  /-- Raised by nobody; safe. -/
  | none
deriving DecidableEq, Repr

/-- Why a command is turned away. -/
inductive Refusal where
  /-- Raised by Dispatch for a command without a meaning; safe: nothing can be proved of a state that is not
  reached. -/
  | notModelled (mnemonic : String)
deriving DecidableEq, Repr

/-! The Sage core (chapter 03). -/

/-- An active hardware loop: the index of its first instruction, its length, its count, the current iteration
(R100). -/
structure Loop where
  first : Nat
  len : Nat
  count : Nat
  index : Nat
deriving DecidableEq, Repr

/-- What an entry of the range table does when it is performed. -/
inductive Payload where
  | tileLoad (tile : Nat) (fmt : Fmt) (trans : Bool) (rows : List Nat)
  | accLoad (acc : Nat) (rows : List Nat)
  | scalarLoad (reg addr n : Nat)
  | store (chunks : List (Nat × List Byte))
  | atomic (op addr : Nat) (operand : W64) (dst : Option Nat)
  | cas (addr : Nat) (cmp swap : W64) (dst : Option Nat)
  | flush (mode : Nat)
deriving DecidableEq, Repr

/-- Where an access goes: the scratchpad, this device's addresses (station memory included), a peer's. -/
inductive Space where
  | spad
  | device
  | remote (dev : Nat)
deriving DecidableEq, Repr

/-- An entry of the range table (R92): its range in 64-byte lines [lo, hi), what it is to other accesses, its
ordering, and its captured access.  `done` counts the lines already performed of an access of several (R287), and `got`
holds the bytes they loaded, in order. -/
structure Entry where
  slot : Nat
  space : Space
  /-- An access to the core's own station memory with SPACE 1, which no window checks (R85, R86). -/
  ownStn : Bool
  lo : Nat
  hi : Nat
  reads : Bool
  writes : Bool
  release : Bool
  acquire : Bool
  scope : Nat
  nt : Bool
  stream : Bool
  rows : Nat
  stride : Int
  payload : Payload
  done : Nat
  /-- A REMOTE access: whether its packets have left, how many answers are awaited, and the bytes that came. -/
  sent : Bool
  await : Nat
  got : Bytes
deriving DecidableEq, Repr

/-- The launch a core runs: R98, R104. -/
structure CoreLaunch where
  id : Nat
  part : Nat
  sub : Nat
  rank : Nat
  size : Nat
  entry : Nat
  initDest : Nat
  init : List Byte
  argDest : Nat
  args : List Byte
  /-- The traffic label its requests carry (R467). -/
  label : Nat
  /-- The conductor that launched it, to which its end is reported (R101). -/
  cnd : Nat
deriving DecidableEq, Repr

/-- What a core that waits at an issued instruction waits for: a polling WAITR, with the core cycle it issued at and
that of its last read (R95); a barrier (R96).  Both know the instruction's index, and whether the program has no next
instruction, which faults once the wait is over (R107). -/
inductive Wait where
  | none
  | poll (start last pc : Nat) (past : Bool)
  | bar (scope id pc : Nat) (past : Bool)
deriving DecidableEq, Repr

/-- A Sage core (R57).  Tile byte b of Tn is key 4096n + b (elements 0–2047, scale store 2048–2239);
accumulator element (r, c) of ACCn is key 4096n + 64r + c; row vectors are keyed 64n + r.  SAGE_STATUS.STATE
and SAGE_PC.PC are the core's state and program counter, kept with the registers. -/
structure Core where
  tiles : Bytes
  acc : SMap W32
  rowMax : SMap W32
  rowSum : SMap W32
  sregs : SMap W64
  aregs : SMap W48
  spad : Bytes
  loops : List Loop
  lanes : List W64
  seed : W64
  code : List (BitVec 128)
  table : List Entry
  launch : Option CoreLaunch
  wait : Wait
  /-- Set when the core was fenced while its launch still drains (R130). -/
  fencing : Bool
  /-- Core-clock cycles since the last compute reset, and the part of a cycle in fortieths (R98). -/
  cycles : Nat
  cycleFrac : Nat
  storeEcc : Nat
deriving DecidableEq, Repr

/-- A core's state after ZERO of everything, with the generator seeded with zero (R42, R104). -/
def Core.reset : Core :=
  { tiles := [], acc := [], rowMax := [], rowSum := [], sregs := [], aregs := [], spad := [], loops := [],
    lanes := genSeed 0, seed := 0, code := [], table := [], launch := none, wait := .none, fencing := false,
    cycles := 0, cycleFrac := 0, storeEcc := 0 }

/-- What a launch's core has come to (R96, R101, R106, R130, R553). -/
inductive CoreEnd where
  | running | ended | faulted | fenced | reset
deriving DecidableEq, Repr

/-- The epoch a unit of work was issued under (R341): its consist slot, the consist's identifier
and the epoch's number. -/
structure EpochRef where
  slot : Nat
  id : Nat
  epoch : Nat
deriving DecidableEq, Repr

/-- A launch: its identity, how many cores it was asked for and how many of them lie on this module, the cores it was
given here, and how each stands (R102-R106, R401).  `refused` is the IMAGE_INVALID of R103; `command` is the command-tracker entry that carries
it; `told` says that the module which collects its barrier has been told of the arrivals here (R126). -/
structure Launch where
  id : Nat
  part : Nat
  sub : Nat
  size : Nat
  here : Nat
  cores : List (Nat × CoreEnd)
  refused : Bool
  command : Option Nat
  epoch : Option EpochRef
  told : Bool
deriving DecidableEq, Repr

/-! Stations and memory (chapters 04, 08). -/

/-- A station-cache line (R262): its line number, which bytes it holds, which of them are dirty, its bytes,
the partition that wrote it, and whether a prefetch brought it and no access has touched it. -/
structure CLine where
  line : Nat
  present : Nat
  dirty : Nat
  data : Bytes
  part : Nat
  prefetched : Bool
deriving DecidableEq, Repr

/-- An answer sent back to a requester outside the model: what was asked, the bytes (none for a write), and
the error mark of R249. -/
structure Answer where
  access : Access
  data : List Byte
  mark : Bool
deriving DecidableEq, Repr

/-- A lane of a stream (R267, R268): its core (or station, for a detected stream), the base it last advanced
to, its STEP once set, and of each of its rows the next line to request, once some were requested. -/
structure Lane where
  core : Nat
  station : Nat
  base : Nat
  step : Option Int
  ahead : List Int
deriving DecidableEq, Repr

/-- What a Dill entry does (R267-R271). -/
inductive StreamKind where
  | lane
  | detected
  | warm (who : Who) (base : Nat) (stride : Int) (rowBytes done row : Nat) (epoch : Option EpochRef)
deriving DecidableEq, Repr

/-- A stream entry: its slice, kind, key, and lanes, least recently advanced first. -/
structure Stream where
  slice : Nat
  kind : StreamKind
  rows : Nat
  stride : Int
  part : Nat
  sub : Nat
  lanes : List Lane
deriving DecidableEq, Repr

/-- A signal message in the network: where it entered, and the message (R121-R125). -/
structure SigMsg where
  srcDie : Nat
  srcStop : Nat
  msg : Signal
deriving DecidableEq, Repr

/-- A window as the checkers hold it (R483). -/
structure Win where
  enable : Bool
  r : Bool
  w : Bool
  a : Bool
  remote : Bool
  base : Nat
  limit : Nat
  dev : Nat
deriving DecidableEq, Repr

def Win.none : Win := ⟨false, false, false, false, false, 0, 0, 0⟩

/-- The sources of a trouble event (R551). -/
inductive Trouble where
  | meshUe | hbmUe | remoteWrite | badDest | cndUe | dirUe
deriving DecidableEq, Repr

/-- A trouble event not yet acted on: its partition (none for the physical function), whether the access
carried OPER, its source (R551). -/
structure TroubleEv where
  part : Option Nat
  oper : Bool
  cause : Trouble
deriving DecidableEq, Repr

/-! KV gates and Points units (chapter 05). -/

/-- What a KV gate keeps beside its registers (R147): the last tails written, and the ring whose command it
executed last. -/
structure Kvg where
  tail0 : Nat
  tail1 : Nat
  last : Nat
deriving DecidableEq, Repr

def Kvg.reset : Kvg := ⟨0, 0, 1⟩

/-- One assignment of a ROUTE (R168-R171): the token, the expert's shards as (device, slice), the slot reserved in
their buffers, the buffers' offset and the weight. -/
structure Assign where
  token : Nat
  shards : List (Nat × Nat)
  slot : Nat
  bufOff : Nat
  weight : W32
deriving DecidableEq, Repr

/-- A ROUTE that has been dispatched and not yet combined (R172-R174): its ring and slot there, the address of
its completion word, its tag, what the combine needs, and when its dispatch ended. -/
structure Route where
  die : Nat
  ring : Nat
  word : Nat
  part : Nat
  sub : Nat
  tokens : Nat
  hidden : Nat
  outRows : Nat
  assigns : List Assign
  epoch : Option EpochRef
  since : Nat
deriving DecidableEq, Repr

/-- What a Points unit or a Branch-line unit keeps beside its registers (R172, R175, R179): the last tails written of its four rings, and
the ring served last. -/
structure Points where
  tails : List Nat
  last : Nat
deriving DecidableEq, Repr

def Points.reset : Points := ⟨[0, 0, 0, 0], 3⟩

/-! Belyan links (chapter 12). -/

/-- A request sent over the links and not yet answered (R380): the die and tag that identify it, who waits for
it, its address, its bytes and the epoch it counts under.  A timed-out tag stays here, quarantined, until it may be used
again. -/
structure RemoteReq where
  die : Nat
  tag : Nat
  core : Nat
  slot : Nat
  addr : Nat
  len : Nat
  write : Bool
  quarantined : Bool
  epoch : Option EpochRef
deriving DecidableEq, Repr

/-- What a port keeps beside its registers (R374, R375): the sequence number of the next flit to accept, the replays
since the last progress, and when it went DOWN (or its cable came back, R575). -/
structure Link where
  rxSeq : Nat
  replays : Nat
  downSince : Nat
deriving DecidableEq, Repr

def Link.reset : Link := ⟨0, 0, 0⟩

/-- A packet that waits at an egress port: since when, and the class and deadline it is arbitrated with (R471-R474). -/
structure Queued where
  port : Nat
  since : Nat
  cls : Nat
  deadline : Nat
  pkt : Packet
deriving DecidableEq, Repr

/-- An arbiter of R471: the start of the window of 256 cycles and the bytes of class 7 in it, the class whose turn it is, and
its bytes left. -/
structure Arb where
  window : Nat
  used7 : Nat
  turn : Nat
  left : Nat
deriving DecidableEq, Repr

def Arb.reset : Arb := ⟨0, 0, 6, 0⟩

/-- A packet in the bulk mesh (R117): the die and junction it waits at, since when, and the packet. -/
structure InMesh where
  die : Nat
  at_ : Nat
  since : Nat
  pkt : MeshPacket
deriving DecidableEq, Repr

/-- An egress port (R370): the bytes its link still has to carry; its arbiter; the bytes forwarded and injected since both
compete, and of operator packets and in all since those wait; and the virtual times of the partitions. -/
structure PortArb where
  debt : Nat
  arb : Arb
  fwd : Nat
  inj : Nat
  oper : Nat
  all : Nat
  vtime : Nat
  parts : SMap Nat
deriving DecidableEq, Repr

def PortArb.reset : PortArb := ⟨0, Arb.reset, 0, 0, 0, 0, 0, []⟩

/-! The control plane (chapter 10). -/

/-- The state a holder keeps a line in (R310); I is the absence of the line. -/
inductive HState where
  | M | E | S
deriving DecidableEq, Repr

/-- A holder's copy of a control-memory line (R310). -/
structure HLine where
  st : HState
  data : List Byte
deriving DecidableEq, Repr

/-- A request at a directory (R310, R311): what a holder asks, a non-caching access, or the eviction of an entry. -/
inductive DirReq where
  | getS | getX | upgrade
  | nc (a : Access)
  | evict
deriving DecidableEq, Repr

/-- A request at a directory: the holder (72 where it has none), what it asks, the tag it carries, the directory cycle it
came in, by number, and the store its holder then makes: the place in the line and the bytes (R312, R315, R318). -/
structure DirWait where
  holder : Nat
  req : DirReq
  part : Nat
  oper : Bool
  batch : Nat
  store : Option (Nat × List Byte)
deriving DecidableEq, Repr

/-- A directory entry (R308, R311): whether one owner holds the line (X) or its holders share it (S; U has none), its
holders (bits 0-71), the request that waits for snoop answers with the holders still to answer, the requests held until
later (R315), whether a write-back of the line is not yet retired, and its way of the set (R308). -/
structure DirEntry where
  owned : Bool
  holders : Nat
  busy : Option (DirWait × Nat)
  waiters : List DirWait
  wbOut : Bool
  way : Nat
deriving DecidableEq, Repr

/-- A conductor core (R303, R313, R322, R324; PRESUMED, log 5): its registers (x and f by number), its mode (true machine), its
CSRs, the reservation of an LR (by line) and how many more instructions of its sequence its snoops may be deferred (0
where they are not), the register and the deadline of a WFS it waits in, the lines of its L1 instruction cache with their
bytes, and the lines of its L1 data cache, whose bytes are its L2's, in each set the last used first (R304).  CND_STATUS
and CND_INSTRET are kept with the registers. -/
structure Hart where
  pc : W64
  x : SMap W64
  f : SMap W64
  fcsr : Nat
  machine : Bool
  mstatus : Nat
  mtvec : Nat
  mscratch : Nat
  mepc : Nat
  mcause : Nat
  mtval : Nat
  mie : Nat
  mtip : Bool
  mcounteren : Nat
  /-- What mcycle and minstret are ahead of CND_CYCLES and CND_INSTRET. -/
  mcycle : Nat
  minstret : Nat
  pmpcfg : SMap Nat
  pmpaddr : SMap Nat
  remdev : Nat
  sigrxd : Nat
  sigrxe : Nat
  rsv : Option Nat
  defer : Nat
  wfs : Option (Nat × Nat)
  icache : SMap (List Byte)
  l1d : List Nat
deriving DecidableEq, Repr

def Hart.reset : Hart :=
  { pc := 0, x := [], f := [], fcsr := 0, machine := true, mstatus := 0x1800, mtvec := 0, mscratch := 0, mepc := 0,
    mcause := 0, mtval := 0, mie := 0, mtip := false, mcounteren := 0, mcycle := 0, minstret := 0,
    pmpcfg := [], pmpaddr := [], remdev := 0, sigrxd := 0, sigrxe := 0, rsv := none, defer := 0, wfs := none,
    icache := [], l1d := [] }

/-- A sort descriptor in the queue of a partial-sort engine: the conductor that queued it, its tag, its address
(R325). -/
structure SortJob where
  cnd : Nat
  part : Nat
  oper : Bool
  addr : Nat
deriving DecidableEq, Repr

/-! The host attachment (chapters 13, 14). -/

/-- A function's configuration state that the spec's rules turn on (R386, R389, R409, R413; PRESUMED, log 6): Bus Master
Enable, ATS Enable, Enable Relaxed Ordering, MSI-X Enable and Function Mask, D3hot, and of the PF, VF Enable and
NumVFs. -/
structure Func where
  bme : Bool
  ats : Bool
  relaxed : Bool
  msixOn : Bool
  msixMask : Bool
  d3 : Bool
  vfOn : Bool
  numVfs : Nat
  aer : Nat
  maxPayload : Nat
  maxRead : Nat
deriving DecidableEq, Repr

def Func.reset : Func := ⟨false, false, true, false, false, false, false, 0, 0, 128, 512⟩

/-- An MSI-X table entry with its pending bit (R391). -/
structure Msix where
  addr : Nat
  data : Nat
  masked : Bool
  pending : Bool
deriving DecidableEq, Repr

def Msix.reset : Msix := ⟨0, 0, true, false⟩

/-- What the LY-7 sends to the host: a memory write or read of a function, a translation request (R409), an
Invalidate Completion (R412), an answer to a configuration request: Request Retry
Status, or the value read (0 for a write), none for Unsupported Request (R413, R582). -/
inductive Tlp where
  | memWrite (f addr : Nat) (data : List Byte) (relaxed translated : Bool)
  | memRead (f addr n : Nat) (translated : Bool)
  | atsRequest (f addr : Nat)
  | invalidateDone (f tag : Nat)
  | config (f : Nat) (retry : Bool) (value : Option Nat)
deriving DecidableEq, Repr

/-- Whose command an access to the host is for, and the engine that makes it (R438, R439). -/
structure HostFor where
  engine : Nat
  ctx : Nat
  tag : Nat
  ring : Nat
deriving DecidableEq, Repr

/-- R398: the ring whose turn it is at the queue engine, the descriptors left in the turn, the partition served last, and of
each partition the ring served last. -/
structure QeTurn where
  ring : Nat
  left : Nat
  part : Nat
  rings : SMap Nat
deriving DecidableEq, Repr

/-- The first round begins with partition 0 and a partition's lowest ring (DESIGN CHOICE, log 128). -/
def QeTurn.reset : QeTurn := ⟨0, 0, 63, []⟩

/-- A posted write or interrupt of a function that waits its turn (R408), or a zero-length read behind its writes (R454);
`due` is the real-time master that makes the
write and what remains of its deadline (R473, R474). -/
inductive Posted where
  | write (addr : Nat) (data : List Byte) (relaxed : Bool) (who : HostFor) (due : Option (Nat × Nat))
  | vector (v : Nat)
  | flush (addr : Nat)
deriving DecidableEq, Repr

/-- A translation-cache entry: its IOVA range, the translated base, and its permissions (R410). -/
structure AtcEntry where
  base : Nat
  size : Nat
  target : Nat
  r : Bool
  w : Bool
deriving DecidableEq, Repr

/-- What a host read is for: descriptors of a ring (the first entry and how many), or a command's argument block. -/
inductive ReadFor where
  | descs (ring first n : Nat)
  | args (cmd : Nat)
deriving DecidableEq, Repr

/-- A host read: waiting for its translation until it is `sent`; `stale` marks one issued under a translation that
has been invalidated since (R412). -/
structure HRead where
  f : Nat
  why : ReadFor
  addr : Nat
  n : Nat
  sent : Bool
  stale : Bool
deriving DecidableEq, Repr

/-- A ring's entry (R392, R393, R406): its state (R417), configuration and indices; `issued` counts the entries
whose reads have been issued, `uncovered` the records no interrupt has covered. -/
structure Ring where
  state : Nat
  kind : Nat
  format : Nat
  sizeLog2 : Nat
  comp : Nat
  sub : Nat
  vector : Nat
  irq : Bool
  modCount : Nat
  modTime : Nat
  ctx : Nat
  base : Nat
  head : Nat
  tail : Nat
  issued : Nat
  uncovered : Nat
deriving DecidableEq, Repr

def Ring.reset : Ring := ⟨0, 0, 0, 0, 0, 0, 0, false, 0, 0, 0, 0, 0, 0, 0, 0⟩

/-- A fetched command in its tracker entry (R398-R403, R429): its ring, context and descriptor, its arguments once
they are here, whether it has started, the objects it holds references on, the status that replaces DONE where
something it depends on went away (R431, R432), the Chervil channel or launch that runs it, and what a started
OBJ_UNMAP or CTX_DESTROY still waits for. -/
structure Cmd where
  id : Nat
  ring : Nat
  part : Nat
  op : Nat
  format : Nat
  ctx : Nat
  tag : Nat
  serial : Bool
  hint : Option (Nat × Nat × Nat)
  args : List Nat
  started : Bool
  refs : List Nat
  gone : Option Nat
  chan : Option Nat
  launch : Option Nat
  waits : List Nat
  count : Nat
deriving DecidableEq, Repr

/-- A request descriptor fetched and not yet validated (R213, R398). -/
structure Intake where
  ring : Nat
  part : Nat
  desc : List Byte
deriving DecidableEq, Repr

/-- A context (R420-R428, R440): its modes, its mappings (handle and rights), its counters, and when it last became
resident and BLOCKED.  `fresh` holds until a command of it starts after a load (R425). -/
structure Ctx where
  forced : Bool
  confine : Bool
  destroying : Bool
  fresh : Bool
  maps : List (Nat × Nat)
  commands : Nat
  coreCycles : Nat
  chervilBytes : Nat
  residentNs : Nat
  blockedNs : Nat
  loads : Nat
  evictions : Nat
  lastRun : Nat
  since : Nat
  blockedSince : Option Nat
deriving DecidableEq, Repr

def Ctx.fresh0 : Ctx := ⟨false, false, false, false, [], 0, 0, 0, 0, 0, 0, 0, 0, 0, none⟩

/-- A memory object (R427, R428): its extent, rights, whether it is FREEING, and under FORCED teardown (R431). -/
structure Obj where
  base : Nat
  pages : Nat
  rights : Nat
  freeing : Bool
  forced : Bool
deriving DecidableEq, Repr

/-- A fence (R433-R436): its word, mirror, vector and owner. -/
structure Fence where
  value : Nat
  error : Bool
  mirror : Nat
  vector : Nat
  irq : Bool
  owner : Option Nat
deriving DecidableEq, Repr

/-- An open fault (R438, R439). -/
structure HFault where
  f : Nat
  addr : Nat
  ctx : Nat
  kind : Nat
  access : Nat
  engines : Nat
  count : Nat
  tag : Nat
  ring : Nat
  multi : Bool
deriving DecidableEq, Repr

/-- A hint in force (R403, R534): its partition, phase, power and duration, and when it came. -/
structure Hint where
  part : Nat
  phase : Nat
  power : Nat
  duration : Nat
  time : Nat
deriving DecidableEq, Repr

/-! The serving loop (chapter 07). -/

/-- A request's states (R215); QUEUED requests wait in the join queue. -/
inductive RState where
  | queued | importing | prefill | exporting | decode | kvWait
deriving DecidableEq, Repr

/-- An entry of a request's page lists that is valid (R145, R196): its list, its plane, its page index, whether rows below LENGTH
are still to be written to it (R197), and, once spilled (R224), the device and address it lies at and its place in the
order of spills (R354). -/
structure Slot where
  list : Nat
  plane : Nat
  index : Nat
  fresh : Bool
  spill : Option (Nat × Nat × Nat)
deriving DecidableEq, Repr

/-- What a transfer of a request's image has come to (R215, R227-R229). -/
inductive ImageEnd where
  | done | mismatch | lost
deriving DecidableEq, Repr

/-- A request accepted by the loop, with its number: its descriptor and extension (R211, R212), its state, LENGTH, the tokens emitted
so far (EMITTED's included), its valid page-table entries, the pool pages it holds (by number), the addresses of its
structures in control memory (R210), whether a tree of it is open, and its part of the current step: prefill rows, tree nodes
(1 for the row without a tree), the output records reserved; when it was admitted and when it entered KV_WAIT, by
number; whether it was cancelled, its output ring has failed (R239), its tier is unreachable, its image's transfer has ended,
and its next prefill is a replay. -/
structure Req where
  id : Nat
  ring : Nat
  part : Nat
  sub : Nat
  tag : Nat
  flags : Nat
  topK : Nat
  maxNew : Nat
  temp : W32
  topP : W32
  minP : W32
  rep : W32
  seed : W64
  outRing : Nat
  prompt : List Nat
  stops : List (List Nat)
  repWindow : Nat
  emitted : List Nat
  extDev : Nat
  extAddr : Nat
  st : RState
  outWait : Bool
  length : Nat
  rows : Nat
  nodes : Nat
  reserved : Nat
  slots : List Slot
  pages : List Nat
  heap : List Nat
  tree : Bool
  admitted : Nat
  waitNo : Nat
  cancel : Bool
  outLost : Bool
  lost : Bool
  event : Option ImageEnd
  replay : Bool
deriving DecidableEq, Repr

/-- A running service (R208-R210, R216, R240): its consist, the configuration block's bytes, the bundle, its step count
and whether a step runs, the step's launches, the counters of the status block, the extents of its tier (device, base, pages) and whether the
descriptor is to be read again (R352), the slices recalled (device, slice), the slices that a REBIND adds or removes
(R345), whether it is being stopped (gracefully or at once, and by which commands) and how many requests that ended,
the groups whose spill copies the boundary waits for (request and page index), and the attempt at which a grant was
last refused (R220). -/
structure Service where
  part : Nat
  sub : Nat
  bundle : Bundle
  cfg : List Byte
  step : Nat
  inStep : Bool
  launched : List Nat
  counters : List Nat
  extents : List (Nat × Nat × Nat)
  reread : Bool
  recalled : List (Nat × Nat)
  rebind : Option (List Nat × List Nat)
  stopping : Option (Bool × List Nat)
  ended : Nat
  spilling : List (Nat × Nat)
  waitGrant : Option Nat
deriving DecidableEq, Repr

/-! Chervil channels (chapter 15). -/

/-- A channel's record: its bytes, the bytes moved, its status and kind, whether it is the chain's last, and the state it
leads to (R459, R460). -/
structure ChanRec where
  bytes : List Byte
  moved : Nat
  status : Nat
  kind : Nat
  last : Bool
  next : Nat
deriving DecidableEq, Repr

/-- What a Chervil channel keeps beside its registers: the COPY command it runs with the descriptors still to load
(source, destination, bytes) and the bytes of those that ended, the descriptor's own COUNT, its chain's epoch, the
record that waits in CQ_WAIT with the state that follows it and whether it is the chain's last, whether a compute
reset stops it at the boundary, the units in whose branch pools its descriptor has read under an open tree (R204), whether
host writes are out since the last zero-length read, and the record that waits for one to complete (R454). -/
structure Chan where
  copy : Option Nat
  todo : List (Nat × Nat × Nat)
  total : Nat
  count0 : Nat
  epoch : Option EpochRef
  held : Option (List Byte × Nat × Bool)
  kill : Bool
  prov : List Nat
  dirty : Bool
  due : Option ChanRec
deriving DecidableEq, Repr

def Chan.reset : Chan := ⟨none, [], 0, 0, none, none, false, [], false, none⟩

/-! The composer (chapter 11). -/

/-- The composer's command in progress: its 64 bytes, whether it has begun, the READY reports collected (device and
checksum), and the slices whose RECALLED has arrived (R331, R345, R355). -/
structure CompJob where
  cmd : List Byte
  begun : Bool
  ready : List (Nat × Nat)
  recalled : List Nat
deriving DecidableEq, Repr

/-- A notice (R353). -/
structure Notice where
  kind : Nat
  slice : Nat
  dev : Nat
  consist : Nat
deriving DecidableEq, Repr

/-! Power (chapter 18). -/

/-- A grant in force: its consist slot, phase class, expected draw in W, the level it was judged at, and when it
lapses (R532). -/
structure Grant where
  slot : Nat
  phase : Nat
  draw : Nat
  level : Nat
  expires : Nat
deriving DecidableEq, Repr

/-- What the power controller keeps of a consist slot (R531-R537): since when PREFILL_HEAVY is refused with none
granted, the latest such request's draw at P0 and when it came, the limit of R533, the DECODE_STREAM draw at P0, the
agreed level, the level last reported, the reports (device, level, step), the level set and its step, its own step count
(R536), and the last steps (phase, draw, level), newest first. -/
structure PwrConsist where
  starve : Option Nat
  prefill : Nat
  prefillAt : Option Nat
  limit : Nat
  decode : Nat
  agreed : Nat
  mine : Nat
  reports : List (Nat × Nat × Nat)
  next : Option (Nat × Nat)
  steps : Nat
  hist : List (Nat × Nat × Nat)
deriving DecidableEq, Repr

def PwrConsist.reset : PwrConsist := ⟨none, 0, none, 0, 0, 0, 0, [], none, 0, []⟩

/-- What the power controller keeps beside its registers (R523-R541): grants, consists by slot, the sums of the estimate
and the measurement since the last average and their number, since when the two differ and since when they agree,
whether it trusts the measurement, the cap's stretch, droops by region, emergencies by domain, domains that wake, the HBM access limit in
1/256 steps, whether the mesh halves are divided for budget, the thermal limit of a region with the time of its last
move, the fraction of a microjoule of each domain and the energy of each in the current interval of R496 (nJ), the
running cycles of a partition in a region there, the fraction of a millijoule of each partition (nJ), and the level
messages sent to other members (device, slot, level, step). -/
structure Power where
  grants : List Grant
  cons : SMap PwrConsist
  eSum : Nat
  mSum : Nat
  samples : Nat
  badSince : Option Nat
  okSince : Option Nat
  trustM : Bool
  capStretch : Bool
  droop : SMap Bool
  emerg : SMap Bool
  waking : SMap Bool
  hbmLimit : Nat
  memDiv : Bool
  therm : SMap (Nat × Nat)
  fracNj : SMap Nat
  spanNj : SMap Nat
  runCycles : SMap Nat
  partNj : SMap Nat
  levelOut : List (Nat × Nat × Nat × Nat)
deriving DecidableEq, Repr

def Power.reset : Power :=
  { grants := [], cons := [], eSum := 0, mSum := 0, samples := 0, badSince := none, okSince := none, trustM := false,
    capStretch := false, droop := [], emerg := [], waking := [], hbmLimit := 256, memDiv := false, therm := [], fracNj := [],
    spanNj := [], runCycles := [], partNj := [], levelOut := [] }

/-! Resets (chapter 19). -/

/-- A station compute reset in progress (R553): its cause and scope, when it began, whether capture was skipped, and
whether it is collateral. -/
structure StnJob where
  stn : Nat
  cause : Nat
  scope : Nat
  start : Nat
  noCapture : Bool
  collateral : Bool
deriving DecidableEq, Repr

/-- A partition compute reset in progress (R555): its cause, whether it is counted (R560), whether it belongs to a
device compute reset, whether capture was skipped and a region cycled, and the conductors that overran (R556). -/
structure PartJob where
  part : Nat
  cause : Nat
  counted : Bool
  device : Bool
  noCapture : Bool
  cycled : Bool
  forced : List Nat
deriving DecidableEq, Repr

/-- What the reset unit keeps beside its registers: the resets in progress, the device reset's cause and whether it is
counted, when each conductor last kicked, when each station's last reset ended, and when the counted resets of each
partition and of the device completed (R549, R559, R560). -/
structure Rst where
  stns : List StnJob
  parts : List PartJob
  dev : Option (Nat × Bool)
  kicks : SMap Nat
  stnLast : SMap (Option Nat)
  partHist : SMap (List Nat)
  devHist : List Nat
deriving DecidableEq, Repr

def Rst.reset : Rst := ⟨[], [], none, [], [], [], []⟩

/-- A shutdown of a function in progress (R413): the function, the partitions it resets, whether it came with the
link's loss or a hot reset, and whether its resets have begun. -/
structure Shutdown where
  f : Nat
  parts : List Nat
  retry : Bool
  resets : Bool
deriving DecidableEq, Repr

/-! The module (chapters 17, 20). -/

/-- The rails: off, ramping up, or all in regulation (R567, R579). -/
inductive Supply where
  | off | ramping | good
deriving DecidableEq, Repr

/-- Why the rails are off (R567-R569, R578): no input yet, undervoltage, overvoltage, EN broken, MRESET# low, a rail
fault, the management rail's latch, a trip. -/
inductive OffCause where
  | noInput | underVolt | overVolt | enBreak | mreset | railShort | latched | trip
deriving DecidableEq, Repr

/-- An UNWRAP in progress or waiting (R510, R511): the function it came from, its partition, its addresses, and, once
begun, how many bytes it writes, whether the tag verifies and the digest matches, and the model's digest. -/
structure Unwrap where
  f : Nat
  part : Nat
  src : Nat
  dst : Nat
  begun : Bool
  bytes : Nat
  tagOk : Bool
  digestOk : Bool
  model : List Byte
deriving DecidableEq, Repr

/-- The module beside its registers: its rails, its pins (EN mated, input in range, PERST# and MRESET# low, a cable in
each Belyan port, ALERT#), the progress of a bring-up (the bank that passed, the link, the firmware,
ready, the stacks' tries), what is latched in flash and fuses (the banks' bytes, the bank of the next boot, PENDING and
whether it was tried, the fuse count, the fault log), the rail shutdown, the I3C port (dynamic address, interrupts
enabled, straps, in-band interrupts sent), what Fuane has answered, the mailbox buffers by function, UNWRAPs, and the
transcript of each SPDM endpoint. -/
structure Mod where
  supply : Supply
  off : OffCause
  en : Bool
  input : Bool
  perst : Bool
  mreset : Bool
  cables : SMap Bool
  alert : Bool
  romBank : Option Nat
  romFailed : Bool
  linkUp : Bool
  linkMode : Option (LinkWidth × LinkRate)
  started : Bool
  ready : Bool
  tries : SMap Nat
  banks : SMap Bytes
  bootBank : Nat
  pending : Bool
  tried : Bool
  fuses : Nat
  faultLog : List (Nat × Nat × Nat)
  failCode : Nat
  failDetail : Nat
  railFault : Bool
  i3cAddr : Option Nat
  ibiOn : Bool
  straps : Nat
  ibis : List Nat
  sent : List (Nat × List Byte)
  mbBuf : SMap Bytes
  unwraps : List Unwrap
  spdm : SMap (List Byte)
  spdmState : SMap Nat
deriving DecidableEq, Repr

def Mod.reset : Mod :=
  { supply := .off, off := .noInput, en := false, input := false, perst := true, mreset := false, cables := [],
    alert := false, romBank := none, romFailed := false, linkUp := false, linkMode := none, started := false,
    ready := false, tries := [], banks := [], bootBank := 0, pending := false, tried := false, fuses := 0,
    faultLog := [], failCode := 0, failDetail := 0, railFault := false, i3cAddr := none, ibiOn := false, straps := 3,
    ibis := [], sent := [], mbBuf := [], unwraps := [], spdm := [], spdmState := [] }

/-- The state of the LY-7. -/
structure State where
  /-- The commands that wait, first in first out. -/
  pending : List Instr
  /-- The model's own counter of free values (DESIGN CHOICE, log 3); not the spec's. -/
  freeCtr : Nat
  /-- The model's own mark that an access of the command in progress must wait at a stop or a directory; not the spec's
  (DESIGN CHOICE, log 120). -/
  stalled : Bool
  /-- The management die's local counter, in ns (R497, R560). -/
  now : Nat
  /-- Register fields: key F.num × 65536 + instance. -/
  regs : SMap Nat
  /-- Device memory by device address: HBM, station memory, pinned depot windows (R241). -/
  mem : Bytes
  /-- 64-byte lines with a bad check code (R606), by line number. -/
  ueLines : SMap Bool
  cores : SMap Core
  launches : List Launch
  /-- Accesses held at a station stop (R112, R129, R553). -/
  heldAcc : List (Nat × Access)
  /-- Answers sent to requesters outside the block. -/
  answers : List Answer
  /-- Station caches: key station × 16384 + set × 8 + way. -/
  scache : SMap (Option CLine)
  /-- Pseudo-LRU tree bits of a station-cache set: key station × 2048 + set. -/
  scPlru : SMap Nat
  /-- Depot shares: key slice × 262144 + set × 16 + way, holding the 128-byte line number. -/
  depot : SMap (Option Nat)
  depotPlru : SMap Nat
  /-- Packets in the bulk mesh, in the order they came to their junctions. -/
  mesh : List InMesh
  /-- What the hang detectors see, with since when (R549). -/
  watch : List (Nat × List Nat × Nat)
  /-- The arbiters of the junctions' outputs (R117, R471), by meshOut. -/
  meshArb : SMap Arb
  /-- Packets ejected at their stop: die, packet. -/
  ejected : List (Nat × MeshPacket)
  sigs : List SigMsg
  /-- Signal messages delivered to the management die (STOP 30). -/
  mdSigs : List Signal
  /-- Signal messages delivered to a stop that is neither a conductor complex nor the management die: the die, the
  stop and the message. -/
  stopSigs : List (Nat × Nat × Signal)
  /-- A conductor's receive queue, oldest first (R322). -/
  rxq : SMap (List Signal)
  /-- The rounding generator of a station's KV gate (R155). -/
  kvgLanes : SMap (List W64)
  kvg : SMap Kvg
  points : SMap Points
  bls : SMap Points
  /-- ROUTEs whose combine is due, oldest first. -/
  routes : List Route
  /-- The map of a slot's old epoch, while it drains: offset and length in the map store (R342). -/
  oldMaps : SMap (Nat × Nat)
  dill : List Stream
  /-- Writes of DILL_DECLARE whose records are still to be read: depot die, tag, address (R270). -/
  declares : List (Nat × Who × Nat)
  /-- Prefetches on their way: station, tag and line (R268, R273). -/
  prefetches : List (Nat × Who × Nat)
  /-- The partition that a slice being scrubbed has left (R494). -/
  scrubOf : SMap (Option Nat)
  /-- Demand misses of a station within the last 1,024 cycles: cycle of its region and line, newest first (R269). -/
  missHist : SMap (List (Nat × Nat))
  /-- The core-clock cycles of a region that has been ON, and the part of a cycle in fortieths, by domain (R269). -/
  regionClk : SMap (Nat × Nat)
  wins : SMap Win
  /-- Tables whose commit is pending: partition, its 32 windows (R488). -/
  winsNew : List (Nat × List Win)
  /-- Meters: key partition × 8 + meter (R495). -/
  meters : SMap Nat
  troubles : List TroubleEv
  /-- Packets that wait at the egress ports, in order of arrival (R370). -/
  portQ : List Queued
  /-- What the arbiter of each port keeps. -/
  portArb : SMap PortArb
  /-- The replay buffers: the port and the packet, not yet acknowledged, oldest first (R374). -/
  unacked : List (Nat × Packet)
  remotes : List RemoteReq
  links : SMap Link
  /-- What receivers have answered the senders of flits: port, whether it asks for a replay, sequence number (R374). -/
  flitOut : List (Nat × Bool × Nat)
  /-- Recorded ring breaks: dimension and coordinate, oldest first (R377). -/
  breaks : List (Nat × Nat)
  /-- Directory entries by line number; none is U. -/
  dirs : SMap (Option DirEntry)
  /-- Holders' lines: key holder × 2^34 + line; none is I. -/
  holders : SMap (Option HLine)
  /-- The model's own counter for commands, requests and launches; not the spec's (DESIGN CHOICE, log 26). -/
  nextId : Nat
  funcs : SMap Func
  /-- MSI-X entries: key function × 2048 + vector. -/
  msix : SMap Msix
  /-- TLPs sent to the host, oldest first. -/
  tlps : List Tlp
  posted : SMap (List Posted)
  /-- Translation caches by function, most recently used first (R410). -/
  atc : SMap (List AtcEntry)
  /-- Translation requests out: function and page. -/
  atsOut : List (Nat × Nat)
  hreads : List HRead
  /-- Invalidate Requests not yet completed: function, address, size, tag (R412). -/
  invals : List (Nat × Nat × Nat × Nat)
  rings : SMap Ring
  /-- Tracker entries, in fetch order. -/
  cmds : List Cmd
  intake : List Intake
  /-- Whose turn it is at the queue engine (R398). -/
  turn : QeTurn
  /-- Contexts: key partition × 4096 + number. -/
  ctxs : SMap (Option Ctx)
  /-- Objects and fences: key partition × 65536 + handle. -/
  objs : SMap (Option Obj)
  fences : SMap (Option Fence)
  faults : List HFault
  hints : List Hint
  /-- Requests in the join queue and live ones, in order of arrival (R213, R215). -/
  reqs : List Req
  services : List Service
  /-- Lent extents that a LENT notice granted: consist, device and slice (R352, R353). -/
  lentExt : List (Nat × Nat × Nat)
  chans : SMap Chan
  comp : Option CompJob
  notices : List Notice
  /-- READY reports and switch steps sent to other composers: device, slot, checksum, step (R345). -/
  compOut : List (Nat × Nat × Nat × Nat)
  /-- What reads with a side effect have returned (R593). -/
  reads : List Nat
  /-- Bundle measurements by partition (R494, R504, R510). -/
  measures : SMap (List Byte)
  harts : SMap Hart
  /-- The queue of a die's partial-sort engine, oldest first (R325). -/
  sorts : SMap (List SortJob)
  /-- The rotating pointer of a die's directory (R316). -/
  dirPtr : SMap Nat
  /-- The pseudo-LRU tree of each directory set (R311), by die × 8,192 + set. -/
  dirPlru : SMap Nat
  /-- The requests, of one line each, that wait for an entry of their set (R308, R311). -/
  dirHeld : List (Nat × List DirWait)
  power : Power
  rst : Rst
  /-- Function shutdowns in progress (R413). -/
  shuts : List Shutdown
  mod : Mod
deriving DecidableEq, Repr

/-- The machine after a cold reset with no input applied (DESIGN CHOICE, log 8). -/
def State.reset : State :=
  { pending := [], freeCtr := 0, stalled := false, now := 0, regs := [], mem := [], ueLines := [], cores := [], launches := [],
    heldAcc := [], answers := [], scache := [], scPlru := [], depot := [], depotPlru := [], mesh := [], watch := [], meshArb := [],
    ejected := [], sigs := [], mdSigs := [], stopSigs := [], rxq := [], kvgLanes := [], kvg := [], points := [], bls := [], routes := [], oldMaps := [], dill := [], declares := [], prefetches := [], scrubOf := [], missHist := [], regionClk := [], wins := [], winsNew := [],
    meters := [], troubles := [], portQ := [], portArb := [], unacked := [], remotes := [], links := [], flitOut := [], breaks := [], dirs := [], holders := [],
    nextId := 0, funcs := [], msix := [], tlps := [], posted := [], atc := [], atsOut := [], hreads := [], invals := [],
    rings := [], cmds := [], intake := [], turn := QeTurn.reset, ctxs := [], objs := [], fences := [], faults := [], hints := [], reqs := [], services := [], lentExt := [], chans := [],
    comp := none, notices := [], compOut := [], reads := [], measures := [],
    harts := [], sorts := [], dirPtr := [], dirPlru := [], dirHeld := [],
    power := Power.reset, rst := Rst.reset, shuts := [], mod := Mod.reset }

abbrev Out := Host.Outcome State Fault Refusal

end Sys2Proof.Machine
end

