-- ==== Sys2Proof/Machine/Ops.lean ====
section
/-! DEFINITION. The named operations over the state: register fields, partitions' windows and trouble records,
homes, the depot, station stops, control memory, and the accesses agents make through them. -/
namespace Sys2Proof.Machine

/-! Register fields. -/

/-- The key of an instance of a field. -/
def fkey (f : F) (i : Nat) : Nat := f.num * 65536 + i % 65536

/-- What an unlisted field reads as: its reset value. -/
def fdefault (k : Nat) : Nat := (F.ofNat (k / 65536)).resetAt (k % 65536)

/-- A field's stored value. -/
def fget (s : State) (f : F) (i : Nat := 0) : Nat := SMap.get fdefault s.regs (fkey f i)

/-- Store a field's value, cut to its width. -/
def fset (s : State) (f : F) (i : Nat) (v : Nat) : State :=
  { s with regs := SMap.set fdefault s.regs (fkey f i) (v % 2 ^ f.spec.w) }

/-- Add to a wrapping counter. -/
def finc (s : State) (f : F) (i : Nat) (n : Nat := 1) : State := fset s f i (fget s f i + n)

/-- Add to a saturating counter. -/
def fsat (s : State) (f : F) (i : Nat) (n : Nat := 1) : State :=
  fset s f i (min (fget s f i + n) (2 ^ f.spec.w - 1))

/-- A one-bit field as a truth value. -/
def fbit (s : State) (f : F) (i : Nat := 0) : Bool := fget s f i == 1

/-- Set bit n of a field. -/
def fsetBit (s : State) (f : F) (i n : Nat) (b : Bool) : State := fset s f i (setBits (fget s f i) n 1 (b2n b))

/-! Free values. -/

/-- The next free value, and the state that has drawn it (DESIGN CHOICE, log 3). -/
def draw (s : State) : W64 × State := (Config.freeWord s.freeCtr, { s with freeCtr := s.freeCtr + 1 })

/-- n free bytes. -/
def freeBytes (s : State) (n : Nat) : State × List Byte :=
  ({ s with freeCtr := s.freeCtr + n }, (List.range n).map (fun i => (Config.freeWord (s.freeCtr + i)).setWidth 8))

/-! Topology (R16, R19, R243, R253). -/

def stnBase : Nat := 0x100000000000
def pinBase : Nat := 0x200000000000
def regBase : Nat := 0x300000000000
def sliceBytes : Nat := 0x100000000
def ctlOff : Nat := 0xFF000000

/-- Where a device address lies (R110, R241, R245, R258). -/
inductive Region where
  | hbm (slice : Nat)
  | control (slice : Nat)
  | station (stn off : Nat)
  | window (slice off : Nat)
  | register (off : Nat)
  | unmapped
deriving DecidableEq, Repr

/-- R241, R245. -/
def regionOf (a : Nat) : Region :=
  if a < 0x10000000000 then
    (if ctlOff ≤ a % sliceBytes then .control (a / sliceBytes) else .hbm (a / sliceBytes))
  else if stnBase ≤ a ∧ a < stnBase + 0x100000000 then
    .station ((a - stnBase) / 0x1000000) ((a - stnBase) % 0x1000000)
  else if pinBase ≤ a ∧ a < pinBase + 0x200000000 then
    .window ((a - pinBase) / 0x2000000) ((a - pinBase) % 0x2000000)
  else if regBase ≤ a ∧ a < regBase + 0x4000000 then .register (a - regBase)
  else .unmapped

/-- The device address of an offset in a station's memory (R110). -/
def stnAddr (k off : Nat) : Nat := stnBase + k * 0x1000000 + off

/-- The junction of a station's stop (R115). -/
def stnJunction (s : Nat) : Nat := [1, 2, 7, 8, 3, 4, 9, 10, 19, 20, 25, 26, 21, 22, 27, 28].getD s 0

/-- The power domain of a station's region (R519). -/
def stnDomain (k : Nat) : Nat := 5 * (k / 16) + k % 16 / 4

def domOn : Nat := 0
def domOff : Nat := 4
/-- A region's power state (R520). -/
def stnPower (s : State) (k : Nat) : Nat := fget s .PWR_DOM_STATUS_STATE (stnDomain k)

/-- A station compute reset holds the station: its cores and KV gate stop issue (R553). -/
def inReset (s : State) (k : Nat) : Bool := s.rst.stns.any (·.stn == k)

/-- The partition a slice is bound to. -/
def boundTo (s : State) (k : Nat) : Option Nat :=
  if fbit s .STN_STATUS_BOUND k then some (fget s .STN_STATUS_PART k) else none

/-- The slices bound to a partition. -/
def slicesOf (s : State) (p : Nat) : List Nat := (List.range 256).filter (fun k => boundTo s k == some p)

/-! Sage cores. -/

def getCore (s : State) (c : Nat) : Core := SMap.get (fun _ => Core.reset) s.cores c
def setCore (s : State) (c : Nat) (x : Core) : State :=
  { s with cores := SMap.set (fun _ => Core.reset) s.cores c x }

/-- SAGE_STATUS.STATE's encodings (R106). -/
def stFree : Nat := 0
def stLoading : Nat := 1
def stRunning : Nat := 2
def stEnding : Nat := 3
def stFaulted : Nat := 4
def stFenced : Nat := 7

def coreState (s : State) (c : Nat) : Nat := fget s .SAGE_STATUS_STATE c
def setCoreState (s : State) (c v : Nat) : State := fset s .SAGE_STATUS_STATE c v
/-- The station of a core. -/
def coreStn (c : Nat) : Nat := c / 6

/-! Partitions: meters, trouble records, windows (chapter 17). -/

/-- The message classes of R124. -/
def clsReset : Nat := 0
def clsPower : Nat := 1
def clsBarrier : Nat := 2
def clsLaunch : Nat := 3
def clsCompose : Nat := 4
def clsNotify : Nat := 5

/-- The CC stop of a die (R116) and the management die's stop (R122). -/
def ccStop : Nat := 13
def mdStop : Nat := 30

/-- A signal message enters the network (R121); its address is in the message. -/
def sendSignal (s : State) (die stop : Nat) (m : Signal) : State :=
  { s with sigs := s.sigs ++ [⟨die, stop, m⟩] }

/-- R127, R330: the composer sends a COMPOSE message from the management die. -/
def composeSend (s : State) (die stop part : Nat) (payload : List W32) : State :=
  sendSignal s 16 mdStop ⟨clsCompose, die, stop, part, true, payload⟩

/-- A conductor that serves a partition: the lowest. -/
def servingCnd (s : State) (p : Nat) : Nat :=
  ((List.range 64).find? (fun g => fget s .CND_STATUS_STATE g != 0 && !fbit s .CND_STATUS_OPER g &&
    fget s .CND_STATUS_PART g == p)).getD 0

/-- The meters of R495, numbered in the order of R514. -/
def mCore : Nat := 1
def mHbm : Nat := 2
def mDepot : Nat := 3
def mLink : Nat := 4
def mHost : Nat := 5
def mEnergy : Nat := 6
def mJobs : Nat := 7

def getMeter (s : State) (p m : Nat) : Nat := SMap.get (fun _ => 0) s.meters (p * 8 + m)

/-- Count on a meter: an unmetered partition counts only JOBS, an access with OPER 1 counts nowhere (R495). -/
def meter (s : State) (p : Nat) (oper : Bool) (m n : Nat) : State :=
  if oper || (fbit s .PART_CTRL_CLASS p && m != mJobs) then s
  else { s with meters := SMap.set (fun _ => 0) s.meters (p * 8 + m) ((getMeter s p m + n) % 2 ^ 64) }

/-- The access rights (R484), as FIRST.RIGHT encodes them (R515). -/
inductive Right where
  | read | write | atomic
deriving DecidableEq, Repr

def Right.code : Right → Nat
  | .read => 0 | .write => 1 | .atomic => 2

def Right.sticky : Right → F
  | .read => .TRB_PART_STICKY_VIOL_READ
  | .write => .TRB_PART_STICKY_VIOL_WRITE
  | .atomic => .TRB_PART_STICKY_VIOL_ATOMIC

/-- This device's number (R362). -/
def devNum (s : State) : Nat := fget s .BLY_DEVICE_DEVNUM

/-- R489: the failing lines of one access, to device `dev`. -/
def recordViolations (s : State) (w : Who) (r : Right) (dev : Nat) (fails : List Nat) : State :=
  match fails with
  | [] => s
  | l :: ls =>
    let first := ls.foldl min l
    let p := w.part
    let s := fset s r.sticky p 1
    let s := fsat s .TRB_PART_VIOL_COUNT_COUNT p fails.length
    if fbit s .TRB_PART_STICKY_FIRST_VALID p then s else
    let s := fset s .TRB_PART_FIRST_ADDR p first
    let s := fset s .TRB_PART_FIRST_DEV p dev
    let s := fset s .TRB_PART_FIRST_RIGHT p r.code
    let s := fset s .TRB_PART_AGENT_KIND p w.kind
    let s := fset s .TRB_PART_AGENT_DIE p w.die
    let s := fset s .TRB_PART_AGENT_INDEX p w.index
    fset s .TRB_PART_STICKY_FIRST_VALID p 1

/-- A trouble event is raised (R490, R551): EVENT is set in the partition's record, and the event waits for
the reset unit. -/
def raiseTrouble (s : State) (p : Option Nat) (oper : Bool) (c : Trouble) : State :=
  let s := { s with troubles := s.troubles ++ [⟨p, oper, c⟩] }
  match p with
  | some p => fset s .TRB_PART_STICKY_EVENT p 1
  | none => s

/-- The committed window w of partition p. -/
def getWin (s : State) (p w : Nat) : Win := SMap.get (fun _ => Win.none) s.wins (p * 32 + w)

/-- The window table that one access of partition p is checked against: the committed one, or, while a commit
is pending, the old or the new one (R488), as a free value picks. -/
def winTable (s : State) (p : Nat) : List Win × State :=
  let old := (List.range 32).map (getWin s p)
  match s.winsNew.find? (fun e => e.1 == p) with
  | none => (old, s)
  | some e => let d := draw s; (if bit d.1.toNat 0 then e.2 else old, d.2)

/-- The consist slot that a partition tag and sub-consist name (R336, R348). -/
def slotOf (s : State) (p sub : Nat) : Option Nat :=
  (List.range 256).find? (fun i => fget s .COMP_CONSIST_ID_STATE i != 0 &&
    fget s .COMP_CONSIST_ID_PART i == p && fget s .COMP_CONSIST_ID_SUB i == sub)

/-- A unit of work is issued for a consist: it takes the consist's CUR epoch and counts under it (R341). -/
def epochStart (s : State) (p sub : Nat) : Option EpochRef × State :=
  match slotOf s p sub with
  | some i => (some ⟨i, fget s .COMP_CONSIST_ID_ID i, fget s .COMP_MAP_EPOCH_CUR i⟩, finc s .COMP_INFLIGHT_CUR i)
  | none => (none, s)

/-- It completes, is abandoned by a reset or times out (R341). -/
def epochEnd (s : State) (e : Option EpochRef) : State :=
  match e with
  | none => s
  | some e =>
    if fget s .COMP_CONSIST_ID_STATE e.slot = 0 ∨ fget s .COMP_CONSIST_ID_ID e.slot ≠ e.id then s
    else if fget s .COMP_MAP_EPOCH_CUR e.slot = e.epoch then
      fset s .COMP_INFLIGHT_CUR e.slot (fget s .COMP_INFLIGHT_CUR e.slot - 1)
    else if fget s .COMP_MAP_EPOCH_OLD e.slot = e.epoch then
      fset s .COMP_INFLIGHT_OLD e.slot (fget s .COMP_INFLIGHT_OLD e.slot - 1)
    else s

/-- The windows of the consist or sub-consist that a tag names (R349): the slot's WINDOWS mask in LY-5 mode.  A `sub`
of 4 names none, and every window counts (R456). -/
def winMask (s : State) (p sub : Nat) : Nat :=
  if fbit s .COMP_PART_CFG_MODE p && decide (sub < 4) then
    match slotOf s p sub with
    | some i => fget s .COMP_WINDOWS_MASK i
    | none => 0
  else 0xFFFFFFFF

def Win.grants (w : Win) : Right → Bool
  | .read => w.r | .write => w.w | .atomic => w.a

/-- R483, R484: whether one window covers the whole line and grants the right; `dev` is the peer's number for
a REMOTE access. -/
def lineOk (tbl : List Win) (mask : Nat) (dev : Option Nat) (r : Right) (line : Nat) : Bool :=
  (tbl.zip (List.range 32)).any (fun e =>
    bit mask e.2 && e.1.enable && e.1.base < e.1.limit && e.1.grants r
    && (match dev with
        | none => !e.1.remote
        | some d => e.1.remote && e.1.dev == d)
    && decide (e.1.base ≤ 64 * line) && decide (64 * line + 64 ≤ e.1.limit))

/-- The register offsets R487 opens to a requester with OPER 0: the station and KV gate registers of its bound
slices, its Branch-line unit, the channels it owns, and the fields other chapters open to conductors (R172,
R270, R550; DEDUCED, log 20). -/
def regOpen (s : State) (w : Who) (off : Nat) : Bool :=
  let inDie := 0x2000000 ≤ off ∧ off < 0x3000000
  let d := (off - 0x2000000) / 0x100000
  let u := (off - 0x2000000) % 0x100000
  let mine := fun k => boundTo s k == some w.part
  let ch := (off - 0x1000000) / 0x100
  (decide inDie && decide (0x8000 ≤ u ∧ u < 0x9000) && mine (d * 16 + (u - 0x8000) / 0x100)) ||
  (decide inDie && decide (0xD000 ≤ u ∧ u < 0xE000) && mine (d * 16 + (u - 0xD000) / 0x100)) ||
  (decide inDie && decide (0xF000 ≤ u ∧ u < 0xF400) && d * 4 + (u - 0xF000) / 0x100 == w.part) ||
  (decide (0x1000000 ≤ off ∧ off < 0x1040000) && fbit s .CHV_CH_OWNER_VALID ch
    && !(fbit s .CHV_CH_OWNER_OPER ch) && fget s .CHV_CH_OWNER_PART ch == w.part) ||
  (w.kind == 6 &&
    ((decide inDie && d == w.die && u == 0xE020 + 4 * (w.index % 4)) ||
     off == 0x600400 + 4 * (w.die * 4 + w.index % 4) ||
     off == 0x600800 + 0x20 * w.part + 0x14 ||
     (decide (0x3C00000 ≤ off ∧ off < 0x4000000) && decide (0x208 ≤ off % 0x80000 ∧ off % 0x80000 < 0x210))))

/-- A piece of an access within one 64-byte line. -/
structure Piece where
  addr : Nat
  len : Nat
deriving DecidableEq, Repr

/-- The pieces of n bytes from a, one per 64-byte line, on fuel. -/
def piecesFrom : Nat → Nat → Nat → List Piece
  | 0, _, _ => []
  | f + 1, a, n =>
    if n = 0 then [] else
    let k := min n (64 - a % 64)
    ⟨a, k⟩ :: piecesFrom f (a + k) (n - k)

def pieces (a n : Nat) : List Piece := piecesFrom (n / 64 + 2) a n

/-- R446, R487: a write that passes to a Chervil channel's registers, whoever owns it: one that the channel
ignores is counted there and is no violation. -/
def chanWrite (r : Right) (off : Nat) : Bool := r == .write && decide (0x1000000 ≤ off ∧ off < 0x1040000)

/-- R484, R486, R487, R489: whether an access may proceed on a line of this device. -/
def linePasses (s : State) (tbl : List Win) (w : Who) (r : Right) (p : Piece) : Bool :=
  match regionOf p.addr with
  | .unmapped => false
  | .control _ => true
  | .register off => w.oper || (r != .atomic && (regOpen s w off || chanWrite r off) && (findReg pfRows off).isSome)
  | _ => w.oper || w.lent || lineOk tbl (winMask s w.part w.sub) none r (p.addr / 64)

/-- Check an access's pieces: the passing ones are told by their line; violations are recorded (R489).  An
unmapped line is a violation whoever touches it, unless it carries OPER, which has no record (DEDUCED, log 21). -/
def checkAccess (s : State) (w : Who) (r : Right) (ps : List Piece) : (Piece → Bool) × State :=
  let t := winTable s w.part
  let s := t.2
  let fails := ((ps.filter (fun p => !linePasses s t.1 w r p)).map (fun p => p.addr / 64)).eraseDups
  let s' := if w.oper then s else recordViolations s w r (devNum s) fails
  (fun p => linePasses s t.1 w r p, s')

/-- R469: labels are not trusted. -/
def fixedMode (s : State) : Bool := fget s .TC_MODE_MODE 0 != 1 || fbit s .TC_MODE_RECOVERY

/-- R466-R469: the class of a request: its master port's in fixed mode, else its task's label. -/
def trafficClass (s : State) (port label : Nat) : Nat := if fixedMode s then port else min label 6

/-- R468: the label of a task, lowered to its partition's MAX. -/
def taskLabel (s : State) (p label : Nat) : Nat := min label (fget s .TC_PART_CFG_MAX p)

/-- R469: the class of an agent's master port. -/
def portClass (kind : Nat) : Nat :=
  if kind = 1 ∨ kind = 2 then 4 else if kind = 3 ∨ kind = 5 then 5 else if kind = 4 then 2 else 6

/-- R466-R469: the class of the requests of a unit's command, by the label that its task carries. -/
def taskClass (s : State) (w : Who) (label : Nat) : Nat := trafficClass s (portClass w.kind) (taskLabel s w.part label)

/-! Homes (chapter 08). -/

/-- R252: the slice is being scrubbed. -/
def scrubbing (s : State) (k : Nat) : Bool := bit (fget s .HBM_STATUS_SCRUBBING (k / 16)) (k % 16)

/-- R247, R351: the home of slice k accepts the access; that of a lent slice the grantee's, which may be of this device. -/
def homeAccepts (s : State) (w : Who) (k : Nat) : Bool :=
  w.oper || boundTo s k == some w.part ||
  (fbit s .COMP_LEND_VALID k && fget s .COMP_LEND_PART k == w.part &&
    (w.lent || (fget s .COMP_LEND_DEV k == devNum s && (match slotOf s w.part w.sub with
      | some i => fget s .COMP_CONSIST_ID_ID i == fget s .COMP_LEND_CONSIST k
      | none => false))))

def isUe (s : State) (line : Nat) : Bool := SMap.get (fun _ => false) s.ueLines line
def setUe (s : State) (line : Nat) (b : Bool) : State :=
  { s with ueLines := SMap.set (fun _ => false) s.ueLines line b }

/-- R249, R257: an uncorrectable line is found, by an access (kind 0) or by patrol (kind 1). -/
def ueFound (s : State) (k line : Nat) (window : Bool) (kind : Nat) : State :=
  let d := k / 16
  let s :=
    if window then fsat s .DEP_UE_COUNT_COUNT (k / 32)
    else
      let s := fsat s .HBM_UE_COUNT_COUNT d
      if fbit s .HBM_ERR_LOG_VALID d then s else
      let s := fset s .HBM_ERR_LOG_ADDR d (64 * line)
      let s := fset s .HBM_ERR_LOG_KIND d kind
      fset s .HBM_ERR_LOG_VALID d 1
  raiseTrouble s (boundTo s k) false .hbmUe

/-! The binary-tree pseudo-LRU (R256, R262; PRESUMED, log 22): `n` levels; bit i of the tree set means the next victim
lies in the right half below node i. -/

/-- The victim the tree points at. -/
def plruVictim : Nat → Nat → Nat → Nat → Nat
  | 0, _, _, acc => acc
  | n + 1, tree, node, acc =>
    let b := if bit tree node then 1 else 0
    plruVictim n tree (2 * node + 1 + b) (2 * acc + b)

/-- The tree after an access to a way: every node on its path points away from it. -/
def plruTouch : Nat → Nat → Nat → Nat → Nat
  | 0, tree, _, _ => tree
  | n + 1, tree, node, way =>
    let b := way / 2 ^ n % 2
    plruTouch n (setBits tree node 1 (1 - b)) (2 * node + 1 + b) way

def depotKey (k set way : Nat) : Nat := k * 262144 + set * 16 + way
def depotGet (s : State) (k set way : Nat) : Option Nat := SMap.get (fun _ => none) s.depot (depotKey k set way)
def depotSet (s : State) (k set way : Nat) (v : Option Nat) : State :=
  { s with depot := SMap.set (fun _ => none) s.depot (depotKey k set way) v }
def depotTree (s : State) (k set : Nat) : Nat := SMap.get (fun _ => 0) s.depotPlru (k * 16384 + set)
def depotTouch (s : State) (k set way : Nat) : State :=
  { s with depotPlru := SMap.set (fun _ => 0) s.depotPlru (k * 16384 + set) (plruTouch 4 (depotTree s k set) 0 way) }

/-- The way of slice k's share that holds the 128-byte line of an address (R253). -/
def depotWay (s : State) (k a : Nat) : Option Nat :=
  (List.range 16).find? (fun way => depotGet s k (a / 128 % 16384) way == some (a / 128))

/-- R258: the ways of a share pinned as its window. -/
def pinWays (s : State) (k : Nat) : Nat := fget s .DEP_SLICE_CFG_PIN_WAYS k

/-- The victim among the ways that `ok` allows: where a half has none of them, the tree's bit does not count. -/
def plruAmong (ok : Nat → Bool) : Nat → Nat → Nat → Nat → Nat
  | 0, _, _, acc => acc
  | n + 1, tree, node, acc =>
    let any := fun (half : Nat) => (List.range (2 ^ n)).any (fun i => ok ((2 * acc + half) * 2 ^ n + i))
    let b := if any 1 && (bit tree node || !any 0) then 1 else 0
    plruAmong ok n tree (2 * node + 1 + b) (2 * acc + b)

/-- The way an allocation takes: an invalid unpinned way first, else the tree's victim among the unpinned ways (R256). -/
def depotVictim (s : State) (k set : Nat) : Option Nat :=
  let free := (List.range 16).filter (fun w => decide (pinWays s k ≤ w))
  match free.find? (fun w => depotGet s k set w == none) with
  | some w => some w
  | none => if free.isEmpty then none else some (plruAmong (fun w => decide (pinWays s k ≤ w)) 4 (depotTree s k set) 0 0)

/-- R255, R256: allocate the 128-byte line of an address in the share; a line with a bad check code is not
installed (R606). -/
def depotFill (s : State) (k a : Nat) : State :=
  let set := a / 128 % 16384
  if isUe s (a / 128 * 2) || isUe s (a / 128 * 2 + 1) then s else
  match depotVictim s k set with
  | none => s
  | some w =>
    let s := depotSet s k set w (some (a / 128))
    let s := depotTouch s k set w
    finc s .DEP_FILLS_COUNT k

/-- A read at the home of an HBM address, of bytes within one line (R246-R249, R252, R255).  The result is the
bytes and the error mark.  A demand fill reads both halves of its 128-byte line. -/
def homeRead (s : State) (w : Who) (k : Nat) (p : Piece) (nt stream : Bool) : State × List Byte × Bool :=
  let zeros := List.replicate p.len (0 : Byte)
  if scrubbing s k then (s, zeros, false) else
  if !homeAccepts s w k then (fsat s .HBM_TAG_DROPS_COUNT (k / 16), zeros, false) else
  match depotWay s k p.addr with
  | some way =>
    let s := depotTouch s k (p.addr / 128 % 16384) way
    let s := finc s .DEP_HITS_COUNT k
    let s := meter s w.part w.oper mDepot 1
    (s, Bytes.read s.mem p.addr p.len, false)
  | none =>
    let s := finc s .DEP_MISSES_COUNT k
    let s := finc s .HBM_READ_BYTES_COUNT (k / 16)
    let s := meter s w.part w.oper mHbm 1
    if isUe s (p.addr / 64) then (ueFound s k (p.addr / 64) false 0, zeros, true) else
    let data := Bytes.read s.mem p.addr p.len
    if fbit s .DEP_SLICE_CFG_DEMAND k && !nt && !stream then
      (depotFill (meter (finc s .HBM_READ_BYTES_COUNT (k / 16)) w.part w.oper mHbm 1) k p.addr, data, false)
    else (s, data, false)

/-- Bytes to be written within one 64-byte line, each with its address: a byte mask and its data. -/
abbrev LineData := List (Nat × Byte)

/-- The line data of a byte string at an address. -/
def lineData (a : Nat) (bs : List Byte) : LineData := (List.range bs.length).map (fun i => (a + i, bs.getD i 0))

/-- Write line data into a memory. -/
def Bytes.putAll (m : Bytes) (ds : LineData) : Bytes := ds.foldl (fun m d => Bytes.set m d.1 d.2) m

/-- Write bytes into a line at its home's memory: a partial write of a line with a bad check code zeroes the
rest of it, and any write stores a valid code (R606). -/
def storeLine (s : State) (line : Nat) (data : LineData) : State :=
  if isUe s line then
    let s := setUe s line false
    { s with mem := Bytes.putAll (Bytes.write s.mem (64 * line) (List.replicate 64 0)) data }
  else { s with mem := Bytes.putAll s.mem data }

/-- A write at the home of an HBM address (R246, R247, R252, R254): the share is write-through. -/
def homeWrite (s : State) (w : Who) (k line : Nat) (data : LineData) : State :=
  if scrubbing s k then s else
  if !homeAccepts s w k then fsat s .HBM_TAG_DROPS_COUNT (k / 16) else
  let s := finc s .DEP_MISSES_COUNT k
  let s := finc s .HBM_WRITE_BYTES_COUNT (k / 16)
  let s := meter s w.part w.oper mHbm 1
  storeLine s line data

/-- A read of a pinned window at the home (R257, R258). -/
def windowRead (s : State) (w : Who) (k off : Nat) (p : Piece) : State × List Byte × Bool :=
  let zeros := List.replicate p.len (0 : Byte)
  if !homeAccepts s w k then (fsat s .HBM_TAG_DROPS_COUNT (k / 16), zeros, false) else
  if pinWays s k * 0x200000 ≤ off then (s, zeros, false) else
  let s := finc s .DEP_HITS_COUNT k
  let s := meter s w.part w.oper mDepot 1
  if isUe s (p.addr / 64) then (ueFound s k (p.addr / 64) true 0, zeros, true)
  else (s, Bytes.read s.mem p.addr p.len, false)

def windowWrite (s : State) (w : Who) (k off line : Nat) (data : LineData) : State :=
  if !homeAccepts s w k then fsat s .HBM_TAG_DROPS_COUNT (k / 16) else
  if pinWays s k * 0x200000 ≤ off then s else
  let s := finc s .DEP_HITS_COUNT k
  let s := meter s w.part w.oper mDepot 1
  storeLine s line data

/-! Station stops (R111, R112). -/

/-- An access that reaches station k must wait: its stores are being cleared, its region sleeps, or a reset
holds the stop (R112, R129, R553). -/
def stopHeld (s : State) (k : Nat) : Bool :=
  fbit s .STN_STATUS_CLEARING k || inReset s k || (stnPower s k != domOn && stnPower s k != domOff)

/-- R111: the stop's tag check. -/
def stopAccepts (s : State) (w : Who) (k : Nat) : Bool := w.oper || boundTo s k == some w.part

/-- A read of station memory at its stop: R110, R111, R112. -/
def stationRead (s : State) (w : Who) (k off : Nat) (p : Piece) : State × List Byte × Bool :=
  let zeros := List.replicate p.len (0 : Byte)
  if stnPower s k = domOff then (fset s .STN_TROUBLE_REGION_OFF k 1, zeros, false) else
  if !stopAccepts s w k then (fset s .STN_TROUBLE_TAG_MISMATCH k 1, zeros, false) else
  if 0x800000 ≤ off then (s, zeros, false) else (s, Bytes.read s.mem p.addr p.len, false)

def stationWrite (s : State) (w : Who) (k off : Nat) (data : LineData) : State :=
  if stnPower s k = domOff then fset s .STN_TROUBLE_REGION_OFF k 1 else
  if !stopAccepts s w k then fset s .STN_TROUBLE_TAG_MISMATCH k 1 else
  if 0x800000 ≤ off then s else { s with mem := Bytes.putAll s.mem data }

/-! Control memory through the directory, for agents that do not cache (R310, R311, R318, R319). -/

def getDir (s : State) (line : Nat) : Option DirEntry := SMap.get (fun _ => none) s.dirs line
def setDir (s : State) (line : Nat) (e : Option DirEntry) : State :=
  { s with dirs := SMap.set (fun _ => none) s.dirs line e }
def holderKey (h line : Nat) : Nat := h * 2 ^ 34 + line
def getHolder (s : State) (h line : Nat) : Option HLine := SMap.get (fun _ => none) s.holders (holderKey h line)
def getHart (s : State) (g : Nat) : Hart := SMap.get (fun _ => Hart.reset) s.harts g
def setHart (s : State) (g : Nat) (x : Hart) : State :=
  { s with harts := SMap.set (fun _ => Hart.reset) s.harts g x }
/-- A holder's copy of a line comes, changes or goes; a conductor's reservation and its L1 copy go with the line (R304,
R313). -/
def setHolder (s : State) (h line : Nat) (e : Option HLine) : State :=
  let s := { s with holders := SMap.set (fun _ => none) s.holders (holderKey h line) e }
  if e = none ∧ h < 64 then
    let k := getHart s h
    let k := { k with icache := SMap.erase line k.icache, l1d := k.l1d.filter (· != line) }
    setHart s h (if k.rsv = some line then { k with rsv := none, defer := 0 } else k)
  else s
/-- R313: a conductor defers the snoops of a line. -/
def deferring (s : State) (line : Nat) : Bool := s.harts.any (fun e => e.2.defer != 0 && e.2.rsv == some line)

/-- The holders a vector names. -/
def holderList (v : Nat) : List Nat := (List.range 72).filter (bit v)

/-- The die whose directory is the home of a control-memory line (R308). -/
def dirDie (line : Nat) : Nat := line / 2 ^ 26 / 16

/-- R318: the line lies in its die's SHARED region. -/
def isShared (s : State) (line : Nat) : Bool :=
  let d := dirDie line
  decide (fget s .CTL_SHARED_BASE_ADDR d ≤ line ∧ line < fget s .CTL_SHARED_LIMIT_ADDR d)

/-- R318: whether the directory serves a request with a tag; `own` asks for ownership.  The operator's non-caching accesses
reach every line (DEDUCED from R512, log 125). -/
def dirAllows (s : State) (part : Nat) (oper own : Bool) (line : Nat) : Bool :=
  oper || (if isShared s line then !own else boundTo s (line / 2 ^ 26) == some part)

/-- R319: a refused request is counted and marked in the requester's record. -/
def dirRefuse (s : State) (part line : Nat) : State :=
  let s := fsat s .CTL_TAG_DROPS_COUNT (dirDie line)
  fset s .TRB_PART_STICKY_TAG_REFUSED part 1

/-- A request in progress keeps an entry: it waits for answers, holds requests, or has a write-back out. -/
def DirEntry.active (e : DirEntry) : Bool := e.busy.isSome || !e.waiters.isEmpty || e.wbOut

/-- Write an owner's dirty data to the home, where it has some. -/
def flushHolder (s : State) (h line : Nat) : State :=
  match getHolder s h line with
  | some ⟨.M, data⟩ =>
    let k := line / 2 ^ 26
    let s := finc (finc s .HBM_WRITE_BYTES_COUNT (k / 16)) .DEP_MISSES_COUNT k
    storeLine s line (lineData (64 * line) data)
  | _ => s

/-- Invalidate every holder of a line, an owner's dirty data written home first; the entry goes to U (R311). -/
def dirInvalidate (s : State) (line : Nat) : State :=
  match getDir s line with
  | none => s
  | some e =>
    let s := (holderList e.holders).foldl (fun s h => setHolder (flushHolder s h line) h line none) s
    setDir s line (if e.active then some { e with owned := false, holders := 0 } else none)

/-- Take an owner down to S, its dirty data written home (R311). -/
def dirShare (s : State) (line : Nat) : State :=
  match getDir s line with
  | some e =>
    if e.owned then
      let s := (holderList e.holders).foldl (fun s h =>
        match getHolder s h line with
        | some l => setHolder (flushHolder s h line) h line (some ⟨.S, l.data⟩)
        | none => s) s
      setDir s line (some { e with owned := false })
    else s
  | none => s

/-- ReadNC (R311). -/
def readNC (s : State) (w : Who) (p : Piece) : State × List Byte × Bool :=
  let zeros := List.replicate p.len (0 : Byte)
  let line := p.addr / 64
  let k := p.addr / sliceBytes
  if scrubbing s k then (s, zeros, false) else
  if !dirAllows s w.part w.oper false line then (dirRefuse s w.part line, zeros, false) else
  let s := dirShare s line
  let s := finc s .HBM_READ_BYTES_COUNT (k / 16)
  let s := finc s .DEP_MISSES_COUNT k
  let s := meter s w.part w.oper mHbm 1
  if isUe s line then (ueFound s k line false 0, zeros, true) else (s, Bytes.read s.mem p.addr p.len, false)

/-- WriteNC with a byte mask (R311); the masked bytes are the piece's. -/
def writeNC (s : State) (w : Who) (line : Nat) (data : LineData) : State :=
  let k := 64 * line / sliceBytes
  if scrubbing s k then s else
  if !dirAllows s w.part w.oper true line then dirRefuse s w.part line else
  let s := dirInvalidate s line
  let s := finc s .HBM_WRITE_BYTES_COUNT (k / 16)
  let s := finc s .DEP_MISSES_COUNT k
  let s := meter s w.part w.oper mHbm 1
  storeLine s line data

/-! Atomics (R89, R299-R301, R606). -/

/-- R89: the bytes an atomic operation covers. -/
def atomBytes (op : Nat) : Nat := if op = 0 ∨ op = 2 then 4 else 8

/-- R89: the result of an atomic operation on an old value. -/
def atomResult (op : Nat) (old b : Nat) : Nat :=
  match op with
  | 0 => (old + b) % 2 ^ 32
  | 1 => (old + b) % 2 ^ 64
  | 2 => (fadd (BitVec.ofNat 32 old) (BitVec.ofNat 32 b)).toNat
  | 3 => if signed 64 old < signed 64 b then b % 2 ^ 64 else old
  | 4 => if signed 64 b < signed 64 old then b % 2 ^ 64 else old
  | 5 => Nat.land old b
  | 6 => Nat.lor old b
  | 7 => Nat.xor old b
  | _ => b % 2 ^ 64

/-- What an atomic does at its home: the new value, if it writes. -/
inductive AtomDo where
  | op (code : Nat) (operand : Nat)
  | cas (cmp swap : Nat)
deriving DecidableEq, Repr

def AtomDo.bytes : AtomDo → Nat
  | .op c _ => atomBytes c
  | .cas _ _ => 8

def AtomDo.result (x : AtomDo) (old : Nat) : Option Nat :=
  match x with
  | .op c b => some (atomResult c old (b % 2 ^ (8 * atomBytes c)))
  | .cas cmp swap => if old = cmp then some swap else none

/-- An atomic at a line of HBM reads it, and writes it unless a CAS fails: bytes and meter (R277, R495). -/
def atomCount (s : State) (w : Who) (k : Nat) (wrote : Bool) : State :=
  let s := finc (finc s .DEP_MISSES_COUNT k) .HBM_READ_BYTES_COUNT (k / 16)
  let s := if wrote then finc s .HBM_WRITE_BYTES_COUNT (k / 16) else s
  meter s w.part w.oper mHbm (1 + b2n wrote)

/-- Perform an atomic on the home's bytes: a bad line takes zero as its old value and is handled as a read
(R606). -/
def atomAt (s : State) (k a : Nat) (window : Bool) (x : AtomDo) : State × Nat :=
  let ue := isUe s (a / 64)
  let s := if ue then ueFound s k (a / 64) window 0 else s
  let old := if ue then 0 else Bytes.le s.mem a x.bytes
  match x.result old with
  | some v => (storeLine s (a / 64) (lineData a (leBytes x.bytes v)), old)
  | none => (s, old)

/-- An atomic at a device address, at the home of the address (R89, R246, R280).  The old value is 0 where the
access is refused. -/
def atomicAt (s : State) (w : Who) (a : Nat) (x : AtomDo) : State × Nat :=
  match regionOf a with
  | .hbm k =>
    if scrubbing s k then (s, 0) else
    if !homeAccepts s w k then (fsat s .HBM_TAG_DROPS_COUNT (k / 16), 0) else
    let r := atomAt s k a false x
    (atomCount r.1 w k (x.result r.2).isSome, r.2)
  | .control k =>
    if scrubbing s k then (s, 0) else
    if !dirAllows s w.part w.oper true (a / 64) then (dirRefuse s w.part (a / 64), 0) else
    let r := atomAt (dirInvalidate s (a / 64)) k a false x
    (atomCount r.1 w k (x.result r.2).isSome, r.2)
  | .window k off =>
    if !homeAccepts s w k then (fsat s .HBM_TAG_DROPS_COUNT (k / 16), 0) else
    if pinWays s k * 0x200000 ≤ off then (s, 0) else
    let s := finc s .DEP_HITS_COUNT k
    let s := meter s w.part w.oper mDepot 1
    atomAt s k a true x
  | .station k off =>
    if stnPower s k = domOff then (fset s .STN_TROUBLE_REGION_OFF k 1, 0) else
    if !stopAccepts s w k then (fset s .STN_TROUBLE_TAG_MISMATCH k 1, 0) else
    if 0x800000 ≤ off then (s, 0) else
    let old := Bytes.le s.mem a x.bytes
    match x.result old with
    | some v => ({ s with mem := Bytes.write s.mem a (leBytes x.bytes v) }, old)
    | none => (s, old)
  | .register _ => (s, 0)
  | .unmapped => (s, 0)

/-! Accesses at their homes, after the window check. -/

/-- A read of one piece at the home of its address (R280), registers apart. -/
def readAt (s : State) (w : Who) (p : Piece) (nt stream : Bool) : State × List Byte × Bool :=
  match regionOf p.addr with
  | .hbm k => homeRead s w k p nt stream
  | .control _ => readNC s w p
  | .station k off => stationRead s w k off p
  | .window k off => windowRead s w k off p
  | .register _ => (s, List.replicate p.len 0, false)
  | .unmapped => (s, List.replicate p.len 0, false)

/-- A write of bytes within one line at the home of its address, registers apart. -/
def writeAt (s : State) (w : Who) (line : Nat) (data : LineData) : State :=
  match regionOf (64 * line) with
  | .hbm k => homeWrite s w k line data
  | .control _ => writeNC s w line data
  | .station k off => stationWrite s w k off data
  | .window k off => windowWrite s w k off line data
  | .register _ => s
  | .unmapped => s

/-- Some line of an access lies at a stop that holds it, or in a directory line with a request in progress. -/
def accessHeld (s : State) (ps : List Piece) : Bool :=
  ps.any (fun p => match regionOf p.addr with
    | .station k _ => stopHeld s k
    | .control _ => deferring s (p.addr / 64) || (match getDir s (p.addr / 64) with
      | some e => e.active
      | none => false)
    | _ => false)

/-- A device agent's access to pieces is made: one that a stop or a directory holds marks the agent's command, which waits
(R112, R129, R311; DESIGN CHOICE, log 120). -/
def reach (s : State) (ps : List Piece) : State := if accessHeld s ps then { s with stalled := true } else s

/-- An agent's command that makes an access which is held is not performed now: nothing of it happens, and it may be given
again. -/
def patient (s : State) (f : State → Out) : Out :=
  match f { s with stalled := false } with
  | .next t => if t.stalled then .next s else .next t
  | o => o

end Sys2Proof.Machine
end

