-- ==== Sys2Proof/Machine/StCache.lean ====
section
/-! DEFINITION. The station cache (spec R261-R266, R285, R289) and the Dill prefetchers' streams (R267-R273). -/
namespace Sys2Proof.Machine

def scKey (st set way : Nat) : Nat := st * 16384 + set * 8 + way
def scGet (s : State) (st set way : Nat) : Option CLine := SMap.get (fun _ => none) s.scache (scKey st set way)
def scSet (s : State) (st set way : Nat) (l : Option CLine) : State :=
  { s with scache := SMap.set (fun _ => none) s.scache (scKey st set way) l }
def scTree (s : State) (st set : Nat) : Nat := SMap.get (fun _ => 0) s.scPlru (st * 2048 + set)
def scTouch (s : State) (st set way : Nat) : State :=
  { s with scPlru := SMap.set (fun _ => 0) s.scPlru (st * 2048 + set) (plruTouch 3 (scTree s st set) 0 way) }

/-- The set of a line (R261). -/
def scIndex (line : Nat) : Nat := line % 2048

/-- The way of a station's cache that holds a line. -/
def scFind (s : State) (st line : Nat) : Option (Nat × CLine) :=
  (List.range 8).findSome? (fun way =>
    match scGet s st (scIndex line) way with
    | some l => if l.line = line then some (way, l) else none
    | none => none)

def allBytes : Nat := 2 ^ 64 - 1

/-- The dirty bytes of a line, with their addresses. -/
def CLine.dirtyData (l : CLine) : LineData :=
  ((List.range 64).filter (bit l.dirty)).map (fun i => (64 * l.line + i, Bytes.get l.data i))

/-- R261: a station cache holds lines of HBM outside control memory and of pinned windows. -/
def cacheable (a : Nat) : Bool :=
  match regionOf a with
  | .hbm _ => true
  | .window _ _ => true
  | _ => false

/-- The tag a write-back carries (R262). -/
def wbWho (st part : Nat) : Who := ⟨part, 0, false, 1, st / 16, st % 16 * 6, false⟩

/-- Write a line's dirty bytes back to its home (R262). -/
def scWriteBack (s : State) (st : Nat) (l : CLine) : State :=
  if l.dirty = 0 then s else
  let s := writeAt s (wbWho st l.part) l.line l.dirtyData
  finc s .SC_WRITEBACKS_COUNT st

/-- Evict one way of a set: dirty bytes are written back, the line becomes invalid (R262, R286). -/
def scEvict (s : State) (st set way : Nat) : State :=
  match scGet s st set way with
  | some l => scSet (scWriteBack s st l) st set way none
  | none => s

/-- The way that an allocation takes: an invalid one, else the pseudo-LRU victim (R262). -/
def scVictim (s : State) (st set : Nat) : Nat :=
  match (List.range 8).find? (fun w => scGet s st set w == none) with
  | some w => w
  | none => plruVictim 3 (scTree s st set) 0 0

/-- Put a line into the cache, evicting what stands in its way. -/
def scInstall (s : State) (st : Nat) (l : CLine) : State :=
  let set := scIndex l.line
  let way := scVictim s st set
  let s := scEvict s st set way
  scTouch (scSet s st set way (some l)) st set way

/-- The bytes of a line as a byte map by position. -/
def lineBytes (bs : List Byte) : Bytes := Bytes.write [] 0 bs

/-- Fetched bytes merged under the dirty ones (R262). -/
def CLine.merge (l : CLine) (fetched : List Byte) : CLine :=
  { l with present := allBytes
           data := (List.range 64).foldl (fun m i =>
             if bit l.dirty i then m else Bytes.set m i (fetched.getD i 0)) l.data }

/-- A read through the station cache, of bytes within one cacheable line (R262, R266).  A read of a line whose
bytes are not all present, or that is partly dirty, fetches the line. -/
def scRead (s : State) (w : Who) (st : Nat) (p : Piece) (nt stream : Bool) : State × List Byte × Bool :=
  let line := p.addr / 64
  let o := p.addr % 64
  let whole : Piece := ⟨64 * line, 64⟩
  match scFind s st line with
  | some (way, l) =>
    let s := scTouch s st (scIndex line) way
    if l.present = allBytes ∧ (l.dirty = 0 ∨ l.dirty = allBytes) then
      let s := finc s .SC_HITS_COUNT st
      let s := scSet s st (scIndex line) way (some { l with prefetched := false })
      (s, Bytes.read l.data o p.len, false)
    else
      let s := finc s .SC_MISSES_COUNT st
      let r := readAt s w whole nt stream
      let l' := { l.merge r.2.1 with prefetched := false }
      let s := if r.2.2 then r.1 else scSet r.1 st (scIndex line) way (some l')
      (s, Bytes.read l'.data o p.len, r.2.2)
  | none =>
    let s := finc s .SC_MISSES_COUNT st
    let r := readAt s w whole nt stream
    let data := (r.2.1.drop o).take p.len
    if nt || r.2.2 then (r.1, data, r.2.2)
    else (scInstall r.1 st ⟨line, allBytes, 0, lineBytes r.2.1, w.part, false⟩, data, false)

/-- A line with some of its bytes written. -/
def CLine.put (l : CLine) (part : Nat) (ds : LineData) : CLine :=
  { l with present := ds.foldl (fun m d => setBits m (d.1 % 64) 1 1) l.present
           dirty := ds.foldl (fun m d => setBits m (d.1 % 64) 1 1) l.dirty
           data := ds.foldl (fun m d => Bytes.set m (d.1 % 64) d.2) l.data
           part := part
           prefetched := false }

/-- A write through the station cache, of bytes within one cacheable line (R262, R266): a write allocates
without reading; with NT it allocates none. -/
def scWrite (s : State) (w : Who) (st line : Nat) (ds : LineData) (nt : Bool) : State :=
  match scFind s st line with
  | some (way, l) =>
    let s := finc s .SC_HITS_COUNT st
    let s := scTouch s st (scIndex line) way
    scSet s st (scIndex line) way (some (l.put w.part ds))
  | none =>
    let s := finc s .SC_MISSES_COUNT st
    if nt then writeAt s w line ds
    else scInstall s st ((⟨line, 0, 0, [], w.part, false⟩ : CLine).put w.part ds)

/-- R263, R285: an access that bypasses the cache first writes back and invalidates its own line. -/
def scBypass (s : State) (st line : Nat) : State :=
  match scFind s st line with
  | some (way, _) => scEvict s st (scIndex line) way
  | none => s

/-- R264, R273, R289: the valid bit of every clean line of a station's cache is cleared; dirty lines stay.  The lanes of
the station request again what they had requested. -/
def scClearClean (s : State) (st : Nat) : State :=
  { s with scache := s.scache.filter (fun e => !(e.1 / 16384 == st &&
      (match e.2 with
       | some l => l.dirty == 0
       | none => true)))
           dill := s.dill.map (fun t => { t with lanes := t.lanes.map (fun l =>
             if l.station == st then { l with ahead := [] } else l) }) }

/-- The lines of a station's cache in a range, with their set and way. -/
def scLinesIn (s : State) (st lo hi : Nat) : List (Nat × CLine) :=
  s.scache.filterMap (fun e =>
    match e.2 with
    | some l => if e.1 / 16384 = st ∧ lo ≤ l.line ∧ l.line < hi then some (e.1 % 16384, l) else none
    | none => none)

/-- R90, R265: FLUSH of the lines [lo, hi) with its action: 0 write back and keep, 1 write back and invalidate,
2 invalidate and discard. -/
def scFlush (s : State) (st lo hi mode : Nat) : State :=
  (scLinesIn s st lo hi).foldl (fun s e =>
    let set := e.1 / 8
    let way := e.1 % 8
    match mode with
    | 0 => scSet (scWriteBack s st e.2) st set way (some { e.2 with dirty := 0 })
    | 1 => scSet (scWriteBack s st e.2) st set way none
    | _ => scSet s st set way none) s

/-- Write back every dirty byte of a station's cache and invalidate it (R334, R553). -/
def scFlushAll (s : State) (st : Nat) : State := scFlush s st 0 (2 ^ 42) 1

/-- Every line of a station's cache becomes invalid, dirty bytes discarded (R127). -/
def scDiscard (s : State) (st : Nat) : State :=
  { s with scache := SMap.clear (fun k => k / 16384 == st) s.scache
           scPlru := SMap.clear (fun k => k / 2048 == st) s.scPlru }

/-- R272: a prefetch's line passes the windows of its partition; a line that fails is skipped without a record. -/
def prefetchPasses (s : State) (w : Who) (line : Nat) : Bool :=
  lineOk (winTable s w.part).1 (winMask s w.part w.sub) none .read line

/-- A prefetch of one line into a station's cache (R268, R272, R273, R604): fetched like a demand read that does
not allocate in the depot share, and installed as a clean line unless the line is present. -/
def scPrefetch (s : State) (w : Who) (st line : Nat) : State :=
  if !cacheable (64 * line) || (scFind s st line).isSome || !prefetchPasses s w line then s else
  let r := readAt s w ⟨64 * line, 64⟩ false true
  if r.2.2 then r.1 else
  scInstall r.1 st ⟨line, allBytes, 0, lineBytes r.2.1, w.part, true⟩

/-- Bytes of prefetched lines not yet touched that a station holds (R268). -/
def scPrefetched (s : State) (st : Nat) : Nat :=
  64 * (s.scache.filter (fun e => e.1 / 16384 == st &&
    (match e.2 with
     | some l => l.prefetched
     | none => false))).length

/-! Dill streams (R267-R273). -/

/-- The streams of a slice's depot die entry, at most two per slice (R267). -/
def sliceStreams (s : State) (k : Nat) : List Stream := s.dill.filter (fun t => t.slice == k)

def Stream.isWarm (t : Stream) : Bool :=
  match t.kind with
  | .warm .. => true
  | _ => false

/-- Take an entry for a new stream of a slice: a free one, else, where allowed, the lane or detected stream
least recently advanced; the list keeps streams least recently advanced first (R267, R269, R271). -/
def dillTake (s : State) (t : Stream) (replace : Bool) : Option State :=
  if (sliceStreams s t.slice).length < 2 then some { s with dill := s.dill ++ [t] }
  else if !replace then none
  else match s.dill.findIdx? (fun u => u.slice == t.slice && !u.isWarm) with
    | some i => some { s with dill := s.dill.eraseIdx i ++ [t] }
    | none => none

/-- R267: a lane advances to a base; what it has requested stays requested. -/
def Lane.advance (l : Lane) (base : Nat) : Lane :=
  let d : Int := (base : Int) - l.base
  match l.step with
  | none => { l with base := base, step := some d, ahead := [] }
  | some t => if d = t then { l with base := base } else { l with base := base, step := none, ahead := [] }

/-- R267: a STREAM tile load, or a PREF with STREAM, of a core. -/
def dillStream (s : State) (part sub core k rows : Nat) (stride : Int) (base : Nat) : State :=
  let lane : Lane := ⟨core, core / 6, base, none, []⟩
  match s.dill.findIdx? (fun t => t.slice == k && t.kind == .lane && t.rows == rows && t.stride == stride) with
  | some i =>
    (match s.dill[i]? with
     | none => s
     | some t =>
       let lanes := match t.lanes.find? (fun l => l.core == core) with
         | some l => t.lanes.filter (fun l => l.core != core) ++ [l.advance base]
         | none => (if t.lanes.length < 8 then t.lanes else t.lanes.drop 1) ++ [lane]
       { s with dill := s.dill.eraseIdx i ++ [{ t with lanes := lanes }] })
  | none =>
    (dillTake s ⟨k, .lane, rows, stride, part, sub, [lane]⟩ true).getD s

/-- The slice whose depot share or home serves an address. -/
def sliceOfAddr (a : Nat) : Option Nat :=
  match regionOf a with
  | .hbm k => some k
  | .window k _ => some k
  | _ => none

/-- The cycle count of a station's region. -/
def regionCycles (s : State) (st : Nat) : Nat := (SMap.get (fun _ => (0, 0)) s.regionClk (stnDomain st)).1

/-- A lane of a detected stream matches a miss whose line lies a whole number of its steps, from 1 to 64, beyond its base
(DESIGN CHOICE, log 23). -/
def Lane.follows (l : Lane) (st a : Nat) : Bool :=
  match l.step with
  | none => false
  | some d =>
    let x : Int := (a : Int) - l.base
    l.station == st && d != 0 && x % d == 0 && decide (1 ≤ x / d ∧ x / d ≤ 64)

/-- R269: the step of three misses by one difference, the last at a line, two before it in a history. -/
def missStep (line : Nat) : List (Nat × Nat) → Option Int
  | [] => none
  | m :: ms =>
    let d : Int := (line : Int) - m.2
    if d ≠ 0 ∧ d.natAbs ≤ 64 ∧ ms.any (fun x => ((m.2 : Int) - x.2) == d) = true then some (64 * d) else missStep line ms

/-- R267, R269: a demand miss of a station's cache, with neither STREAM nor NT: it advances the detected stream that it
matches, or, with two earlier ones within 1,024 cycles whose lines step by one difference, creates one in a free entry. -/
def dillMiss (s : State) (w : Who) (st line : Nat) : State :=
  let t := regionCycles s st
  let h := (SMap.get (fun _ => []) s.missHist st).filter (fun m => decide (t ≤ m.1 + 1024))
  let s := { s with missHist := SMap.set (fun _ => []) s.missHist st ((t, line) :: h) }
  match sliceOfAddr (64 * line) with
  | none => s
  | some k =>
    match s.dill.findIdx? (fun u => u.slice == k && u.kind == .detected && u.lanes.any (·.follows st (64 * line))) with
    | some i => (match s.dill[i]? with
      | none => s
      | some u => { s with dill := s.dill.eraseIdx i ++
          [{ u with lanes := u.lanes.map (fun l => { l with base := 64 * line }) }] })
    | none =>
      match missStep line h with
      | some d =>
        if fbit s .DILL_CTRL_DETECT (k / 32) then
          (dillTake s ⟨k, .detected, 1, 0, w.part, w.sub, [⟨st * 6, st, 64 * line, some d, []⟩]⟩ false).getD s
        else s
      | none => s

end Sys2Proof.Machine
end

