-- ==== Sys2Proof/Machine/Arbiter.lean ====
section
/-! DEFINITION. The choice every arbiter makes among the packets that wait for it (spec R471, R472, R479): Belyan egress ports
and junction outputs use it. -/
namespace Sys2Proof.Machine

/-- A share field of 8 bits, in which 0 means 256. -/
def share256 (n : Nat) : Nat := if n = 0 then 256 else n

/-- What an arbiter sees of a packet: the flow it keeps its order in, its class and deadline, since when it waits, and the
bytes it takes. -/
structure Bid where
  flow : Nat × (Nat × Nat) × Nat
  cls : Nat
  deadline : Nat
  since : Nat
  cost : Nat
deriving DecidableEq, Repr

/-- The bids that no earlier one of their flow holds back, with their places (R472). -/
def bidHeads : Nat → List Bid → List (Nat × Bid)
  | _, [] => []
  | i, b :: rest => (i, b) :: (bidHeads (i + 1) rest).filter (fun x => x.2.flow != b.flow)

/-- The earliest deadline, the oldest among equal ones; 0 is none (R471, R473, R479). -/
def earliest : List (Nat × Bid) → Option (Nat × Bid)
  | [] => none
  | e :: rest =>
    match earliest rest with
    | none => some e
    | some x => if x.2.deadline ≠ 0 ∧ (e.2.deadline = 0 ∨ x.2.deadline < e.2.deadline) then some x else some e

/-- R471: the bid that is served next, in order of arrival, with the arbiter's new state and whether ageing serves it: class
7 within its share of the window of 256 cycles; one that has waited too long; then the classes in turn, from 6 down, each for
WEIGHT × 64 bytes.  A packet starts while any of them are left, and class 7 beyond its share is class 6 (DESIGN CHOICE, log
107).  `rate` is the bytes of a cycle, `window` the nanoseconds of 256 cycles. -/
def arbitrate (s : State) (rate window : Nat) (a : Arb) (bids : List Bid) : Option (Nat × Arb × Bool) :=
  let a := if a.window + window ≤ s.now then { a with window := s.now, used7 := 0 } else a
  let hs := bidHeads 0 bids
  let spare := a.used7 < rate * share256 (fget s .TC_RT_CFG_SHARE 0)
  match (if spare then earliest (hs.filter (fun e => e.2.cls == 7)) else none) with
  | some e => some (e.1, { a with used7 := a.used7 + e.2.cost }, false)
  | none =>
    match hs.find? (fun e => decide ((e.2.since + fget s .TC_AGE_CYCLES 0 * window / 256) ≤ s.now)) with
    | some e => some (e.1, a, true)
    | none =>
      let cls := fun (i : Nat) => (a.turn + 7 - i) % 7
      let here := fun (i : Nat) => hs.find? (fun e => min e.2.cls 6 == cls i)
      match (List.range 8).find? (fun i => (i != 0 || decide (0 < a.left)) && (here i).isSome) with
      | none => none
      | some i => (here i).map (fun e =>
          let left := if i = 0 then a.left else max 1 (fget s .TC_CLASS_CFG_WEIGHT (cls i)) * 64
          (e.1, { a with turn := cls i, left := left - e.2.cost }, false))

/-- R471: a request served by ageing is counted. -/
def aged (s : State) (yes : Bool) : State := if yes then finc s .TC_AGED_COUNT 0 else s

end Sys2Proof.Machine
end

