-- ==== Sys2Proof/Machine/PortArb.lean ====
section
/-! DEFINITION. The egress of a Belyan port (spec R361, R370, R374, R378, R469, R471-R474): which waiting packet leaves
next, and the buffer that keeps it until it is acknowledged. -/
namespace Sys2Proof.Machine

/-- The packet types of R365. -/
def ptRead : Nat := 1
def ptWrite : Nat := 2
def ptAtomic : Nat := 3
def ptReadResp : Nat := 4
def ptWriteAck : Nat := 5
def ptAtomicResp : Nat := 6
def ptSignal : Nat := 7
def ptNotice : Nat := 8
def ptLink : Nat := 9

/-- Responses: READ_RESP, WRITE_ACK, ATOMIC_RESP (R367). -/
def isResponse (t : Nat) : Bool := t == ptReadResp || t == ptWriteAck || t == ptAtomicResp

/-- Payload bytes in units of 64 bytes, each packet's own rounded up. -/
def lineUnits (n : Nat) : Nat := (n + 63) / 64

def getArb (s : State) (port : Nat) : PortArb := SMap.get (fun _ => PortArb.reset) s.portArb port
def setArb (s : State) (port : Nat) (a : PortArb) : State :=
  { s with portArb := SMap.set (fun _ => PortArb.reset) s.portArb port a }

/-- Payload bytes that a port carries in a nanosecond (R361, R378). -/
def portRate (s : State) (port : Nat) : Nat := if fbit s .BLY_PORT_STATUS_HALF_WIDTH port then 400 else 800

/-- What a packet takes of a port's bytes: its payload, or its header where that is more (DESIGN CHOICE, log 107). -/
def packetCost (k : Packet) : Nat := max 32 k.payload.length

/-- The bytes of a packet's flits, 128 each (R374). -/
def packetFlits (k : Packet) : Nat := (32 + k.payload.length + 127) / 128 * 128

/-- SIGNAL and LINK packets, which go first (R370). -/
def Queued.urgent (e : Queued) : Bool := e.pkt.typ == ptSignal || e.pkt.typ == ptLink

/-- The source stop of a packet: its device and its die; of a response, the die of the home that answers. -/
def packetStop (k : Packet) : Nat × Nat :=
  (k.src, if isResponse k.typ then (match regionOf k.addr with
    | .hbm j | .control j | .station j _ | .window j _ => j / 16
    | _ => k.srcDie) else k.srcDie)

/-- Packets whose order is kept: of one source stop, on one virtual channel (R368, R472). -/
def Queued.sameFlow (a b : Queued) : Bool := a.port == b.port && packetStop a.pkt == packetStop b.pkt && a.pkt.vc == b.pkt.vc

/-- R472: the earlier packets of a later one's flow take its class and deadline where its class is higher. -/
def inherit (e : Queued) (q : List Queued) : List Queued :=
  q.map (fun x => if x.sameFlow e && decide (x.cls < e.cls) then { x with cls := e.cls, deadline := e.deadline } else x)

/-- R471 among the packets of one share of a port. -/
def byClass (s : State) (port : Nat) (q : List Queued) : Option (Queued × State) :=
  let b := getArb s port
  match arbitrate s (portRate s port) 256 b.arb (q.map (fun e =>
      ⟨(e.port, packetStop e.pkt, e.pkt.vc), e.cls, e.deadline, e.since, packetCost e.pkt⟩)) with
  | none => none
  | some r => (q[r.1]?).map (fun e => (e, setArb (aged s r.2.2) port { b with arb := r.2.1 }))

/-- The slices that entitle a partition to its part of a port (R370). -/
def partWeight (s : State) (p : Nat) : Nat := (slicesOf s p).length

/-- R370: the injected share goes among the partitions that have packets waiting in proportion to their slices, by the
virtual time at which each may start; one without a slice takes what the others leave (DESIGN CHOICE, log 107). -/
def byPart (s : State) (port : Nat) (q : List Queued) : Option (Queued × State) :=
  let a := getArb s port
  let ps := (q.map (fun e => e.pkt.part)).eraseDups
  let own := ps.filter (fun p => partWeight s p != 0)
  let start := fun p => max a.vtime (SMap.get (fun _ => 0) a.parts p)
  let pick := (if own.isEmpty then ps else own).foldl (fun (r : Option Nat) p =>
    match r with
    | none => some p
    | some x => if start p < start x then some p else some x) none
  match pick with
  | none => none
  | some p =>
    (byClass s port (q.filter (fun e => e.pkt.part == p))).map (fun r =>
      let b := getArb r.2 port
      let w := max 1 (partWeight s p)
      (r.1, setArb r.2 port { b with vtime := start p, parts := SMap.set (fun _ => 0) b.parts p (start p + packetCost r.1.pkt * 65536 / w) }))

/-- R370: the packet of a port that goes next.  The counts of a share begin when all that compete for it are waiting. -/
def portNext (s : State) (port : Nat) : Option (Queued × State) :=
  let q := s.portQ.filter (fun e => e.port == port)
  match q.find? Queued.urgent with
  | some e => some (e, s)
  | none =>
    let fw := q.filter (fun e => e.pkt.src != devNum s)
    let op := q.filter (fun e => e.pkt.src == devNum s && e.pkt.oper)
    let own := q.filter (fun e => e.pkt.src == devNum s && !e.pkt.oper)
    let a := getArb s port
    let a := if fw.isEmpty || own.isEmpty then { a with fwd := 0, inj := 0 } else a
    let a := if op.isEmpty then { a with oper := 0, all := 0 } else a
    let s := setArb s port a
    let count := fun (r : Queued × State) (isFwd isOper : Bool) =>
      let b := getArb r.2 port
      let n := packetCost r.1.pkt
      (r.1, setArb r.2 port { b with fwd := b.fwd + (if isFwd then n else 0), inj := b.inj + (if isFwd || isOper then 0 else n),
                                     oper := b.oper + (if isOper then n else 0), all := b.all + n })
    let share := share256 (fget s .BLY_FWD_SHARE_SHARE 0)
    if !op.isEmpty && (decide (a.oper * 64 ≤ a.all) || (fw.isEmpty && own.isEmpty)) then
      (byClass s port op).map (fun r => count r false true)
    else if !fw.isEmpty && (own.isEmpty || decide (a.fwd * 256 < share * (a.fwd + a.inj + 256))) then
      (byClass s port fw).map (fun r => count r true false)
    else (byPart s port own).map (fun r => count r false false)

/-- R374: the replay buffer of 2 MiB has room for a packet's flits. -/
def replayRoom (s : State) (port : Nat) (k : Packet) : Bool :=
  decide (((s.unacked.filter (fun e => e.1 == port)).map (fun e => packetFlits e.2)).foldl (· + ·) 0 + packetFlits k ≤ 2097152)

/-- A packet leaves its port and stays in the replay buffer (R374); its payload is counted. -/
def portLeave (s : State) (e : Queued) : State :=
  let n := lineUnits e.pkt.payload.length
  let a := getArb s e.port
  let s := { setArb s e.port { a with debt := a.debt + packetCost e.pkt } with
    portQ := s.portQ.erase e, unacked := s.unacked ++ [(e.port, e.pkt)] }
  let s := finc s .BLY_TX_BYTES_COUNT e.port n
  if e.pkt.src = devNum s then s else finc s .BLY_FWD_BYTES_COUNT e.port n

/-- Packets leave a port while it is free in this nanosecond and its replay buffer has room, on fuel. -/
def portGo (port : Nat) : Nat → State → State
  | 0, s => s
  | n + 1, s =>
    if portRate s port ≤ (getArb s port).debt then s else
    match portNext s port with
    | none => s
    | some r => if replayRoom s port r.1.pkt then portGo port n (portLeave r.2 r.1) else s

/-- The packets that may leave a port in one nanosecond, at most. -/
def portFuel : Nat := 32

/-- The class and deadline at an egress port: of a forwarded packet those of the forwarding master, set afresh at each
module; of an injected one its own (R469, R474). -/
def egressClass (s : State) (k : Packet) : Nat × Nat :=
  if k.src = devNum s ∨ k.typ = ptLink then (k.tc, k.deadline) else (7, fget s .TC_RT_BUDGET_FWD 0)

/-- A packet waits at an egress port, and leaves at once where the port is free; one whose port is down is discarded and
counted there (R370, R377). -/
def portSend (s : State) (port : Nat) (k : Packet) : State :=
  if fget s .BLY_PORT_STATUS_STATE port = 2 then
    let c := egressClass s k
    let e : Queued := ⟨port, s.now, c.1, c.2, k⟩
    portGo port portFuel { s with portQ := inherit e s.portQ ++ [e] }
  else fsat s .BLY_DISCARDS_COUNT port

end Sys2Proof.Machine
end

