-- ==== Sys2Proof/Machine/Remote.lean ====
section
/-! DEFINITION. Sending over the Belyan links: coordinates, routing and virtual channels (spec R362, R366-R368,
R379), and the requests a Sage core sends to a peer (R341, R365, R372, R380, R485). -/
namespace Sys2Proof.Machine

/-- The size of a dimension (R362). -/
def dimSize (s : State) (d : Nat) : Nat :=
  match d with
  | 0 => fget s .BLY_TOPO_SX
  | 1 => fget s .BLY_TOPO_SY
  | _ => fget s .BLY_TOPO_SZ

/-- The number of devices of the fabric (R362). -/
def fabricSize (s : State) : Nat := dimSize s 0 * dimSize s 1 * dimSize s 2

/-- R362: the coordinate of a device in a dimension. -/
def coord (s : State) (dev d : Nat) : Nat :=
  match d with
  | 0 => dev % dimSize s 0
  | 1 => dev / dimSize s 0 % dimSize s 1
  | _ => dev / (dimSize s 0 * dimSize s 1)

/-- The links a path crosses: from a, n steps in direction dir (0 +, 1 −), the link named by its lower end. -/
def pathLinks (size a dir n : Nat) : List Nat :=
  (List.range n).map (fun i => if dir = 0 then (a + i) % size else (a + size - 1 - i) % size)

/-- The path crosses a recorded break (R377). -/
def pathBroken (s : State) (dim size a dir n : Nat) : Bool :=
  (pathLinks size a dir n).any (fun c => s.breaks.contains (dim, c))

/-- R366: the direction a packet takes when it enters a dimension, from coordinate a to b; none where every
allowed direction crosses a recorded break (R379). -/
def enterDir (s : State) (dim a b src consist : Nat) : Option Nat :=
  let size := dimSize s dim
  let up := (b + size - a) % size
  let down := (a + size - b) % size
  let first := if size = 2 then (if (src ^^^ consist) % 2 = 0 then 0 else 1) else if up ≤ down then 0 else 1
  let len := fun dir => if dir = 0 then up else down
  if !pathBroken s dim size a first (len first) then some first
  else if !pathBroken s dim size a (1 - first) (len (1 - first)) then some (1 - first)
  else none

/-- The dimension a packet must cross next at this module (R366). -/
def nextDim (s : State) (dst : Nat) : Option Nat :=
  (List.range 3).find? (fun d => coord s (devNum s) d != coord s dst d)

/-- Crossing the link out of coordinate c in a direction passes the dateline (R367). -/
def datelineHop (size c dir : Nat) : Bool := if dir = 0 then c + 1 == size else c == 0

/-- R366, R367: the egress port of a packet and the packet as it leaves; `entering` where it is injected here
or changes dimension.  None where it is unroutable. -/
def routePacket (s : State) (p : Packet) (entering : Bool) : Option (Nat × Packet) :=
  match nextDim s p.dst with
  | none => none
  | some d =>
    let a := coord s (devNum s) d
    let fresh := entering || p.dim != d
    match (if fresh then enterDir s d a (coord s p.dst d) p.src p.consist else some p.dir) with
    | none => none
    | some dir =>
      let base := if isResponse p.typ then 2 else 0
      let high := (!fresh && p.vc % 2 == 1) || datelineHop (dimSize s d) a dir
      some (2 * d + dir, { p with dim := d, dir := dir, vc := base + b2n high })

/-- A packet of this module's own is injected (R366, R379, R495). -/
def blyInject (s : State) (p : Packet) : State :=
  let s := meter s p.part p.oper mLink (lineUnits p.payload.length)
  match routePacket s p true with
  | some r => portSend s r.1 r.2
  | none => fsat s .BLY_UNROUTABLE_COUNT 0

/-- The header flit of a message (R122). -/
def sigHeader (m : Signal) : Nat :=
  m.cls % 16 + m.die % 16 * 16 + m.stop % 32 * 256 + m.payload.length % 4 * 2 ^ 13 + m.part % 64 * 2 ^ 15
    + b2n m.oper * 2 ^ 21

/-- A message of the signal network goes to another module as a SIGNAL packet: its header flit and its payload flits (R365,
R382). -/
def signalPacket (s : State) (dev consist : Nat) (m : Signal) : State :=
  let bs := leBytes 4 (sigHeader m) ++ m.payload.flatMap (fun x => leBytes 4 x.toNat)
  blyInject s
    { typ := ptSignal, vc := 0, dir := 0, dim := 0, oper := m.oper, err := false, dst := dev, src := devNum s,
      part := m.part, tc := 6, consist := consist, epoch := 0, deadline := 0, tag := 0, addr := 0, srcDie := 0,
      len := bs.length, aop := 0, hops := 0, payload := bs }

/-- The least tag a die does not use or hold in quarantine (R380). -/
def freeTag (s : State) (die : Nat) : Nat :=
  ((List.range 65536).find? (fun t => !(s.remotes.any (fun r => r.die == die && r.tag == t)))).getD 0

/-- Group an access's passing pieces into packets of at most 256 bytes within one 4 KiB block (R365). -/
def chunkPieces (ok : Piece → Bool) : List Piece → List Piece
  | [] => []
  | p :: ps =>
    if !ok p then chunkPieces ok ps else
    match chunkPieces ok ps with
    | q :: qs =>
      if p.addr + p.len = q.addr ∧ p.len + q.len ≤ 256 ∧ p.addr / 4096 = (q.addr + q.len - 1) / 4096 then
        ⟨p.addr, p.len + q.len⟩ :: qs
      else p :: q :: qs
    | [] => [p]

/-- Zeros for the lines of a peer's data that fail the check at its source (R485, R489). -/
def maskPieces (ok : Piece → Bool) : List Piece → List Byte → List Byte
  | [], _ => []
  | p :: ps, bs => (if ok p then bs.take p.len else List.replicate p.len 0) ++ maskPieces ok ps (bs.drop p.len)

/-- R372: the device of a remote access is this one, lies outside the fabric, or is a peer. -/
inductive PeerKind where
  | own | outside | peer
deriving DecidableEq, Repr

def peerKind (s : State) (dev : Nat) : PeerKind :=
  if dev = devNum s then .own else if fabricSize s ≤ dev then .outside else .peer

/-- R371, R372: the requests of an access to a device outside the fabric are answered as refused, with an event. -/
def destRefused (s : State) (w : Who) (ok : Piece → Bool) (ps : List Piece) : State :=
  let n := (chunkPieces ok ps).length
  if n = 0 then s else raiseTrouble (fsat s .BLY_TAG_DROPS_COUNT 0 n) (some w.part) w.oper .badDest

/-- The core number that the requests of units other than Sage cores carry. -/
def noCore : Nat := 65536

/-- A packet to a peer that a unit other than a Sage core sends: it takes a tag and counts under its consist's CUR epoch;
operator traffic carries consist 0 (R341, R365, R371, R380). -/
def taskPacket (s : State) (w : Who) (cls dev typ aop : Nat) (p : Piece) (payload : List Byte) : State :=
  let e := if w.oper then (none, s) else epochStart s w.part w.sub
  let s := e.2
  let tag := freeTag s w.die
  let s := { s with remotes := s.remotes ++ [⟨w.die, tag, noCore, 0, p.addr, p.len, typ == ptWrite, false, e.1⟩] }
  blyInject s
    { typ := typ, vc := 0, dir := 0, dim := 0, oper := w.oper, err := false, dst := dev, src := devNum s,
      part := w.part, tc := cls, consist := (e.1.map (fun e => fget s .COMP_CONSIST_ID_ID e.slot)).getD 0,
      epoch := (e.1.map (·.epoch)).getD 0, deadline := 0, tag := tag, addr := p.addr, srcDie := w.die, len := p.len,
      aop := aop, hops := 0, payload := payload }

/-- The packets of a unit's access have been answered, or the bound of R380 has passed: the access counts no more, and a
tag that timed out stays in quarantine. -/
def taskEnd (s : State) (die : Nat) (answered : Bool) : State :=
  let mine := fun (r : RemoteReq) => r.core == noCore && r.die == die && !r.quarantined
  let out := s.remotes.filter mine
  let s := if answered then { s with remotes := s.remotes.filter (fun r => !mine r) }
    else fsat { s with remotes := s.remotes.map (fun r => if mine r then { r with quarantined := true, epoch := none } else r) }
      .BLY_TIMEOUTS_COUNT 0
  out.foldl (fun s r => epochEnd s r.epoch) s

/-- R485, R486: check a REMOTE access's pieces at its source against the windows that name the device. -/
def checkRemote (s : State) (w : Who) (r : Right) (dev : Nat) (ps : List Piece) : (Piece → Bool) × State :=
  if w.oper then (fun _ => true, s) else
  let t := winTable s w.part
  let s := t.2
  let ok := fun (p : Piece) => lineOk t.1 (winMask s w.part w.sub) (some dev) r (p.addr / 64)
  let fails := ((ps.filter (fun p => !ok p)).map (fun p => p.addr / 64)).eraseDups
  (ok, recordViolations s w r dev fails)

/-- One request packet of a Sage core's access leaves its die: it takes a tag, counts under its consist's CUR
epoch and is injected (R341, R365, R380). -/
def sendRequest (s : State) (w : Who) (core slot dev cls typ aop : Nat) (p : Piece) (payload : List Byte) : State :=
  let e := epochStart s w.part w.sub
  let s := e.2
  let tag := freeTag s w.die
  let s := { s with remotes := s.remotes ++ [⟨w.die, tag, core, slot, p.addr, p.len, typ == ptWrite, false, e.1⟩] }
  blyInject s
    { typ := typ, vc := 0, dir := 0, dim := 0, oper := w.oper, err := false, dst := dev, src := devNum s,
      part := w.part, tc := cls, consist := (e.1.map (fun e => fget s .COMP_CONSIST_ID_ID e.slot)).getD 0,
      epoch := (e.1.map (·.epoch)).getD 0, deadline := 0, tag := tag, addr := p.addr, srcDie := w.die,
      len := if typ = ptRead then p.len else payload.length, aop := aop, hops := 0, payload := payload }

end Sys2Proof.Machine
end

