-- ==== Sys2Proof/Machine/LinkOps.lean ====
section
/-! DEFINITION. The state of the Belyan ports (spec R362-R364, R374-R379): the lock of the fabric's shape, training,
taking a port down, and the notices of breaks. -/
namespace Sys2Proof.Machine

/-! Port states (R375). -/
def pDown : Nat := 0
def pTraining : Nat := 1
def pUp : Nat := 2
def pMiscabled : Nat := 3
def pDisabled : Nat := 4

def portState (s : State) (p : Nat) : Nat := fget s .BLY_PORT_STATUS_STATE p
def setPort (s : State) (p v : Nat) : State := fset s .BLY_PORT_STATUS_STATE p v

def getLink (s : State) (p : Nat) : Link := SMap.get (fun _ => Link.reset) s.links p
def setLink (s : State) (p : Nat) (l : Link) : State :=
  { s with links := SMap.set (fun _ => Link.reset) s.links p l }

/-- The presence pin of a port is low (R574). -/
def cabled (s : State) (p : Nat) : Bool := SMap.get (fun _ => false) s.mod.cables p

/-- R376: a port may train. -/
def mayTrain (s : State) (p : Nat) : Bool :=
  fbit s .BLY_LOCK_LOCK && fbit s .BLY_PORT_CTRL_ENABLE p && decide (2 ≤ dimSize s (p / 2)) && cabled s p

/-- A port starts to train. -/
def startTraining (s : State) (p : Nat) : State := setPort s p pTraining

/-- R376: a DISABLED port starts as soon as it may. -/
def tryTrain (s : State) (p : Nat) : State :=
  if portState s p = pDisabled ∧ mayTrain s p = true then startTraining s p else s

def tryTrainAll (s : State) : State := (List.range 6).foldl tryTrain s

/-- R362: BLY_LOCK.LOCK is written 1. -/
def blyLock (s : State) : State :=
  let ok := decide (1 ≤ dimSize s 0 ∧ 1 ≤ dimSize s 1 ∧ 1 ≤ dimSize s 2 ∧ fabricSize s ≤ 1024 ∧ devNum s < fabricSize s)
  if fbit s .BLY_LOCK_LOCK then fset s .BLY_LOCK_BAD_CONFIG 0 (b2n !ok)
  else if ok then tryTrainAll (fset (fset s .BLY_LOCK_BAD_CONFIG 0 0) .BLY_LOCK_LOCK 0 1)
  else fset s .BLY_LOCK_BAD_CONFIG 0 1

/-- The coordinate that names a port's link: its lower end (R384). -/
def linkCoord (s : State) (p : Nat) : Nat :=
  let n := dimSize s (p / 2)
  let c := coord s (devNum s) (p / 2)
  if p % 2 = 0 then c else (c + n - 1) % n

/-- R377: a LINKDOWN (`up` false) or LINKUP notice leaves by a port; its payload is the model's (DESIGN CHOICE, log 31). -/
def sendLink (s : State) (port : Nat) (up : Bool) (c : Nat) : State :=
  if portState s port ≠ pUp then s else
  let pk : Packet := { typ := ptLink, vc := 0, dir := port % 2, dim := port / 2, oper := true, err := false, dst := devNum s,
                       src := devNum s, part := 0, tc := 6, consist := 0, epoch := 0, deadline := 0, tag := 0, addr := 0,
                       srcDie := 0, len := 4, aop := 0, hops := 0, payload := leBytes 2 (b2n up) ++ leBytes 2 c }
  portSend s port pk

/-- A break is recorded, and the notice goes on out of a port; one already recorded stops it (R377). -/
def breakNote (s : State) (port c : Nat) : State :=
  if s.breaks.contains (port / 2, c) then s
  else sendLink { s with breaks := s.breaks ++ [(port / 2, c)] } port false c

/-- A break is over: its record is cleared, and the notice leaves by a port (R375, R377). -/
def linkBack (s : State) (port c : Nat) : State :=
  sendLink { s with breaks := s.breaks.filter (· != (port / 2, c)) } port true c

/-- A notice of it that arrives goes on where the break was recorded (R377). -/
def breakClear (s : State) (port c : Nat) : State :=
  if s.breaks.contains (port / 2, c) then linkBack s port c else s

/-- The other port of a port's dimension. -/
def otherPort (p : Nat) : Nat := p / 2 * 2 + (1 - p % 2)

/-- R375, R377: a port leaves UP for `next`: what is queued is discarded and counted, the break recorded and told. -/
def portDown (s : State) (p next : Nat) : State :=
  let mine := (s.portQ.filter (fun e => e.port == p)).length + (s.unacked.filter (fun e => e.1 == p)).length
  let s := { setArb s p PortArb.reset with
    portQ := s.portQ.filter (fun e => e.port != p), unacked := s.unacked.filter (fun e => e.1 != p) }
  let s := (List.range mine).foldl (fun s _ => fsat s .BLY_DISCARDS_COUNT p) s
  let s := setLink (setPort s p next) p { getLink s p with replays := 0, downSince := s.now }
  breakNote s (otherPort p) (linkCoord s p)

/-- BLY_PORT_CTRL.ENABLE is written (R375). -/
def portEnable (s : State) (p : Nat) (en : Bool) : State :=
  let s := fset s .BLY_PORT_CTRL_ENABLE p (b2n en)
  if en then tryTrain s p
  else if portState s p = pUp then portDown s p pDisabled
  else setPort s p pDisabled

/-- BLY_PORT_CTRL.RETRAIN is written 1 (R375, R575). -/
def portRetrain (s : State) (p : Nat) : State :=
  if (portState s p = pDown ∨ portState s p = pMiscabled) ∧ cabled s p = true then startTraining s p else s

end Sys2Proof.Machine
end

