-- ==== Sys2Proof/Machine/HostOps.lean ====
section
/-! DEFINITION. The host side that every engine uses (spec R389-R392, R404-R412, R437-R439): functions, MSI-X,
posted writes through the translation cache, completion records, fault records and the end of commands. -/
namespace Sys2Proof.Machine

/-! Functions and partitions (R389, R390). -/

def getFunc (s : State) (f : Nat) : Func := SMap.get (fun _ => Func.reset) s.funcs f
def setFunc (s : State) (f : Nat) (x : Func) : State :=
  { s with funcs := SMap.set (fun _ => Func.reset) s.funcs f x }

/-- R389: VF p + 1 serves partition p. -/
def vfServes (s : State) (p : Nat) : Bool :=
  (getFunc s 0).vfOn && decide (p + 1 ≤ (getFunc s 0).numVfs) && fbit s .QE_PART_CFG_VF p

/-- The function a partition belongs to (R389). -/
def funcOf (s : State) (p : Nat) : Nat := if vfServes s p then p + 1 else 0

/-- R413: a partition of a function that shuts down writes no record and starts nothing. -/
def silent (s : State) (p : Nat) : Bool := s.shuts.any (fun x => x.parts.contains p)

/-- R390: the partition whose range holds a ring. -/
def ringPart (s : State) (r : Nat) : Option Nat :=
  (List.range 64).find? (fun p => decide (fget s .QE_PART_RINGS_BASE p ≤ r) &&
    decide (r < fget s .QE_PART_RINGS_BASE p + fget s .QE_PART_RINGS_COUNT p))

def localRing (s : State) (r : Nat) : Nat :=
  match ringPart s r with
  | some p => r - fget s .QE_PART_RINGS_BASE p
  | none => r

def quiescing (s : State) (f : Nat) : Bool := fbit s .QE_FUNC_STATUS_QUIESCING f

/-! The translation cache (R409-R411). -/

def getAtc (s : State) (f : Nat) : List AtcEntry := SMap.get (fun _ => []) s.atc f
def setAtc (s : State) (f : Nat) (l : List AtcEntry) : State :=
  { s with atc := SMap.set (fun _ => []) s.atc f l }

def AtcEntry.covers (e : AtcEntry) (a : Nat) : Bool := decide (e.base ≤ a) && decide (a < e.base + e.size)

/-- The translated address of an access that the cache answers, with the entry made the most recently used. -/
def atcLookup (s : State) (f a : Nat) (write : Bool) : Option (Nat × State) :=
  match (getAtc s f).find? (fun e => e.covers a && (if write then e.w else e.r)) with
  | some e => some (e.target + (a - e.base), setAtc s f (e :: (getAtc s f).filter (· != e)))
  | none => none

/-- The entries a function may hold (R410): the PF's quota, or its partition's. -/
def atcQuota (s : State) (f : Nat) : Nat :=
  if f = 0 then fget s .QE_PF_ATC_QUOTA_ENTRIES else fget s .QE_PART_CFG_ATC_QUOTA (f - 1)

/-- R410: a new entry; at its quota the function's least recently used one goes. -/
def atcInsert (s : State) (f : Nat) (e : AtcEntry) : State := setAtc s f ((e :: getAtc s f).take (atcQuota s f))

/-- R409: a translation request, unless one for the page is out. -/
def atsAsk (s : State) (f a : Nat) : State :=
  if s.atsOut.contains (f, a / 4096) then s
  else { s with atsOut := s.atsOut ++ [(f, a / 4096)], tlps := s.tlps ++ [.atsRequest f (a / 4096 * 4096)] }

/-! MSI-X (R391). -/

def getMsix (s : State) (f v : Nat) : Msix := SMap.get (fun _ => Msix.reset) s.msix (f * 2048 + v)
def setMsix (s : State) (f v : Nat) (x : Msix) : State :=
  { s with msix := SMap.set (fun _ => Msix.reset) s.msix (f * 2048 + v) x }

/-- The message of an enabled, unmasked vector is sent; a masked one becomes pending. -/
def sendVector (s : State) (f v : Nat) : State :=
  let e := getMsix s f v
  let c := getFunc s f
  if !c.msixOn then s
  else if c.msixMask || e.masked then setMsix s f v { e with pending := true }
  else { s with tlps := s.tlps ++ [.memWrite f e.addr (leBytes 4 e.data) false false] }

/-- A pending vector that is no longer masked is sent (R391). -/
def unmaskVector (s : State) (f v : Nat) : State :=
  let e := getMsix s f v
  let c := getFunc s f
  if e.pending && c.msixOn && !c.msixMask && !e.masked then
    sendVector (setMsix s f v { e with pending := false }) f v
  else s

/-! TLPs (R386, R452). -/

/-- The pieces of a transfer of n bytes: each of at most `most` bytes and within a 4 KiB boundary, on fuel. -/
def tlpPieces (most : Nat) : Nat → Nat → Nat → List (Nat × Nat)
  | 0, _, _ => []
  | f + 1, a, n =>
    let k := min (min most n) (4096 - a % 4096)
    if n ≤ k then [(a, n)] else (a, k) :: tlpPieces most f (a + k) (n - k)

/-- The memory reads of a function within its Max Read Request Size. -/
def readTlps (s : State) (f a n : Nat) (translated : Bool) : List Tlp :=
  (tlpPieces (getFunc s f).maxRead (n + 1) a n).map (fun p => .memRead f p.1 p.2 translated)

/-- The memory writes of a function within its Max Payload Size. -/
def writeTlps (s : State) (f a : Nat) (d : List Byte) (relaxed translated : Bool) : List Tlp :=
  (tlpPieces (getFunc s f).maxPayload (d.length + 1) a d.length).map (fun p =>
    .memWrite f p.1 ((d.drop (p.1 - a)).take p.2) relaxed translated)

/-! Posted writes (R408): those of one function leave in order; one whose translation is awaited holds the later
ones back. -/

def getPosted (s : State) (f : Nat) : List Posted := SMap.get (fun _ => []) s.posted f
def setPosted (s : State) (f : Nat) (l : List Posted) : State :=
  { s with posted := SMap.set (fun _ => []) s.posted f l }

/-- A function's posted writes leave as far as their translations are known, on fuel. -/
def pump : Nat → Nat → State → State
  | 0, _, s => s
  | n + 1, f, s =>
    match getPosted s f with
    | [] => s
    | .vector v :: rest => pump n f (sendVector (setPosted s f rest) f v)
    | .flush a :: rest =>
      if !(getFunc s f).ats then pump n f { setPosted s f rest with tlps := s.tlps ++ [.memRead f a 0 false] }
      else match atcLookup s f a true with
      | some t => pump n f { setPosted t.2 f rest with tlps := s.tlps ++ [.memRead f t.1 0 true] }
      | none => atsAsk s f a
    | .write a d ro _ _ :: rest =>
      if !(getFunc s f).ats then
        pump n f { setPosted s f rest with tlps := s.tlps ++ writeTlps s f a d ro false }
      else match atcLookup s f a true with
      | some t => pump n f { setPosted t.2 f rest with tlps := s.tlps ++ writeTlps s f t.1 d ro true }
      | none => atsAsk s f a

def pumpAll (s : State) (f : Nat) : State := pump (getPosted s f).length f s

/-- A function's posted write; a function that shuts down makes none (R414). -/
def post (s : State) (f : Nat) (x : Posted) : State :=
  if quiescing s f then s else pumpAll (setPosted s f (getPosted s f ++ [x])) f

/-- Write bytes to host memory for partition p: HOST_BYTES counts them (R495). -/
def hostWrite (s : State) (p f a : Nat) (data : List Byte) (relaxed : Bool) (who : HostFor) (due : Option (Nat × Nat)) :
    State :=
  post (meter s p false mHost (lineUnits data.length)) f (.write a data relaxed who due)

/-- Raise a vector of a function, behind its posted writes (R391, R408). -/
def raiseVector (s : State) (f v : Nat) : State := post s f (.vector v)

/-! Deadlines of real-time masters (R473-R475): 0 forwarding, 1 the completion writer, 2 the token output writer, 3
telemetry. -/

def missF (m : Nat) : F :=
  match m with
  | 0 => .TC_MISS_FWD
  | 1 => .TC_MISS_COMPL
  | 2 => .TC_MISS_TOKEN
  | _ => .TC_MISS_TELEM

/-- R475: a request of a master reaches DEADLINE 1. -/
def deadlineMiss (s : State) (m : Nat) : State :=
  let was := fbit s (missF m)
  let s := finc (fset s (missF m) 0 1) .TC_MISS_COUNT_COUNT m
  if !was && fbit s .TC_IRQ_ENABLE then raiseVector s 0 (fget s .TC_IRQ_VECTOR) else s

/-- The completion writer or the token output writer writes a record: its master and its budget (R474). -/
def writerDue (s : State) (token : Bool) : Option (Nat × Nat) :=
  some (if token then (2, fget s .TC_RT_BUDGET_TOKEN) else (1, fget s .TC_RT_BUDGET_COMPL))

/-- R391: a function's event bit RING_ERROR is set, and its event vector raised. -/
def ringErrorEvent (s : State) (f : Nat) : State := raiseVector (fset s .QE_FUNC_EVENTS_RING_ERROR f 1) f 0

/-! Rings (R392, R395, R398, R406). -/

/-- Ring kinds and states (R392, R417). -/
def kCommand : Nat := 1
def kRequest : Nat := 2
def kCompletion : Nat := 3
def kOutput : Nat := 4
def rDisabled : Nat := 0
def rEnabled : Nat := 1
def rDraining : Nat := 2
def rError : Nat := 3

def getRing (s : State) (r : Nat) : Ring := SMap.get (fun _ => Ring.reset) s.rings r
def setRing (s : State) (r : Nat) (x : Ring) : State :=
  { s with rings := SMap.set (fun _ => Ring.reset) s.rings r x }

def Ring.size (x : Ring) : Nat := 2 ^ x.sizeLog2
/-- Entries between two free-running indices (R392). -/
def ringGap (hi lo : Nat) : Nat := (hi + 2 ^ 32 - lo % 2 ^ 32) % 2 ^ 32

/-- The PHASE of entry n: 1 on the first pass, inverted on each wrap (R404). -/
def phaseOf (n size : Nat) : Nat := 1 - n / size % 2

/-- The partition's global ring ID of a local index. -/
def globalRing (s : State) (p i : Nat) : Nat := fget s .QE_PART_RINGS_BASE p + i

/-- The completion ring of a ring. -/
def compRing (s : State) (r : Nat) : Nat :=
  match ringPart s r with
  | some p => globalRing s p (getRing s r).comp
  | none => 0

/-- Records a completion ring has promised and not yet had written (R398). -/
def reservedSlots (s : State) (c : Nat) : Nat :=
  (s.cmds.filter (fun x => compRing s x.ring == c)).length +
  (s.intake.filter (fun x => compRing s x.ring == c)).length +
  (s.reqs.filter (fun x => compRing s x.ring == c)).length +
  ((s.hreads.filterMap (fun h => match h.why with
    | .descs r _ n => if compRing s r == c then some n else none
    | _ => none)).foldl (· + ·) 0)

/-- Tracker entries a partition holds (R398). -/
def trackersOf (s : State) (p : Nat) : Nat :=
  (s.cmds.filter (fun x => x.part == p)).length + (s.intake.filter (fun x => x.part == p)).length +
  ((s.hreads.filterMap (fun h => match h.why with
    | .descs r _ n => if ringPart s r == some p then some n else none
    | _ => none)).foldl (· + ·) 0)

/-- R406: a record has been written: the ring's vector at once, at MOD_COUNT, or later by its timer. -/
def coverRecord (s : State) (f r : Nat) : State :=
  let x := getRing s r
  if !x.irq then s else
  if x.modCount ≤ x.uncovered + 1 then raiseVector (setRing s r { x with uncovered := 0 }) f x.vector
  else setRing s r { x with uncovered := x.uncovered + 1 }

/-- Write one record at a ring's TAIL; a ring in ERROR or disabled discards it (R396, R404). -/
def ringRecord (s : State) (r : Nat) (body : Nat → List Byte) (who : HostFor) : State :=
  let x := getRing s r
  match ringPart s r with
  | none => fsat s .QE_RECORDS_LOST_COUNT 0
  | some p =>
    if silent s p then s
    else if x.state = rError ∨ x.state = rDisabled then fsat s .QE_RECORDS_LOST_COUNT 0 else
    let b := body (phaseOf x.tail x.size)
    let s := setRing s r { x with tail := (x.tail + 1) % 2 ^ 32 }
    let s := hostWrite s p (funcOf s p) (x.base + x.tail % x.size * b.length) b false who
      (writerDue s (x.kind == kOutput))
    coverRecord s (funcOf s p) r

/-- The completion record of R404. -/
def complRecord (tag count detail ring status prov phase : Nat) : List Byte :=
  leBytes 8 tag ++ leBytes 3 count ++ leBytes 1 detail ++ leBytes 2 ring ++ leBytes 1 status ++
    leBytes 1 (prov % 2 + 128 * phase)

/-- Write the completion record of a descriptor of ring r, and count the job (R404, R495). -/
def writeRecord (s : State) (p r ctx tag count detail status prov : Nat) : State :=
  if silent s p then s else
  let l := localRing s r
  let s := meter s p false mJobs 1
  ringRecord s (compRing s r) (complRecord tag count detail l status prov) ⟨2, ctx, tag, l⟩

/-! Fault records (R437-R439). -/

/-- The record of an open fault is written, or counted lost (R437, R438). -/
def flushFault (s : State) (x : HFault) : State :=
  let size := 2 ^ fget s .QE_FAULT_CFG_SIZE_LOG2 x.f
  let tail := fget s .QE_FAULT_TAIL_TAIL x.f
  if !fbit s .QE_FAULT_CFG_ENABLE x.f || decide (size ≤ ringGap tail (fget s .QE_FAULT_HEAD_HEAD x.f)) then
    fsat s .QE_FAULT_LOST_COUNT x.f
  else
    let b := leBytes 8 x.addr ++ leBytes 2 x.ctx ++ leBytes 1 x.kind ++ leBytes 1 x.access ++ leBytes 2 x.engines ++
      leBytes 2 x.count ++ leBytes 8 x.tag ++ leBytes 2 x.ring ++
      leBytes 1 (b2n x.multi + 128 * phaseOf tail size) ++ List.replicate 5 0
    let s := fset s .QE_FAULT_TAIL_TAIL x.f ((tail + 1) % 2 ^ 32)
    let s := post s x.f (.write (fget s .QE_FAULT_BASE_ADDR x.f * 4096 + tail % size * 32) b false
      ⟨2, x.ctx, x.tag, x.ring⟩ (writerDue s false))
    if fbit s .QE_FAULT_CFG_IRQ x.f then raiseVector s x.f (fget s .QE_FAULT_CFG_VECTOR x.f) else s

/-- R439: a fault is merged into an open one of its page, or opens one; with 32 open the oldest is written. -/
def recordFault (s : State) (f addr kind access : Nat) (who : HostFor) : State :=
  let a := addr / 4096 * 4096
  match s.faults.find? (fun x => x.f == f && x.kind == kind && x.addr == a) with
  | some x =>
    { s with faults := s.faults.map (fun y => if y == x then
        { y with access := Nat.lor y.access (2 ^ access), engines := Nat.lor y.engines (2 ^ who.engine),
                 count := min (y.count + 1) 65535, multi := y.multi || y.ctx != who.ctx } else y) }
  | none =>
    let s := match s.faults with
      | o :: rest => if 32 ≤ s.faults.length then flushFault { s with faults := rest } o else s
      | [] => s
    { s with faults := s.faults ++ [⟨f, a, who.ctx, kind, 2 ^ access, 2 ^ who.engine, 1, who.tag, who.ring, false⟩] }

/-! Contexts and their slots (R422-R425). -/

def ctxKey (p c : Nat) : Nat := p * 4096 + c
/-- R420: context 0 of every partition exists. -/
def ctxDefault (k : Nat) : Option Ctx := if k % 4096 = 0 then some Ctx.fresh0 else none
def getCtx (s : State) (p c : Nat) : Option Ctx := SMap.get ctxDefault s.ctxs (ctxKey p c)
def setCtx (s : State) (p c : Nat) (x : Option Ctx) : State :=
  { s with ctxs := SMap.set ctxDefault s.ctxs (ctxKey p c) x }

/-- Slot states (R424). -/
def csFree : Nat := 0
def csLoading : Nat := 1
def csIdle : Nat := 2
def csRunning : Nat := 3
def csBlocked : Nat := 4
def csSaving : Nat := 5

/-- The host die's local counter, in ns (R560; DESIGN CHOICE, log 12). -/
def hostNs (s : State) : Nat := s.now + Config.dieSkew 20

def slotState (s : State) (i : Nat) : Nat := fget s .QE_CTX_SLOT_STATE i

/-- The slot a context occupies. -/
def ctxSlot (s : State) (p c : Nat) : Option Nat :=
  (List.range 96).find? (fun i => slotState s i != csFree && fget s .QE_CTX_SLOT_PART i == p &&
    fget s .QE_CTX_SLOT_CONTEXT i == c)

/-- A context that a command may start in: it occupies a loaded slot. -/
def ctxResident (s : State) (p c : Nat) : Bool :=
  match ctxSlot s p c with
  | some i => decide (slotState s i = csIdle ∨ slotState s i = csRunning ∨ slotState s i = csBlocked)
  | none => false

def isWait (c : Cmd) : Bool := c.op == 0x17

/-- R423, R424: the slot of a resident context follows its started commands; BLOCKED time is counted (R440). -/
def slotUpdate (s : State) (p c : Nat) : State :=
  match ctxSlot s p c, getCtx s p c with
  | some i, some x =>
    if !ctxResident s p c then s else
    let mine := s.cmds.filter (fun k => k.part == p && k.ctx == c && k.started)
    let st := if mine.any (fun k => !isWait k) then csRunning else if mine.isEmpty then csIdle else csBlocked
    let s := fset s .QE_CTX_SLOT_STATE i st
    match x.blockedSince with
    | some t => if st = csBlocked then s else
        setCtx s p c (some { x with blockedSince := none, blockedNs := (x.blockedNs + (hostNs s - t)) % 2 ^ 64 })
    | none => if st = csBlocked then setCtx s p c (some { x with blockedSince := some (hostNs s) }) else s
  | _, _ => s

/-! The end of a command (R404, R429, R431). -/

def getCmd (s : State) (id : Nat) : Option Cmd := s.cmds.find? (fun c => c.id == id)
def setCmd (s : State) (c : Cmd) : State := { s with cmds := s.cmds.map (fun x => if x.id == c.id then c else x) }

/-- A command leaves its tracker entry without a record (R413). -/
def dropCmd (s : State) (c : Cmd) : State :=
  slotUpdate { s with cmds := s.cmds.filter (fun x => x.id != c.id) } c.part c.ctx

/-- R404: a command ends and writes its record; the status of something gone replaces DONE (R431, R432). -/
def endCmd (s : State) (c : Cmd) (status detail count prov : Nat) : State :=
  let st := if status = 0 then c.gone.getD 0 else status
  let s := writeRecord s c.part c.ring c.ctx c.tag count (if st = 0 then detail else 0) st prov
  let s := match getCtx s c.part c.ctx with
    | some x => setCtx s c.part c.ctx (some { x with commands := (x.commands + 1) % 2 ^ 64 })
    | none => s
  dropCmd s c

/-- A ring has no descriptor fetched and still without its record. -/
def ringQuiet (s : State) (r : Nat) : Bool :=
  !(s.cmds.any (fun c => c.ring == r)) && !(s.intake.any (fun c => c.ring == r)) &&
  !(s.reqs.any (fun c => c.ring == r)) &&
  !(s.hreads.any (fun h => match h.why with
    | .descs q _ _ => q == r
    | _ => false))

/-- R536: a consist that runs no service counts one step at the end of each of its launches. -/
def launchCount (s : State) (l : Launch) : State :=
  match slotOf s l.part l.sub with
  | none => s
  | some i =>
    if s.services.any (fun v => v.part == l.part && v.sub == l.sub) then s else
    let c := SMap.get (fun _ => PwrConsist.reset) s.power.cons i
    { s with power := { s.power with cons := SMap.set (fun _ => PwrConsist.reset) s.power.cons i { c with steps := c.steps + 1 } } }

/-- A LAUNCH command's launch is over (R400, R401, R553): how many cores ended without a fault, and whether one
faulted. -/
def launchEnd (s : State) (l : Launch) : State :=
  match l.command with
  | none => s
  | some id =>
    match getCmd s id with
    | none => s
    | some c =>
      let good := (l.cores.filter (fun p => p.2 == .ended)).length
      endCmd s c 0 (if good = l.size then 0 else 2) good 0

end Sys2Proof.Machine
end

