-- ==== Sys2Proof/Machine/SageCtl.lean ====
section
/-! DEFINITION. What a Sage core's state machine does on its own (spec R104, R106, R107, R126, R130, R132): faults,
ends, fences, releases and compute resets. -/
namespace Sys2Proof.Machine

/-- A message from a core's station stop (R121). -/
def coreSignal (s : State) (c cls die stop part : Nat) (payload : List W32) : State :=
  sendSignal s (c / 96) (stnJunction (c / 6 % 16)) ⟨cls, die, stop, part, false, payload⟩

/-- Replace a launch by its identity. -/
def setLaunch (s : State) (l : Launch) : State :=
  { s with launches := s.launches.map (fun x => if x.id == l.id then l else x) }

def getLaunch (s : State) (id : Nat) : Option Launch := s.launches.find? (fun l => l.id == id)

def CoreEnd.code : CoreEnd → Nat
  | .running => 0 | .ended => 1 | .faulted => 2 | .fenced => 3 | .reset => 4

/-- Every core of a launch on this module has come to its end. -/
def Launch.finished (l : Launch) : Bool := l.cores.length == l.here && l.cores.all (fun p => p.2 != .running)

/-- A core's part of its launch comes to an end, and the launch with its last core, whose command writes its
record (R96, R101, R341, R401). -/
def endCore (s : State) (c : Nat) (e : CoreEnd) : State :=
  let k := getCore s c
  match k.launch with
  | none => s
  | some cl =>
    match getLaunch s cl.id with
    | none => s
    | some l =>
      let l' := { l with cores := l.cores.map (fun p => if p.1 == c then (c, e) else p) }
      let s := setLaunch s l'
      if l'.finished && !l.finished then launchEnd (launchCount (epochEnd s l.epoch) l) l' else s

/-- The report of an end or a fault to the conductor that launched the core (R101, R106): core, and how it ended. -/
def reportCore (s : State) (c : Nat) (e : CoreEnd) : State :=
  match (getCore s c).launch with
  | none => s
  | some cl =>
    coreSignal (endCore s c e) c clsLaunch (cl.cnd / 4) ccStop cl.part [BitVec.ofNat 32 c, BitVec.ofNat 32 e.code]

/-- The core no longer belongs to a launch. -/
def dropLaunch (s : State) (c : Nat) : State :=
  setCore s c { getCore s c with launch := none, wait := .none, fencing := false }

/-- R107, R108: a fault stops issue and is recorded. -/
def faultCore (s : State) (c code detail pc : Nat) : State :=
  let s := fset s .SAGE_FAULT_CODE c code
  let s := fset s .SAGE_FAULT_FAULT_PC c pc
  let s := fset s .SAGE_FAULT_DETAIL c (detail % 2 ^ 32)
  setCoreState s c stFaulted

/-- R57 cleared, the scratchpad kept or its valid bits cleared, the generator seeded with zero (R106, R132); the cycle
count goes on except at a compute reset (R98). -/
def clearedCore (k : Core) (reset : Bool) : Core :=
  { Core.reset with spad := if reset then k.spad else [], code := k.code, storeEcc := k.storeEcc,
                    cycles := if reset then 0 else k.cycles, cycleFrac := if reset then 0 else k.cycleFrac }

/-- The slot of a request whose waiter is gone: its answer reaches nobody (R95, R106). -/
def lostSlot : Nat := 65

/-- Requests of a core over the links lose their waiter; their tags stay in use until they end (R380). -/
def orphanRemotes (s : State) (c : Nat) (lost : Nat → Bool) : State :=
  { s with remotes := s.remotes.map (fun r => if r.core == c && lost r.slot then { r with slot := lostSlot } else r) }

/-- R268: a core's lanes retire when its program ends, and a stream with its last lane. -/
def retireLanes (s : State) (c : Nat) : State :=
  { s with dill := (s.dill.map (fun t => match t.kind with
      | .lane => { t with lanes := t.lanes.filter (fun l => l.core != c) }
      | _ => t)).filter (fun t => t.kind != .lane || !t.lanes.isEmpty) }

/-- The class C fields of a core return to their reset values (R13, R108). -/
def resetCoreRegs (s : State) (c : Nat) : State :=
  let s := fset s .SAGE_PC_PC c 0
  let s := fset s .SAGE_FAULT_CODE c 0
  let s := fset s .SAGE_FAULT_FAULT_PC c 0
  let s := fset s .SAGE_FAULT_DETAIL c 0
  let s := fset s .SAGE_CYCLES_RUN c 0
  fset s .SAGE_RETIRED_COUNT c 0

/-- R106: a compute reset of one core; nothing happens to a fenced one.  Its launch ends here. -/
def resetCore (s : State) (c : Nat) : State :=
  if coreState s c = stFenced then s else
  let s := retireLanes (orphanRemotes (endCore s c .reset) c (fun _ => true)) c
  let s := resetCoreRegs (setCore s c (clearedCore (getCore s c) true)) c
  setCoreState s c (if bit (fget s .STN_CORE_FENCE_FENCE (c / 6)) (c % 6) then stFenced else stFree)

/-- R132: a fenced core is released: state, program counter and scratchpad cleared, FREE. -/
def releaseFenced (s : State) (c : Nat) : State :=
  let s := fset s .SAGE_PC_PC c 0
  setCoreState (setCore s c (clearedCore (getCore s c) false)) c stFree

/-- R106, R130: a fence arrives at a core, which acts by its state. -/
def fenceCore (s : State) (c : Nat) : State :=
  let st := coreState s c
  if st = stFree then setCoreState s c stFenced
  else if st = stLoading then dropLaunch (setCoreState (reportCore s c .fenced) c stFenced) c
  else if st = stRunning ∨ st = stEnding then setCore s c { getCore s c with fencing := true }
  else if st = stFaulted then setCoreState s c stFenced
  else s

/-- R130, R132: a write of one bit of STN_CORE_FENCE.FENCE. -/
def writeFence (s : State) (c : Nat) (b : Bool) : State :=
  let k := c / 6
  if bit (fget s .STN_CORE_FENCE_FENCE k) (c % 6) == b then s else
  let s := fsetBit s .STN_CORE_FENCE_FENCE k (c % 6) b
  if b then fenceCore s c else
  let s := fsetBit s .STN_CORE_FENCE_FW k (c % 6) false
  if coreState s c = stFenced then releaseFenced s c else s

/-- R130: Fuane fences a core on its second STORE_ECC fault since the last cold reset. -/
def storeEccFault (s : State) (c : Nat) : State :=
  let k := getCore s c
  let s := setCore s c { k with storeEcc := k.storeEcc + 1 }
  if k.storeEcc + 1 = 2 then fsetBit (writeFence s c true) .STN_CORE_FENCE_FW (c / 6) (c % 6) true else s

end Sys2Proof.Machine
end

