-- ==== Sys2Proof/Machine/Resets.lean ====
section
/-! DEFINITION. The parts that resets, bindings and power cycles share (spec R13, R106, R127, R128): clearing
register fields by unit or class, and the stores of a station. -/
namespace Sys2Proof.Machine

/-- Return the fields that satisfy p to their reset values. -/
def clearFields (s : State) (p : F → Nat → Bool) : State :=
  { s with regs := SMap.clear (fun k => p (F.ofNat (k / 65536)) (k % 65536)) s.regs }

/-- The KV gate's register fields (R176). -/
def isKvgField (f : F) : Bool := decide (F.num .KVG_CTRL_ENABLE ≤ f.num) && decide (f.num ≤ F.num .KVG_BYTES_COUNT)

def getKvgLanes (s : State) (k : Nat) : List W64 := SMap.get (fun _ => genSeed 0) s.kvgLanes k
def setKvgLanes (s : State) (k : Nat) (l : List W64) : State :=
  { s with kvgLanes := SMap.set (fun _ => genSeed 0) s.kvgLanes k l }

def getKvg (s : State) (k : Nat) : Kvg := SMap.get (fun _ => Kvg.reset) s.kvg k
def setKvg (s : State) (k : Nat) (g : Kvg) : State := { s with kvg := SMap.set (fun _ => Kvg.reset) s.kvg k g }

/-- R127 step 3: every register field of a station's KV gate at its reset value, its generator seeded with zero,
its kept tails 0 (R147). -/
def kvgResetAll (s : State) (k : Nat) : State :=
  setKvg (setKvgLanes (clearFields s (fun f i => isKvgField f && i == k)) k (genSeed 0)) k Kvg.reset

/-- A compute reset of a station's KV gate: its class C fields, its generator and its kept tails
(R13, R147, R155). -/
def kvgCompute (s : State) (k : Nat) : State :=
  setKvg (setKvgLanes (clearFields s (fun f i => isKvgField f && f.spec.cls == .C && i == k)) k (genSeed 0)) k
    Kvg.reset

/-- The bytes of memory and the error marks in [lo, hi) read as after their valid bits are cleared (R128). -/
def clearMem (s : State) (lo hi : Nat) : State :=
  { s with mem := SMap.clear (fun a => decide (lo ≤ a) && decide (a < hi)) s.mem
           ueLines := SMap.clear (fun l => decide (lo ≤ 64 * l) && decide (64 * l < hi)) s.ueLines }

/-- Clear the valid bits of ways of a slice's depot share that satisfy p (R127, R251, R259). -/
def clearShare (s : State) (k : Nat) (p : Nat → Bool) : State :=
  { s with depot := SMap.clear (fun e => e / 262144 == k && p (e % 16)) s.depot }

/-- The whole depot share of a slice, its pinned window included (R127 step 5, R260). -/
def clearWholeShare (s : State) (k : Nat) : State :=
  clearMem (clearShare s k (fun _ => true)) (pinBase + k * 0x2000000) (pinBase + (k + 1) * 0x2000000)

/-- The scratchpads of a station's cores (R127 step 4, R521). -/
def clearSpads (s : State) (k : Nat) : State :=
  (List.range 6).foldl (fun s c => setCore s (6 * k + c) { getCore s (6 * k + c) with spad := [] }) s

/-- R127 step 4: the valid bits of a station's stores; dirty cache lines are discarded. -/
def clearStores (s : State) (k : Nat) : State :=
  scDiscard (clearMem (clearSpads s k) (stnAddr k 0) (stnAddr (k + 1) 0)) k

/-- R127 steps 3 to 5. -/
def bindClear (s : State) (k : Nat) : State :=
  let s := (List.range 6).foldl (fun s c => resetCore s (6 * k + c)) s
  clearWholeShare (clearStores (kvgResetAll s k) k) k

end Sys2Proof.Machine
end

