-- ==== Sys2Proof/Machine/UnitRegs.lean ====
section
/-! DEFINITION. What writes of the units' registers do: doorbells, seeds, enables and locks.  A register write
changes what the unit holds; the unit's own commands do the work. -/
namespace Sys2Proof.Machine

/-! KV gates (spec R147, R155, R156, R176). -/

/-- R147, R156: a doorbell records the ring's new tail, unless the slice is bound to no partition. -/
def kvgDoorbell (s : State) (k ring tail : Nat) : State :=
  if boundTo s k = none then s else
  let g := getKvg s k
  setKvg s k (if ring = 0 then { g with tail0 := tail % 256 } else { g with tail1 := tail % 256 })

/-- R155: a write of the seed seeds the generator. -/
def kvgSeed (s : State) (k seed : Nat) : State :=
  setKvgLanes (fset s .KVG_RSEED_SEED k seed) k (genSeed (BitVec.ofNat 64 seed))

/-- R147: a base at which the ring would reach beyond 8 MiB is ignored; bits [22:12] of the offset are stored. -/
def kvgBase (s : State) (f : F) (k v : Nat) : State :=
  if 0x800000 < v * 4096 + 0x2000 then s else fset s f k v

/-- Whether a ring of a KV gate holds work (R147). -/
def kvgWork (s : State) (k ring : Nat) : Bool :=
  if ring = 0 then fget s .KVG_HEAD_HEAD0 k != (getKvg s k).tail0 else fget s .KVG_HEAD_HEAD1 k != (getKvg s k).tail1

/-- R147, R156, R176: the ring whose command the gate executes next, if it executes any. -/
def kvgNext (s : State) (k : Nat) : Option Nat :=
  if !fbit s .KVG_CTRL_ENABLE k || boundTo s k == none || fbit s .STN_STATUS_CLEARING k ||
      stnPower s k != domOn then none
  else match kvgWork s k 0, kvgWork s k 1 with
  | true, true => some (1 - (getKvg s k).last)
  | true, false => some 0
  | false, true => some 1
  | false, false => none

/-! Points units (spec R172, R177). -/

def getPoints (s : State) (d : Nat) : Points := SMap.get (fun _ => Points.reset) s.points d
def setPoints (s : State) (d : Nat) (x : Points) : State :=
  { s with points := SMap.set (fun _ => Points.reset) s.points d x }

/-- R172: a doorbell of ring r of die d's Points unit. -/
def ptsDoorbell (s : State) (d r tail : Nat) : State :=
  let x := getPoints s d
  setPoints s d { x with tails := setAt x.tails r (tail % 64) }

def ptsHeadF (r : Nat) : F :=
  match r with
  | 0 => .PTS_HEAD_HEAD0 | 1 => .PTS_HEAD_HEAD1 | 2 => .PTS_HEAD_HEAD2 | _ => .PTS_HEAD_HEAD3

def ptsHead (s : State) (d r : Nat) : Nat := fget s (ptsHeadF r) d

/-- Whether ring r holds work. -/
def ptsWork (s : State) (d r : Nat) : Bool := (getPoints s d).tails.getD r 0 != ptsHead s d r

/-- R175: the ring served next, round-robin after the last one served. -/
def ptsNext (s : State) (d : Nat) : Option Nat :=
  ([1, 2, 3, 4].map (fun i => ((getPoints s d).last + i) % 4)).find? (ptsWork s d)

/-! Branch-line units (spec R179, R207). -/

def getBl (s : State) (u : Nat) : Points := SMap.get (fun _ => Points.reset) s.bls u
def setBl (s : State) (u : Nat) (x : Points) : State := { s with bls := SMap.set (fun _ => Points.reset) s.bls u x }

/-- R179: a doorbell of ring r of unit u. -/
def blDoorbell (s : State) (u r tail : Nat) : State :=
  let x := getBl s u
  setBl s u { x with tails := setAt x.tails r (tail % 64) }

def blHeadF (r : Nat) : F :=
  match r with
  | 0 => .BL_HEAD_HEAD0 | 1 => .BL_HEAD_HEAD1 | 2 => .BL_HEAD_HEAD2 | _ => .BL_HEAD_HEAD3

def blHead (s : State) (u r : Nat) : Nat := fget s (blHeadF r) u
def blWork (s : State) (u r : Nat) : Bool := (getBl s u).tails.getD r 0 != blHead s u r

/-- R179, R207: the ring whose command an enabled unit executes, round-robin. -/
def blReady (s : State) (u : Nat) : Option Nat :=
  if fbit s .BL_CTRL_ENABLE u then ([1, 2, 3, 4].map (fun i => ((getBl s u).last + i) % 4)).find? (blWork s u) else none

/-- The same, while no compute reset of its partition stops the unit (R205, R555). -/
def blNext (s : State) (u : Nat) : Option Nat := if fbit s .RST_PART_STATUS_RESETTING u then none else blReady s u

/-! Pinned windows (R258, R259). -/

/-- R259: PIN_WAYS changes: every way that moves has its valid bits cleared; above 16 is ignored. -/
def pinWaysWrite (s : State) (k v : Nat) : State :=
  if 16 < v then s else
  let lo := min v (pinWays s k)
  let hi := max v (pinWays s k)
  let s := clearShare s k (fun way => decide (lo ≤ way) && decide (way < hi))
  let base := pinBase + k * 0x2000000
  fset (clearMem s (base + lo * 0x200000) (base + hi * 0x200000)) .DEP_SLICE_CFG_PIN_WAYS k v

/-! Rings (spec R393-R396, R414, R415). -/

/-- The global ring that a function's RING_SEL names; none where it lies outside the function's partitions (R390,
R393). -/
def selRing (s : State) (f : Nat) : Option Nat :=
  let sel := fget s .QE_RING_SEL_RING f
  if f = 0 then
    match ringPart s sel with
    | some p => if funcOf s p = 0 then some sel else none
    | none => none
  else if vfServes s (f - 1) && decide (sel < fget s .QE_PART_RINGS_COUNT (f - 1)) then
    some (globalRing s (f - 1) sel) else none

/-- The ring entry that a function's set-up registers describe. -/
def setupRing (s : State) (f : Nat) : Ring :=
  { state := rEnabled, kind := fget s .QE_RING_CFG_KIND f, format := fget s .QE_RING_CFG_FORMAT f,
    sizeLog2 := fget s .QE_RING_CFG_SIZE_LOG2 f, comp := fget s .QE_RING_CFG_COMPLETION f,
    sub := fget s .QE_RING_CFG_SUB f, vector := fget s .QE_RING_CFG2_VECTOR f, irq := fbit s .QE_RING_CFG2_IRQ f,
    modCount := fget s .QE_RING_CFG2_MOD_COUNT f, modTime := fget s .QE_RING_CFG2_MOD_TIME f,
    ctx := fget s .QE_RING_CFG2_CONTEXT f, base := fget s .QE_RING_BASE_ADDR f * 4096, head := 0, tail := 0,
    issued := 0, uncovered := 0 }

/-- R392, R393: the fields of a ring entry are in range. -/
def ringOk (s : State) (f p : Nat) (x : Ring) : Bool :=
  let work := x.kind == kCommand || x.kind == kRequest
  decide (1 ≤ x.kind ∧ x.kind ≤ 4 ∧ 6 ≤ x.sizeLog2 ∧ x.sizeLog2 ≤ 20) &&
  (if x.kind == kCommand then decide (1 ≤ x.format) else if x.kind == kRequest then x.format == 3 else x.format == 0) &&
  (f == 0 || decide (x.vector < 64)) &&
  (!work || (decide (x.comp < fget s .QE_PART_RINGS_COUNT p) &&
    (getRing s (globalRing s p x.comp)).state == rEnabled &&
    (getRing s (globalRing s p x.comp)).kind == kCompletion))

/-- A ring that is not DISABLED names ring r of partition p as its completion ring (R393). -/
def ringNamed (s : State) (p r : Nat) : Bool :=
  s.rings.any (fun e => ringPart s e.1 == some p && e.2.state != rDisabled &&
    (e.2.kind == kCommand || e.2.kind == kRequest) && globalRing s p e.2.comp == r)

/-- A ring's last record has been written (R394). -/
def ringDone (s : State) (f r : Nat) : Bool :=
  if (getRing s r).kind = kCommand ∨ (getRing s r).kind = kRequest then ringQuiet s r else (getPosted s f).isEmpty

/-- R239: the requests whose output goes to a ring that is disabled or in ERROR end at their next boundary. -/
def ringLost (s : State) (r : Nat) : State :=
  { s with reqs := s.reqs.map (fun q => if q.outRing == r then { q with outLost := true } else q) }

def ringResult (s : State) (f code : Nat) : State := fset s .QE_RING_STATUS_RESULT f code

/-- R393: CONFIGURE by function f. -/
def ringConfigure (s : State) (f : Nat) : State :=
  if quiescing s f then ringResult s f 4 else
  match selRing s f with
  | none => ringResult s f 3
  | some r =>
    if (getRing s r).state ≠ rDisabled then ringResult s f 2
    else if !ringOk s f ((ringPart s r).getD 0) (setupRing s f) then ringResult s f 1
    else ringResult (setRing s r (setupRing s f)) f 0

/-- R393, R394: DISABLE by function f. -/
def ringDisable (s : State) (f : Nat) : State :=
  if quiescing s f then ringResult s f 4 else
  match selRing s f with
  | none => ringResult s f 3
  | some r =>
    let x := getRing s r
    if x.kind = kCompletion ∧ x.state ≠ rDisabled ∧ ringNamed s ((ringPart s r).getD 0) r = true then ringResult s f 2
    else if x.state = rDisabled then ringResult s f 0
    else ringResult (ringLost (setRing s r { x with state := if ringDone s f r then rDisabled else rDraining }) r) f 0

/-- R393: READ by function f. -/
def ringRead (s : State) (f : Nat) : State :=
  if quiescing s f then ringResult s f 4 else
  match selRing s f with
  | none => ringResult s f 3
  | some r =>
    let x := getRing s r
    let s := fset s .QE_RING_BASE_ADDR f (x.base / 4096)
    let s := fset s .QE_RING_CFG_KIND f x.kind
    let s := fset s .QE_RING_CFG_FORMAT f x.format
    let s := fset s .QE_RING_CFG_SIZE_LOG2 f x.sizeLog2
    let s := fset s .QE_RING_CFG_COMPLETION f x.comp
    let s := fset s .QE_RING_CFG_SUB f x.sub
    let s := fset s .QE_RING_CFG2_VECTOR f x.vector
    let s := fset s .QE_RING_CFG2_IRQ f (b2n x.irq)
    let s := fset s .QE_RING_CFG2_MOD_COUNT f x.modCount
    let s := fset s .QE_RING_CFG2_MOD_TIME f x.modTime
    let s := fset s .QE_RING_CFG2_CONTEXT f x.ctx
    ringResult s f 0

/-- R393: a write of RING_CMD. -/
def ringCommand (s : State) (f op : Nat) : State :=
  match op with
  | 1 => ringConfigure s f
  | 2 => ringDisable s f
  | 3 => ringRead s f
  | _ => s

/-- A doorbell is dropped and counted for a function (R389, R396, R414). -/
def dropDoorbell (s : State) (f : Nat) : State := fsat s .QE_FUNC_STATUS_DB_DROPS f

/-- R395, R396: a doorbell of ring r takes effect, or puts the ring in ERROR. -/
def ringDoorbell (s : State) (r v : Nat) : State :=
  match ringPart s r with
  | none => dropDoorbell s 0
  | some p =>
    let f := funcOf s p
    let x := getRing s r
    if quiescing s f || fbit s .RST_PART_STATUS_OUT p || x.state == rDisabled then dropDoorbell s f
    else if x.state = rError then s
    else if x.kind = kCommand ∨ x.kind = kRequest then
      (if x.tail = v then s else
       if x.size < ringGap v x.head then ringErrorEvent (ringLost (setRing s r { x with state := rError }) r) f
       else setRing s r { x with tail := v % 2 ^ 32 })
    else
      (if x.head = v then s else
       if x.size < ringGap x.tail v then ringErrorEvent (ringLost (setRing s r { x with state := rError }) r) f
       else setRing s r { x with head := v % 2 ^ 32 })

/-- R395: what a read of a doorbell returns. -/
def doorbellValue (s : State) (r : Nat) : Nat :=
  let x := getRing s r
  if x.kind = kCommand ∨ x.kind = kRequest then x.head else x.tail

/-! Quotas and tables (R390, R398, R410, R419, R426). -/

def sumOver (n : Nat) (g : Nat → Nat) : Nat := ((List.range n).map g).foldl (· + ·) 0

/-- Some ring of a partition's range is not disabled. -/
def anyRingOn (s : State) (p : Nat) : Bool :=
  s.rings.any (fun e => ringPart s e.1 == some p && e.2.state != rDisabled)

/-- R390: partition p's range is one the queue engine takes. -/
def rangeOk (s : State) (p : Nat) : Bool :=
  let b := fget s .QE_PART_RINGS_BASE p
  let c := fget s .QE_PART_RINGS_COUNT p
  decide (c ≤ 65536 ∧ b + c ≤ 262144) &&
  (List.range 64).all (fun q => q == p || c == 0 || fget s .QE_PART_RINGS_COUNT q == 0 ||
    decide (b + c ≤ fget s .QE_PART_RINGS_BASE q) ||
    decide (fget s .QE_PART_RINGS_BASE q + fget s .QE_PART_RINGS_COUNT q ≤ b))

/-- R398, R410: the quotas add up. -/
def quotasOk (s : State) : Bool :=
  decide (sumOver 64 (fun p => fget s .QE_PART_CFG_TRACKERS p) ≤ 8192) &&
  decide (sumOver 64 (fun p => fget s .QE_PART_CFG_ATC_QUOTA p) + fget s .QE_PF_ATC_QUOTA_ENTRIES ≤ 16384)

/-- R410: a function keeps no more entries than its quota. -/
def atcTrim (s : State) (f : Nat) : State := setAtc s f ((getAtc s f).take (atcQuota s f))

/-- A write ignored with QE_ERR.RANGE. -/
def rangeError (s : State) : State := fset s .QE_ERR_RANGE 0 1

end Sys2Proof.Machine
end

