-- ==== Sys2Proof/Machine/ChervilOps.lean ====
section
/-! DEFINITION. Chervil channels as their registers drive them (spec R444-R450, R455-R463): owners, GO commands,
completion records, and the end of chains and of COPY commands. -/
namespace Sys2Proof.Machine

/-- Channel states (R462). -/
def chIdle : Nat := 0
def chLoading : Nat := 1
def chRunning : Nat := 2
def chStopping : Nat := 3
def chHalted : Nat := 4
def chCqWait : Nat := 5

def getChan (s : State) (n : Nat) : Chan := SMap.get (fun _ => Chan.reset) s.chans n
def setChan (s : State) (n : Nat) (x : Chan) : State := { s with chans := SMap.set (fun _ => Chan.reset) s.chans n x }
def chState (s : State) (n : Nat) : Nat := fget s .CHV_CH_STATUS_STATE n
def setChState (s : State) (n v : Nat) : State := fset s .CHV_CH_STATUS_STATE n v

/-- The channel is in use by the operator, by a partition, by nobody (R445). -/
def chPart (s : State) (n : Nat) : Nat := fget s .CHV_CH_OWNER_PART n

/-- Who the channel's accesses are made for (R349, R445, R456): without a consist of its SUB, every window counts. -/
def chvWho (s : State) (n : Nat) : Who :=
  let p := chPart s n
  let sub := fget s .CHV_CH_OWNER_SUB n
  let sub := if fbit s .COMP_PART_CFG_MODE p then (if (slotOf s p sub).isSome then sub else 4) else 0
  ⟨p, sub, fbit s .CHV_CH_OWNER_OPER n, 4, n / 64, n % 64, false⟩

/-- A write to a channel's registers that is ignored (R445, R446, R462, R463). -/
def chIgnore (s : State) (n : Nat) : State := fsat s .CHV_CH_IGNORED_COUNT n

/-- R446: the writers a channel's registers accept: the physical function, and conductors that match the owner or
carry OPER. -/
def chAccepts (s : State) (n : Nat) (path : RegPath) : Bool :=
  match path with
  | .pf0 => true
  | .device w => w.kind == 6 && (w.oper || (fbit s .CHV_CH_OWNER_VALID n && !fbit s .CHV_CH_OWNER_OPER n &&
      chPart s n == w.part))
  | _ => false

/-- A checked write of memory, registers apart. -/
def memWrite (s : State) (w : Who) (a : Nat) (bs : List Byte) : State :=
  let ps := pieces a bs.length
  let c := checkAccess (reach s ps) w .write ps
  ((ps.foldl (fun (x : State × List Byte) p =>
    (if c.1 p then writeAt x.1 w (p.addr / 64) (lineData p.addr (x.2.take p.len)) else x.1, x.2.drop p.len))
    (c.2, bs))).1

/-- A checked read of memory, registers apart: the bytes and the error mark. -/
def memRead (s : State) (w : Who) (a n : Nat) : State × List Byte × Bool :=
  let ps := pieces a n
  let c := checkAccess (reach s ps) w .read ps
  ps.foldl (fun (x : State × List Byte × Bool) p =>
    if c.1 p then
      let r := readAt x.1 w p false false
      (r.1, x.2.1 ++ r.2.1, x.2.2 || r.2.2)
    else (x.1, x.2.1 ++ List.replicate p.len 0, x.2.2)) (c.2, [], false)

/-! Records (R459-R461). -/

/-- The record of R460, its PHASE apart. -/
def chRecord (s : State) (n tag bytes status kind : Nat) (last : Bool) : List Byte :=
  leBytes 4 tag ++ leBytes 4 (bytes % 2 ^ 24) ++ leBytes 2 n ++ leBytes 2 (fget s .CHV_CH_STATUS_INDEX n) ++
  leBytes 1 status ++ leBytes 1 kind ++ leBytes 1 (fget s .CHV_CH_STATUS_PROVISIONAL n + 2 * b2n last) ++ leBytes 1 0

/-- The completion queue has no room (R459). -/
def cqFull (s : State) (n : Nat) : Bool :=
  decide (2 ^ fget s .CHV_CH_CQ_CFG_SIZE_LOG2 n ≤ ringGap (fget s .CHV_CH_CQ_TAIL_TAIL n) (fget s .CHV_CH_CQ_HEAD_HEAD n))

/-- The record lands at CQ_TAIL with its PHASE, and the operator's vector is raised (R459, R460). -/
def cqWrite (s : State) (n : Nat) (rec_ : List Byte) : State :=
  let size := 2 ^ fget s .CHV_CH_CQ_CFG_SIZE_LOG2 n
  let tail := fget s .CHV_CH_CQ_TAIL_TAIL n
  let rec_ := rec_.set 14 (BitVec.ofNat 8 ((rec_.getD 14 0).toNat + 128 * phaseOf tail size))
  let s := memWrite s (chvWho s n) (fget s .CHV_CH_CQ_BASE_ADDR n * 64 + tail % size * 16) rec_
  let s := fset s .CHV_CH_CQ_TAIL_TAIL n ((tail + 1) % 2 ^ 32)
  if fbit s .CHV_CH_CQ_CFG_IRQ n && fbit s .CHV_CH_OWNER_OPER n then
    raiseVector s 0 (fget s .CHV_CH_CQ_CFG_VECTOR n) else s

/-- A chain is over: its epoch's count goes down, and the channel is IDLE (R341, R456). -/
def chainEnd (s : State) (n : Nat) : State :=
  setChState (setChan (epochEnd s (getChan s n).epoch) n Chan.reset) n chIdle

/-- Where a record leads: on to `next`, and with the chain's last record to the chain's end. -/
def afterRecord (s : State) (n next : Nat) (last : Bool) : State :=
  if last then chainEnd s n else setChState s n next

/-- R447: a channel loaded for a COPY gives its final record to the queue engine; one that halted is aborted at once. -/
def copyFinish (s : State) (n id status kind total : Nat) : State :=
  let prov := fget s .CHV_CH_STATUS_PROVISIONAL n
  let err := fget s .CHV_CH_ERR_ADDR_ADDR n
  let dir := fget s .CHV_CH_ERR_ADDR_DIR n
  let s := chainEnd (fset s .CHV_CH_ERR_ADDR_VALID n 0) n
  match getCmd s id with
  | none => s
  | some c =>
    let s := match getCtx s c.part c.ctx with
      | some x => setCtx s c.part c.ctx (some { x with chervilBytes := (x.chervilBytes + total) % 2 ^ 64 })
      | none => s
    if status = 0 then endCmd s c 0 0 total prov
    else if status = 1 then
      (if kind = 2 then
        endCmd (recordFault s (funcOf s c.part) err 2 0 ⟨1, c.ctx, c.tag, localRing s c.ring⟩) c 0x42 0 total prov
       else if kind = 3 then
        endCmd (recordFault s (funcOf s c.part) err 1 dir ⟨1, c.ctx, c.tag, localRing s c.ring⟩) c 0x43 0 total prov
       else endCmd s c 0 1 total prov)
    else if status = 4 then endCmd s c 0x40 0 total prov
    else if quiescing s (funcOf s c.part) then dropCmd s c
    else endCmd s c (c.gone.getD 0x44) 0 total prov

/-- R459: a record goes to the queue engine, or to the completion queue; a full queue holds it in CQ_WAIT. -/
def recordOut (s : State) (n : Nat) (e : ChanRec) : State :=
  let x := getChan s n
  match x.copy with
  | some id => copyFinish s n id e.status e.kind (x.total + e.moved)
  | none =>
    if cqFull s n then setChState (setChan s n { x with held := some (e.bytes, e.next, e.last) }) n chCqWait
    else afterRecord (cqWrite s n e.bytes) n e.next e.last

/-- The function through which a channel reaches the host (R445, R456). -/
def chFunc (s : State) (n : Nat) : Nat := if (chvWho s n).oper then 0 else funcOf s (chPart s n)

/-- Where the last host write of a descriptor went: the address of the zero-length read behind it (DESIGN CHOICE, log 107). -/
def flushAddr (s : State) (n : Nat) : Nat := (fget s .CHV_CH_DST_ADDR n - 1) / 4 * 4

/-- R454, R459: a descriptor's record, with the state that follows it.  After host writes a zero-length read goes out, and
the record waits for its completion. -/
def chvRecord (s : State) (n bytes status kind : Nat) (last : Bool) (next : Nat) : State :=
  let x := getChan s n
  if x.copy.isSome ∧ status = 0 ∧ !last then setChState s n next else
  let e : ChanRec := ⟨chRecord s n (fget s .CHV_CH_TAG_TAG n) bytes status kind last, bytes, status, kind, last, next⟩
  if x.dirty then
    post (setChan s n { x with dirty := false, due := some e }) (chFunc s n) (.flush (flushAddr s n))
  else recordOut s n e

/-- R462: room in the queue lets the held record be written. -/
def cqRoom (s : State) (n : Nat) : State :=
  match (getChan s n).held with
  | some h =>
    if chState s n = chCqWait ∧ cqFull s n = false then
      afterRecord (setChan (cqWrite s n h.1) n { getChan s n with held := none }) n h.2.1 h.2.2
    else s
  | none => s

/-! Descriptors (R448-R450). -/

/-- The fields of a descriptor. -/
structure ChDesc where
  src : Nat
  dst : Nat
  next : Nat
  count : Nat
  tag : Nat
  ctrl : Nat
deriving DecidableEq, Repr

/-- The bytes of a fixed side's element (R449). -/
def chWidth (ctrl : Nat) : Nat := match bits ctrl 24 2 with | 0 => 4 | 1 => 8 | _ => 64

def inControl (a : Nat) : Bool := match regionOf a with | .control _ => true | _ => false

/-- R450: the descriptor is valid. -/
def ChDesc.ok (d : ChDesc) : Bool :=
  let w := chWidth d.ctrl
  let sf := bit d.ctrl 22
  let df := bit d.ctrl 23
  let sh := bit d.ctrl 0
  let dh := bit d.ctrl 1
  let sr := bit d.ctrl 2
  let dr := bit d.ctrl 3
  decide (1 ≤ d.count ∧ d.count < 2 ^ 24 ∧ d.src < 2 ^ 48 ∧ d.dst < 2 ^ 48 ∧ d.ctrl < 2 ^ 27) &&
  bits d.ctrl 24 2 != 3 && !(sh && dh) && !(sr && dr) && !(sh && sr) && !(dh && dr) && !(sf && df) &&
  !(sf && sh) && !(df && dh) && (!sf || d.src % w == 0) && (!df || d.dst % w == 0) &&
  (!(sf || df) || d.count % w == 0) && (d.next == 0 || (d.next % 64 == 0 && inControl d.next))

/-- The descriptor that the channel's registers describe. -/
def regDesc (s : State) (n : Nat) : ChDesc :=
  ⟨fget s .CHV_CH_SRC_ADDR n, fget s .CHV_CH_DST_ADDR n, fget s .CHV_CH_NEXT_ADDR n * 64, fget s .CHV_CH_COUNT_BYTES n,
   fget s .CHV_CH_TAG_TAG n, fget s .CHV_CH_CTRL_CTRL n⟩

/-- A descriptor in its 64 bytes, and whether its reserved bytes are zero (R448). -/
def descOf (bs : List Byte) : ChDesc × Bool :=
  (⟨fieldAt bs 0 8, fieldAt bs 8 8, fieldAt bs 16 8, fieldAt bs 24 4, fieldAt bs 28 4, fieldAt bs 32 4⟩,
   leNat ((bs.drop 36).take 28) == 0)

def putDesc (s : State) (n : Nat) (d : ChDesc) : State :=
  let s := fset s .CHV_CH_SRC_ADDR n d.src
  let s := fset s .CHV_CH_DST_ADDR n d.dst
  let s := fset s .CHV_CH_NEXT_ADDR n (d.next / 64)
  let s := fset s .CHV_CH_COUNT_BYTES n d.count
  let s := fset s .CHV_CH_TAG_TAG n d.tag
  fset s .CHV_CH_CTRL_CTRL n d.ctrl

/-- A valid descriptor starts to run. -/
def descRun (s : State) (n : Nat) (d : ChDesc) : State :=
  setChState (setChan (putDesc s n d) n { getChan s n with count0 := d.count, prov := [] }) n chRunning

/-- R450, R462: a descriptor is loaded and runs, or is invalid. -/
def loadDesc (s : State) (n : Nat) (d : ChDesc) (zeros : Bool) : State :=
  if d.ok && zeros then descRun s n d else chvRecord (fset s .CHV_CH_TAG_TAG n d.tag) n 0 4 0 true chIdle

/-- A new chain (R456, R461). -/
def chainStart (s : State) (n : Nat) : State :=
  let s := fset s .CHV_CH_STATUS_PROVISIONAL n 0
  let s := fset s .CHV_CH_STATUS_INDEX n 0
  let s := fset s .CHV_CH_ERR_ADDR_VALID n 0
  let w := chvWho s n
  let e := if w.oper then (none, s) else epochStart s w.part w.sub
  setChan e.2 n { Chan.reset with epoch := e.1 }

/-- R457, R458: a bus error: it is latched and recorded, and the channel halts; a channel that runs a COPY is aborted
by its front end (R447). -/
def busError (s : State) (n addr dev : Nat) (host write : Bool) (kind : Nat) : State :=
  let s := fset s .CHV_CH_ERR_ADDR_ADDR n addr
  let s := fset s .CHV_CH_ERR_ADDR_DEV n dev
  let s := fset s .CHV_CH_ERR_ADDR_HOST n (b2n host)
  let s := fset s .CHV_CH_ERR_ADDR_DIR n (b2n write)
  let s := fset s .CHV_CH_ERR_ADDR_KIND n kind
  let s := fset s .CHV_CH_ERR_ADDR_VALID n 1
  let left := if kind = 5 then 0 else (getChan s n).count0 - fget s .CHV_CH_COUNT_BYTES n
  chvRecord s n left 1 kind false chHalted

/-! GO commands (R462). -/

/-- GO commands are taken from an owned channel only (R445). -/
def goOk (s : State) (n : Nat) (path : RegPath) (st : List Nat) : Bool :=
  chAccepts s n path && fbit s .CHV_CH_OWNER_VALID n && st.contains (chState s n)

def chvStart (s : State) (n : Nat) (path : RegPath) : State :=
  if !goOk s n path [chIdle] then chIgnore s n else loadDesc (chainStart s n) n (regDesc s n) true

def chvFetch (s : State) (n : Nat) (path : RegPath) : State :=
  if !goOk s n path [chIdle] then chIgnore s n else
  let s := chainStart s n
  if inControl (fget s .CHV_CH_NEXT_ADDR n * 64) then setChState s n chLoading
  else chvRecord s n 0 4 0 true chIdle

def chvStop (s : State) (n : Nat) (path : RegPath) : State :=
  if !goOk s n path [chRunning] then chIgnore s n else setChState s n chStopping

def chvResume (s : State) (n : Nat) (path : RegPath) : State :=
  if !goOk s n path [chHalted] then chIgnore s n else
  let s := fset s .CHV_CH_ERR_ADDR_VALID n 0
  setChState s n (if fget s .CHV_CH_ERR_ADDR_KIND n = 5 then chLoading else chRunning)

def chvAbort (s : State) (n : Nat) (path : RegPath) : State :=
  if !goOk s n path [chHalted] then chIgnore s n else
  chvRecord (fset s .CHV_CH_ERR_ADDR_VALID n 0) n 0 3 0 true chIdle

/-- R445: a write of OWNER. -/
def ownerWrite (s : State) (n : Nat) (path : RegPath) (part : Nat) (oper valid : Bool) (sub : Nat) : State :=
  if path ≠ .pf0 ∨ chState s n ≠ chIdle then chIgnore s n else
  let s := fset s .CHV_CH_OWNER_PART n part
  let s := fset s .CHV_CH_OWNER_OPER n (b2n oper)
  let s := fset s .CHV_CH_OWNER_VALID n (b2n valid)
  fset s .CHV_CH_OWNER_SUB n sub

/-! Stops from outside (R413, R431, R432, R462). -/

/-- A started COPY is asked to stop at its next descriptor boundary. -/
def copyStop (s : State) (c : Cmd) : State :=
  match c.chan with
  | some n =>
    if chState s n = chRunning then setChState s n chStopping
    else if chState s n = chHalted then copyFinish s n c.id 3 0 (getChan s n).total
    else s
  | none => s

/-- The class C fields of a channel return to their reset values (R13, R465). -/
def isChvField (f : F) : Bool := decide (F.num .CHV_CH_SRC_ADDR ≤ f.num) && decide (f.num ≤ F.num .CHV_CH_ERR_ADDR_VALID)

/-- R462: a compute reset of a channel's owner: at the descriptor boundary where one runs, at once elsewhere; no
record. -/
def chvReset (s : State) (n : Nat) : State :=
  if chState s n = chRunning ∨ chState s n = chStopping then setChan s n { getChan s n with kill := true }
  else clearFields (chainEnd s n) (fun f i => isChvField f && i == n)

/-! COPY (R400, R401, R447). -/

/-- The channels that may run a COPY of a partition and SUB. -/
def copyChans (s : State) (p sub : Nat) : List Nat :=
  (List.range 1024).filter (fun n => fbit s .CHV_CH_OWNER_VALID n && !fbit s .CHV_CH_OWNER_OPER n &&
    chPart s n == p && fget s .CHV_CH_OWNER_SUB n == sub)

/-- The die that is home to a device address (R243, R253, R110). -/
def homeDie (a : Nat) : Option Nat :=
  match regionOf a with
  | .hbm k | .control k | .station k _ | .window k _ => some (k / 16)
  | _ => none

/-- R447: the channel a COPY takes. -/
def copyPick (s : State) (p sub : Nat) (side : Option Nat) : Option Nat :=
  let idle := (copyChans s p sub).filter (fun n => chState s n == chIdle)
  match side.bind homeDie with
  | some d => (idle.find? (fun n => n / 64 == d)).orElse (fun _ => idle.head?)
  | none => idle.head?

/-- The descriptors of at most 256 KiB that a COPY is split into (R447), on fuel. -/
def copySplit : Nat → Nat → Nat → Nat → List (Nat × Nat × Nat)
  | 0, _, _, _ => []
  | f + 1, src, dst, n =>
    if n = 0 then [] else
    let k := min n 262144
    (src, dst, k) :: copySplit f (src + k) (dst + k) (n - k)

/-- The device-side address of a COPY. -/
def copySide (a : List Nat) : Option Nat :=
  let f := a.getD 3 0
  if !bit f 0 && !bit f 2 then some (a.getD 0 0) else if !bit f 1 && !bit f 3 then some (a.getD 1 0) else none

/-- R447: a started COPY takes a channel, if one is IDLE. -/
def copyAssign (s : State) (c : Cmd) : State :=
  let a := c.args
  let sub := bits (a.getD 2 0) 28 2
  match copyPick s c.part sub (copySide a) with
  | none => s
  | some n =>
    let s := setCmd s { c with chan := some n }
    let s := chainStart s n
    match copySplit 65 (a.getD 0 0) (a.getD 1 0) (a.getD 2 0 % 2 ^ 24) with
    | [] => s
    | d :: rest =>
      let s := setChan s n { getChan s n with copy := some c.id, todo := rest }
      descRun s n ⟨d.1, d.2.1, 0, d.2.2, c.tag % 2 ^ 32, a.getD 3 0 % 2 ^ 22⟩

end Sys2Proof.Machine
end

