-- ==== Sys2Proof/Machine/ComposeOps.lean ====
section
/-! DEFINITION. The composer as its registers drive it (spec R330-R353): commands, maps, notices, conductor
assignment, and the cancelling of rebinds. -/
namespace Sys2Proof.Machine

/-! Commands (R331-R333). -/

/-- Consist slot states (R360). -/
def ctFree : Nat := 0
def ctActive : Nat := 1
def ctStaging : Nat := 2
def ctSwitching : Nat := 3
def ctDraining : Nat := 4
def ctDissolving : Nat := 5

def slotState' (s : State) (i : Nat) : Nat := fget s .COMP_CONSIST_ID_STATE i

/-- R332: the byte ranges an operation uses. -/
def compUsed (op : Nat) (graceful : Bool) : List (Nat × Nat) :=
  match op with
  | 1 | 2 => [(0, 1), (2, 1), (8, 32)]
  | 3 => [(0, 1), (2, 1), (3, 1), (4, 1), (40, 2), (42, 4), (51, 1)]
  | 4 => [(0, 1), (2, 1), (3, 1), (40, 2), (51, 1)]
  | 5 => [(0, 4), (6, 2)]
  | 6 => [(0, 1), (8, 32), (48, 2), (50, 1), (52, 2)]
  | 7 => [(0, 2), (8, 32)] ++ (if graceful then [(6, 2)] else [])
  | 8 => [(0, 1), (5, 1)]
  | _ => []

def cOp (c : List Byte) : Nat := fieldAt c 0 1
def cGraceful (c : List Byte) : Bool := bit (fieldAt c 1 1) 0
def cPart (c : List Byte) : Nat := fieldAt c 2 1
def cSlot (c : List Byte) : Nat := fieldAt c 3 1
def cSub (c : List Byte) : Nat := fieldAt c 4 1
def cRole (c : List Byte) : Nat := fieldAt c 5 1
def cId (c : List Byte) : Nat := fieldAt c 40 2
def cWindows (c : List Byte) : Nat := fieldAt c 42 4
def cMembers (c : List Byte) : Nat := fieldAt c 51 1
/-- The slices a command names. -/
def cSlices (c : List Byte) : List Nat := (List.range 256).filter (bit (fieldAt c 8 32))

/-- R332, R333: a known operation, its fields in range, the fields it does not use zero. -/
def compOk (c : List Byte) : Bool :=
  let op := cOp c
  let used := compUsed op (cGraceful c)
  decide (1 ≤ op ∧ op ≤ 8) &&
  (List.range 64).all (fun i => c.getD i 0 == 0 || used.any (fun u => decide (u.1 ≤ i) && decide (i < u.1 + u.2))) &&
  decide (fieldAt c 1 1 < 2 ∧ cPart c < 64 ∧ cSub c < 4 ∧ cRole c < 3 ∧ fieldAt c 48 2 < 1024 ∧ fieldAt c 50 1 < 64) &&
  (!(op == 5 || op == 7) || !cGraceful c || fieldAt c 6 2 != 0) &&
  (!(op == 3 || op == 4) || decide (1 ≤ cMembers c ∧ cMembers c ≤ 16)) &&
  (!(op == 1 || op == 2 || op == 6 || op == 7) || !(cSlices c).isEmpty)

/-- R331: a command ends with a status. -/
def compEnd (s : State) (status : Nat) : State :=
  let s := fset { s with comp := none } .COMP_CMD_STATUS_STATUS 0 status
  let s := fset s .COMP_CMD_STATUS_BUSY 0 0
  let s := finc s .COMP_CMD_STATUS_SEQ 0
  if fbit s .COMP_IRQ_ENABLE then raiseVector s 0 (fget s .COMP_IRQ_VECTOR) else s

/-- The command the operator has written (R331). -/
def compBytes (s : State) : List Byte := (List.range 8).flatMap (fun n => leBytes 8 (fget s .COMP_CMD_DATA n))

/-- A command is taken; one with a bad field ends at once. -/
def compTake (s : State) (c : List Byte) : State :=
  let s := fset { s with comp := some ⟨c, false, [], []⟩ } .COMP_CMD_STATUS_BUSY 0 1
  if compOk c then s else compEnd s 1

/-! Conductors (R321, R344). -/

/-- R321 steps 1 and 2: a conductor begins a switch. -/
def cndSwitchStart (s : State) (g : Nat) : State := fset s .CND_STATUS_STATE g 3

/-- The ACTIVE or STAGED slices of partition p on a die. -/
def dieSlices (s : State) (d p : Nat) : Nat :=
  ((List.range 16).filter (fun i => decide (fget s .COMP_SLICE_STATUS_STATE (16 * d + i) = 3 ∨
    fget s .COMP_SLICE_STATUS_STATE (16 * d + i) = 4) && fget s .COMP_SLICE_STATUS_PART (16 * d + i) == p)).length

/-- The partitions with ACTIVE or STAGED slices on a die. -/
def dieParts (s : State) (d : Nat) : List Nat := (List.range 64).filter (fun p => dieSlices s d p != 0)

/-- The partition with the most such slices on the die, the lower on a tie. -/
def dieMain (s : State) (d : Nat) : Option Nat :=
  (dieParts s d).foldl (fun b p => match b with
    | none => some p
    | some q => if dieSlices s d q < dieSlices s d p then some p else some q) none

/-- A core runs for the operator, and no partition takes it. -/
def cndOper (s : State) (g : Nat) : Bool := fbit s .CND_STATUS_OPER g && fget s .CND_STATUS_STATE g != 0

/-- R344: the partition each core of a die is to serve. -/
def dieTargets (s : State) (d : Nat) : List (Option Nat) :=
  let open_ := fun c => !cndOper s (4 * d + c)
  let serves := fun c p => fget s .CND_STATUS_STATE (4 * d + c) != 0 && !fbit s .CND_STATUS_OPER (4 * d + c) &&
    fget s .CND_STATUS_PART (4 * d + c) == p
  let keep := (dieParts s d).foldl (fun (t : List (Option Nat)) p =>
    match (List.range 4).find? (fun c => open_ c && serves c p && t.getD c none == none) with
    | some c => t.set c (some p)
    | none => t) (List.replicate 4 none)
  let give := (dieParts s d).foldl (fun (t : List (Option Nat)) p =>
    if t.contains (some p) then t else
    match (List.range 4).find? (fun c => open_ c && t.getD c none == none) with
    | some c => t.set c (some p)
    | none => t) keep
  (List.range 4).map (fun c => if !open_ c then none else (give.getD c none).orElse (fun _ => dieMain s d))

/-- R344: a core may leave the partition it serves: a free one, one whose partition has no such slices on the die, or, at a
step boundary of a partition's loop (`at_`), one lent to it.  A partition without a loop has no boundaries, and its cores may
be taken at any time (DESIGN CHOICE, log 126). -/
def mayTake (s : State) (g : Nat) (at_ : Option Nat) : Bool :=
  let q := fget s .CND_STATUS_PART g
  fget s .CND_STATUS_STATE g == 0 || dieSlices s (g / 4) q == 0 || at_ == some q || s.services.all (fun v => v.part != q)

/-- R344: the cores of a die that are to serve another partition, and may, switch under R321. -/
def assignDie (at_ : Option Nat) (s : State) (d : Nat) : State :=
  ((dieTargets s d).zip (List.range 4)).foldl (fun s e =>
    let g := 4 * d + e.2
    match e.1 with
    | none => s
    | some p =>
      if fget s .CND_STATUS_STATE g ≠ 0 ∧ fget s .CND_STATUS_OPER g = 0 ∧ fget s .CND_STATUS_PART g = p then s
      else if !mayTake s g at_ then s else
      let s := fset s .CND_NEXT_PART_PART g p
      let s := fset s .CND_NEXT_PART_OPER g 0
      cndSwitchStart s g) s

def assignConductors (s : State) (at_ : Option Nat := none) : State := (List.range 16).foldl (assignDie at_) s

/-! Services and their messages (R330). -/

def setService (s : State) (v : Service) : State :=
  { s with services := s.services.map (fun x => if x.part == v.part && x.sub == v.sub then v else x) }
def getService (s : State) (p sub : Nat) : Option Service := s.services.find? (fun v => v.part == p && v.sub == sub)

/-- The service of a consist slot. -/
def slotService (s : State) (i : Nat) : Option Service :=
  getService s (fget s .COMP_CONSIST_ID_PART i) (fget s .COMP_CONSIST_ID_SUB i)

/-! What the composer tells a loop: that a REBIND waits, or is cancelled; that its consist is dissolved, at once or
gracefully; a notice (DESIGN CHOICE, log 126). -/
def lmRebind : Nat := 1
def lmCancel : Nat := 2
def lmDissolve : Nat := 3
def lmGraceful : Nat := 4
def lmNotice : Nat := 5

/-- R330: a COMPOSE message goes to the loop of a consist slot, where it has one, on the conductor complex it runs on. -/
def loopMsg (s : State) (i code : Nat) (flits : List W32) : State :=
  match slotService s i with
  | none => s
  | some v => composeSend s (servingCnd s v.part / 4) ccStop v.part (BitVec.ofNat 32 (code * 256 + i) :: flits)

/-! What a loop tells the composer: that it is READY for a REBIND, that it asks for the switch, that a recalled slice holds
nothing of its (DESIGN CHOICE, log 126). -/
def cmReady : Nat := 1
def cmSwitch : Nat := 2
def cmRecalled : Nat := 3

/-- R330: the NOTIFY message of a loop to the composer. -/
def composerNote (v : Service) (i code : Nat) (flits : List W32) : Signal :=
  ⟨clsNotify, 0, mdStop, v.part, false, BitVec.ofNat 32 (code * 256 + i) :: flits⟩
def composerMsg (s : State) (v : Service) (i code : Nat) (flits : List W32) : State :=
  sendSignal s (servingCnd s v.part / 4) ccStop (composerNote v i code flits)

/-! Slices and notices. -/

def setSlice (s : State) (k st : Nat) : State := fset s .COMP_SLICE_STATUS_STATE k st

/-- The slices of a consist slot in a state. -/
def slotSlices (s : State) (i st : Nat) : List Nat :=
  (List.range 256).filter (fun k => fget s .COMP_SLICE_STATUS_STATE k == st && fget s .COMP_SLICE_STATUS_SLOT k == i)

/-- R353: a notice is queued; a full queue loses its oldest. -/
def queueNotice (s : State) (n : Notice) : State :=
  if s.notices.length < 64 then { s with notices := s.notices ++ [n] }
  else fset { s with notices := s.notices.drop 1 ++ [n] } .COMP_TROUBLE_NOTICE_LOST 0 1

/-- The slots of local consists with an identifier. -/
def localConsist (s : State) (id : Nat) : Option Nat :=
  (List.range 256).find? (fun i => slotState' s i != ctFree && fget s .COMP_CONSIST_ID_ID i == id)

/-- R352-R354: what a loop does with a notice that names its consist: a recalled extent is to be brought back, a withdrawn one
is unreachable, SWITCHED ends its REBIND; the tier's descriptor is to be read again. -/
def loopNotice (s : State) (v : Service) (n : Notice) : State :=
  let x := (n.dev, n.slice)
  let on := fun (dev a : Nat) => dev == n.dev && a / sliceBytes == n.slice
  let s := setService s { v with
    reread := true
    rebind := if n.kind = 5 then none else v.rebind
    recalled := if n.kind = 2 then v.recalled.filter (· != x) ++ [x]
                else if n.kind = 4 then v.recalled.filter (· != x) else v.recalled }
  if n.kind ≠ 4 then s else
  { s with reqs := s.reqs.map (fun r =>
      if r.part == v.part && r.sub == v.sub && (r.slots.any (fun e => e.spill.any (fun y => on y.1 y.2.1)) ||
          ((r.st == .importing || r.st == .exporting) && on r.extDev r.extAddr)) then { r with lost := true } else r) }

/-- A notice in the layout of COMP_NOTICE (R360). -/
def noticeValue (n : Notice) : Nat := n.kind % 256 + 256 * (n.slice % 256) + 2 ^ 16 * (n.dev % 1024) + 2 ^ 32 * (n.consist % 65536)

/-- The notice of a message's flits. -/
def noticeOf (v : Nat) : Notice := ⟨v % 256, bits v 8 8, bits v 16 10, bits v 32 16⟩

/-- The extents that LENT notices grant, by consist (R352). -/
def grantNotice (s : State) (n : Notice) : State :=
  let rest := s.lentExt.filter (· != (n.consist, (n.dev, n.slice)))
  if n.kind = 1 then { s with lentExt := rest ++ [(n.consist, (n.dev, n.slice))] }
  else if n.kind = 4 then { s with lentExt := rest } else s

/-- R353: a notice that this module raises or receives is queued, and passed to the loop of a local consist it names. -/
def takeNotice (s : State) (n : Notice) : State :=
  let s := grantNotice (queueNotice s n) n
  match localConsist s n.consist with
  | some i => loopMsg s i lmNotice [BitVec.ofNat 32 (noticeValue n), BitVec.ofNat 32 (noticeValue n / 2 ^ 32)]
  | none => s

/-- R353, R365: a notice goes to another device's composer. -/
def sendNotice (s : State) (dev : Nat) (n : Notice) : State :=
  blyInject s
    { typ := ptNotice, vc := 0, dir := 0, dim := 0, oper := true, err := false, dst := dev, src := devNum s,
      part := 0, tc := 6, consist := n.consist, epoch := 0, deadline := 0, tag := 0, addr := 0, srcDie := 0, len := 8,
      aop := 0, hops := 0, payload := leBytes 8 (noticeValue n) }

/-- R353, R593: the oldest notice is read and removed. -/
def noticeRead (s : State) : State × Nat :=
  match s.notices with
  | [] => (s, 0)
  | n :: rest => ({ s with notices := rest }, noticeValue n + 2 ^ 63)

/-! Rebinds (R345, R359). -/

/-- R359: a rebind that waits ends with a status: its STAGED slices are IDLE again. -/
def rebindCancel (s : State) (i status : Nat) : State :=
  let s := (slotSlices s i 3).foldl (fun s k => fset (setSlice s k 2) .COMP_SLICE_STATUS_SLOT k 0) s
  let s := fset s .COMP_CONSIST_ID_STATE i ctActive
  let s := fset s .COMP_SWITCH_STEP_STEP i 0
  compEnd (assignConductors (loopMsg s i lmCancel [])) status

/-- The slot of the REBIND in progress. -/
def rebinding (s : State) (i : Nat) : Bool := slotState' s i == ctStaging || slotState' s i == ctSwitching

/-- R359: a compute reset of the partition cancels its rebind. -/
def compReset (s : State) (p : Nat) : State :=
  (List.range 256).foldl (fun s i =>
    if rebinding s i && fget s .COMP_CONSIST_ID_PART i == p then rebindCancel s i 9 else s) s

/-- R331, R359, R560: a write of 1 to GO. -/
def compGo (s : State) : State :=
  let c := compBytes s
  if fbit s .RST_STATUS_DEV_OUT && cOp c != 2 then s
  else if !fbit s .COMP_CMD_STATUS_BUSY then compTake s c
  else if cOp c = 5 ∧ compOk c = true ∧ rebinding s (cSlot c) = true ∧ fget s .COMP_CONSIST_ID_PART (cSlot c) = cPart c then compTake (rebindCancel s (cSlot c) 9) c
  else s

/-! Maps (R337-R339). -/

def mapEntries (s : State) (off len : Nat) : List Nat :=
  (List.range len).map (fun j => fget s .COMP_MAP_STORE_ENTRY (off + j))

/-- R337: an entry's device and slice. -/
def entryOf (e : Nat) : Nat × Nat := (bits e 8 10, e % 256)

/-- R338: the map's checksum. -/
def mapCrc (es : List Nat) : Nat := crc32 (es.flatMap (leBytes 4))

/-- R339: an entry lies inside some slot's current map, the map of a draining epoch included. -/
def inCurrentMap (s : State) (e : Nat) : Bool :=
  (List.range 256).any (fun i => slotState' s i != ctFree &&
    ((decide (fget s .COMP_MAP_CUR_OFF i ≤ e) && decide (e < fget s .COMP_MAP_CUR_OFF i + fget s .COMP_MAP_CUR_LEN i)) ||
     (let o := SMap.get (fun _ => (0, 0)) s.oldMaps i
      decide (o.1 ≤ e) && decide (e < o.1 + o.2))))

/-- The devices a map names. -/
def mapDevs (es : List Nat) : List Nat := (es.map (fun e => (entryOf e).1)).eraseDups

/-- R338: the next map of slot i is one the composer accepts for partition p with `members` modules. -/
def mapOk (s : State) (i p members : Nat) : Bool :=
  let off := fget s .COMP_MAP_NEXT_OFF i
  let len := fget s .COMP_MAP_NEXT_LEN i
  let es := mapEntries s off len
  let clear := fun (o l : Nat) => l == 0 || decide (off + len ≤ o) || decide (o + l ≤ off)
  decide (1 ≤ len ∧ len ≤ 2048 ∧ off + len ≤ 32768) &&
  (List.range 256).all (fun j => j == i ||
    (clear (fget s .COMP_MAP_NEXT_OFF j) (fget s .COMP_MAP_NEXT_LEN j) &&
     (slotState' s j == ctFree || clear (fget s .COMP_MAP_CUR_OFF j) (fget s .COMP_MAP_CUR_LEN j)))) &&
  es.all (fun e => decide (e < 2 ^ 18)) &&
  (es.eraseDups.length == es.length) &&
  ((mapDevs es).length == members) && (mapDevs es).contains (devNum s) &&
  es.all (fun e =>
    let k := (entryOf e).2
    (entryOf e).1 != devNum s ||
    (fget s .COMP_SLICE_STATUS_PART k == p &&
      (fget s .COMP_SLICE_STATUS_STATE k == 2 ||
       (fget s .COMP_SLICE_STATUS_STATE k == 4 && fget s .COMP_SLICE_STATUS_SLOT k == i && slotState' s i != ctFree))))

/-- The local slices of a map. -/
def mapLocal (s : State) (es : List Nat) : List Nat :=
  es.filterMap (fun e => if (entryOf e).1 = devNum s then some (entryOf e).2 else none)

/-- R344: no die would carry ACTIVE or STAGED slices of more than four partitions. -/
def conductorsOk (s : State) (p : Nat) (ks : List Nat) : Bool :=
  (List.range 16).all (fun d =>
    let extra := ks.any (fun k => k / 16 == d) && !(dieParts s d).contains p
    decide ((dieParts s d).length + b2n extra ≤ 4))

end Sys2Proof.Machine
end

