-- ==== Sys2Proof/Machine/PowerOps.lean ====
section
/-! DEFINITION. The power controller's arithmetic (spec R517-R544): levels, shares, grants, the level a module allows a
consist, the states of domains. -/
namespace Sys2Proof.Machine

/-- R517: f × V² relative to P0, in thousandths. -/
def levelFv (l : Nat) : Nat := [1000, 829, 679, 526, 396, 286, 195, 125].getD l 125

/-- A draw at level a, scaled to level b. -/
def scaleDraw (draw a b : Nat) : Nat := draw * levelFv b / levelFv a

def getCons (s : State) (i : Nat) : PwrConsist := SMap.get (fun _ => PwrConsist.reset) s.power.cons i
def setPower (s : State) (x : Power) : State := { s with power := x }
def setCons (s : State) (i : Nat) (x : PwrConsist) : State :=
  setPower s { s.power with cons := SMap.set (fun _ => PwrConsist.reset) s.power.cons i x }

/-- R567: the cap that holds now: at 60-66 V no more than 52 A draws. -/
def capNow (s : State) : Nat :=
  let mv := fget s .MOD_INPUT_VIN_MV
  if 60000 ≤ mv ∧ mv < 66000 then min (fget s .PWR_CAP_WATTS) (52 * mv / 1000) else fget s .PWR_CAP_WATTS

/-- R525: a write of PWR_CAP. -/
def capWrite (s : State) (w : Nat) : State :=
  if 1200 ≤ w ∧ w ≤ 3400 then fset s .PWR_CAP_WATTS 0 w else s

/-! Consists. -/

/-- The slices of a slot that are ACTIVE. -/
def activeSlices (s : State) (i : Nat) : Nat :=
  ((List.range 256).filter (fun k => fget s .COMP_SLICE_STATUS_STATE k == 4 && fget s .COMP_SLICE_STATUS_SLOT k == i)).length

/-- The slots that hold a consist. -/
def liveSlots (s : State) : List Nat := (List.range 256).filter (fun i => fget s .COMP_CONSIST_ID_STATE i != 0)

/-- R532: a consist's share of the COMPUTE budget. -/
def shareOf (s : State) (i : Nat) : Nat :=
  let total := ((liveSlots s).map (activeSlices s)).foldl (· + ·) 0
  if total = 0 then 0 else fget s .PWR_BUDGET_COMPUTE * activeSlices s i / total

def grantedDraw (s : State) (i : Nat) : Nat :=
  ((s.power.grants.filter (fun g => g.slot == i)).map (·.draw)).foldl (· + ·) 0

/-- R532: what a consist may draw: its share, and what the granted draws of the others leave of theirs. -/
def availableTo (s : State) (i : Nat) : Nat :=
  let others := (liveSlots s).filter (· != i)
  let spare := (others.map (fun j => shareOf s j - grantedDraw s j)).foldl (· + ·) 0
  let extra := (others.map (fun j => grantedDraw s j - shareOf s j)).foldl (· + ·) 0
  shareOf s i + (spare - extra)

/-- The regions of a slot's ACTIVE, STAGED and LEAVING slices (R535). -/
def consRegions (s : State) (i : Nat) : List Nat :=
  (((List.range 256).filter (fun k => fget s .COMP_SLICE_STATUS_SLOT k == i &&
    (fget s .COMP_SLICE_STATUS_STATE k == 3 || fget s .COMP_SLICE_STATUS_STATE k == 4 ||
     fget s .COMP_SLICE_STATUS_STATE k == 5))).map stnDomain).eraseDups

/-- The slots with slices in a region. -/
def regionSlots (s : State) (r : Nat) : List Nat := (liveSlots s).filter (fun i => (consRegions s i).contains r)

/-- The step a consist is in (R536): its service's, or its own count. -/
def consStep (s : State) (i : Nat) : Nat :=
  match s.services.find? (fun v => v.part == fget s .COMP_CONSIST_ID_PART i && v.sub == fget s .COMP_CONSIST_ID_SUB i) with
  | some v => v.step
  | none => (getCons s i).steps

/-- The highest level at which a draw at P0 fits; P7 where none does. -/
def fitLevel (draw room : Nat) : Nat :=
  ((List.range 8).find? (fun l => scaleDraw draw 0 l ≤ room)).getD 7

def thermLimit (s : State) (r : Nat) : Nat := (SMap.get (fun _ => (0, 0)) s.power.therm r).1

/-- R535, R540: what a region allows. -/
def regionAllowed (s : State) (r : Nat) : Nat := max (thermLimit s r) (fget s .PWR_LEVEL_MAX_LEVEL)

/-- R535, R537: the level this module allows a consist (P0 is 0: the lowest level is the largest number). -/
def allowedLevel (s : State) (i : Nat) : Nat :=
  let c := getCons s i
  let base := max (max (fitLevel c.decode (shareOf s i)) c.limit) (fget s .PWR_LEVEL_MAX_LEVEL)
  (consRegions s i).foldl (fun l r =>
    let l := max l (thermLimit s r)
    if (regionSlots s r).length < 2 then l else max l (fget s .PWR_DOM_STATUS_LEVEL r)) base

/-- R537: the level a region runs at: the lowest agreed level of its consists. -/
def regionLevel (s : State) (r : Nat) : Nat :=
  (regionSlots s r).foldl (fun l i => max l (getCons s i).agreed) 0

/-- R520: a region of a compute die; other domains have the classes of R519. -/
def isRegion (d : Nat) : Bool := decide (d < 80) && d % 5 != 4

/-- R530, R539, R541, R543: the clock of a region is stretched. -/
def stretched (s : State) (d : Nat) : Bool :=
  isRegion d && (SMap.get (fun _ => false) s.power.droop d || SMap.get (fun _ => false) s.power.emerg d ||
    (s.power.capStretch && fget s .PWR_DOM_STATUS_STATE d == domOn))

/-- R531: a request's expected draw at a level: the fraction of the cap, or the mean of the last 16 steps of its phase. -/
def expectedDraw (s : State) (i phase f level : Nat) : Nat :=
  if f ≠ 0 then scaleDraw (f * fget s .PWR_CAP_WATTS / 256) 0 level else
  let h := ((getCons s i).hist.filter (fun e => e.1 == phase)).take 16
  if h = [] then 0 else ((h.map (fun e => scaleDraw e.2.1 e.2.2 level)).foldl (· + ·) 0) / h.length

/-- The level at which a consist's next step runs: a change set for it or before it counts (R531, R536). -/
def stepLevel (s : State) (i : Nat) : Nat :=
  let c := getCons s i
  match c.next with
  | some (l, n) => if n ≤ consStep s i + 1 then l else c.agreed
  | none => c.agreed

/-- R531-R533: judge a request; the answer, and the state that remembers it. -/
def grantRequest (s : State) (i phase f dur : Nat) : Bool × State :=
  let level := stepLevel s i
  let draw := expectedDraw s i phase f level
  let c := getCons s i
  let c := if phase = 1 then { c with decode := expectedDraw s i phase f 0 } else c
  let ok := decide (draw ≤ availableTo s i)
  let c := if phase = 0 then
      { c with prefillAt := some s.now, starve := if ok then none else some (c.starve.getD s.now),
               prefill := if ok then c.prefill else expectedDraw s i phase f 0 }
    else c
  let s := setCons s i c
  if ok then
    let span := if dur = 0 then 10000 else dur
    let g : Grant := ⟨i, phase, draw, level, s.now + 2 * span * 1000⟩
    (true, finc (setPower s { s.power with grants := s.power.grants.filter (fun x => x.slot != i) ++ [g] })
      .PWR_GRANTS_COUNT 0)
  else (false, finc s .PWR_REFUSED_COUNT 0)

/-- R532: the loop's step ends: its grant ends, and its draw is remembered. -/
def grantRelease (s : State) (i draw : Nat) : State :=
  match s.power.grants.find? (fun g => g.slot == i) with
  | none => s
  | some g =>
    let c := getCons s i
    let same := (c.hist.filter (fun e => e.1 == g.phase)).take 15
    let s := setCons s i { c with hist := (g.phase, draw, g.level) :: same ++ c.hist.filter (fun e => e.1 != g.phase) }
    setPower s { s.power with grants := s.power.grants.filter (fun x => x.slot != i) }

/-- The conductors that serve a partition. -/
def partCnds (s : State) (p : Nat) : List Nat :=
  (List.range 64).filter (fun g => fget s .CND_STATUS_STATE g != 0 && !fbit s .CND_STATUS_OPER g &&
    fget s .CND_STATUS_PART g == p)

/-- A message from the management die (R124, R125) to a conductor complex. -/
def mdSend (s : State) (cls g part : Nat) (payload : List W32) : State :=
  sendSignal s 16 30 ⟨cls, g / 4, 13, part, true, payload⟩

/-! Domains (R519-R522). -/

def domState (s : State) (d : Nat) : Nat := fget s .PWR_DOM_STATUS_STATE d
def setDom (s : State) (d v : Nat) : State := fset s .PWR_DOM_STATUS_STATE d v

/-- The stations of a region. -/
def regionStns (d : Nat) : List Nat := (List.range 4).map (fun i => 16 * (d / 5) + 4 * (d % 5) + i)

/-- R519: which sleep states a domain may enter. -/
def mayIdle (d : Nat) : Bool := isRegion d || d == 95
def mayNap (d : Nat) : Bool := isRegion d || (decide (80 ≤ d) && decide (d < 94))
def mayDeep (d : Nat) : Bool := isRegion d || (decide (88 ≤ d) && decide (d < 94))

/-- R519: the condition under which a domain in ON may leave it. -/
def mayLeave (s : State) (busy : Nat → Bool) (d : Nat) : Bool :=
  if isRegion d then
    (regionStns d).all (fun k => !busy k && (List.range 6).all (fun c =>
      coreState s (6 * k + c) == stFree || coreState s (6 * k + c) == stFenced))
  else if 80 ≤ d ∧ d < 88 then
    (List.range 32).all (fun i => (boundTo s (32 * (d - 80) + i)).isNone &&
      fget s .COMP_SLICE_STATUS_STATE (32 * (d - 80) + i) != 6)
  else if 88 ≤ d ∧ d < 94 then fget s .BLY_PORT_STATUS_STATE (d - 88) == 4
  else if d = 95 then s.rings.all (fun e => e.2.state != rEnabled)
  else false

/-- An IDLE_GAP hint in force of at least n µs covers a domain (R521, R534). -/
def idleHint (s : State) (d n : Nat) : Bool :=
  s.hints.any (fun h => h.phase == 3 && decide (n ≤ h.duration) && decide (s.now < h.time + 1000 * h.duration) &&
    isRegion d && (regionStns d).any (fun k => boundTo s k == some h.part))

def waking (s : State) (d : Nat) : Bool := SMap.get (fun _ => false) s.power.waking d
def setWaking (s : State) (d : Nat) (b : Bool) : State :=
  setPower s { s.power with waking := SMap.set (fun _ => false) s.power.waking d b }

/-- R529: the divisors of a die's mesh halves: 0 for 2.0 GHz, 1 for 1.0, 2 for 0.5 (log of the divisor). -/
def setHalves (s : State) (d : Nat) : State :=
  let asleep := fun q => decide (2 ≤ domState s (5 * d + q)) && !waking s (5 * d + q)
  let base := b2n s.power.memDiv
  let east := if asleep 1 && asleep 3 then 2 else base
  let west := if asleep 0 && asleep 2 && (List.range 16).all (fun i => (boundTo s (16 * d + i)).isNone) then 2 else base
  fset (fset s .SEAM_STATUS_EAST_DIV d east) .SEAM_STATUS_WEST_DIV d west

def setAllHalves (s : State) : State := (List.range 16).foldl setHalves s

/-- The die whose halves a domain's state may change. -/
def afterDom (s : State) (d : Nat) : State := if isRegion d then setHalves s (d / 5) else s

/-- R522: the off condition of a region. -/
def mayOff (s : State) (d : Nat) : Bool :=
  isRegion d && (regionStns d).all (fun k =>
    let st := fget s .COMP_SLICE_STATUS_STATE k
    st != 1 && st != 2 && st != 3 && st != 4 && st != 5)

/-- R521: PWR_DOM_CTRL.HOLD_ON; a sleeping domain wakes. -/
def holdOn (s : State) (d : Nat) (b : Bool) : State :=
  let s := fset s .PWR_DOM_CTRL_HOLD_ON d (b2n b)
  if b && (domState s d == 1 || domState s d == 2 || domState s d == 3) then afterDom (setWaking s d true) d else s

/-- R521, R545: PWR_DOM_CTRL.OFF_REQ; ignored outside regions. -/
def offReq (s : State) (d : Nat) (b : Bool) : State :=
  if isRegion d then fset s .PWR_DOM_CTRL_OFF_REQ d (b2n b) else s

end Sys2Proof.Machine
end

