-- ==== Sys2Proof/Machine/ModOps.lean ====
section
/-! DEFINITION. The module's own operations (spec R542, R546-R548, R567-R569, R579-R587): alerts and failure codes, the
warm and the cold reset, the switching off of the rails, the start of a bring-up. -/
namespace Sys2Proof.Machine

def setMod (s : State) (m : Mod) : State := { s with mod := m }

/-! MOD_STATUS.STATE and the failure codes (R587). -/
def msPowering : Nat := 0
def msResetHeld : Nat := 1
def msBooting : Nat := 2
def msScrubbing : Nat := 3
def msReady : Nat := 4
def msHeldHot : Nat := 5
def msBootFailed : Nat := 6
def msTripped : Nat := 7
def msRailFault : Nat := 8
def msReadyNoLink : Nat := 9
def fcBothBanks : Nat := 1
def fcHbmTrain : Nat := 2
def fcRailShort : Nat := 3
def fcTrip : Nat := 4
def fcInputOv : Nat := 5

def modState (s : State) : Nat := fget s .MOD_STATUS_STATE
def setModState (s : State) (v : Nat) : State := fset s .MOD_STATUS_STATE 0 v

/-- R585: ALERT# is asserted, and an in-band interrupt with the failure code is sent where they are enabled. -/
def assertAlert (s : State) : State :=
  setMod s { s.mod with alert := true, ibis := if s.mod.ibiOn then s.mod.ibis ++ [s.mod.failCode] else s.mod.ibis }

/-- A failure code is recorded in the flash fault log, with the management counter's seconds (R585-R588). -/
def recordFailure (s : State) (code detail : Nat) : State :=
  let m := s.mod
  let s := setMod s { m with failCode := code, failDetail := detail,
                             faultLog := m.faultLog ++ [(code, detail, s.now / 1000000000)] }
  let s := fset (fset s .MOD_LAST_FAULT_CODE 0 code) .MOD_LAST_FAULT_DETAIL 0 detail
  assertAlert s

/-! Resets (R13, R546-R548). -/

/-- The fence list of R133 is kept in flash. -/
def isFenceField (f : F) : Bool := f == .STN_CORE_FENCE_FENCE || f == .STN_CORE_FENCE_FW

/-- What a warm reset leaves: class P, the fence list, and what R570 and R577 keep until a cold reset; the input stage's
readings go on. -/
def warmKeeps (f : F) : Bool :=
  f.spec.cls == .P || isFenceField f || f == .MOD_SENSE0_RAILS || f == .MOD_SENSE1_RAILS ||
  f == .MOD_STATUS_MCLK_INTERNAL || f == .MOD_INPUT_VIN_MV || f == .MOD_INPUT_IIN_MA || f == .MOD_INPUT_PIN_W ||
  f == .MOD_LAST_FAULT_CODE || f == .MOD_LAST_FAULT_DETAIL

/-- The model's own counters and what has already left the block, over a machine as after reset. -/
def carry (s t : State) : State :=
  { t with pending := s.pending, freeCtr := s.freeCtr, now := s.now, nextId := s.nextId, answers := s.answers,
           tlps := s.tlps, reads := s.reads }

/-- The state of a bring-up before its first step. -/
def Mod.unbooted (m : Mod) : Mod :=
  { m with romBank := none, romFailed := false, linkUp := false, linkMode := none, started := false, ready := false, tries := [],
           mbBuf := [], unwraps := [], spdm := [], spdmState := [] }

/-- R546: the warm reset.  The rails stay; the regions are off until the firmware starts (R579); a core's STORE_ECC count
lasts to the next cold reset (R130), the window of device resets to a power loss (R561). -/
def warmReset (s : State) : State :=
  let t := carry s State.reset
  let t := { t with
    regs := s.regs.filter (fun e => warmKeeps (F.ofNat (e.1 / 65536)))
    cores := (s.cores.filter (fun e => e.2.storeEcc != 0)).map (fun e => (e.1, { Core.reset with storeEcc := e.2.storeEcc }))
    rst := { Rst.reset with devHist := s.rst.devHist }
    mod := { s.mod.unbooted with failCode := 0, failDetail := 0 } }
  let t := if s.mod.supply = .good then
      (List.range 96).foldl (fun t d => if isRegion d then t else fset t .PWR_DOM_STATUS_STATE d 0) t
    else t
  setModState t (if s.mod.perst then msResetHeld else msBooting)

/-- R546: the cold reset: everything but flash, fuses and the pins; the rails are off. -/
def coldReset (s : State) (why : OffCause) : State :=
  let t := carry s State.reset
  let m := s.mod
  { t with
    regs := s.regs.filter (fun e => isFenceField (F.ofNat (e.1 / 65536)))
    mod := { Mod.reset with off := why, en := m.en, input := m.input, perst := m.perst, mreset := m.mreset,
                            cables := m.cables, banks := m.banks, bootBank := m.bootBank,
                            pending := m.pending, tried := m.tried, fuses := m.fuses, faultLog := m.faultLog,
                            straps := m.straps, sent := m.sent, ibis := m.ibis } }

/-- R542, R569: every domain and the HBM stacks lose their supply; the management die stays up. -/
def railsDown (s : State) : State :=
  let s := (List.range 96).foldl (fun s d => setDom s d domOff) s
  let s := (List.range 16).foldl (fun s d => fset s .HBM_STATUS_TRAINED d 0) s
  let s := { s with mem := [], ueLines := [], scache := [], depot := [] }
  setMod s { s.mod with linkUp := false, linkMode := none, ready := false, started := false }

/-- R542: the trip. -/
def trip (s : State) : State :=
  if fbit s .PWR_EVENTS_TRIP then s else
  let s := fset (railsDown s) .PWR_EVENTS_TRIP 0 1
  setModState (recordFailure (setMod s { s.mod with supply := .off, off := .trip }) fcTrip 0) msTripped

/-- R573: CLKREQ# is low: the host die is powered. -/
def clkreqLow (s : State) : Bool := s.mod.supply == .good

/-- R581: bring-up starts at t0, the later of PERST# deasserted and power-good: the host die, the ROM and the HBM
controllers begin. -/
def bringUp (s : State) : State :=
  if s.mod.perst || s.mod.supply != .good || s.mod.railFault || fbit s .PWR_EVENTS_TRIP then s
  else setModState (setMod s s.mod.unbooted) msBooting

end Sys2Proof.Machine
end

