-- ==== Sys2Proof/Machine/FuaneOps.lean ====
section
/-! DEFINITION. What the registers of partitions, meters and mailboxes start (spec R482, R488, R497, R511, R516). -/
namespace Sys2Proof.Machine

/-! Windows (R483, R488). -/

/-- The window that the registers of partition p hold. -/
def winRegs (s : State) (p w : Nat) : Win :=
  let i := 32 * p + w
  { enable := fbit s .PART_WIN_BASE_ENABLE i, r := fbit s .PART_WIN_BASE_R i, w := fbit s .PART_WIN_BASE_W i,
    a := fbit s .PART_WIN_BASE_A i, remote := fbit s .PART_WIN_BASE_REMOTE i,
    base := fget s .PART_WIN_BASE_ADDR i * 65536, limit := fget s .PART_WIN_LIMIT_ADDR i * 65536,
    dev := fget s .PART_WIN_BASE_DEV i }

def winPending (s : State) (p : Nat) : Bool := s.winsNew.any (fun e => e.1 == p)

/-- PART_WIN_COMMIT.GO: the table is on its way to every checker; a write while one is, is ignored. -/
def winCommit (s : State) (p : Nat) : State :=
  if winPending s p then s else { s with winsNew := s.winsNew ++ [(p, (List.range 32).map (winRegs s p))] }

/-- Every checker holds the table. -/
def winInstall (s : State) (p : Nat) : State :=
  match s.winsNew.find? (fun e => e.1 == p) with
  | none => s
  | some e =>
    let wins := ((List.range 32).zip e.2).foldl (fun m w => SMap.set (fun _ => Win.none) m (p * 32 + w.1) w.2) s.wins
    { s with wins := wins, winsNew := s.winsNew.filter (fun x => x.1 != p) }

/-! Meters (R495, R497). -/

/-- PART_METER_SNAP.GO latches the meters and the management die's counter. -/
def meterSnap (s : State) (p : Nat) : State :=
  let s := fset s .PART_M_TIME_NS p (s.now % 2 ^ 64)
  let s := fset s .PART_M_CORE_CYCLES_COUNT p (getMeter s p mCore)
  let s := fset s .PART_M_HBM_BYTES_COUNT p (getMeter s p mHbm)
  let s := fset s .PART_M_DEPOT_BYTES_COUNT p (getMeter s p mDepot)
  let s := fset s .PART_M_LINK_BYTES_COUNT p (getMeter s p mLink)
  let s := fset s .PART_M_HOST_BYTES_COUNT p (getMeter s p mHost)
  let s := fset s .PART_M_ENERGY_MJ_COUNT p (getMeter s p mEnergy)
  fset s .PART_M_JOBS_COUNT p (getMeter s p mJobs)

/-- R482: PART_CTRL.CLASS changes only while the partition holds no slice. -/
def classWrite (s : State) (p v : Nat) : State :=
  if slicesOf s p = [] then fset s .PART_CTRL_CLASS p (v % 2) else s

/-! The mode of traffic classes (R470). -/

/-- A write of TC_MODE.MODE: FIXED and the reserved value are ignored. -/
def tcModeWrite (s : State) (v : Nat) : State := if v % 4 = 1 ∨ v % 4 = 2 then fset s .TC_MODE_MODE 0 (v % 4) else s

/-! Mailboxes (R511, R516): mailbox f is the one of function f. -/

/-- Statuses of R516. -/
def mbOk : Nat := 0
def mbBadArg : Nat := 1
def mbDenied : Nat := 2
def mbNotMember : Nat := 3
def mbBadHeader : Nat := 4
def mbTagFail : Nat := 5
def mbDigestFail : Nat := 6
def mbImageFail : Nat := 7
def mbCancelled : Nat := 8

/-- A mailbox command ends. -/
def mbEnd (s : State) (f status result : Nat) : State :=
  let s := fset (fset s .FUA_MB_STATUS_BUSY f 0) .FUA_MB_STATUS_STATUS f status
  fset (finc s .FUA_MB_STATUS_SEQ f) .FUA_MB_RESULT_VALUE f result

def mbArg (s : State) (f n : Nat) : Nat := fget s .FUA_MB_ARG_VALUE (4 * f + n)

/-- The mailbox of f runs the command `op`. -/
def mbRuns (s : State) (f op : Nat) : Bool := fbit s .FUA_MB_STATUS_BUSY f && fget s .FUA_MB_CMD_OP f == op

/-- A write of FUA_MB_CMD: the command waits for Fuane; one that names no command, or whose reserved bits are not zero, ends BAD_ARG; a write while one waits
or runs is ignored (DEDUCED, log 28). -/
def mbStart (s : State) (f v : Nat) : State :=
  if fbit s .FUA_MB_STATUS_BUSY f then s else
  let op := v % 256
  let part := if f = 0 then bits v 8 6 else f - 1
  let s := fset (fset s .FUA_MB_CMD_OP f op) .FUA_MB_CMD_PART f part
  let s := fset s .FUA_MB_STATUS_BUSY f 1
  if f ≠ 0 ∧ op ∈ [0x10, 0x11, 0x12, 0x20, 0x21] then mbEnd s f mbDenied 0
  else if 2 ^ 14 ≤ v % 2 ^ 32 ∨ op ∉ [0x01, 0x02, 0x10, 0x11, 0x12, 0x20, 0x21] then mbEnd s f mbBadArg 0
  else if op = 0x02 then
    setMod s { s.mod with unwraps := s.mod.unwraps ++ [⟨f, part, mbArg s f 0, mbArg s f 1, false, 0, false, false, []⟩] }
  else s

/-- R511: the UNWRAPs of a partition end CANCELLED. -/
def unwrapCancel (s : State) (p : Nat) : State :=
  let mine := s.mod.unwraps.filter (fun u => u.part == p)
  let s := setMod s { s.mod with unwraps := s.mod.unwraps.filter (fun u => u.part != p) }
  mine.foldl (fun s u => mbEnd s u.f mbCancelled 0) s

def getBuf (s : State) (f : Nat) : Bytes := SMap.get (fun _ => []) s.mod.mbBuf f
def setBuf (s : State) (f : Nat) (b : Bytes) : State :=
  setMod s { s.mod with mbBuf := SMap.set (fun _ => []) s.mod.mbBuf f b }

end Sys2Proof.Machine
end

