-- ==== Sys2Proof/Machine/ResetOps.lean ====
section
/-! DEFINITION. Compute resets up to what their parts still have to do (spec R546-R560): the log, captures, the start of
station, partition and device resets. -/
namespace Sys2Proof.Machine

/-! Cause codes (R561). -/
def rcCoreHang : Nat := 1
def rcLoadHang : Nat := 2
def rcKvgHang : Nat := 3
def rcStopHang : Nat := 4
def rcCndHang : Nat := 5
def rcUnitHang : Nat := 6
def rcMeshUe : Nat := 7
def rcCndUe : Nat := 8
def rcDirUe : Nat := 9
def rcEscalated : Nat := 10
def rcOperator : Nat := 11
def rcPartRequest : Nat := 12
def rcFunction : Nat := 13
def rcCollateral : Nat := 14

def setRst (s : State) (r : Rst) : State := { s with rst := r }

/-- R561: an entry of RST_LOG. -/
def rstLog (s : State) (cause scope target result : Nat) (cycled noCapture : Bool) : State :=
  let i := fget s .RST_LOG_HEAD_HEAD % 32
  let s := fset (fset s .RST_LOG_CAUSE i cause) .RST_LOG_SCOPE i scope
  let s := fset (fset s .RST_LOG_CYCLED i (b2n cycled)) .RST_LOG_TARGET i target
  let s := fset (fset s .RST_LOG_RESULT i result) .RST_LOG_NO_CAPTURE i (b2n noCapture)
  finc (fset s .RST_LOG_TIME_US i (s.now / 1000 % 2 ^ 32)) .RST_LOG_HEAD_HEAD 0

/-- Resets in a window that ends now (R560). -/
def inWindow (s : State) (span : Nat) (ts : List Nat) : List Nat := ts.filter (fun t => decide (s.now < t + span))
def partSpan : Nat := 600000000000
def devSpan : Nat := 3600000000000
def partHist (s : State) (p : Nat) : List Nat := inWindow s partSpan (SMap.get (fun _ => []) s.rst.partHist p)
def devHist (s : State) : List Nat := inWindow s devSpan s.rst.devHist

/-! Capture (R552). -/

/-- The dump area lies wholly in HBM of a slice bound to the partition. -/
def dumpOk (s : State) (p : Nat) : Bool :=
  let a := fget s .RST_PART_DUMP_ADDR p * 65536
  match regionOf a, regionOf (a + fget s .RST_PART_DUMP_SLOTS p * 393216 - 1) with
  | .hbm k, .hbm j => k == j && boundTo s k == some p
  | _, _ => false

/-- Bytes written at their home with the partition's tag, without a window check. -/
def dumpWrite (s : State) (p a : Nat) (bs : List Byte) : State :=
  let w : Who := ⟨p, 4, false, 0, 0, 0, false⟩
  (List.range ((bs.length + 63) / 64)).foldl (fun s i =>
    match regionOf (a + 64 * i) with
    | .hbm k => homeWrite s w k (a / 64 + i) (lineData (a + 64 * i) ((bs.drop (64 * i)).take 64))
    | _ => s) s

/-- The header and the cores of a record. -/
def dumpHead (s : State) (p k cause scope : Nat) : List Byte :=
  leBytes 4 0x44554D50 ++ leBytes 2 1 ++ leBytes 1 cause ++ leBytes 1 scope ++
  leBytes 4 (fget s .RST_PART_DUMP_SEQ_SEQ p) ++ leBytes 2 k ++ leBytes 2 0 ++ leBytes 8 s.now ++
  leBytes 4 (fget s .RST_PART_CAPTURE_SPAD_OFF p * 16384) ++ leBytes 4 (fget s .RST_PART_CAPTURE_STN_OFF p * 262144) ++
  List.replicate 32 0 ++
  (List.range 6).flatMap (fun i =>
    let c := 6 * k + i
    leBytes 4 (coreState s c) ++ leBytes 4 (fget s .SAGE_PC_PC c) ++
      leBytes 8 (fget s .SAGE_FAULT_CODE c + fget s .SAGE_FAULT_FAULT_PC c * 2 ^ (F.spec .SAGE_FAULT_FAULT_PC).lo +
        fget s .SAGE_FAULT_DETAIL c * 2 ^ (F.spec .SAGE_FAULT_DETAIL).lo) ++
      leBytes 8 (fget s .SAGE_RETIRED_COUNT c) ++ leBytes 8 0)

/-- The record of a station, written; whether capture was skipped.  INCOMPLETE is not modelled (DESIGN CHOICE, log 29). -/
def capture (s : State) (p k cause scope : Nat) : State × Bool :=
  if !fbit s .RST_PART_DUMP_ENABLE p then (s, false)
  else if !dumpOk s p then (s, true)
  else
    let seq := fget s .RST_PART_DUMP_SEQ_SEQ p
    let a := fget s .RST_PART_DUMP_ADDR p * 65536 + seq % fget s .RST_PART_DUMP_SLOTS p * 393216
    let spadOff := fget s .RST_PART_CAPTURE_SPAD_OFF p * 16384
    let stnOff := fget s .RST_PART_CAPTURE_STN_OFF p * 262144
    let s := dumpWrite s p a (dumpHead s p k cause scope)
    let s := (List.range 6).foldl (fun s i =>
      dumpWrite s p (a + 4096 + 16384 * i) (Bytes.read (getCore s (6 * k + i)).spad spadOff 16384)) s
    let s := dumpWrite s p (a + 102400) (Bytes.read s.mem (stnAddr k stnOff) 262144)
    (finc s .RST_PART_DUMP_SEQ_SEQ p, false)

/-! Starts (R549-R555, R558, R559). -/

/-- Steps 1 and 2 of R553 on a station; `capt` where capture takes it. -/
def stnBegin (s : State) (k cause scope : Nat) (capt : Bool) : State :=
  if inReset s k then s else
  let c := match boundTo s k with
    | some p => if capt then capture s p k cause scope else (s, false)
    | none => (s, false)
  setRst c.1 { c.1.rst with stns := c.1.rst.stns ++ [⟨k, cause, scope, s.now, c.2, false⟩] }

/-- The conductors of a set stop and go through R321 with their partition unchanged (R555 step 3). -/
def cndsBegin (s : State) (gs : List Nat) : State := gs.foldl cndSwitchStart s

/-- R13, R172, R177: the Points rings of a set of conductors hold no work; a unit all of whose rings these are forgets its last
error (DESIGN CHOICE, log 122). -/
def pointsReset (s : State) (gs : List Nat) : State :=
  let s := gs.foldl (fun s g =>
    let x := getPoints s (g / 4)
    setPoints (fset s (ptsHeadF (g % 4)) (g / 4) 0) (g / 4) { x with tails := setAt x.tails (g % 4) 0 }) s
  ((List.range 16).filter (fun d => (List.range 4).all (fun r => gs.contains (4 * d + r)))).foldl
    (fun s d => fset s .PTS_STATUS_LAST_ERROR d 0) s

/-- The ROUTEs of a partition are abandoned, its channels and its UNWRAPs stopped (R555 step 4).  Its Branch-line unit stops
with RESETTING; what it abandons, and the warm streams, end with the reset. -/
def unitsBegin (s : State) (p : Nat) : State :=
  let mine := s.routes.filter (fun r => r.part == p)
  let s := mine.foldl (fun s r => epochEnd s r.epoch) { s with routes := s.routes.filter (fun r => r.part != p) }
  let s := pointsReset s (partCnds s p)
  let s := ((List.range 1024).filter (fun n => fbit s .CHV_CH_OWNER_VALID n && !fbit s .CHV_CH_OWNER_OPER n &&
    chPart s n == p)).foldl chvReset s
  unwrapCancel s p

/-- R555 steps 1 to 4: a partition compute reset begins; capture takes the station that caused it first. -/
def partBegin (s : State) (p cause : Nat) (counted device : Bool) (first : Option Nat) : State :=
  if fbit s .RST_PART_STATUS_RESETTING p then
    setRst s { s.rst with parts := s.rst.parts.map (fun j => if j.part = p then { j with device := j.device || device } else j) }
  else
    let s := compReset (fset s .RST_PART_STATUS_RESETTING p 1) p
    let ks := slicesOf s p
    let ks := match first with
      | some k => if ks.contains k then k :: ks.filter (· != k) else ks
      | none => ks
    let n := fget s .RST_PART_DUMP_SLOTS p
    let s := ((List.range ks.length).zip ks).foldl (fun s e =>
      stnBegin s e.2 cause (if device then 2 else 1) (decide (e.1 < n))) s
    let skipped := fbit s .RST_PART_DUMP_ENABLE p && !dumpOk s p
    let s := cndsBegin s (partCnds s p)
    unitsBegin (setRst s { s.rst with parts := s.rst.parts ++ [⟨p, cause, counted, device, skipped, false, []⟩] }) p

/-- The conductors that run for the operator. -/
def operCnds (s : State) : List Nat :=
  (List.range 64).filter (fun g => fget s .CND_STATUS_STATE g != 0 && fbit s .CND_STATUS_OPER g)

/-- R558: a device compute reset begins. -/
def devBegin (s : State) (cause : Nat) (counted : Bool) : State :=
  if s.rst.dev.isSome then s else
  let s := fset (setRst s { s.rst with dev := some (cause, counted) }) .TC_MODE_RECOVERY 0 1
  let s := (List.range 64).foldl (fun s p => partBegin s p cause false true none) s
  cndsBegin (pointsReset s (List.range 64)) (operCnds s)

/-- R553, R559: a station compute reset is asked for; one of a station reset less than 1 s ago escalates. -/
def stnReset (s : State) (k cause : Nat) : State :=
  if inReset s k then s else
  match boundTo s k, SMap.get (fun _ => none) s.rst.stnLast k with
  | some p, some t =>
    if s.now < t + 1000000000 then partBegin (rstLog s cause 0 k 1 false false) p rcEscalated true false (some k)
    else stnBegin s k cause 0 true
  | _, _ => stnBegin s k cause 0 true

/-- R549: a kick of conductor g. -/
def rstKick (s : State) (g : Nat) : State := setRst s { s.rst with kicks := SMap.set (fun _ => 0) s.rst.kicks g s.now }

/-- RST_CMD (R561). -/
def rstCmd (s : State) (v : Nat) : State :=
  match v % 4 with
  | 1 => stnReset s (bits v 8 8) rcOperator
  | 2 => if bits v 8 8 < 64 then partBegin s (bits v 8 8) rcOperator false false none else s
  | 3 => devBegin s rcOperator false
  | _ => s

/-- RST_PART_REQ of partition p (R550). -/
def rstPartReq (s : State) (p v : Nat) : State :=
  match v % 4 with
  | 1 => if boundTo s (bits v 8 8) = some p then stnReset s (bits v 8 8) rcPartRequest else s
  | 2 => partBegin s p rcPartRequest true false none
  | _ => s

/-- R560: RST_PART_STATUS.OUT written 1: the partition returns, and its window is clear. -/
def outClear (s : State) (p : Nat) : State :=
  if fbit s .RST_STATUS_DEV_OUT then s else
  let s := setRst s { s.rst with partHist := SMap.set (fun _ => []) s.rst.partHist p [] }
  fset s .RST_PART_STATUS_OUT p 0

/-- CND_CTRL.RUN: 1 runs a halted core, 0 halts it at a boundary between instructions; a WFS it waits in is then to be
run again (R303). -/
def cndRunWrite (s : State) (g : Nat) (run : Bool) : State :=
  let st := fget s .CND_STATUS_STATE g
  let s := fset s .CND_CTRL_RUN g (b2n run)
  if run then (if st = 0 then rstKick (fset s .CND_STATUS_STATE g 1) g else s)
  else if st = 3 then s
  else fset (setHart s g { getHart s g with wfs := none }) .CND_STATUS_STATE g 0

end Sys2Proof.Machine
end

