-- ==== Sys2Proof/Machine/RegView.lean ====
section
/-! DEFINITION. What a register read returns (spec R10-R12, R590-R593, R603): a field that states a present
condition is computed from the state it describes. -/
namespace Sys2Proof.Machine

/-- The bits of the cores of a station that satisfy p. -/
def coreBits (s : State) (k : Nat) (p : Nat → Bool) : Nat :=
  (List.range 6).foldl (fun v c => v + b2n (p (coreState s (6 * k + c))) * 2 ^ c) 0

/-- Breaks of a dimension, in the order recorded (R377, R384). -/
def ringBreaks (s : State) (d : Nat) : List Nat := (s.breaks.filter (fun b => b.1 == d)).map (·.2)

/-- The running image. -/
def bootImage (s : State) : Bytes := SMap.get (fun _ => []) s.mod.banks (s.mod.romBank.getD 0)

/-- R603: the fields that read a present condition. -/
def fieldView (s : State) (f : F) (i : Nat) : Nat :=
  match f with
  | .STN_STATUS_FREE => coreBits s i (· == stFree)
  | .STN_STATUS_FENCED => coreBits s i (· == stFenced)
  | .BLY_RING_DOWN_X_BREAK0 => (ringBreaks s 0).getD 0 0
  | .BLY_RING_DOWN_X_VALID0 => b2n (decide (1 ≤ (ringBreaks s 0).length))
  | .BLY_RING_DOWN_X_BREAK1 => (ringBreaks s 0).getD 1 0
  | .BLY_RING_DOWN_X_VALID1 => b2n (decide (2 ≤ (ringBreaks s 0).length))
  | .BLY_RING_DOWN_X_MORE => b2n (decide (3 ≤ (ringBreaks s 0).length))
  | .BLY_RING_DOWN_Y_BREAK0 => (ringBreaks s 1).getD 0 0
  | .BLY_RING_DOWN_Y_VALID0 => b2n (decide (1 ≤ (ringBreaks s 1).length))
  | .BLY_RING_DOWN_Y_BREAK1 => (ringBreaks s 1).getD 1 0
  | .BLY_RING_DOWN_Y_VALID1 => b2n (decide (2 ≤ (ringBreaks s 1).length))
  | .BLY_RING_DOWN_Y_MORE => b2n (decide (3 ≤ (ringBreaks s 1).length))
  | .BLY_RING_DOWN_Z_BREAK0 => (ringBreaks s 2).getD 0 0
  | .BLY_RING_DOWN_Z_VALID0 => b2n (decide (1 ≤ (ringBreaks s 2).length))
  | .BLY_RING_DOWN_Z_BREAK1 => (ringBreaks s 2).getD 1 0
  | .BLY_RING_DOWN_Z_VALID1 => b2n (decide (2 ≤ (ringBreaks s 2).length))
  | .BLY_RING_DOWN_Z_MORE => b2n (decide (3 ≤ (ringBreaks s 2).length))
  | .KVG_HEAD_BUSY => b2n (kvgNext s i).isSome
  | .PTS_STATUS_BUSY => (List.range 4).foldl (fun v r =>
      v + b2n (ptsWork s i r || s.routes.any (fun x => x.die == i && x.ring == r)) * 2 ^ r) 0
  | .BL_STATUS_BUSY => match blNext s i with
    | some r => 2 ^ r
    | none => 0
  | .CTL_DIR_STATUS_ENTRIES => (s.dirs.filter (fun e => e.2.isSome && decide (e.1 / 67108864 / 16 = i))).length
  | .SEAM_STATUS_BACKPRESSURE => b2n (fget s .SEAM_STATUS_WEST_DIV i != fget s .SEAM_STATUS_EAST_DIV i)
  | .COMP_SLICE_STATUS_CORES => if (boundTo s i).isSome then
      6 - ((List.range 6).filter (fun c => bit (fget s .STN_CORE_FENCE_FENCE i) c)).length else 0
  | .COMP_INFLIGHT_OLD =>
    if fget s .COMP_MAP_EPOCH_OLD i = fget s .COMP_MAP_EPOCH_CUR i then fget s .COMP_INFLIGHT_CUR i else fget s .COMP_INFLIGHT_OLD i
  | .COMP_NOTICE_VALID => b2n (!s.notices.isEmpty)
  | .QE_TRACKERS_IN_USE => ((List.range 64).map (trackersOf s)).foldl (· + ·) 0
  | .QE_RING_STATUS_BUSY => b2n ((selRing s i).any (fun r => (getRing s r).state == rDraining))
  | .QE_RING_STATUS_STATE => ((selRing s i).map (fun r => (getRing s r).state)).getD 0
  | .PWR_EVENTS_MEM_THROTTLED => b2n (decide (s.power.hbmLimit < 256) ||
      (List.range 88).any (fun d => !isRegion d && SMap.get (fun _ => false) s.power.emerg d))
  | .PSE_STATUS_QUEUED => (SMap.get (fun _ => []) s.sorts i).length
  | .COMP_PART_CFG_CONSISTS => ((List.range 256).filter (fun k => fget s .COMP_CONSIST_ID_STATE k != 0 &&
      fget s .COMP_CONSIST_ID_PART k == i)).length
  | .COMP_PART_CFG_SLICES => (slicesOf s i).length
  | .COMP_NOTICE_KIND => (s.notices.head?.map (·.kind)).getD 0
  | .COMP_NOTICE_SLICE => (s.notices.head?.map (·.slice)).getD 0
  | .COMP_NOTICE_DEV => (s.notices.head?.map (·.dev)).getD 0
  | .COMP_NOTICE_CONSIST => (s.notices.head?.map (·.consist)).getD 0
  | .PART_WIN_COMMIT_PENDING => b2n (winPending s i)
  | .MOD_STATUS_FALLBACK_SENSE => b2n (fget s .MOD_SENSE0_RAILS != 0 || fget s .MOD_SENSE1_RAILS != 0)
  | .RST_STATUS_BUSY => b2n (!s.rst.stns.isEmpty || !s.rst.parts.isEmpty || s.rst.dev.isSome)
  | .RST_PART_STATUS_IN_WINDOW => min 3 (partHist s i).length
  | .RST_DEV_COUNT_IN_WINDOW => (devHist s).length
  | .PWR_DOM_STATUS_ALLOWED => if isRegion i then regionAllowed s i else 0
  | .PWR_DOM_STATUS_STRETCH => b2n (stretched s i)
  | .DEV_REV_STEPPING => Config.deviceRev % 256
  | .DEV_FW_VERSION => if s.mod.started then Bytes.le (bootImage s) 16 8 else 0
  | .FUA_BOOT_STATUS_BANK => s.mod.romBank.getD 0
  | .FUA_BOOT_STATUS_PENDING => b2n s.mod.pending
  | .FUA_BOOT_STATUS_SVN => if s.mod.romBank.isSome then (Bytes.get (bootImage s) 6).toNat else 0
  | .FUA_BOOT_STATUS_FUSES => s.mod.fuses
  | .DILL_STATUS_ACTIVE => (s.dill.filter (fun t => t.slice / 32 == i)).length
  | f => if f.spec.acc = .wo then 0 else fget s f i

/-- The value of a whole register (R11: reserved bits read zero). -/
def regValue (s : State) (r : RegRow) (i : Nat) : Nat :=
  r.fields.foldl (fun v f => v + fieldView s f i * 2 ^ f.spec.lo) 0

/-- R10: an access of n bytes at byte k of a register is one the register takes. -/
def sizeOk (r : RegRow) (off k n : Nat) : Bool :=
  off % n == 0 && (n == r.bytes && k == 0 || (n == 4 && r.bytes == 8))

/-- A read of n bytes at an offset of PF BAR0 (R10, R590). -/
def readPf (s : State) (off n : Nat) : Nat :=
  if 0x11000 ≤ off ∧ off < 0x12000 then (if (n = 4 ∨ n = 8) ∧ off % n = 0 then Bytes.le (getBuf s 0) (off - 0x11000) n else 0) else
  match findReg pfRows off with
  | some (r, i, k) => if sizeOk r off k n then regValue s r i / 2 ^ (8 * k) % 2 ^ (8 * n) else 0
  | none => 0

end Sys2Proof.Machine
end

