-- ==== Sys2Proof/Machine/RegWrite.lean ====
section
/-! DEFINITION. Register writes: the access types of spec R12, the registers whose writes act, and the access
sizes of R10. -/
namespace Sys2Proof.Machine

/-- R12: whether an RWL field of a block is locked. -/
def fieldLocked (s : State) (f : F) (i : Nat) : Bool :=
  match f with
  | .CTL_SHARED_BASE_ADDR | .CTL_SHARED_LIMIT_ADDR => fbit s .CTL_LOCK_LOCK i
  | .BLY_DEVICE_DEVNUM | .BLY_TOPO_SX | .BLY_TOPO_SY | .BLY_TOPO_SZ => fbit s .BLY_LOCK_LOCK
  | _ => false

/-- The value of a field after a write of the bits of `mask` (R10, R592). -/
def merged (old mask v : Nat) : Nat := Nat.lor (old - Nat.land old mask) (Nat.land v mask)

/-- R12: a write to a field by its access type alone. -/
def plainWrite (s : State) (f : F) (i mask v : Nat) : State :=
  let old := fget s f i
  match f.spec.acc with
  | .ro | .wo => s
  | .rw | .rws => fset s f i (merged old mask v)
  | .w1c => fset s f i (old - Nat.land old (Nat.land v mask))
  | .w1s => fset s f i (Nat.lor old (Nat.land v mask))
  | .rwl => if fieldLocked s f i then s else fset s f i (merged old mask v)

/-- A write that leaves a field outside what it takes is ignored. -/
def writeIf (s : State) (f : F) (i mask v : Nat) (ok : Nat → Bool) : State :=
  let x := merged (fget s f i) mask v
  if ok x then fset s f i x else s

def notZero (x : Nat) : Bool := x != 0

/-- A write to one field: the fields whose writes act or are refused, and all others by their access type. -/
def fieldWrite (s : State) (f : F) (i mask v : Nat) : State :=
  let one := bit v 0 && bit mask 0
  let new := merged (fget s f i) mask v
  match f with
  | .STN_CORE_FENCE_FENCE =>
    (List.range 6).foldl (fun s c => if bit mask c then writeFence s (6 * i + c) (bit v c) else s) s
  | .KVG_DOORBELL0_TAIL => kvgDoorbell s i 0 v
  | .KVG_DOORBELL1_TAIL => kvgDoorbell s i 1 v
  | .KVG_RSEED_SEED => kvgSeed s i new
  | .KVG_RING0_BASE_OFFSET => kvgBase s .KVG_RING0_BASE_OFFSET i new
  | .KVG_RING1_BASE_OFFSET => kvgBase s .KVG_RING1_BASE_OFFSET i new
  | .PTS_DOORBELL_TAIL => ptsDoorbell s (i / 4) (i % 4) v
  | .BL_DOORBELL_TAIL => blDoorbell s (i / 4) (i % 4) v
  | .DEP_SLICE_CFG_PIN_WAYS => pinWaysWrite s i new
  | .HBM_PATROL_ENABLE => fset (fset s f i new) .HBM_STATUS_PATROL_BUSY i (if new = 0 then 0 else fget s .HBM_STATUS_PATROL_BUSY i)
  | .HBM_PATROL_PERIOD => writeIf s f i mask v notZero
  | .DILL_CTRL_AHEAD => writeIf s f i mask v notZero
  | .CND_CTRL_RUN => cndRunWrite s i (bit v 0)
  | .CND_CTRL_SWITCH => if one then cndSwitchStart s i else s
  | .COMP_CMD_GO_GO => if one then compGo s else s
  | .COMP_DRAIN_LIMIT_MILLISECONDS => writeIf s f i mask v notZero
  | .COMP_PART_CFG_MODE => if fieldView s .COMP_PART_CFG_CONSISTS i = 0 then fset s f i new else s
  | .COMP_MAP_STORE_ENTRY => if inCurrentMap s i then s else fset s f i new
  | .BLY_LOCK_LOCK => if one then blyLock s else s
  | .BLY_REMOTE_TIMEOUT_MICROSECONDS => writeIf s f i mask v (fun x => decide (10 ≤ x))
  | .BLY_PORT_CTRL_ENABLE => portEnable s i (bit v 0)
  | .BLY_PORT_CTRL_RETRAIN => if one then portRetrain s i else s
  | .QE_RING_CMD_OP => ringCommand s i v
  | .TC_MODE_MODE => tcModeWrite s v
  | .TC_RT_BUDGET_FWD => writeIf s f i mask v notZero
  | .TC_RT_BUDGET_COMPL => writeIf s f i mask v notZero
  | .TC_RT_BUDGET_TOKEN => writeIf s f i mask v notZero
  | .TC_RT_BUDGET_TELEM => writeIf s f i mask v notZero
  | .TC_AGE_CYCLES => writeIf s f i mask v notZero
  | .TC_PART_CFG_MAX => fset s f i (min 6 new)
  | .PART_CTRL_CLASS => classWrite s i v
  | .PART_WIN_COMMIT_GO => if one then winCommit s i else s
  | .PART_METER_SNAP_GO => if one then meterSnap s i else s
  | .PWR_CAP_WATTS => capWrite s new
  | .PWR_GRANT_CFG_STARVE_MS => writeIf s f i mask v notZero
  | .PWR_THERM_CFG_HOT => writeIf s f i mask v (fun x => decide (80 ≤ x) && decide (x ≤ 100))
  | .PWR_DOM_CTRL_HOLD_ON => holdOn s i (bit v 0)
  | .PWR_DOM_CTRL_OFF_REQ => offReq s i (bit v 0)
  | .RST_HANG_CFG_CORE_MS => writeIf s f i mask v notZero
  | .RST_HANG_CFG_KVG_MS => writeIf s f i mask v notZero
  | .RST_HANG_CFG_CND_MS => writeIf s f i mask v notZero
  | .RST_KICK_KICK => if one then rstKick s i else s
  | .RST_PART_STATUS_OUT => if one then outClear s i else s
  | .RST_PART_DUMP_SLOTS => writeIf s f i mask v notZero
  | f => plainWrite s f i mask v

/-- The fields of a register that a write reaches, each with its bits. -/
def eachField (s : State) (r : RegRow) (mask v : Nat) (g : State → F → Nat → Nat → State) : State :=
  r.fields.foldl (fun s f =>
    let m := bits mask f.spec.lo f.spec.w
    if m = 0 then s else g s f m (bits v f.spec.lo f.spec.w)) s

/-- A write of a whole register, or none of it where the result is refused. -/
def writeAll (s : State) (r : RegRow) (i mask v : Nat) : State :=
  eachField s r mask v (fun s f m x => plainWrite s f i m x)

/-- R390: a write of QE_PART_RINGS. -/
def partRingsWrite (s : State) (r : RegRow) (i mask v : Nat) : State :=
  let t := writeAll s r i mask v
  let same := fget t .QE_PART_RINGS_BASE i == fget s .QE_PART_RINGS_BASE i && fget t .QE_PART_RINGS_COUNT i == fget s .QE_PART_RINGS_COUNT i
  if same then s else if anyRingOn s i || !rangeOk t i then rangeError s else t

/-- R398, R410: a write of QE_PART_CFG or QE_PF_ATC_QUOTA, of function f. -/
def quotaWrite (s : State) (r : RegRow) (i mask v f : Nat) : State :=
  let t := writeAll s r i mask v
  if quotasOk t then atcTrim t f else rangeError s

/-- R419: a table's base is taken only while no ring of the partition is enabled. -/
def tableBaseWrite (s : State) (r : RegRow) (i mask v : Nat) : State :=
  if anyRingOn s i then s else writeAll s r i mask v

/-- R419, R426: a write of QE_PART_LIMITS, likewise; CONTEXTS is 1 to 4,096. -/
def limitsWrite (s : State) (r : RegRow) (i mask v : Nat) : State :=
  let t := writeAll s r i mask v
  if anyRingOn s i then s
  else if 96 < sumOver 64 (fun p => fget t .QE_PART_LIMITS_RESERVED p) then rangeError s
  else if fget t .QE_PART_LIMITS_CONTEXTS i = 0 ∨ 4096 < fget t .QE_PART_LIMITS_CONTEXTS i then s else t

/-- R478: a write of TC_FB_THRESH. -/
def threshWrite (s : State) (r : RegRow) (i mask v : Nat) : State :=
  let t := writeAll s r i mask v
  if fget t .TC_FB_THRESH_YELLOW < fget t .TC_FB_THRESH_ORANGE ∧ fget t .TC_FB_THRESH_ORANGE < fget t .TC_FB_THRESH_RED ∧
     fget t .TC_FB_THRESH_RED ≤ 64 then t else s

/-- R527: a write of PWR_PRIO names each class once. -/
def prioWrite (s : State) (r : RegRow) (i mask v : Nat) : State :=
  let t := writeAll s r i mask v
  let named := [fget t .PWR_PRIO_FIRST, fget t .PWR_PRIO_SECOND, fget t .PWR_PRIO_THIRD]
  if [0, 1, 2].all named.contains then t else s

/-- R445: a write of CHV_CH_OWNER; bits that the write does not reach keep their values. -/
def chOwnerWrite (s : State) (path : RegPath) (i mask v : Nat) : State :=
  let old := fget s .CHV_CH_OWNER_PART i + 64 * fget s .CHV_CH_OWNER_OPER i + 128 * fget s .CHV_CH_OWNER_VALID i +
    256 * fget s .CHV_CH_OWNER_SUB i
  let x := merged old mask v
  ownerWrite s i path (x % 64) (bit x 6) (bit x 7) (bits x 8 2)

/-- R462: the GO commands of a write, in bit order. -/
def chGoWrite (s : State) (path : RegPath) (i v : Nat) : State :=
  let s := if bit v 0 then chvStart s i path else s
  let s := if bit v 1 then chvFetch s i path else s
  let s := if bit v 2 then chvStop s i path else s
  let s := if bit v 3 then chvResume s i path else s
  if bit v 4 then chvAbort s i path else s

/-- R446, R463: a write of another register of a channel. -/
def chPlainWrite (s : State) (path : RegPath) (r : RegRow) (i mask v : Nat) (idle : Bool) : State :=
  if !chAccepts s i path || (idle && chState s i != chIdle) then chIgnore s i else writeAll s r i mask v

/-- Who writes, as a warm stream's declaration records it (R270). -/
def pathWho (path : RegPath) : Who :=
  match path with
  | .device w => w
  | _ => ⟨0, 4, true, 0, 0, 0, false⟩

/-- R270, R592: DILL_DECLARE acts on a write of its upper half; its lower half is held until then. -/
def declareWrite (s : State) (path : RegPath) (r : RegRow) (i mask v : Nat) : State :=
  let s := eachField s r mask v (fun s f m x => fset s f i (merged (fget s f i) m x))
  let w := pathWho path
  if bits mask 32 32 = 0 ∨ (w.oper = false ∧ w.kind ≠ 6) then s
  else { s with declares := s.declares ++ [(i, w, fget s .DILL_DECLARE_ADDR i * 32)] }

/-- A write of the bits `mask` of a register: the registers that take their fields together, and all others field by
field. -/
def regWrite (s : State) (path : RegPath) (r : RegRow) (i mask v : Nat) : State :=
  match r.fields.head? with
  | some .RST_CMD_OP => rstCmd s v
  | some .RST_PART_REQ_OP => rstPartReq s i v
  | some .FUA_MB_CMD_OP => mbStart s i v
  | some .CHV_CH_OWNER_PART => chOwnerWrite s path i mask v
  | some .CHV_CH_GO_START => if chAccepts s i path then chGoWrite s path i v else chIgnore s i
  | some .CHV_CH_SRC_ADDR | some .CHV_CH_DST_ADDR | some .CHV_CH_COUNT_BYTES | some .CHV_CH_CTRL_CTRL
  | some .CHV_CH_TAG_TAG | some .CHV_CH_NEXT_ADDR => chPlainWrite s path r i mask v true
  | some .CHV_CH_CQ_HEAD_HEAD => cqRoom (chPlainWrite s path r i mask v false) i
  | some .CHV_CH_CQ_BASE_ADDR | some .CHV_CH_CQ_CFG_SIZE_LOG2 | some .CHV_CH_CQ_TAIL_TAIL
  | some .CHV_CH_STATUS_STATE | some .CHV_CH_ERR_ADDR_ADDR | some .CHV_CH_BYTES_COUNT | some .CHV_CH_IGNORED_COUNT =>
    chPlainWrite s path r i mask v false
  | some .DILL_DECLARE_ADDR => declareWrite s path r i mask v
  | some .QE_PART_RINGS_BASE => partRingsWrite s r i mask v
  | some .QE_PART_CFG_VF => quotaWrite s r i mask v (i + 1)
  | some .QE_PF_ATC_QUOTA_ENTRIES => quotaWrite s r i mask v 0
  | some .QE_PART_LIMITS_CONTEXTS => limitsWrite s r i mask v
  | some .QE_PART_CTX_BASE_ADDR | some .QE_PART_OBJ_BASE_ADDR | some .QE_PART_FENCE_BASE_ADDR => tableBaseWrite s r i mask v
  | some .TC_FB_THRESH_YELLOW => threshWrite s r i mask v
  | some .PWR_PRIO_FIRST => prioWrite s r i mask v
  | _ => eachField s r mask v (fun s f m x => fieldWrite s f i m x)

/-- A write of n bytes at byte k of a register. -/
def regFieldsWrite (s : State) (path : RegPath) (r : RegRow) (i k n v : Nat) : State :=
  regWrite s path r i ((2 ^ (8 * n) - 1) * 2 ^ (8 * k)) (v % 2 ^ (8 * n) * 2 ^ (8 * k))

/-- R516: an aligned write of 4 or 8 bytes of a mailbox's buffer. -/
def bufWrite (s : State) (f off n v : Nat) : State :=
  if (n = 4 ∨ n = 8) ∧ off % n = 0 then setBuf s f (Bytes.write (getBuf s f) off (leBytes n v)) else s

/-- A write of n bytes at an offset of PF BAR0 (R10, R590). -/
def writePf (s : State) (path : RegPath) (off n v : Nat) : State :=
  if 0x11000 ≤ off ∧ off < 0x12000 then bufWrite s 0 (off - 0x11000) n v else
  match findReg pfRows off with
  | some (r, i, k) => if sizeOk r off k n then regFieldsWrite s path r i k n v else s
  | none => s

end Sys2Proof.Machine
end

