-- ==== Sys2Proof/Machine/Access.lean ====
section
/-! DEFINITION. The accesses of device agents: checked where they leave the agent (spec R484-R489), then performed
at their homes or on device registers (R241, R591). -/
namespace Sys2Proof.Machine

/-- A read of a device register through the alias of R591: the size rule of R10 applies to the piece. -/
def aliasRead (s : State) (off n : Nat) : List Byte :=
  if n = 4 ∨ n = 8 then leBytes n (readPf s off n) else List.replicate n 0

/-- A write of a device register through the alias. -/
def aliasWrite (s : State) (w : Who) (off : Nat) (bs : List Byte) : State :=
  if bs.length = 4 ∨ bs.length = 8 then writePf s (.device w) off bs.length (leNat bs) else s

/-- R593: a read of COMP_NOTICE removes the notice it returns. -/
def aliasAfter (s : State) (off n : Nat) : State :=
  if (n = 4 ∨ n = 8) ∧ off % n = 0 ∧ 0x1000A8 ≤ off ∧ off < 0x1000B0 then (noticeRead s).1 else s

/-- A read of one piece that has passed its check.  `st` is the station whose cache the access goes through
(`cache`) or past; `nt`, `stream` as R82 names them. -/
def pieceRead (s : State) (w : Who) (st : Option Nat) (cache nt stream : Bool) (p : Piece) :
    State × List Byte × Bool :=
  match regionOf p.addr, st with
  | .register off, _ => (aliasAfter s off p.len, aliasRead s off p.len, false)
  | _, some k =>
    if cacheable p.addr then
      (if cache then
        let hit := (scFind s k (p.addr / 64)).isSome
        let r := scRead s w k p nt stream
        if hit || nt || stream then r else (dillMiss r.1 w k (p.addr / 64), r.2)
       else readAt (scBypass s k (p.addr / 64)) w p nt stream)
    else readAt s w p nt stream
  | _, none => readAt s w p nt stream

/-- A write of a piece's bytes after its check. -/
def pieceWrite (s : State) (w : Who) (st : Option Nat) (cache nt : Bool) (p : Piece) (bs : List Byte) : State :=
  match regionOf p.addr, st with
  | .register off, _ => aliasWrite s w off bs
  | _, some k =>
    if cacheable p.addr then
      (if cache then
        let hit := (scFind s k (p.addr / 64)).isSome
        let t := scWrite s w k (p.addr / 64) (lineData p.addr bs) nt
        if hit || nt then t else dillMiss t w k (p.addr / 64)
       else writeAt (scBypass s k (p.addr / 64)) w (p.addr / 64) (lineData p.addr bs))
    else writeAt s w (p.addr / 64) (lineData p.addr bs)
  | _, none => writeAt s w (p.addr / 64) (lineData p.addr bs)

/-- Read pieces in order, those that fail the check as zeros; the mark tells whether some home marked its data
(R249). -/
def readPieces (w : Who) (st : Option Nat) (cache nt stream : Bool) (ok : Piece → Bool) :
    List Piece → State → State × List Byte × Bool
  | [], s => (s, [], false)
  | p :: ps, s =>
    let r := if ok p then pieceRead s w st cache nt stream p else (s, List.replicate p.len 0, false)
    let rest := readPieces w st cache nt stream ok ps r.1
    (rest.1, r.2.1 ++ rest.2.1, r.2.2 || rest.2.2)

def writePieces (w : Who) (st : Option Nat) (cache nt : Bool) (ok : Piece → Bool) :
    List Piece → List Byte → State → State
  | [], _, s => s
  | p :: ps, bs, s =>
    writePieces w st cache nt ok ps (bs.drop p.len)
      (if ok p then pieceWrite s w st cache nt p (bs.take p.len) else s)

/-- A checked read of n bytes at a device address (R86, R484, R489). -/
def agentRead (s : State) (w : Who) (st : Option Nat) (cache nt stream : Bool) (a n : Nat) :
    State × List Byte × Bool :=
  let ps := pieces a n
  let c := checkAccess (reach s ps) w .read ps
  readPieces w st cache nt stream c.1 ps c.2

/-- A checked write of bytes at a device address. -/
def agentWrite (s : State) (w : Who) (st : Option Nat) (cache nt : Bool) (a : Nat) (bs : List Byte) : State :=
  let ps := pieces a bs.length
  let c := checkAccess (reach s ps) w .write ps
  writePieces w st cache nt c.1 ps bs c.2

/-- A checked atomic: it bypasses the station cache (R263); a refused one returns zero (R489).  Atomics on
device registers are refused by the check (R487), and with OPER 1 write nothing and return zero (R89). -/
def agentAtomic (s : State) (w : Who) (st : Option Nat) (a : Nat) (x : AtomDo) : State × Nat :=
  let ps := pieces a x.bytes
  let c := checkAccess (reach s ps) w .atomic ps
  if ps.all c.1 then
    let s := match st with
      | some k => if cacheable a then scBypass c.2 k (a / 64) else c.2
      | none => c.2
    atomicAt s w a x
  else (c.2, 0)

/-- A device agent's own accesses (R295): no station cache. -/
def devRead (s : State) (w : Who) (a n : Nat) : State × List Byte × Bool := agentRead s w none false false false a n
def devWrite (s : State) (w : Who) (a : Nat) (bs : List Byte) : State := agentWrite s w none false true a bs

/-- R372: a remote read whose device is this one is served at home, where it is checked again. -/
def ownRead (s : State) (w : Who) (ok : Piece → Bool) (ps : List Piece) : State × List Byte × Bool :=
  let c := checkAccess (reach s ps) w .read (ps.filter ok)
  readPieces w none false false false (fun p => ok p && c.1 p) ps c.2

def ownWrite (s : State) (w : Who) (ok : Piece → Bool) (ps : List Piece) (bs : List Byte) : State :=
  let c := checkAccess (reach s ps) w .write (ps.filter ok)
  writePieces w none false true (fun p => ok p && c.1 p) ps bs c.2

/-- A 64-bit completion word: a release over the command's writes (R295). -/
def writeWord (s : State) (w : Who) (a v : Nat) : State := devWrite s w a (leBytes 8 v)

end Sys2Proof.Machine
end

