-- ==== Sys2Proof/Machine/Operands.lean ====
section
/-! DEFINITION. The operand forms of a Sage core's instructions (spec R57-R64, R82-R84, R88, R91): the fields of
an instruction word, register operands, which encodings are legal, and reading and writing the register files,
tiles, accumulators and the scratchpad. -/
namespace Sys2Proof.Machine

/-- The fields of an instruction (R61). -/
structure Insn where
  opc : Nat
  dst : Nat
  s1 : Nat
  s2 : Nat
  s3 : Nat
  fa : Nat
  fb : Nat
  rnd : Nat
  mod : Nat
  imm : Nat
deriving DecidableEq, Repr

/-- R61. -/
def Insn.ofWord (w : BitVec 128) : Insn :=
  let x := w.toNat
  { opc := bits x 0 8, dst := bits x 8 8, s1 := bits x 16 8, s2 := bits x 24 8, s3 := bits x 32 8,
    fa := bits x 40 4, fb := bits x 44 4, rnd := bits x 48 2, mod := bits x 50 14, imm := bits x 64 64 }

/-- The fields lie within their widths (R61). -/
def Insn.fits (i : Insn) : Bool :=
  i.opc < 2 ^ 8 && i.dst < 2 ^ 8 && i.s1 < 2 ^ 8 && i.s2 < 2 ^ 8 && i.s3 < 2 ^ 8 && i.fa < 2 ^ 4 && i.fb < 2 ^ 4 &&
  i.rnd < 2 ^ 2 && i.mod < 2 ^ 14 && i.imm < 2 ^ 64

/-- R61: the word of an instruction whose fields fit. -/
def Insn.toWord (i : Insn) : BitVec 128 :=
  BitVec.ofNat 128 (i.opc + i.dst * 2 ^ 8 + i.s1 * 2 ^ 16 + i.s2 * 2 ^ 24 + i.s3 * 2 ^ 32 + i.fa * 2 ^ 40 +
    i.fb * 2 ^ 44 + i.rnd * 2 ^ 48 + i.mod * 2 ^ 50 + i.imm * 2 ^ 64)

/-! Register operands (R62). -/

/-- A byte that selects a register of a file of n registers. -/
def isFile (f n b : Nat) : Bool := b / 32 == f && decide (b % 32 < n)
def isS (b : Nat) : Bool := isFile 0 32 b
def isAR (b : Nat) : Bool := isFile 1 16 b
def isT (b : Nat) : Bool := isFile 2 8 b
def isAcc (b : Nat) : Bool := isFile 3 4 b
/-- 0xE0 selects no register. -/
def isNo (b : Nat) : Bool := b == 0xE0
/-- R62: the byte selects a register or none; any other is reserved. -/
def isSel (b : Nat) : Bool := isS b || isAR b || isT b || isAcc b || isNo b
/-- The index of a register operand. -/
def opIx (b : Nat) : Nat := b % 32

/-! Fields of IMM and MOD (R65, R82, R91). -/

def Insn.rows (i : Insn) : Nat := bits i.imm 0 6 + 1
def Insn.space (i : Insn) : Nat := bits i.imm 6 2
def Insn.trans (i : Insn) : Bool := bit i.imm 8
def Insn.stream (i : Insn) : Bool := bit i.imm 9
def Insn.nt (i : Insn) : Bool := bit i.imm 10
def Insn.remote (i : Insn) : Bool := bit i.imm 11
def Insn.dev (i : Insn) : Nat := bits i.imm 12 10
def Insn.stride (i : Insn) : Int := signed 32 (i.imm / 2 ^ 32)
def Insn.scope (i : Insn) : Nat := bits i.mod 10 3
def Insn.fmtA (i : Insn) : Fmt := (Fmt.ofCode i.fa).getD .fp32
def Insn.fmtB (i : Insn) : Fmt := (Fmt.ofCode i.fb).getD .fp32

/-- Only the bits of a mask are set. -/
def within (x mask : Nat) : Bool := Nat.land x mask == x
def allZero (xs : List Nat) : Bool := xs.all (· == 0)

/-- R82: SPACE 3 is reserved; REMOTE only with SPACE 2. -/
def Insn.spaceOk (i : Insn) : Bool := i.space != 3 && (!i.remote || i.space == 2)

/-- R88: the IMM of a scalar access: bits [5:0], [8], [9] and [31:22] zero, and the upper bits within a mask. -/
def Insn.wordImm (i : Insn) (upper : Nat) : Bool :=
  within i.imm (0x3FFCC0 + upper * 2 ^ 32) && i.spaceOk

/-- R91. -/
def Insn.scopeOk (i : Insn) : Bool := decide (i.scope ≤ 4)

/-- R84: the formats that TRANS allows. -/
def Fmt.transposes : Fmt → Bool
  | .fp16 => true | .bf16 => true | .e4m3 => true | .e5m2 => true | .int8 => true | _ => false

/-- R60: the rows a tile has in a format; columns where the transfer is transposed (R84). -/
def Fmt.tileRows (f : Fmt) (trans : Bool) : Nat := if trans || f.width == 16 then 32 else 64

/-- R63, R82, R84: the format and row count of a tile transfer. -/
def Insn.tileOk (i : Insn) : Bool :=
  i.fmtA != .fp32 && (!i.trans || i.fmtA.transposes) && decide (i.rows ≤ i.fmtA.tileRows i.trans)

/-- R82: the IMM of a transfer: reserved bits zero. -/
def Insn.xferImm (i : Insn) : Bool := bits i.imm 22 10 == 0 && i.spaceOk

/-- R66, R70: the MOD bits that place a tile of a width class within an accumulator. -/
def Fmt.halfMask (f : Fmt) : Nat := if f.width == 16 then 6 else if f.width == 8 then 4 else 0

/-- R69: whether two operand formats may pair. -/
def pairOk (a b : Fmt) : Bool := a != .fp32 && b != .fp32 && a.isInt == b.isInt

/-- R46, R70: the targets that may carry a multiplier. -/
def Fmt.takesMult : Fmt → Bool
  | .e4m3 => true | .e5m2 => true | .int8 => true | .int4 => true | _ => false

/-- R72: the operand byte of b or c under MOD[9:8]. -/
def vecOpd (sel b : Nat) : Bool :=
  match sel with
  | 0 => isAcc b | 1 => isS b | 2 => isAcc b | _ => b == 0

/-- R72: the IMM bits an elementwise instruction uses. -/
def vecImm (sel : Nat) : Nat := if sel = 2 then 0x3F3F else if sel = 3 then 0xF003F else 0x3F

/-- R72, R73: an elementwise instruction with n operands and `subs` sub-operations. -/
def Insn.vecOk (i : Insn) (n subs : Nat) : Bool :=
  let sel := bits i.mod 8 2
  isAcc i.dst && isAcc i.s1 && allZero [i.fa, i.fb, i.rnd] && within i.mod (if n = 1 then 0x3F else 0x33F)
  && decide (bits i.mod 0 6 < subs) && within i.imm (vecImm sel)
  && (if n < 2 then i.s2 == 0 else vecOpd sel i.s2) && (if n < 3 then i.s3 == 0 else vecOpd sel i.s3)

/-- R79: the IMM bits SMX uses under its mask mode. -/
def smxImm (m : Nat) : Nat :=
  match m with
  | 0 => 0x3F | 1 => 0xF3F | 2 => 0x1F003F | _ => 0x1F1F003F

/-- R61-R65 and each opcode's own rules: whether an instruction is legal (R107, ILLEGAL_OP).  Fields an opcode
does not use are zero (R64).  A BR that is always taken compares nothing; its SRC1 and SRC2 may still name any scalar
registers (DESIGN CHOICE, log 117). -/
def Insn.legal (i : Insn) : Bool :=
  i.fa < 14 && i.fb < 14 && i.rnd < 2 && isSel i.dst && isSel i.s1 && isSel i.s2 && isSel i.s3 &&
  (match i.opc with
  | 0x00 => allZero [i.dst, i.s1, i.s2, i.s3, i.fa, i.fb, i.rnd, i.mod, i.imm]
  | 0x01 => isT i.dst && isAR i.s1 && (isS i.s2 || isNo i.s2) && allZero [i.s3, i.fb, i.rnd, i.mod]
      && i.tileOk && i.xferImm
  | 0x02 => isT i.s3 && isAR i.s1 && (isS i.s2 || isNo i.s2) && allZero [i.dst, i.fb, i.rnd, i.mod]
      && i.tileOk && i.xferImm
  | 0x03 => isAcc i.dst && isAR i.s1 && (isS i.s2 || isNo i.s2) && allZero [i.s3, i.fa, i.fb, i.rnd, i.mod]
      && !i.trans && i.xferImm
  | 0x04 => isAcc i.s3 && isAR i.s1 && (isS i.s2 || isNo i.s2) && allZero [i.dst, i.fa, i.fb, i.rnd, i.mod]
      && !i.trans && i.xferImm
  | 0x05 => isS i.dst && isAR i.s1 && (isS i.s2 || isNo i.s2) && allZero [i.s3, i.fa, i.fb, i.rnd]
      && within i.mod 1 && i.wordImm 0
  | 0x06 => isS i.s3 && isAR i.s1 && (isS i.s2 || isNo i.s2) && allZero [i.dst, i.fa, i.fb, i.rnd]
      && within i.mod 1 && i.wordImm 0
  | 0x07 => isAR i.s1 && (isS i.s2 || isNo i.s2) && allZero [i.dst, i.s3, i.fb, i.rnd, i.mod]
      && i.tileOk && within i.imm (0x2FF + 0xFFFFFFFF * 2 ^ 32) && i.space == 2
  | 0x10 => isAcc i.dst && isT i.s1 && isT i.s2 && allZero [i.s3, i.rnd] && pairOk i.fmtA i.fmtB
      && i.fmtA.width == i.fmtB.width && within i.mod (if i.fmtA.width == 16 then 7 else 1)
      && within i.imm 0x3F && decide (i.rows ≤ i.fmtA.tileRows false)
  | 0x11 => isAcc i.dst && isT i.s1 && opIx i.s1 % 2 == 0 && isT i.s2 && allZero [i.s3, i.rnd]
      && pairOk i.fmtA i.fmtB && i.fmtA.width == 8 && i.fmtB.width == 4 && within i.mod 1 && within i.imm 0x3F
  | 0x18 => (isT i.dst || isAcc i.dst) && allZero [i.s1, i.s2, i.s3, i.fa, i.fb, i.rnd, i.mod, i.imm]
  | 0x19 => ((isT i.dst && isT i.s1) || (isAcc i.dst && isAcc i.s1))
      && allZero [i.s2, i.s3, i.fa, i.fb, i.rnd, i.mod, i.imm]
  | 0x20 => isT i.dst && isAcc i.s1 && (isNo i.s2 || (isS i.s2 && i.fmtA.takesMult)) && allZero [i.s3, i.fb]
      && i.fmtA != .fp32 && within i.mod i.fmtA.halfMask && within i.imm 0x3F
      && decide (i.rows ≤ i.fmtA.tileRows false)
  | 0x21 => isAcc i.dst && isT i.s1 && allZero [i.s2, i.s3, i.fa, i.rnd] && i.fmtB != .fp32
      && within i.mod i.fmtB.halfMask && within i.imm 0x3F && decide (i.rows ≤ i.fmtB.tileRows false)
  | 0x30 => i.vecOk 2 5
  | 0x31 => i.vecOk 3 2
  | 0x32 => i.vecOk 1 7
  | 0x33 => i.vecOk 1 3
  | 0x34 => i.vecOk 3 7
  | 0x35 => isAcc i.dst && isAcc i.s1 && allZero [i.s2, i.s3, i.fa, i.fb, i.rnd, i.mod] && within i.imm 0xF003F
  | 0x40 => isAcc i.dst && isAcc i.s1 && allZero [i.s2, i.s3, i.fa, i.fb, i.rnd] && within i.mod 0x17
      && decide (bits i.mod 0 3 ≤ 5) && within i.imm 0x3F3F
  | 0x48 => isT i.dst && opIx i.dst % 2 == 0 && isAcc i.s1 && isAcc i.s2 && isS i.s3 && i.fb == 0
      && (i.fmtA.width == 8 || i.fmtA.width == 4) && within i.mod 3 && within i.imm (smxImm i.mod)
  | 0x49 => isAcc i.dst && allZero [i.s1, i.s2, i.s3, i.fa, i.fb, i.rnd, i.mod] && within i.imm 0x3F
  | 0x50 => isAR i.s1 && isS i.s2 && allZero [i.dst, i.s3, i.fa, i.fb, i.rnd, i.imm] && decide (i.mod < 3)
  | 0x51 => allZero [i.dst, i.s1, i.s2, i.s3, i.fa, i.fb, i.rnd, i.imm] && within i.mod 0x1C00 && i.scopeOk
  | 0x52 => isS i.s3 && isAR i.s1 && (isS i.s2 || isNo i.s2) && allZero [i.dst, i.fa, i.fb, i.rnd]
      && within i.mod 0x1C01 && i.scopeOk && i.wordImm 0
  | 0x53 => isS i.dst && isAR i.s1 && (isS i.s2 || isNo i.s2) && allZero [i.s3, i.fa, i.fb, i.rnd]
      && within i.mod 0x1C01 && i.scopeOk && i.wordImm 0
  | 0x58 => (isS i.dst || isNo i.dst) && isAR i.s1 && (isS i.s2 || isNo i.s2) && isS i.s3
      && allZero [i.fa, i.fb, i.rnd] && within i.mod 0x1C0F && decide (bits i.mod 0 4 ≤ 8) && i.scopeOk
      && i.wordImm 0 && i.space != 0
  | 0x59 => (isS i.dst || isNo i.dst) && isAR i.s1 && (isS i.s2 || isNo i.s2) && isS i.s3
      && allZero [i.fa, i.fb, i.rnd] && within i.mod 0x1C00 && i.scopeOk
      && i.wordImm 0xFF && i.space != 0 && isS (bits i.imm 32 8)
  | 0x60 => isS i.dst && isS i.s1 && allZero [i.s3, i.fa, i.fb, i.rnd] && within i.mod 0x5F
      && decide (bits i.mod 0 5 ≤ 15)
      && (if bits i.mod 0 5 = 15 then i.mod == 15 && i.s2 == 0 && i.imm == 0
          else if bit i.mod 6 then i.s2 == 0 else isS i.s2 && i.imm == 0)
  | 0x61 => isS i.dst && allZero [i.s1, i.s2, i.s3, i.fa, i.fb, i.rnd, i.mod]
  | 0x62 => isAR i.dst && (isAR i.s1 || isNo i.s1) && (isS i.s2 || isNo i.s2)
      && allZero [i.s3, i.fa, i.fb, i.rnd, i.mod] && decide (i.imm < 2 ^ 48)
  | 0x63 => allZero [i.s2, i.s3, i.fa, i.fb, i.rnd] &&
      (match i.mod with
       | 0 => isS i.dst && i.s1 == 0 && decide (i.imm ≤ 6)
       | 1 => isS i.s1 && i.dst == 0 && i.imm == 3
       | _ => false)
  | 0x70 => isS i.s1 && isS i.s2 && allZero [i.dst, i.s3, i.fa, i.fb, i.rnd] && decide (i.mod ≤ 6)
      && decide (i.imm < 2 ^ 16)
  | 0x71 => (isNo i.s1 || (isS i.s1 && bits i.imm 0 32 == 0)) && allZero [i.dst, i.s2, i.s3, i.fa, i.fb, i.rnd, i.mod]
      && decide (i.imm < 2 ^ 44) && decide (1 ≤ bits i.imm 32 12) && decide (bits i.imm 32 12 ≤ 2047)
  | 0x78 => isAR i.s1 && isS i.s2 && allZero [i.s3, i.fa, i.fb, i.rnd] && i.scopeOk &&
      (if bit i.mod 0 then isS i.dst && within i.mod 0x1C07 && i.wordImm 0xFFFFFFFF && i.space != 0
       else i.dst == 0 && within i.mod 0x1C00 && i.wordImm 0)
  | 0x79 => allZero [i.dst, i.s1, i.s2, i.s3, i.fa, i.fb, i.rnd] && within i.mod 0x1C00 && i.scopeOk
      && decide (i.imm < 16)
  | 0xFF => allZero [i.dst, i.s1, i.s2, i.s3, i.fa, i.fb, i.rnd, i.mod, i.imm]
  | _ => false)

/-! The register files (R57, R58). -/

/-- A scalar register by its operand byte; S0 and no register read zero. -/
def Core.s (k : Core) (b : Nat) : W64 := if isS b then SMap.get (fun _ => 0) k.sregs (opIx b) else 0

/-- R58: a write to S0 is discarded, as is one to no register. -/
def Core.setS (k : Core) (b : Nat) (v : W64) : Core :=
  if isS b ∧ opIx b ≠ 0 then { k with sregs := SMap.set (fun _ => 0) k.sregs (opIx b) v } else k

/-- An address register by its operand byte; no register reads zero. -/
def Core.ar (k : Core) (b : Nat) : W48 := if isAR b then SMap.get (fun _ => 0) k.aregs (opIx b) else 0
def Core.setAR (k : Core) (b : Nat) (v : W48) : Core :=
  if isAR b then { k with aregs := SMap.set (fun _ => 0) k.aregs (opIx b) v } else k

/-- The FP32 value in a scalar register's bits [31:0]. -/
def Core.f (k : Core) (b : Nat) : W32 := (k.s b).setWidth 32

/-! Accumulators (R57). -/

def Core.accGet (k : Core) (n r c : Nat) : W32 := SMap.get (fun _ => 0) k.acc (4096 * n + 64 * r + c)
def Core.accSet (k : Core) (n r c : Nat) (v : W32) : Core :=
  { k with acc := SMap.set (fun _ => 0) k.acc (4096 * n + 64 * r + c) v }
def Core.accRow (k : Core) (n r : Nat) : List W32 := (List.range 64).map (k.accGet n r)
/-- Write values into a row from column c on. -/
def Core.accPut (k : Core) (n r c : Nat) : List W32 → Core
  | [] => k
  | v :: vs => (k.accSet n r c v).accPut n r (c + 1) vs

/-- A row maximum; an unlisted one is −infinity, as after ZERO (R77). -/
def Core.maxGet (k : Core) (n r : Nat) : W32 := SMap.get (fun _ => f32ninf) k.rowMax (64 * n + r)
def Core.maxSet (k : Core) (n r : Nat) (v : W32) : Core :=
  { k with rowMax := SMap.set (fun _ => f32ninf) k.rowMax (64 * n + r) v }
def Core.sumGet (k : Core) (n r : Nat) : W32 := SMap.get (fun _ => 0) k.rowSum (64 * n + r)
def Core.sumSet (k : Core) (n r : Nat) (v : W32) : Core :=
  { k with rowSum := SMap.set (fun _ => 0) k.rowSum (64 * n + r) v }

/-! Tiles (R60, R605). -/

/-- Byte b of tile n: its element bytes, then its scale store from 2048. -/
def Core.tileByte (k : Core) (n b : Nat) : Nat := (Bytes.get k.tiles (4096 * n + b)).toNat

/-- Bytes of an element row in a format's width class (R60). -/
def Fmt.elemRow (f : Fmt) : Nat := if f.width == 16 then 64 else 32
/-- Elements of a tile row (R60). -/
def Fmt.cols (f : Fmt) : Nat := if f.width == 4 then 64 else 32

/-- The code of element c of row r (R30, R60). -/
def Core.tileCode (k : Core) (f : Fmt) (n r c : Nat) : Nat :=
  if f.width == 16 then k.tileByte n (64 * r + 2 * c) + 256 * k.tileByte n (64 * r + 2 * c + 1)
  else if f.width == 4 then bits (k.tileByte n (32 * r + c / 2)) (4 * (c % 2)) 4
  else k.tileByte n (32 * r + c)

/-- The scale bytes of row r. -/
def Core.tileScales (k : Core) (n r : Nat) : List Nat := (List.range 3).map (fun i => k.tileByte n (2048 + 3 * r + i))

/-- R605: the values of a row, decoded in a format as the bytes stand. -/
def Core.tileRow (k : Core) (f : Fmt) (n r : Nat) : List Num :=
  let sc := k.tileScales n r
  (List.range f.cols).map (fun c => f.value sc c (k.tileCode f n r c))

/-- Pairs of nibbles as bytes (R30). -/
def packNibbles : List Nat → List Nat
  | [] => []
  | [a] => [a % 16]
  | a :: b :: xs => (a % 16 + 16 * (b % 16)) :: packNibbles xs

/-- The element bytes of a row of codes. -/
def Fmt.packCodes (f : Fmt) (codes : List Nat) : List Byte :=
  if f.width == 16 then codes.flatMap (fun c => leBytes 2 c)
  else if f.width == 4 then (packNibbles codes).map (BitVec.ofNat 8)
  else codes.map (BitVec.ofNat 8)

/-- Write a row's element bytes and scale bytes; the scale bytes a format does not use become zero (R60). -/
def Core.putTileRow (k : Core) (f : Fmt) (n r : Nat) (elems : List Byte) (scales : List Byte) : Core :=
  let t := Bytes.write k.tiles (4096 * n + f.elemRow * r) (elems.take f.elemRow)
  { k with tiles := Bytes.write t (4096 * n + 2048 + 3 * r) ((scales ++ [0, 0, 0]).take 3) }

/-- R32, R34, R60, R83: a memory row split into the element bytes and scale bytes a tile holds. -/
def Fmt.split (f : Fmt) (row : List Byte) : List Byte × List Byte :=
  match f with
  | .mxfp4 => (row.take 16 ++ (row.drop 17).take 16, (row.drop 16).take 1 ++ (row.drop 33).take 1)
  | .ns4 => (row.take 32, (row.drop 32).take 3)
  | .mxfp8e4 | .mxfp8e5 | .mxint8 => (row.take 32, (row.drop 32).take 1)
  | .mxfp6e3 | .mxfp6e2 =>
    let v := leNat (row.take 24)
    ((List.range 32).map (fun i => BitVec.ofNat 8 (bits v (6 * i) 6)), (row.drop 24).take 1)
  | _ => (row, [])

/-- The memory row of a tile row's element bytes and scale bytes. -/
def Fmt.join (f : Fmt) (e sc : List Byte) : List Byte :=
  match f with
  | .mxfp4 => e.take 16 ++ sc.take 1 ++ (e.drop 16).take 16 ++ (sc.drop 1).take 1
  | .ns4 => e.take 32 ++ sc.take 3
  | .mxfp8e4 | .mxfp8e5 | .mxint8 => e.take 32 ++ sc.take 1
  | .mxfp6e3 | .mxfp6e2 =>
    leBytes 24 ((e.zip (List.range 32)).foldl (fun v p => v + p.1.toNat % 64 * 2 ^ (6 * p.2)) 0) ++ sc.take 1
  | f => e.take f.rowBytes

/-- The memory row of tile n's row r. -/
def Core.memRow (k : Core) (f : Fmt) (n r : Nat) : List Byte :=
  f.join (Bytes.read k.tiles (4096 * n + f.elemRow * r) f.elemRow)
    (Bytes.read k.tiles (4096 * n + 2048 + 3 * r) 3)

/-- Bytes of an element that TRANS moves (R84). -/
def Fmt.elemBytes (f : Fmt) : Nat := if f.width == 16 then 2 else 1

/-- R84: the memory row that holds tile column c. -/
def Core.memCol (k : Core) (f : Fmt) (n c : Nat) : List Byte :=
  (List.range (f.tileRows false)).flatMap (fun r =>
    Bytes.read k.tiles (4096 * n + f.elemRow * r + f.elemBytes * c) f.elemBytes)

/-- R60, R83: load memory row data into row r. -/
def Core.loadRow (k : Core) (f : Fmt) (n r : Nat) (row : List Byte) : Core :=
  let p := f.split row
  k.putTileRow f n r p.1 p.2

/-- Write a byte string into consecutive elements of column c of a tile. -/
def Core.putCol (f : Fmt) (n c : Nat) : Core → Nat → List Byte → Nat → Core
  | k, _, _, 0 => k
  | k, r, bs, fuel + 1 =>
    if bs.isEmpty then k else
    let t := Bytes.write k.tiles (4096 * n + f.elemRow * r + f.elemBytes * c) (bs.take f.elemBytes)
    let t := Bytes.write t (4096 * n + 2048 + 3 * r) [0, 0, 0]
    Core.putCol f n c { k with tiles := t } (r + 1) (bs.drop f.elemBytes) fuel

/-- R84: load memory row c into column c; the scale bytes of the rows loaded become zero (R60). -/
def Core.loadCol (k : Core) (f : Fmt) (n c : Nat) (row : List Byte) : Core :=
  Core.putCol f n c k 0 row (f.tileRows false)

/-- The FP32 bytes of accumulator row r. -/
def Core.accMemRow (k : Core) (n r : Nat) : List Byte := (k.accRow n r).flatMap (fun x => leBytes 4 x.toNat)
def Core.loadAccRow (k : Core) (n r : Nat) (row : List Byte) : Core :=
  k.accPut n r 0 ((List.range 64).map (fun c => BitVec.ofNat 32 (leNat ((row.drop (4 * c)).take 4))))

/-! The scratchpad (R57, R59). -/

def spadBytes : Nat := 0x40000
/-- The FP32 value at a scratchpad offset. -/
def Core.spadF (k : Core) (off : Nat) : W32 := BitVec.ofNat 32 (Bytes.le k.spad off 4)

/-- What an instruction's own effect on its core comes to: the core after it, or a fault with its code and
DETAIL (R107, R108). -/
inductive CoreRes where
  | ok (k : Core)
  | fault (code detail : Nat)
deriving DecidableEq, Repr

/-- The fault codes of R107. -/
def fIllegal : Nat := 1
def fSpad : Nat := 2
def fStation : Nat := 3
def fLoop : Nat := 4
def fPc : Nat := 5
def fMisaligned : Nat := 6
def fEcc : Nat := 7

/-- SPAD_RANGE where one of the n-byte scratchpad words at base, base + step, … reaches beyond 256 KiB; DETAIL is
the offset of the first that does (R107, R108). -/
def needSpad (base step n count : Nat) (r : CoreRes) : CoreRes :=
  match (List.range count).find? (fun i => decide (spadBytes < base + step * i + n)) with
  | some i => .fault fSpad ((base + step * i) % 2 ^ 32)
  | none => r

end Sys2Proof.Machine
end

