-- ==== Sys2Proof/Machine/Flags.lean ====
section
/-! DEFINITION. The conditions instructions and units test: branch conditions (R99), poll conditions (R95), the
comparisons of VSEL (R73). -/
namespace Sys2Proof.Machine

/-- R99: BR's condition. -/
def brCond (c : Nat) (a b : W64) : Bool :=
  match c with
  | 0 => true
  | 1 => a == b
  | 2 => a != b
  | 3 => a.slt b
  | 4 => !(a.slt b)
  | 5 => a.ult b
  | _ => !(a.ult b)

/-- R95: the condition of a polling WAITR on the word read. -/
def pollCond (c : Nat) (v b : W64) : Bool :=
  match c with
  | 0 => v == b
  | 1 => v != b
  | 2 => !(v.ult b)
  | _ => !(v.slt b)

/-- An FP32 sum whose order the spec leaves open (R56; DESIGN CHOICE, log 25): in each step two terms, freely picked, give way to
their sum. -/
def freeSum (nonce : Nat) (xs : List W32) : W32 :=
  let rec go : Nat → List W32 → W32
    | 0, xs => xs.headD 0
    | n + 1, xs =>
      match xs with
      | [] => 0
      | [x] => x
      | xs =>
        let i := Config.sumPick nonce (2 * n) % xs.length
        let x := xs.getD i 0
        let xs := xs.eraseIdx i
        let j := Config.sumPick nonce (2 * n + 1) % xs.length
        go n (xs.eraseIdx j ++ [fadd x (xs.getD j 0)])
  go xs.length xs

/-- The sign of an FP32 value against zero: a NaN has none. -/
def fSign (x : W32) : Option Int :=
  match f32dec x with
  | .nan => none
  | .inf neg => some (if neg then -1 else 1)
  | .fin neg m _ => some (if m = 0 then 0 else if neg then -1 else 1)

/-- R73: VSEL's comparison of a with zero; a NaN is unequal to zero and in no order with it (IEEE 754). -/
def selCond (op : Nat) (x : W32) : Bool :=
  match op, fSign x with
  | 6, n => n.isNone
  | 3, none => true
  | _, none => false
  | 0, some n => decide (n < 0)
  | 1, some n => decide (n ≤ 0)
  | 2, some n => decide (n = 0)
  | 3, some n => decide (n ≠ 0)
  | 4, some n => decide (0 < n)
  | _, some n => decide (0 ≤ n)

end Sys2Proof.Machine
end

