-- ==== Sys2Proof/Machine/SageOps.lean ====
section
/-! DEFINITION. What the matrix unit, the vector unit and the sequencer of a Sage core compute (spec R66-R81,
R97-R100): pure effects on the core's own state. -/
namespace Sys2Proof.Machine

/-! Matrix instructions (R66-R69). -/

/-- R52, R53: the previous value and all products added exactly, rounded once. -/
def dot (prev : W32) (a b : List Num) : W32 :=
  f32enc (.sum (f32dec prev :: (a.zip b).map (fun p => p.1.mul p.2)))

/-- Rows of products against B's rows, into an accumulator from row r0 and column c0. -/
def mmRows (acc r0 c0 : Nat) (zacc : Bool) (b : List (List Num)) : List (List Num) → Nat → Core → Core
  | [], _, k => k
  | a :: as, r, k =>
    let vals := (b.zip (List.range b.length)).map (fun p =>
      dot (if zacc then 0 else k.accGet acc (r0 + r) (c0 + p.2)) a p.1)
    mmRows acc r0 c0 zacc b as (r + 1) (k.accPut acc (r0 + r) c0 vals)

/-- R66, R68. -/
def opMma (i : Insn) (k : Core) : CoreRes :=
  let f := i.fmtA
  let half := f.width == 16
  let b := (List.range (if half then 32 else 64)).map (k.tileRow i.fmtB (opIx i.s2))
  let a := (List.range i.rows).map (k.tileRow f (opIx i.s1))
  .ok (mmRows (opIx i.dst) (if half then 32 * bits i.mod 1 1 else 0) (if half then 32 * bits i.mod 2 1 else 0)
    (bit i.mod 0) b a 0 k)

/-- R67, R68. -/
def opMmax (i : Insn) (k : Core) : CoreRes :=
  let b := (List.range 64).map (k.tileRow i.fmtB (opIx i.s2))
  let a := (List.range i.rows).map (fun r =>
    k.tileRow i.fmtA (opIx i.s1) r ++ k.tileRow i.fmtA (opIx i.s1 + 1) r)
  .ok (mmRows (opIx i.dst) 0 0 (bit i.mod 0) b a 0 k)

/-! ZERO and TMOV (R77). -/

/-- Clear a register of 4096 keys in a byte or word map. -/
def clearReg {α : Type} (n : Nat) (m : SMap α) : SMap α := SMap.clear (fun e => e / 4096 == n) m

/-- Copy the keys of register `src` of a map with `size` keys per register to register `dst`. -/
def copyReg {α : Type} (size dst src : Nat) (m : SMap α) : SMap α :=
  let rest := m.filter (fun e => e.1 / size != dst)
  let moved := (m.filter (fun e => e.1 / size == src)).map (fun e => (e.1 % size + size * dst, e.2))
  rest.filter (fun e => decide (e.1 / size < dst)) ++ moved ++ rest.filter (fun e => decide (dst < e.1 / size))

/-- R77. -/
def opZero (i : Insn) (k : Core) : CoreRes :=
  let n := opIx i.dst
  if isT i.dst then .ok { k with tiles := clearReg n k.tiles }
  else .ok { k with acc := clearReg n k.acc
                    rowMax := SMap.clear (fun e => e / 64 == n) k.rowMax
                    rowSum := SMap.clear (fun e => e / 64 == n) k.rowSum }

/-- R77. -/
def opTmov (i : Insn) (k : Core) : CoreRes :=
  let d := opIx i.dst
  let n := opIx i.s1
  if d = n then .ok k
  else if isT i.dst then .ok { k with tiles := copyReg 4096 d n k.tiles }
  else .ok { k with acc := copyReg 4096 d n k.acc, rowMax := copyReg 64 d n k.rowMax, rowSum := copyReg 64 d n k.rowSum }

/-! Conversions (R70, R71). -/

/-- The first accumulator row and column that a tile of a format stands for. -/
def halfRow (f : Fmt) (mod : Nat) : Nat := if f.width == 16 then 32 * bits mod 1 1 else 0
def halfCol (f : Fmt) (mod : Nat) : Nat := if f.width == 4 then 0 else 32 * bits mod 2 1

/-- R46: the source values, times the multiplier where there is one. -/
def withMult (m : Option Num) (xs : List Num) : List Num :=
  match m with
  | some s => xs.map (fun x => x.mul s)
  | none => xs

/-- Convert rows of values into a tile, each element with its rounding in row-major order (R43). -/
def convertRows (f : Fmt) (n : Nat) : List (List Num) → Nat → List Rnd → Core → Core
  | [], _, _, k => k
  | xs :: rest, r, rs, k =>
    let blk := convertRow f (rs.take xs.length) xs
    convertRows f n rest (r + 1) (rs.drop xs.length)
      (k.putTileRow f n r (f.packCodes blk.codes) (blk.scales.map (BitVec.ofNat 8)))

/-- R70, R43, R46. -/
def opCvt (i : Insn) (k : Core) : CoreRes :=
  let f := i.fmtA
  let m := if isNo i.s2 then none else some (f32dec (k.f i.s2))
  let rows := (List.range i.rows).map (fun r =>
    withMult m (((k.accRow (opIx i.s1) (halfRow f i.mod + r)).drop (halfCol f i.mod)).take f.cols |>.map f32dec))
  let g := roundings (i.rnd == 1) k.lanes (i.rows * f.cols)
  .ok (convertRows f (opIx i.dst) rows 0 g.2 { k with lanes := g.1 })

/-- Write rows of FP32 values into an accumulator. -/
def putRows (n r0 c0 : Nat) : List (List W32) → Nat → Core → Core
  | [], _, k => k
  | xs :: rest, r, k => putRows n r0 c0 rest (r + 1) (k.accPut n (r0 + r) c0 xs)

/-- R71, R39. -/
def opDq (i : Insn) (k : Core) : CoreRes :=
  let f := i.fmtB
  let rows := (List.range i.rows).map (fun r => (k.tileRow f (opIx i.s1) r).map f32enc)
  .ok (putRows (opIx i.dst) (halfRow f i.mod) (halfCol f i.mod) rows 0 k)

/-! Elementwise instructions (R72-R75). -/

/-- R72: the vector offset AR[IMM[19:16]]. -/
def vecBase (i : Insn) (k : Core) : Nat := (k.ar (32 + bits i.imm 16 4)).toNat

/-- R72: the 64 values of operand b or c for row r. -/
def vecOperand (i : Insn) (k : Core) (b r : Nat) : List W32 :=
  match bits i.mod 8 2 with
  | 0 => k.accRow (opIx b) r
  | 1 => List.replicate 64 (k.f b)
  | 2 => List.replicate 64 (k.accGet (opIx b) r (bits i.imm 8 6))
  | _ => (List.range 64).map (fun c => k.spadF (vecBase i k + 4 * c))

/-- Row by row: operands of a row are read before the row is written. -/
def vecRows (i : Insn) (fn : W32 → W32 → W32 → W32) : Nat → Nat → Core → Core
  | 0, _, k => k
  | n + 1, r, k =>
    let a := k.accRow (opIx i.s1) r
    let b := vecOperand i k i.s2 r
    let c := vecOperand i k i.s3 r
    vecRows i fn n (r + 1) (k.accPut (opIx i.dst) r 0 (((a.zip b).zip c).map (fun p => fn p.1.1 p.1.2 p.2)))

/-- An elementwise instruction with a second operand: its vector must lie in the scratchpad (R107). -/
def vecRun (i : Insn) (k : Core) (fn : W32 → W32 → W32 → W32) : CoreRes :=
  let r : CoreRes := .ok (vecRows i fn i.rows 0 k)
  if bits i.mod 8 2 = 3 then needSpad (vecBase i k) 256 256 1 r else r

/-- R73: VOP. -/
def opVop (i : Insn) (k : Core) : CoreRes :=
  vecRun i k (fun a b _ => match bits i.mod 0 6 with
    | 0 => fadd a b | 1 => fsub a b | 2 => fmul a b | 3 => fmax a b | _ => fmin a b)
/-- R73: VFMA. -/
def opVfma (i : Insn) (k : Core) : CoreRes :=
  vecRun i k (fun a b c => if bits i.mod 0 6 = 0 then ffma a b c else ffnma a b c)
/-- R73, R74: the unary functions of VUN. -/
def unary (op : Nat) (a : W32) : W32 :=
  match op with
  | 0 => fabs a | 1 => fneg a | 2 => fexp2 a | 3 => frcp a | 4 => frsqrt a | 5 => fsqrt a | _ => flog2 a
/-- R73: VUN. -/
def opVun (i : Insn) (k : Core) : CoreRes := vecRun i k (fun a _ _ => unary (bits i.mod 0 6) a)
/-- R73: VACT. -/
def opVact (i : Insn) (k : Core) : CoreRes := vecRun i k (fun a _ _ => fvact (bits i.mod 0 6) a)
/-- R73: VSEL.  It selects b or c as it stands: a NaN operand is passed on, not produced, and keeps its bits (DESIGN
CHOICE, log 115). -/
def opVsel (i : Insn) (k : Core) : CoreRes :=
  vecRun i k (fun a b c => if selCond (bits i.mod 0 6) a then b else c)

/-- R75: one element pair rotated. -/
def rotPair (x y c s : W32) : List W32 :=
  let t := fmul y s
  let u := fmul y c
  [f32enc (.sum [(f32dec x).mul (f32dec c), (f32dec t).negate]), ffma x s u]

def rotRow (k : Core) (base : Nat) (xs : List W32) : List W32 :=
  (List.range 32).flatMap (fun j =>
    rotPair (xs.getD (2 * j) 0) (xs.getD (2 * j + 1) 0) (k.spadF (base + 8 * j)) (k.spadF (base + 8 * j + 4)))

/-- R75. -/
def rotRows (i : Insn) : Nat → Nat → Core → Core
  | 0, _, k => k
  | n + 1, r, k =>
    rotRows i n (r + 1) (k.accPut (opIx i.dst) r 0 (rotRow k (vecBase i k + 256 * r) (k.accRow (opIx i.s1) r)))

/-- R75. -/
def opVrot (i : Insn) (k : Core) : CoreRes :=
  needSpad (vecBase i k) 256 256 i.rows (.ok (rotRows i i.rows 0 k))

/-! Reductions (R76). -/

/-- One level of the pairwise tree; an odd last element passes up unpaired. -/
def treeLevel : List W32 → List W32
  | a :: b :: xs => fadd a b :: treeLevel xs
  | xs => xs

/-- R76: the fixed pairwise tree sum, on fuel. -/
def treeSum : Nat → List W32 → W32
  | 0, xs => xs.headD 0
  | n + 1, xs => treeSum n (treeLevel xs)

/-- R76: whether x outranks y for argmax: a NaN above any number, −0 below +0; equal ones do not. -/
def outranks (x y : W32) : Bool :=
  if fIsNan y then false else if fIsNan x then true else decide (fKey y < fKey x)

/-- R76: the index of the largest value, the lowest where several tie. -/
def argmax : List W32 → Nat → Nat → W32 → Nat
  | [], _, best, _ => best
  | x :: xs, j, best, v => if outranks x v then argmax xs (j + 1) j x else argmax xs (j + 1) best v

/-- R76; a NaN result is the canonical one (R45). -/
def reduce (op : Nat) (xs : List W32) : W32 :=
  canonNan <| match op with
  | 0 => treeSum 6 xs
  | 1 => treeSum 6 (xs.map (fun x => fmul x x))
  | 2 => (xs.drop 1).foldl fmax (xs.headD 0)
  | 3 => (xs.drop 1).foldl fmin (xs.headD 0)
  | 4 => ((xs.drop 1).map fabs).foldl fmax (fabs (xs.headD 0))
  | _ => f32enc (.ofInt (argmax (xs.drop 1) 1 0 (xs.headD 0)))

/-- R76. -/
def opRed (i : Insn) (k : Core) : CoreRes :=
  let op := bits i.mod 0 3
  let src := opIx i.s1
  let pos := bits i.imm 8 6
  if bit i.mod 4 then
    let res := (List.range 64).map (fun c => reduce op ((List.range i.rows).map (fun r => k.accGet src r c)))
    .ok (k.accPut (opIx i.dst) pos 0 res)
  else
    let res := (List.range i.rows).map (fun r => reduce op (k.accRow src r))
    .ok ((res.zip (List.range i.rows)).foldl (fun k p => k.accSet (opIx i.dst) p.2 pos p.1) k)

/-! Softmax (R78-R81). -/

/-- R79: whether score (r, j) is allowed.  In mode 3 too, d and w are read as signed (DESIGN CHOICE, log 116). -/
def smxAllowed (i : Insn) (k : Core) (r j : Nat) : Bool :=
  let d := signed 64 (k.s (bits i.imm 16 5)).toNat
  let w := signed 64 (k.s (bits i.imm 24 5)).toNat
  match bits i.mod 0 2 with
  | 0 => true
  | 1 => bit (Bytes.le k.spad ((k.ar (32 + bits i.imm 8 4)).toNat + 8 * r) 8) j
  | 2 => decide ((j : Int) ≤ r + d)
  | _ => decide ((r : Int) + d - w < j) && decide ((j : Int) ≤ r + d)

/-- R78, R80: one row: the new statistics and output row, and the probabilities. -/
def smxRow (i : Insn) (k : Core) (r : Nat) : Core × List W32 :=
  let o := opIx i.s2
  let sigma := k.f i.s3
  let xs := ((k.accRow (opIx i.s1) r).zip (List.range 64)).map (fun p =>
    let x := fmul p.1 sigma
    if smxAllowed i k r p.2 then x else f32ninf)
  let m := k.maxGet o r
  let mNew := xs.foldl fmax m
  let corr := if mNew = f32ninf then f32one else fexp2 (fsub m mNew)
  let ps := if mNew = f32ninf then List.replicate 64 0 else xs.map (fun x => fexp2 (fsub x mNew))
  let k := k.sumSet o r (ffma (k.sumGet o r) corr (treeSum 6 ps))
  let k := k.accPut o r 0 ((k.accRow o r).map (fun x => fmul x corr))
  (k.maxSet o r mNew, ps)

/-- R78: the rows in order; the row's draws run over its 64 keys across the tile pair (R43). -/
def smxRows (i : Insn) : Nat → Nat → List Rnd → Core → Core
  | 0, _, _, k => k
  | n + 1, r, rs, k =>
    let res := smxRow i k r
    let ps := res.2.map f32dec
    let f := i.fmtA
    let t := opIx i.dst
    let k := if f.width == 4 then convertRows f t [ps] r (rs.take 64) res.1
      else convertRows f (t + 1) [ps.drop 32] r ((rs.drop 32).take 32)
             (convertRows f t [ps.take 32] r (rs.take 32) res.1)
    smxRows i n (r + 1) (rs.drop 64) k

/-- R78-R80. -/
def opSmx (i : Insn) (k : Core) : CoreRes :=
  let g := roundings (i.rnd == 1) k.lanes (64 * i.rows)
  let r : CoreRes := .ok (smxRows i i.rows 0 g.2 { k with lanes := g.1 })
  if bits i.mod 0 2 = 1 then needSpad (k.ar (32 + bits i.imm 8 4)).toNat 8 8 i.rows r else r

/-- R81: one row. -/
def smxfRow (n : Nat) (k : Core) (r : Nat) : Core :=
  let l := k.sumGet n r
  let row := (k.accRow n r).map (fun x => if l = 0 then 0 else fdiv x l)
  ((k.accPut n r 0 row).maxSet n r f32ninf).sumSet n r 0

/-- R81. -/
def opSmxf (i : Insn) (k : Core) : CoreRes := .ok ((List.range i.rows).foldl (smxfRow (opIx i.dst)) k)

/-! Scalar and control instructions (R97-R100). -/

/-- FP32 results go to bits [31:0] (R97). -/
def fpResult (x : W32) : W64 := x.setWidth 64

/-- R97: SALU's operations. -/
def salu (op : Nat) (a b : W64) : W64 :=
  let sh := (b &&& 63).toNat
  match op with
  | 0 => a + b | 1 => a - b | 2 => a * b | 3 => a &&& b | 4 => a ||| b | 5 => a ^^^ b
  | 6 => a <<< sh | 7 => a >>> sh | 8 => a.sshiftRight sh
  | 9 => if a.slt b then a else b
  | 10 => if a.slt b then b else a
  | 11 => if a.slt b then 1 else 0
  | 12 => if a.ult b then 1 else 0
  | 13 => fpResult (fadd (a.setWidth 32) (b.setWidth 32))
  | 14 => fpResult (fmul (a.setWidth 32) (b.setWidth 32))
  | _ => fpResult (f32enc (.ofInt a.toInt))

/-- R97. -/
def opSalu (i : Insn) (k : Core) : CoreRes :=
  let b := if bit i.mod 6 then BitVec.ofNat 64 i.imm else k.s i.s2
  .ok (k.setS i.dst (salu (bits i.mod 0 5) (k.s i.s1) b))
/-- R97. -/
def opSmov (i : Insn) (k : Core) : CoreRes := .ok (k.setS i.dst (BitVec.ofNat 64 i.imm))
/-- R97. -/
def opAmov (i : Insn) (k : Core) : CoreRes :=
  .ok (k.setAR i.dst (k.ar i.s1 + (k.s i.s2).setWidth 48 + BitVec.ofNat 48 i.imm))

/-- R98: the value of a special register. -/
def special (k : Core) (core n : Nat) : W64 :=
  match n with
  | 0 => BitVec.ofNat 64 core
  | 1 => BitVec.ofNat 64 (core / 6)
  | 2 => BitVec.ofNat 64 k.cycles
  | 3 => k.seed
  | 4 => BitVec.ofNat 64 ((k.launch.map (·.rank)).getD 0)
  | 5 => BitVec.ofNat 64 ((k.launch.map (·.size)).getD 0)
  | _ => BitVec.ofNat 64 ((k.loops.head?.map (·.index)).getD 0)

/-- R98, R42. -/
def opMovsr (core : Nat) (i : Insn) (k : Core) : CoreRes :=
  if i.mod = 1 then .ok { k with seed := k.s i.s1, lanes := genSeed (k.s i.s1) }
  else .ok (k.setS i.dst (special k core i.imm))

/-- R100: the loops and the program counter after the next instruction index is reached in sequence; the loop
stack holds the innermost loop first.  Only the innermost loop's end is compared: where an inner body reaches past its
outer loop's end, the outer loop takes no back edge there (DESIGN CHOICE, log 113). -/
def seqPc : List Loop → Nat → List Loop × Nat
  | [], pc => ([], pc)
  | l :: ls, pc =>
    if pc = l.first + l.len then
      (if l.index + 1 < l.count then ({ l with index := l.index + 1 } :: ls, l.first) else seqPc ls pc)
    else (l :: ls, pc)

/-- R100: a taken branch ends every loop whose body does not contain the target, and all inside it. -/
def branchLoops (ls : List Loop) (t : Nat) : List Loop :=
  (ls.reverse.takeWhile (fun l => decide (l.first ≤ t) && decide (t < l.first + l.len))).reverse

end Sys2Proof.Machine
end

