-- ==== Sys2Proof/Machine/SageX.lean ====
section
/-! DEFINITION. The Sage core's commands (spec chapter 03; R263-R266, R280-R294, R299-R301): issue, one meaning per
opcode; the completion of accesses; launches and core states. -/
namespace Sys2Proof.Machine

/-! What a core's accesses carry. -/

/-- The tag and agent of a core's accesses (R111, R349, R515). -/
def coreWho (k : Core) (c : Nat) : Who :=
  ⟨(k.launch.map (·.part)).getD 0, (k.launch.map (·.sub)).getD 0, false, 1, c / 96, c % 96, false⟩

/-- R467, R469: the class of a core's requests. -/
def coreClass (s : State) (k : Core) : Nat := trafficClass s 4 ((k.launch.map (·.label)).getD 4)

/-- Drop and replace a core's table. -/
def setTable (s : State) (c : Nat) (t : List Entry) : State := setCore s c { getCore s c with table := t }

/-! Hazards (R105). -/

/-- The register operand byte an access in flight still has to write; none for S0 and no register. -/
def Entry.dest (e : Entry) : Option Nat :=
  match e.payload with
  | .tileLoad t _ _ _ => some (64 + t)
  | .accLoad a _ => some (96 + a)
  | .scalarLoad r _ _ => if r = 0 then none else some r
  | .atomic _ _ _ (some r) => if r = 0 ∨ r = 0xE0 then none else some r
  | .cas _ _ _ (some r) => if r = 0 ∨ r = 0xE0 then none else some r
  | _ => none

/-- The register operand bytes an instruction reads or writes. -/
def Insn.regs (i : Insn) : List Nat :=
  [i.dst, i.s1, i.s2, i.s3] ++
  (if i.opc = 0x11 then [i.s1 + 1] else []) ++
  (if i.opc = 0x48 then [i.dst + 1, bits i.imm 16 5, bits i.imm 24 5] else []) ++
  (if i.opc = 0x59 then [bits i.imm 32 8] else [])

/-- The scratchpad bytes that an instruction other than an access reads: a vector operand, a rotation table, a mask
(R72, R75, R79). -/
def Insn.spadReads (i : Insn) (k : Core) : Option (Nat × Nat) :=
  if i.opc = 0x35 then some (vecBase i k, 256 * i.rows)
  else if i.opc = 0x48 then
    (if bits i.mod 0 2 = 1 then some ((k.ar (32 + bits i.imm 8 4)).toNat, 8 * i.rows) else none)
  else if (i.opc = 0x30 ∨ i.opc = 0x31 ∨ i.opc = 0x34) ∧ bits i.mod 8 2 = 3 then some (vecBase i k, 256)
  else none

/-- R93, R94: an earlier store to the scratchpad still has to reach bytes that the instruction reads. -/
def spadBusy (k : Core) (i : Insn) : Bool :=
  match i.spadReads k with
  | some (a, n) => k.table.any (fun e => e.space == .spad && e.writes && decide (64 * e.lo < a + n) && decide (a < 64 * e.hi))
  | none => false

/-- R105: an earlier instruction still has to write a register that this one names, or scratchpad bytes that it reads. -/
def hazard (k : Core) (i : Insn) : Bool :=
  k.table.any (fun e => match e.dest with
    | some r => i.regs.contains r
    | none => false) || spadBusy k i

/-! Issue. -/

/-- The instruction a running core issues next, with its index: none where it does not issue now. -/
def nextInsn (s : State) (c : Nat) : Option (Core × Insn × Nat) :=
  let k := getCore s c
  let pc := fget s .SAGE_PC_PC c
  if coreState s c = stRunning ∧ k.wait = .none ∧ k.fencing = false ∧ stnPower s (coreStn c) = domOn ∧
      inReset s (coreStn c) = false then
    match k.code[pc]? with
    | some w =>
      let i := Insn.ofWord w
      if hazard k i then none else some (k, i, pc)
    | none => none
  else none

/-- R108: an instruction has issued. -/
def retire (s : State) (c : Nat) : State := finc s .SAGE_RETIRED_COUNT c

/-- R99, R107, R108: the core goes on at an index, or faults with PC_RANGE where the program has none. -/
def goTo (s : State) (c : Nat) (i : Insn) (pc : Nat) (ls : List Loop) (next : Nat) : State :=
  let k := getCore s c
  if next < k.code.length then fset (setCore s c { k with loops := ls }) .SAGE_PC_PC c next
  else faultCore s c fPc i.opc pc

/-- R100: the core goes on with the next instruction in sequence. -/
def goNext (s : State) (c : Nat) (i : Insn) (pc : Nat) : State :=
  let n := seqPc (getCore s c).loops (pc + 1)
  goTo s c i pc n.1 n.2

/-- What issuing an instruction comes to: the core waits; it faults; it goes on in sequence; or the effect has
set the program counter or the core's state itself. -/
inductive Issue where
  | hold
  | fault (code detail : Nat)
  | seq (s : State)
  | done (s : State)

/-- What the ECC of the core's stores finds as the instruction issues (R107, R108): a corrected error counts; an
uncorrectable one faults with STORE_ECC, its DETAIL a free value (DESIGN CHOICE, log 24). -/
def issueEcc (s : State) (c : Nat) (ecc : Ecc) (pc : Nat) (go : State → State) : State :=
  match ecc with
  | .clean => go s
  | .corrected => go (fsat s .SAGE_ECC_COUNT_CORRECTED c)
  | .uncorrectable =>
    let d := draw s
    storeEccFault (faultCore (retire d.2 c) c fEcc d.1.toNat pc) c

/-- Issue the next instruction of a core when its opcode is `op`: an illegal encoding faults (R64, R107). -/
def issue (op c : Nat) (ecc : Ecc) (s : State) (eff : State → Core → Insn → Nat → Issue) : Out :=
  match nextInsn s c with
  | none => .next s
  | some (k, i, pc) =>
    if i.opc ≠ op then .next s else
    .next (issueEcc s c ecc pc (fun s =>
      let r := retire s c
      if !i.legal then faultCore r c fIllegal i.opc pc else
      match eff r k i pc with
      | .hold => s
      | .fault code detail => faultCore r c code detail pc
      | .seq s => goNext s c i pc
      | .done s => s))

/-- An instruction whose effect is on the core's own state alone. -/
def issuePure (op c : Nat) (ecc : Ecc) (s : State) (f : Insn → Core → CoreRes) : Out :=
  issue op c ecc s (fun s k i _ =>
    match f i k with
    | .ok k => .seq (setCore s c k)
    | .fault code detail => .fault code detail)

/-! Memory operands (R82-R85, R88). -/

/-- R82, R88: AR[SRC1] plus the scalar SRC2, modulo 2^48. -/
def memBase (k : Core) (i : Insn) : Nat := (k.ar i.s1 + (k.s i.s2).setWidth 48).toNat

/-- R83: where the rows of a transfer start; addresses of SPACE 2 are taken modulo 2^48. -/
def rowAddrs (k : Core) (i : Insn) : List Int :=
  (List.range i.rows).map (fun (r : Nat) =>
    let a : Int := (memBase k i : Int) + (r : Int) * i.stride
    if i.space = 2 then (wrap 48 a : Int) else a)

/-- R107: the limit and fault code of a space. -/
def spaceLimit (space : Nat) : Option (Nat × Nat) :=
  match space with
  | 0 => some (spadBytes, fSpad)
  | 1 => some (0x800000, fStation)
  | _ => none

/-- R107: the first row of n bytes that leaves its space, as the fault it raises. -/
def rangeFault (space n : Nat) (addrs : List Int) : Option (Nat × Nat) :=
  match spaceLimit space with
  | none => none
  | some (lim, code) =>
    (addrs.find? (fun a => decide (a < 0) || decide ((lim : Int) < a + n))).map (fun a => (code, wrap 32 a))

/-- The place an access names: where SPACE 1 lies in device addresses, and the space it is tracked in. -/
def accessSpace (i : Insn) : Space :=
  if i.space = 0 then .spad else if i.remote then .remote i.dev else .device
def placeAddr (i : Insn) (c : Nat) (a : Int) : Nat :=
  if i.space = 1 then stnAddr (coreStn c) a.toNat else a.toNat

/-- R92: the least free slot of a core's table. -/
def freeSlot (k : Core) : Nat :=
  ((List.range 64).find? (fun n => !(k.table.any (fun e => e.slot == n)))).getD 0

/-! Own-order tracking (R92, R93, R105, R288-R291). -/

/-- Where an access goes, as own-order tracking compares it: a REMOTE access that names the own device is one to this
device (R94, R372). -/
def Space.at (own : Nat) (p : Space) : Space := if p = .remote own then .device else p

def Entry.overlaps (own : Nat) (e f : Entry) : Bool :=
  e.space.at own == f.space.at own && decide (e.lo < f.hi) && decide (f.lo < e.hi)

def Entry.isRemote (e : Entry) : Bool :=
  match e.space with
  | .remote _ => true
  | _ => false

/-- R282, R288, R290: the earlier accesses a release at a scope waits for. -/
def releaseWaits (scope : Nat) (e : Entry) : Bool := scope == 4 || !e.isRemote

/-- R93, R288-R291: whether an earlier entry holds a later one back; `own` is this device's number. -/
def blocks (own : Nat) (f e : Entry) : Bool :=
  (e.overlaps own f && (f.writes || e.writes)) ||
  (e.release && releaseWaits e.scope f) ||
  (f.acquire && releaseWaits f.scope e)

/-- The entries before a slot's entry in program order. -/
def earlier (t : List Entry) (slot : Nat) : List Entry := t.takeWhile (fun e => e.slot != slot)

/-- The accesses that wait in the load/store unit's queue: an earlier one holds each back (R105). -/
def queued (own : Nat) (t : List Entry) : Nat :=
  (t.filter (fun e => (earlier t e.slot).any (fun f => blocks own f e))).length

/-- R92, R105: the table has a free entry and the load/store unit's queue of 8 has room. -/
def tableRoom (own : Nat) (t : List Entry) : Bool := decide (t.length < 64) && decide (queued own t < 8)

/-- R92, R93, R105: an access enters the table, or issue stalls while the table or the unit's queue is full. -/
def enter (s : State) (k : Core) (c : Nat) (e : Entry) : Issue :=
  if !tableRoom (devNum s) k.table then .hold
  else .seq (setTable s c (k.table ++ [{ e with slot := freeSlot k }]))

/-- The table entry of an access to n-byte rows at addresses (R92): its range runs from the lowest to the highest
byte, outward to 64-byte lines. -/
def mkEntry (i : Insn) (c n : Nat) (addrs : List Int) (reads writes : Bool) (p : Payload) : Entry :=
  let as := addrs.map (placeAddr i c)
  { slot := 0, space := accessSpace i, ownStn := i.space == 1, lo := as.foldl min (as.headD 0) / 64,
    hi := (as.foldl max 0 + n + 63) / 64, reads := reads, writes := writes, release := false, acquire := false,
    scope := 0, nt := i.nt, stream := i.stream, rows := i.rows, stride := i.stride, payload := p, done := 0, sent := false,
    await := 0, got := [] }

/-- R267: a STREAM tile load acts on the Dill prefetcher of the slice of its base. -/
def declareStream (s : State) (k : Core) (c : Nat) (i : Insn) : State :=
  if i.stream && i.space == 2 && !i.remote then
    match sliceOfAddr (memBase k i) with
    | some sl => let w := coreWho k c; dillStream s w.part w.sub c sl i.rows i.stride (memBase k i)
    | none => s
  else s

/-- The bytes of a memory row that a tile transfer moves (R83, R84). -/
def Insn.rowLen (i : Insn) : Nat := if i.trans then 64 else i.fmtA.rowBytes

/-- A transfer of rows issues: range faults, then the table (R82, R92, R107). -/
def issueRows (s : State) (k : Core) (c : Nat) (i : Insn) (n : Nat) (load : Bool) (p : List Nat → Payload) : Issue :=
  let as := rowAddrs k i
  match rangeFault i.space n as with
  | some f => .fault f.1 f.2
  | none =>
    let e := mkEntry i c n as load (!load) (p (as.map (placeAddr i c)))
    enter (if load then declareStream s k c i else s) k c e

def execTld (c : CoreId) (ecc : Ecc) (s : State) : Out :=
  issue 0x01 c ecc s (fun s k i _ =>
    issueRows s k c i i.rowLen true (.tileLoad (opIx i.dst) i.fmtA i.trans))

/-- R82, R83: the rows' bytes are taken as the instruction issues. -/
def execTst (c : CoreId) (ecc : Ecc) (s : State) : Out :=
  issue 0x02 c ecc s (fun s k i _ =>
    issueRows s k c i i.rowLen false (fun as =>
      .store (as.zip ((List.range i.rows).map (fun r =>
        if i.trans then k.memCol i.fmtA (opIx i.s3) r else k.memRow i.fmtA (opIx i.s3) r)))))

def execAld (c : CoreId) (ecc : Ecc) (s : State) : Out :=
  issue 0x03 c ecc s (fun s k i _ => issueRows s k c i 256 true (.accLoad (opIx i.dst)))

def execAst (c : CoreId) (ecc : Ecc) (s : State) : Out :=
  issue 0x04 c ecc s (fun s k i _ =>
    issueRows s k c i 256 false (fun as => .store (as.zip ((List.range i.rows).map (k.accMemRow (opIx i.s3))))))

/-- R88: a word of n bytes: alignment and range faults, then the table. -/
def issueWord (s : State) (k : Core) (c : Nat) (i : Insn) (n : Nat) (reads writes release acquire : Bool)
    (p : Nat → Payload) : Issue :=
  let a := memBase k i
  if a % n ≠ 0 then .fault fMisaligned (a % 2 ^ 32) else
  match rangeFault i.space n [(a : Int)] with
  | some f => .fault f.1 f.2
  | none =>
    let e := mkEntry i c n [(a : Int)] reads writes (p (placeAddr i c a))
    enter s k c { e with release := release, acquire := acquire, scope := i.scope }

/-- R88: 64 bits, or 32 where MOD[0] is 1. -/
def Insn.wordBytes (i : Insn) : Nat := if bit i.mod 0 then 4 else 8

def execSld (c : CoreId) (ecc : Ecc) (s : State) : Out :=
  issue 0x05 c ecc s (fun s k i _ =>
    issueWord s k c i i.wordBytes true false false false (fun a => .scalarLoad i.dst a i.wordBytes))

/-- The store of a scalar's low bytes. -/
def scalarStore (k : Core) (i : Insn) (a : Nat) : Payload := .store [(a, leBytes i.wordBytes (k.s i.s3).toNat)]

def execSst (c : CoreId) (ecc : Ecc) (s : State) : Out :=
  issue 0x06 c ecc s (fun s k i _ => issueWord s k c i i.wordBytes false true false false (scalarStore k i))

/-- R288: a REL at core scope waits for nothing beyond R94. -/
def execRel (c : CoreId) (ecc : Ecc) (s : State) : Out :=
  issue 0x52 c ecc s (fun s k i _ => issueWord s k c i i.wordBytes false true (i.scope != 0) false (scalarStore k i))

/-- R289. -/
def execAcq (c : CoreId) (ecc : Ecc) (s : State) : Out :=
  issue 0x53 c ecc s (fun s k i _ =>
    issueWord s k c i i.wordBytes true false false true (fun a => .scalarLoad i.dst a i.wordBytes))

/-- The destination of an atomic; none where it is posted (R89). -/
def Insn.atomDst (i : Insn) : Option Nat := if isNo i.dst then none else some i.dst

/-- R89, R291. -/
def execAtom (c : CoreId) (ecc : Ecc) (s : State) : Out :=
  issue 0x58 c ecc s (fun s k i _ =>
    let op := bits i.mod 0 4
    issueWord s k c i (atomBytes op) true true (i.scope != 0) (i.scope != 0 && i.atomDst.isSome)
      (fun a => .atomic op a (k.s i.s3) i.atomDst))

/-- R89, R291. -/
def execCas (c : CoreId) (ecc : Ecc) (s : State) : Out :=
  issue 0x59 c ecc s (fun s k i _ =>
    issueWord s k c i 8 true true (i.scope != 0) (i.scope != 0 && i.atomDst.isSome)
      (fun a => .cas a (k.s i.s3) (k.s (bits i.imm 32 8)) i.atomDst))

/-- R604: the lines of the rows a TLD would read, those that pass the window check, into the station's cache. -/
def execPref (c : CoreId) (ecc : Ecc) (s : State) : Out :=
  issue 0x07 c ecc s (fun s k i _ =>
    let lines := ((rowAddrs k i).flatMap (fun a => (pieces a.toNat i.rowLen).map (fun p => p.addr / 64))).eraseDups
    .seq (lines.foldl (fun s l => scPrefetch s (coreWho k c) (coreStn c) l) (declareStream s k c i)))

/-- R90, R92.  Where the length is 0 at an address inside a line, rounding outward still names that line (DESIGN CHOICE,
log 112). -/
def execFlush (c : CoreId) (ecc : Ecc) (s : State) : Out :=
  issue 0x50 c ecc s (fun s k i _ =>
    let a := (k.ar i.s1).toNat
    let n := (k.s i.s2).toNat
    let e := mkEntry i c 0 [] true true (.flush i.mod)
    enter s k c { e with space := .device, ownStn := false, lo := a / 64, hi := (a + n + 63) / 64 })

/-! Ordering (R288-R291). -/

/-- R264, R289: an acquire at die scope or wider clears the clean lines of the core's station. -/
def acquireAt (s : State) (c scope : Nat) : State := if 2 ≤ scope then scClearClean s (coreStn c) else s

/-- R290: FENCE waits for the accesses its scope orders, then clears clean lines. -/
def execSageFence (c : CoreId) (ecc : Ecc) (s : State) : Out :=
  issue 0x51 c ecc s (fun s k i _ =>
    if k.table.any (releaseWaits i.scope) then .hold else .seq (acquireAt s c i.scope))

/-! The matrix, vector and scalar instructions. -/

def execSageNop (c : CoreId) (ecc : Ecc) (s : State) : Out := issuePure 0x00 c ecc s (fun _ k => .ok k)
def execMma (c : CoreId) (ecc : Ecc) (s : State) : Out := issuePure 0x10 c ecc s opMma
def execMmax (c : CoreId) (ecc : Ecc) (s : State) : Out := issuePure 0x11 c ecc s opMmax
def execZeroReg (c : CoreId) (ecc : Ecc) (s : State) : Out := issuePure 0x18 c ecc s opZero
def execTmov (c : CoreId) (ecc : Ecc) (s : State) : Out := issuePure 0x19 c ecc s opTmov
def execCvt (c : CoreId) (ecc : Ecc) (s : State) : Out := issuePure 0x20 c ecc s opCvt
def execDq (c : CoreId) (ecc : Ecc) (s : State) : Out := issuePure 0x21 c ecc s opDq
def execVop (c : CoreId) (ecc : Ecc) (s : State) : Out := issuePure 0x30 c ecc s opVop
def execVfma (c : CoreId) (ecc : Ecc) (s : State) : Out := issuePure 0x31 c ecc s opVfma
def execVun (c : CoreId) (ecc : Ecc) (s : State) : Out := issuePure 0x32 c ecc s opVun
def execVact (c : CoreId) (ecc : Ecc) (s : State) : Out := issuePure 0x33 c ecc s opVact
def execVsel (c : CoreId) (ecc : Ecc) (s : State) : Out := issuePure 0x34 c ecc s opVsel
def execVrot (c : CoreId) (ecc : Ecc) (s : State) : Out := issuePure 0x35 c ecc s opVrot
def execRed (c : CoreId) (ecc : Ecc) (s : State) : Out := issuePure 0x40 c ecc s opRed
def execSmx (c : CoreId) (ecc : Ecc) (s : State) : Out := issuePure 0x48 c ecc s opSmx
def execSmxf (c : CoreId) (ecc : Ecc) (s : State) : Out := issuePure 0x49 c ecc s opSmxf
def execSalu (c : CoreId) (ecc : Ecc) (s : State) : Out := issuePure 0x60 c ecc s opSalu
def execSmov (c : CoreId) (ecc : Ecc) (s : State) : Out := issuePure 0x61 c ecc s opSmov
def execAmov (c : CoreId) (ecc : Ecc) (s : State) : Out := issuePure 0x62 c ecc s opAmov
def execMovsr (c : CoreId) (ecc : Ecc) (s : State) : Out := issuePure 0x63 c ecc s (opMovsr c)

/-- R107: the next instruction is illegal, whatever its opcode. -/
def execIllegalOp (c : CoreId) (ecc : Ecc) (s : State) : Out :=
  match nextInsn s c with
  | none => .next s
  | some (_, i, pc) =>
    if i.legal then .next s
    else .next (issueEcc s c ecc pc (fun s => faultCore (retire s c) c fIllegal i.opc pc))

/-- R99. -/
def execBr (c : CoreId) (ecc : Ecc) (s : State) : Out :=
  issue 0x70 c ecc s (fun s k i pc =>
    if brCond (bits i.mod 0 3) (k.s i.s1) (k.s i.s2) then
      let t : Int := (pc : Int) + signed 16 i.imm
      if t < 0 then .fault fPc i.opc
      else .done (goTo s c i pc (branchLoops k.loops t.toNat) t.toNat)
    else .seq s)

/-- R100.  A count of zero skips the body without a fault even with four loops active, and a LOOP_DEPTH fault, which has
no offset or address, leaves DETAIL 0 (DESIGN CHOICE, log 113). -/
def execLoopOp (c : CoreId) (ecc : Ecc) (s : State) : Out :=
  issue 0x71 c ecc s (fun s k i pc =>
    let n := bits i.imm 32 12
    let count := if isNo i.s1 then bits i.imm 0 32 else (k.s i.s1).toNat
    if count = 0 then
      let r := seqPc k.loops (pc + 1 + n)
      .done (goTo s c i pc r.1 r.2)
    else if 4 ≤ k.loops.length then .fault fLoop 0
    else .done (goTo s c i pc (⟨pc + 1, n, count, 0⟩ :: k.loops) (pc + 1)))

/-- R101, R106: END stops issue. -/
def execEndProg (c : CoreId) (ecc : Ecc) (s : State) : Out :=
  issue 0xFF c ecc s (fun s _ _ _ => .done (setCoreState s c stEnding))

/-! Performing accesses (R92, R93, R284). -/

/-- An access of an entry passes through the station cache: not a REL, ACQ or atomic at die scope or wider (R285). -/
def Entry.cached (e : Entry) : Bool := !((e.release || e.acquire) && decide (2 ≤ e.scope))

/-- Bytes of a row that a tile load reads. -/
def loadLen (f : Fmt) (tr : Bool) : Nat := if tr then 64 else f.rowBytes

/-- The pieces an entry's payload reaches, for the check of R112 and R310. -/
def Payload.pieces : Payload → List Piece
  | .tileLoad _ f tr rows => rows.flatMap (fun a => Machine.pieces a (loadLen f tr))
  | .accLoad _ rows => rows.flatMap (fun a => Machine.pieces a 256)
  | .scalarLoad _ a n => Machine.pieces a n
  | .store chunks => chunks.flatMap (fun x => Machine.pieces x.1 x.2.length)
  | .atomic op a _ _ => Machine.pieces a (atomBytes op)
  | .cas a _ _ _ => Machine.pieces a 8
  | .flush _ => []

/-- The pieces of an entry that are not yet performed, and the bytes of those that are (R287). -/
def Entry.left (e : Entry) : List Piece := e.payload.pieces.drop e.done
def Entry.passed (e : Entry) : Nat := ((e.payload.pieces.take e.done).map (·.len)).foldl (· + ·) 0

/-- Read pieces of an entry in its space. -/
def entryRead (s : State) (c : Nat) (e : Entry) (ps : List Piece) : State × List Byte :=
  let k := getCore s c
  let w := coreWho k c
  match e.space with
  | .spad => (s, ps.flatMap (fun p => Bytes.read k.spad p.addr p.len))
  | .remote _ => (s, [])
  | .device =>
    if e.ownStn then
      let r := readPieces w none false e.nt e.stream (fun _ => true) ps s
      (r.1, r.2.1)
    else
      let chk := checkAccess s w .read ps
      let r := readPieces w (some (coreStn c)) e.cached e.nt e.stream chk.1 ps chk.2
      (r.1, r.2.1)

/-- Write bytes into pieces of an entry, in order. -/
def entryWrite (s : State) (c : Nat) (e : Entry) (ps : List Piece) (bs : List Byte) : State :=
  let k := getCore s c
  let w := coreWho k c
  match e.space with
  | .spad => setCore s c { k with spad := (ps.foldl (fun (x : Bytes × List Byte) p =>
      (Bytes.write x.1 p.addr (x.2.take p.len), x.2.drop p.len)) (k.spad, bs)).1 }
  | .remote _ => s
  | .device =>
    if e.ownStn then writePieces w none false e.nt (fun _ => true) ps bs s
    else
      let chk := checkAccess s w .write ps
      writePieces w (some (coreStn c)) e.cached e.nt chk.1 ps bs chk.2

/-- Split a byte string into rows of n bytes. -/
def splitRows (n : Nat) : Nat → List Byte → List (List Byte)
  | 0, _ => []
  | m + 1, bs => bs.take n :: splitRows n m (bs.drop n)

/-- The loaded bytes go to their register (R60, R82, R84, R88). -/
def applyLoad (s : State) (c : Nat) (p : Payload) (data : List Byte) : State :=
  let k := getCore s c
  match p with
  | .tileLoad t f tr rows =>
    setCore s c (((splitRows (loadLen f tr) rows.length data).zip (List.range rows.length)).foldl (fun k x =>
      if tr then k.loadCol f t x.2 x.1 else k.loadRow f t x.2 x.1) k)
  | .accLoad a rows =>
    setCore s c (((splitRows 256 rows.length data).zip (List.range rows.length)).foldl (fun k x =>
      k.loadAccRow a x.2 x.1) k)
  | .scalarLoad r _ _ => setCore s c (k.setS r (BitVec.ofNat 64 (leNat data)))
  | .atomic _ _ _ d | .cas _ _ _ d =>
    (match d with
     | some r => setCore s c (k.setS r (BitVec.ofNat 64 (leNat data)))
     | none => s)
  | _ => s

/-- What an atomic payload does at its home. -/
def Payload.atom : Payload → Option (Nat × AtomDo)
  | .atomic op a b _ => some (a, .op op b.toNat)
  | .cas a cmp swap _ => some (a, .cas cmp.toNat swap.toNat)
  | _ => none

/-- The bytes a store's payload holds, in the order of its pieces; none for a load. -/
def Payload.bytes : Payload → Option (List Byte)
  | .store chunks => some (chunks.flatMap (·.2))
  | _ => none

/-- An access on this device or in the scratchpad is performed (R284), what is left of it (R287). -/
def performLocal (s : State) (c : Nat) (e : Entry) : State :=
  let w := coreWho (getCore s c) c
  match e.payload with
  | .store chunks => entryWrite s c e e.left ((chunks.flatMap (·.2)).drop e.passed)
  | .flush mode => scFlush s (coreStn c) e.lo e.hi mode
  | p =>
    match p.atom with
    | some (a, x) =>
      let r := if e.ownStn then atomicAt s w a x else agentAtomic s w (some (coreStn c)) a x
      applyLoad r.1 c p (leBytes x.bytes r.2)
    | none =>
      let r := entryRead s c e e.left
      applyLoad r.1 c p (Bytes.read e.got 0 e.passed ++ r.2)

/-- Replace an entry of a core's table. -/
def putEntry (s : State) (c : Nat) (e : Entry) : State :=
  setTable s c ((getCore s c).table.map (fun f => if f.slot == e.slot then e else f))

/-- The next n lines of an access of several lines are performed before the rest (R287). -/
def performPart (s : State) (c : Nat) (e : Entry) (n : Nat) : State :=
  let ps := e.left.take n
  let e' := { e with done := e.done + n }
  match e.payload.bytes with
  | some bs => putEntry (entryWrite s c e ps (bs.drop e.passed)) c e'
  | none =>
    let r := entryRead s c e ps
    putEntry r.1 c { e' with got := Bytes.write e.got e.passed r.2 }

/-- An entry completes and leaves the table; an acquire clears clean lines (R92, R289). -/
def completeEntry (s : State) (c : Nat) (e : Entry) : State :=
  let s := setTable s c ((getCore s c).table.filter (fun f => f.slot != e.slot))
  if e.acquire then acquireAt s c e.scope else s

/-- The part of a store's bytes that a packet carries. -/
def chunkBytes (chunks : List (Nat × List Byte)) (p : Piece) : List Byte :=
  Bytes.read (chunks.foldl (fun m x => Bytes.write m x.1 x.2) []) p.addr p.len

/-- Send the request packets of an access; the entry then waits for as many answers. -/
def sendAll (s : State) (w : Who) (c : Nat) (e : Entry) (dev typ aop : Nat) (ps : List Piece)
    (payload : Piece → List Byte) : State :=
  let cls := coreClass s (getCore s c)
  let s := ps.foldl (fun s p => sendRequest s w c e.slot dev cls typ aop p (payload p)) s
  let s := putEntry s c { e with sent := true, await := ps.length }
  if ps.isEmpty then completeEntry (applyLoad s c e.payload []) c e else s

/-- A REMOTE access starts (R365, R372, R380, R485): to this device it is served at its home, checked again
there; outside the fabric it is answered as refused and raises an event; else its packets leave. -/
def startRemote (s : State) (c : Nat) (e : Entry) (dev : Nat) : State :=
  let w := coreWho (getCore s c) c
  let right := match e.payload with
    | .store _ => Right.write
    | .tileLoad .. | .accLoad .. | .scalarLoad .. => .read
    | _ => .atomic
  let ps := e.payload.pieces
  let chk := checkRemote s w right dev ps
  let s := chk.2
  let n := match e.payload with
    | .tileLoad _ f tr rows => loadLen f tr * rows.length
    | .accLoad _ rows => 256 * rows.length
    | .scalarLoad _ _ n => n
    | _ => 8
  let zeros := List.replicate n (0 : Byte)
  match peerKind s dev with
  | .outside =>
    completeEntry (applyLoad (destRefused s w chk.1 ps) c e.payload zeros) c e
  | .own =>
    let chk2 := checkAccess s w right (ps.filter chk.1)
    let ok := fun p => chk.1 p && chk2.1 p
    let st := some (coreStn c)
    let s := chk2.2
    (match e.payload with
     | .store chunks =>
       completeEntry (writePieces w st false e.nt ok ps (chunks.flatMap (·.2)) s) c e
     | p =>
       match p.atom with
       | some (a, x) =>
         let r := if ps.all ok then atomicAt (if cacheable a then scBypass s (coreStn c) (a / 64) else s) w a x else (s, 0)
         completeEntry (applyLoad r.1 c p (leBytes x.bytes r.2)) c e
       | none =>
         let r := readPieces w st false e.nt e.stream ok ps s
         completeEntry (applyLoad r.1 c p r.2.1) c e)
  | .peer =>
    match e.payload with
    | .store chunks => sendAll s w c e dev ptWrite 0 (chunkPieces chk.1 ps) (chunkBytes chunks)
    | .atomic op _ b _ =>
      if ps.all chk.1 then sendAll s w c e dev ptAtomic op ps (fun p => leBytes p.len b.toNat)
      else completeEntry (applyLoad s c e.payload zeros) c e
    | .cas _ cmp swap _ =>
      if ps.all chk.1 then
        sendAll s w c e dev ptAtomic 9 ps (fun _ => leBytes 8 cmp.toNat ++ leBytes 8 swap.toNat)
      else completeEntry (applyLoad s c e.payload zeros) c e
    | _ =>
      let out := chunkPieces chk.1 ps
      if out.isEmpty then completeEntry (applyLoad s c e.payload zeros) c e
      else sendAll s w c e dev ptRead 0 out (fun _ => [])

/-- Lines that a station's cache evicts of itself (R286). -/
def evictLines (s : State) (st : Nat) (lines : List Nat) : State := lines.foldl (fun s l => scBypass s st l) s

/-- R92, R284: an access of a core is performed, where R93 and the ordering rules let it start; its entry leaves.
The station cache evicts lines of itself beforehand (R286).  Of a transfer that has more than `how.lines` lines left, that
many are performed and the rest waits (R287); 0 stands for all. -/
def execSageAccessComplete (c : CoreId) (slot : Nat) (how : Carry) (s : State) : Out :=
  let s := evictLines s (coreStn c) how.evict
  let k := getCore s c
  match k.table.find? (fun e => e.slot == slot) with
  | none => .next s
  | some e =>
    if e.sent || (earlier k.table slot).any (fun f => blocks (devNum s) f e) || stnPower s (coreStn c) != domOn then .next s else
    let part := decide (0 < how.lines ∧ how.lines < e.left.length)
    match e.space with
    | .remote dev =>
      if dev = devNum s ∧ accessHeld s e.payload.pieces = true then .next s else .next (startRemote s c e dev)
    | .spad => if part then .next (performPart s c e how.lines) else .next (completeEntry (performLocal s c e) c e)
    | .device =>
      if !e.ownStn && accessHeld s e.payload.pieces then .next s
      else if part then .next (performPart s c e how.lines)
      else .next (completeEntry (performLocal s c e) c e)

/-! Waiting at an issued instruction (R95, R96, R108). -/

/-- The core issues an instruction it then waits at: the program counter goes on to the next instruction to issue. -/
def startWait (s : State) (c : Nat) (pc : Nat) (w : Bool → Wait) : State :=
  let k := getCore s c
  let n := seqPc k.loops (pc + 1)
  if n.2 < k.code.length then fset (setCore s c { k with loops := n.1, wait := w false }) .SAGE_PC_PC c n.2
  else setCore s c { k with wait := w true }

/-- The wait at instruction pc is over; a program that has no next instruction faults now (R107). -/
def waitOver (s : State) (c : Nat) (pc : Nat) (past : Bool) : State :=
  let k := getCore s c
  let s := setCore s c { k with wait := .none }
  if past then faultCore s c fPc (((k.code[pc]?).map (fun w => (Insn.ofWord w).opc)).getD 0) pc else s

/-! Polling (R95). -/

/-- The table entry that a polling read would have: it bypasses the cache and acquires (R95, R291). -/
def pollEntry (i : Insn) (k : Core) (c : Nat) : Entry :=
  { mkEntry i c 8 [((k.ar i.s1).toNat : Int)] true false (.scalarLoad 0 (placeAddr i c (k.ar i.s1).toNat) 8) with
    acquire := true, scope := i.scope }

/-- A polling read of the word at a device address; none where the access is held. -/
def pollRead (s : State) (c : Nat) (i : Insn) : Option (State × W64) :=
  let k := getCore s c
  let w := coreWho k c
  let a := placeAddr i c (k.ar i.s1).toNat
  let ps := pieces a 8
  if i.space = 1 then
    let r := readPieces w none false i.nt false (fun _ => true) ps s
    some (r.1, BitVec.ofNat 64 (leNat r.2.1))
  else if accessHeld s ps then none else
    let r := agentRead s w (some (coreStn c)) false i.nt false a 8
    some (r.1, BitVec.ofNat 64 (leNat r.2.1))

/-- The WAITR ends: its result and its acquire (R95, R291). -/
def pollEnd (s : State) (c : Nat) (i : Insn) (pc : Nat) (past timeout : Bool) : State :=
  let s := setCore s c ((getCore s c).setS i.dst (if timeout then 1 else 0))
  waitOver (acquireAt s c i.scope) c pc past

/-- The slot number under which a polling read's packet is known. -/
def pollSlot : Nat := 64

/-- The waiting WAITR reads its word once: it ends on success and otherwise waits on, the read counted from now.  An
earlier access of the core that R93 or an acquire puts before it keeps it from reading.  A REMOTE word is asked of the
peer, whose answer is compared when it comes. -/
def pollOnce (s : State) (c : Nat) (i : Insn) (start pc : Nat) (past : Bool) : State :=
  let k := getCore s c
  let w := coreWho k c
  let wait := fun (s : State) => setCore s c { getCore s c with wait := .poll start k.cycles pc past }
  let compare := fun (s : State) (v : W64) =>
    if pollCond (bits i.mod 1 3) v (k.s i.s2) then pollEnd s c i pc past false else wait s
  if k.table.any (fun f => blocks (devNum s) f (pollEntry i k c)) then wait s else
  if i.remote then
    if s.remotes.any (fun r => r.core == c && r.slot == pollSlot && !r.quarantined) then wait s else
    let p : Piece := ⟨(k.ar i.s1).toNat, 8⟩
    let chk := checkRemote s w .read i.dev [p]
    if !chk.1 p then compare chk.2 0 else
    match peerKind s i.dev with
    | .peer => wait (sendRequest chk.2 w c pollSlot i.dev (coreClass s k) ptRead 0 p [])
    | .outside => compare (destRefused chk.2 w chk.1 [p]) 0
    | .own =>
      if accessHeld s [p] then wait s else
      let r := agentRead chk.2 w (some (coreStn c)) false i.nt false p.addr 8
      compare r.1 (BitVec.ofNat 64 (leNat r.2.1))
  else
    match pollRead s c i with
    | none => wait s
    | some (s', v) => compare s' v

/-- R95: WAITR on a range, or polling. -/
def execWaitr (c : CoreId) (ecc : Ecc) (s : State) : Out :=
  issue 0x78 c ecc s (fun s k i pc =>
    let a := (k.ar i.s1).toNat
    if !bit i.mod 0 then
      let lo := placeAddr i c a
      let n := (k.s i.s2).toNat
      if k.table.any (fun e => e.space.at (devNum s) == (accessSpace i).at (devNum s) &&
          decide (64 * e.lo < lo + n) && decide (lo < 64 * e.hi))
      then .hold else .seq s
    else if a % 8 ≠ 0 then .fault fMisaligned (a % 2 ^ 32)
    else match rangeFault i.space 8 [(a : Int)] with
      | some f => .fault f.1 f.2
      | none =>
        let past := decide (k.code.length ≤ (seqPc k.loops (pc + 1)).2)
        .done (pollOnce (startWait s c pc (Wait.poll k.cycles k.cycles pc)) c i k.cycles pc past))

/-- The WAITR that a core polls in, with what it remembers; none where IMM[63:32] cycles have passed since it issued
(`late` asks for those instead), or the core does not run. -/
def polling (s : State) (c : Nat) (late : Bool) : Option (Insn × Nat × Nat × Nat × Bool) :=
  let k := getCore s c
  match k.wait with
  | .poll start last pc past =>
    match k.code[pc]? with
    | some w =>
      let i := Insn.ofWord w
      if coreState s c = stRunning ∧ k.fencing = false ∧ inReset s (coreStn c) = false ∧
          decide (start + bits i.imm 32 32 ≤ k.cycles) = late then some (i, start, last, pc, past)
      else none
    | none => none
  | _ => none

/-- R95: every 64 cycles a polling WAITR reads its word again. -/
def execWaitrPollRead (c : CoreId) (s : State) : Out :=
  match polling s c false with
  | some (i, start, last, pc, past) =>
    if last + 64 ≤ (getCore s c).cycles then .next (pollOnce s c i start pc past) else .next s
  | none => .next s

/-- R95: IMM[63:32] cycles have passed; a request still out for the word has lost its waiter. -/
def execWaitrTimeout (c : CoreId) (s : State) : Out :=
  match polling s c true with
  | some (i, _, _, pc, past) => .next (pollEnd (orphanRemotes s c (· == pollSlot)) c i pc past true)
  | none => .next s

/-! Barriers (R96, R126). -/

/-- The cores of a launch within a barrier's scope of a core (R96, R281). -/
def inScope (scope c d : Nat) : Bool :=
  match scope with
  | 0 => c == d
  | 1 => coreStn c == coreStn d
  | 2 => c / 96 == d / 96
  | _ => true

/-- The stations of a consist's current map on this module, in composition order (R219, R342). -/
def consistStns (s : State) (p sub : Nat) : List Nat :=
  match slotOf s p sub with
  | none => []
  | some i =>
    (List.range (fget s .COMP_MAP_CUR_LEN i)).filterMap (fun j =>
      let e := fget s .COMP_MAP_STORE_ENTRY (fget s .COMP_MAP_CUR_OFF i + j)
      if bits e 8 10 = devNum s then some (e % 256) else none)

/-- R126: where a barrier's arrivals are collected: the CC stop of the core's die, or of the lowest die of the launch's
consist here. -/
def barrierDie (s : State) (l : Launch) (scope c : Nat) : Nat :=
  if scope ≤ 2 then c / 96 else
  match (consistStns s l.part l.sub).map (fun k => k / 16) with
  | [] => (l.cores.map (fun p => p.1 / 96)).foldl min (c / 96)
  | d :: ds => ds.foldl min d

/-- R96: BAR releases at its scope, then its arrival is registered and the core waits. -/
def execBar (c : CoreId) (ecc : Ecc) (s : State) : Out :=
  issue 0x79 c ecc s (fun s k i pc =>
    if i.scope != 0 && k.table.any (releaseWaits i.scope) then .hold else
    let s := startWait s c pc (Wait.bar i.scope (bits i.imm 0 4) pc)
    match k.launch with
    | none => .done s
    | some cl =>
      if i.scope ≤ 1 then .done s else
      match getLaunch s cl.id with
      | none => .done s
      | some l => .done (coreSignal s c clsBarrier (barrierDie s l i.scope c) ccStop cl.part
          [BitVec.ofNat 32 c, BitVec.ofNat 32 (bits i.imm 0 4)]))

/-- The core waits at a BAR with this identifier. -/
def Wait.barId (w : Wait) (id : Nat) : Bool :=
  match w with
  | .bar _ n _ _ => n == id
  | _ => false

/-- A core of the launch has arrived at a BAR with this identifier, whatever its scope (DESIGN CHOICE, log 111), or has
ended (R96, R130). -/
def arrived (s : State) (id : Nat) (p : Nat × CoreEnd) : Bool :=
  p.2 != .running || coreState s p.1 == stFaulted || (getCore s p.1).wait.barId id

/-- A core that waits at the barrier's scope and identifier leaves it and acquires at its scope (R96). -/
def leaveBar (s : State) (scope id : Nat) (c : Nat) : State :=
  match (getCore s c).wait with
  | .bar sc n pc past => if sc = scope ∧ n = id then waitOver (acquireAt s c scope) c pc past else s
  | _ => s

/-- R96: the launch's cores within the barrier's scope are known and have arrived: a barrier wider than its core waits
until all cores of the launch on this module have been assigned. -/
def barHere (s : State) (l : Launch) (scope id c : Nat) : Bool :=
  (l.cores.filter (fun p => inScope scope c p.1)).all (arrived s id) && (decide (scope = 0) || l.cores.length == l.here)

/-- A barrier that reaches past this module. -/
def barSpans (l : Launch) (scope : Nat) : Bool := decide (2 < scope) && l.here != l.size

/-- R126: the modules of a consist, and the one that collects its barriers: the lowest device number. -/
def consistDevs (s : State) (p sub : Nat) : List Nat :=
  match slotOf s p sub with
  | none => []
  | some i => ((List.range (fget s .COMP_MAP_CUR_LEN i)).map (fun j =>
      bits (fget s .COMP_MAP_STORE_ENTRY (fget s .COMP_MAP_CUR_OFF i + j)) 8 10)).eraseDups
def barLead (s : State) (l : Launch) : Nat := (consistDevs s l.part l.sub).foldl min (devNum s)

/-- R126, R382: a barrier's message goes to the conductor complexes of other modules that collect it. -/
def barSignal (s : State) (l : Launch) (id : Nat) (devs : List Nat) : State :=
  let consist := ((slotOf s l.part l.sub).map (fun i => fget s .COMP_CONSIST_ID_ID i)).getD 0
  devs.foldl (fun s d => signalPacket s d consist ⟨clsBarrier, 0, ccStop, l.part, false, [BitVec.ofNat 32 id]⟩) s

/-- R126: this module's arrivals are in before those of others: a module that does not collect the barrier tells the one that
does, once. -/
def barTell (s : State) (l : Launch) (id : Nat) : State :=
  if l.told || barLead s l == devNum s then s
  else setLaunch (barSignal s l id [barLead s l]) { l with told := true }

/-- R96, R126: the barrier releases the cores of the launch within its scope: its message goes to each of their dies, and from
the module that collected it to the others. -/
def barRelease (s : State) (l : Launch) (scope id c : Nat) : State :=
  let group := l.cores.filter (fun p => inScope scope c p.1)
  let dies := if scope ≤ 1 then [] else (group.map (fun p => p.1 / 96)).eraseDups
  let s := dies.foldl (fun s d => sendSignal s (barrierDie s l scope c) ccStop
    ⟨clsBarrier, d, 31, l.part, false, [BitVec.ofNat 32 id]⟩) s
  let s := if !barSpans l scope then s
    else if barLead s l = devNum s then barSignal s l id ((consistDevs s l.part l.sub).filter (· != devNum s))
    else setLaunch s { l with told := false }
  group.foldl (fun s p => leaveBar s scope id p.1) s

/-- R96, R126: the arrivals at a barrier are in; of one that spans modules the operand tells whether those of the others are,
or, where another module collects them, whether it has released the barrier. -/
def execBarrierRelease (c : CoreId) (remoteArrived : Bool) (s : State) : Out :=
  let k := getCore s c
  match k.wait, k.launch with
  | .bar scope id _ _, some cl =>
    (match getLaunch s cl.id with
     | none => .next s
     | some l =>
       if !barHere s l scope id c then .next s
       else if barSpans l scope && !remoteArrived then .next (barTell s l id)
       else .next (barRelease s l scope id c))
  | _, _ => .next s

/-! Launches (R102-R106, R264). -/

/-- A field of an image header (R102). -/
def imageField (h : List Byte) (off n : Nat) : Nat := fieldAt h off n

/-- R103: whether a header and its code may be launched with the arguments given. -/
def imageOk (h code : List Byte) (argLen : Nat) : Bool :=
  let f := imageField h
  f 0 4 == 0x53473759 && f 4 2 == 1 && f 6 2 == 0 && leNat ((h.drop 48).take 16) == 0
  && decide (1 ≤ f 12 4) && decide (f 12 4 ≤ 2048) && f 8 4 % 16 == 0
  && f 28 4 % 64 == 0 && f 32 4 % 64 == 0 && decide (f 24 4 ≤ 262144) && decide (f 36 4 ≤ 4096)
  && decide (f 16 4 < f 12 4) && decide (argLen ≤ f 36 4)
  && decide (f 28 4 + f 24 4 ≤ spadBytes) && decide (f 32 4 + argLen ≤ spadBytes) && decide (f 40 4 ≤ spadBytes)
  && crc32 code == f 44 4

/-- The 128-bit words of a byte string. -/
def codeWords : Nat → List Byte → List (BitVec 128)
  | 0, _ => []
  | n + 1, bs => BitVec.ofNat 128 (leNat (bs.take 16)) :: codeWords n (bs.drop 16)

/-- The conductor that loads an image, as the agent of its reads (R102). -/
def launchWho (r : LaunchReq) : Who := ⟨r.part, r.sub, false, 6, r.cnd / 4, r.cnd % 4, false⟩

/-- The launch's record takes one more core. -/
def addLaunchCore (s : State) (r : LaunchReq) (c : Nat) : State :=
  match getLaunch s r.id with
  | some l => setLaunch s { l with cores := l.cores ++ [(c, .running)] }
  | none =>
    let e := epochStart s r.part r.sub
    { e.2 with launches := e.2.launches ++ [⟨r.id, r.part, r.sub, r.size, r.here, [(c, .running)], false, none, e.1, false⟩] }

/-- R103: a refused image starts no core. -/
def refuseLaunch (s : State) (r : LaunchReq) : State :=
  match getLaunch s r.id with
  | some l => setLaunch s { l with refused := true }
  | none => { s with launches := s.launches ++ [⟨r.id, r.part, r.sub, r.size, r.here, [], true, none, none, false⟩] }

/-- The launch already has a core on a station. -/
def launchOnStn (s : State) (id st : Nat) : Bool :=
  match getLaunch s id with
  | some l => l.cores.any (fun p => coreStn p.1 == st)
  | none => false

/-- Load an image into a free core (R102-R104, R106, R264, R468). -/
def assignCore (s : State) (c : Nat) (r : LaunchReq) : State :=
  let w := launchWho r
  let h := devRead s w r.image 64
  let f := imageField h.2.1
  let count := min (f 12 4) 2048
  let code := devRead h.1 w (r.image + f 8 4) (16 * count)
  if !imageOk h.2.1 code.2.1 r.args.length then refuseLaunch code.1 r else
  let init := devRead code.1 w (r.image + f 20 4) (f 24 4)
  let s := init.1
  let s := if launchOnStn s r.id (coreStn c) then s else scClearClean s (coreStn c)
  let s := addLaunchCore s r c
  let k := getCore s c
  let s := setCore s c { k with
    code := codeWords count code.2.1, fencing := false, wait := .none,
    launch := some ⟨r.id, r.part, r.sub, r.rank, r.size, f 16 4, f 28 4, init.2.1, f 32 4, r.args,
      taskLabel s r.part r.label, r.cnd⟩ }
  let s := fset s .SAGE_FAULT_CODE c 0
  let s := fset s .SAGE_FAULT_FAULT_PC c 0
  let s := fset s .SAGE_FAULT_DETAIL c 0
  setCoreState s c stLoading

/-- R106: a conductor assigns a launch to a free core of a slice bound to the launch's partition. -/
def execLaunchAssign (c : CoreId) (r : LaunchReq) (s : State) : Out :=
  patient s (fun s =>
    if coreState s c = stFree ∧ boundTo s (coreStn c) = some r.part ∧ stnPower s (coreStn c) = domOn ∧
        inReset s (coreStn c) = false ∧ (getLaunch s r.id).all (fun l =>
          !l.refused && decide (l.cores.length < l.here) && l.part == r.part) then .next (assignCore s c r)
    else .next s)

/-- R104: the start state; where the initialisation data and the arguments overlap, the arguments are written last
(DESIGN CHOICE, log 114). -/
def startCore (k : Core) (cl : CoreLaunch) : Core :=
  let k := { k with tiles := [], acc := [], rowMax := [], rowSum := [], sregs := [], aregs := [], loops := [],
                    table := [], wait := .none,
                    spad := Bytes.write (Bytes.write k.spad cl.initDest cl.init) cl.argDest cl.args }
  ((k.setS 1 (BitVec.ofNat 64 cl.argDest)).setS 2 (BitVec.ofNat 64 cl.rank)).setS 3 (BitVec.ofNat 64 cl.size)

/-- R104, R106. -/
def execLoadComplete (c : CoreId) (s : State) : Out :=
  let k := getCore s c
  match k.launch with
  | some cl =>
    if coreState s c = stLoading ∧ inReset s (coreStn c) = false then
      let s := setCore s c (startCore k cl)
      let s := fset s .SAGE_PC_PC c cl.entry
      .next (setCoreState s c stRunning)
    else .next s
  | none => .next s

/-- R101, R106, R130: the range table of a core that has stopped is empty: it reports, and changes state. -/
def execCoreDrained (c : CoreId) (s : State) : Out :=
  let k := getCore s c
  let st := coreState s c
  if !k.table.isEmpty || k.launch.isNone then .next s else
  let fenced := bit (fget s .STN_CORE_FENCE_FENCE (coreStn c)) (c % 6)
  if st = stEnding then
    let s := retireLanes (dropLaunch (reportCore s c .ended) c) c
    .next (setCoreState s c (if fenced then stFenced else stFree))
  else if st = stFaulted ∨ st = stFenced then
    .next (retireLanes (dropLaunch (reportCore s c .faulted) c) c)
  else if st = stRunning ∧ k.fencing = true then
    let s := retireLanes (dropLaunch (reportCore s c .fenced) c) c
    .next (if fenced then setCoreState s c stFenced else releaseFenced s c)
  else .next s

/-- R130: the operator writes 1 to STN_CORE_FENCE.FENCE of a core. -/
def execCoreFence (c : CoreId) (s : State) : Out := .next (writeFence s c true)
/-- R132: the operator writes 0 to it. -/
def execCoreRelease (c : CoreId) (s : State) : Out := .next (writeFence s c false)

end Sys2Proof.Machine
end

