-- ==== Sys2Proof/Machine/HbmX.lean ====
section
/-! DEFINITION. HBM homes, scrubbing, the depot cache's windows and the Dill prefetchers (spec R246-R273, R471,
R476-R478). -/
namespace Sys2Proof.Machine

/-! Class and level at a home (R469, R476, R477). -/

/-- R466-R469: the class with which a request competes; conductors and Fuane run no task. -/
def accessClass (s : State) (w : Who) (cls : Nat) : Nat :=
  if w.kind = 6 ∨ w.kind = 7 then portClass w.kind
  else if w.kind = 8 then cls
  else trafficClass s (portClass w.kind) cls

/-- R243, R245: the slice whose extent holds an HBM address, its control-memory share included. -/
def extentOf (a : Nat) : Option Nat :=
  match regionOf a with
  | .hbm k | .control k | .window k _ => some k
  | _ => none

/-- R243: the channel of its stack that serves an HBM address, and the byte offset within the channel. -/
def hbmChannel (a : Nat) : Nat := 2 * (a / sliceBytes % 16) + bits a 12 1
def channelOffset (a : Nat) : Nat := bits a 13 19 * 4096 + a % 4096

/-- The home of slice k (R246): 4 × die + q. -/
def homeOf (k : Nat) : Nat := k / 4
def getLevel (s : State) (h : Nat) : Nat := bits (fget s .TC_FB_LEVEL_LEVEL (h / 32)) (2 * (h % 32)) 2
def setLevel (s : State) (h v : Nat) : State :=
  fset s .TC_FB_LEVEL_LEVEL (h / 32) (setBits (fget s .TC_FB_LEVEL_LEVEL (h / 32)) (2 * (h % 32)) 2 v)

/-- The threshold of a level (R476). -/
def fbThresh (s : State) (lvl : Nat) : Nat :=
  match lvl with
  | 0 => 0
  | 1 => fget s .TC_FB_THRESH_YELLOW
  | 2 => fget s .TC_FB_THRESH_ORANGE
  | _ => fget s .TC_FB_THRESH_RED

/-- R476: the level that a queue occupancy calls for. -/
def fbLevel (s : State) (occ : Nat) : Nat :=
  if fbThresh s 3 ≤ occ then 3 else if fbThresh s 2 ≤ occ then 2 else if fbThresh s 1 ≤ occ then 1 else 0

/-- A station's request to its own slice's extent (R477). -/
def ownExtent (w : Who) (k : Nat) : Bool :=
  (w.kind == 1 && w.die * 16 + w.index / 6 == k) || (w.kind == 2 && w.die * 16 + w.index == k)

/-- R477: the source holds a request of a class to a home of a level. -/
def heldAt (lvl cls : Nat) (own : Bool) : Bool :=
  (lvl == 3 && decide (cls ≤ 4)) || (lvl == 2 && decide (cls ≤ 3) && !own)

/-! Accesses at a home (R246-R249, R257). -/

/-- What the check codes find, before the home serves the access; a read that corrects a line writes it back (R248). -/
def eccFinds (s : State) (a : Access) (ecc : HbmEcc) : State :=
  let line := a.addr / 64
  let reads := match a.op with
    | .write _ => false
    | _ => true
  let mend := fun (k : Nat) => finc (fsat s .HBM_CE_COUNT_CORRECTED (k / 16)) .HBM_WRITE_BYTES_COUNT (k / 16)
  match regionOf a.addr, ecc with
  | .hbm k, .corrected => if reads && (depotWay s k a.addr).isNone then mend k else s
  | .control k, .corrected => if reads then mend k else s
  | .control _, .bad => setUe s line true
  | .hbm k, .bad => if (depotWay s k a.addr).isNone then setUe s line true else s
  | .hbm k, .depotCorrected => if (depotWay s k a.addr).isSome then fsat s .DEP_ECC_COUNT_CORRECTED (k / 32) else s
  | .hbm k, .depotBad =>
    (match depotWay s k a.addr with
     | some way => fsat (depotSet s k (a.addr / 128 % 16384) way none) .DEP_UE_COUNT_COUNT (k / 32)
     | none => s)
  | .window k _, .depotCorrected => fsat s .DEP_ECC_COUNT_CORRECTED (k / 32)
  | .window _ _, .depotBad => setUe s line true
  | _, _ => s

/-- The bytes an access covers. -/
def accessLen : AccessOp → Nat
  | .read n => n
  | .write bs => bs.length
  | .atomic op _ _ => atomBytes op
  | .cas _ _ _ => 8

/-- An access served at the home of its address. -/
def serveHome (s : State) (a : Access) : State × List Byte × Bool :=
  let ok := fun (_ : Piece) => true
  match a.op with
  | .read n => readPieces a.who none false a.nt a.stream ok (pieces a.addr n) s
  | .write bs => (writePieces a.who none false a.nt ok (pieces a.addr bs.length) bs s, [], false)
  | .atomic op b posted =>
    let r := atomicAt s a.who a.addr (.op op b.toNat)
    (r.1, if posted then [] else leBytes (atomBytes op) r.2, false)
  | .cas cmp swap posted =>
    let r := atomicAt s a.who a.addr (.cas cmp.toNat swap.toNat)
    (r.1, if posted then [] else leBytes 8 r.2, false)

/-- The fullest queue among the eight channels of a home (R243, R476); `queues` holds a stack's 32 occupancies. -/
def homeOccupancy (h : Nat) (queues : List Nat) : Nat := ((queues.drop (8 * (h % 4))).take 8).foldl max 0

/-- R246: an access reaches the home of an address of HBM or of a pinned window; one of control memory is a non-caching
access of its directory (R310).  `cls` is the class it was issued with, `queues` the occupancy of the stack's channel
queues, `aged` whether it is served by ageing (R471). -/
def execHbmAccess (a : Access) (cls : Nat) (queues : List Nat) (aged : Bool) (ecc : HbmEcc) (s : State) : Out :=
  match extentOf a.addr with
  | none => .next s
  | some k =>
    if accessHeld s (pieces a.addr (accessLen a.op)) then .next s else
    let h := homeOf k
    let s := setLevel s h (max (getLevel s h) (fbLevel s (homeOccupancy h queues)))
    let held := heldAt (getLevel s h) (accessClass s a.who cls) (ownExtent a.who k)
    if held && !aged then .next s else
    let s := if aged then finc s .TC_AGED_COUNT 0 else s
    let r := serveHome (eccFinds s a ecc) a
    .next { r.1 with answers := r.1.answers ++ [⟨a, r.2.1, r.2.2⟩] }

/-- R476: the occupancy has stayed below the threshold of the home's level for 256 mesh cycles: one step down. -/
def execFbLevelFall (home : Fin 64) (occupancy : Nat) (s : State) : Out :=
  let l := getLevel s home
  if l = 0 ∨ fbThresh s l ≤ occupancy then .next s else .next (setLevel s home (l - 1))

/-- R250: patrol reads one line of its stack.  `last` ends the pass. -/
def execPatrolRead (d : Die) (line : Nat) (ecc : Ecc) (last : Bool) (s : State) : Out :=
  let k := 64 * line / sliceBytes
  if !fbit s .HBM_PATROL_ENABLE d || k / 16 != (d : Nat) || fget s .HBM_STATUS_TRAINED d == 0 then .next s else
  let s := fset s .HBM_STATUS_PATROL_BUSY d (b2n (!last))
  if scrubbing s k then .next s else
  let s := finc s .HBM_READ_BYTES_COUNT d
  let s := if ecc = .uncorrectable then setUe s line true else s
  if isUe s line then .next (ueFound s k line false 1)
  else if ecc = .corrected then .next (fsat (finc s .HBM_WRITE_BYTES_COUNT d) .HBM_CE_COUNT_CORRECTED d)
  else .next s

/-! Release scrubs (R251, R252, R320). -/

/-- R320: the directory drops every line of a slice's control-memory share, dirty data discarded: the conductors' L1 copies
and reservations go with them, and requests that wait for the lines are ignored (R252). -/
def dropControlShare (s : State) (k : Nat) : State :=
  let mine := fun (line : Nat) => line / 2 ^ 26 == k
  let keys := (s.holders.map (·.1)).filter (fun e => mine (e % 2 ^ 34))
  let s := keys.foldl (fun s e => setHolder s (e / 2 ^ 34) (e % 2 ^ 34) none) s
  { s with dirs := SMap.clear mine s.dirs, dirHeld := s.dirHeld.filter (fun e => !mine e.1) }

/-- R251 steps 2 to 4: the slice's bit is set, its share cleared, its lines dropped, zeros written. -/
def scrubStart (s : State) (k : Nat) : State :=
  let s := fsetBit s .HBM_STATUS_SCRUBBING (k / 16) (k % 16) true
  let s := clearWholeShare s k
  let s := fset s .DEP_SLICE_CFG_PIN_WAYS k 0
  let s := fset s .DEP_SLICE_CFG_DEMAND k 0
  let s := finc s .HBM_WRITE_BYTES_COUNT (k / 16) (sliceBytes / 64)
  clearMem (dropControlShare s k) (k * sliceBytes) ((k + 1) * sliceBytes)

/-- The stop of the HBM controller of slice k's channels (R115, R116). -/
def hbmStop (k : Nat) : Nat := [0, 5, 24, 29].getD (k % 16 / 4) 0

/-- The COMPOSE message that names a slice has reached the home's controller; none where none has. -/
def scrubTake (s : State) (k : Nat) : Option State :=
  (s.stopSigs.findIdx? (fun e => e.1 == k / 16 && e.2.1 == hbmStop k && e.2.2.cls == clsCompose &&
    e.2.2.payload == [BitVec.ofNat 32 k])).map (fun i => { s with stopSigs := s.stopSigs.eraseIdx i })

/-- R251: the COMPOSE message reaches the home's controller. -/
def execScrubStart (k : Stn) (s : State) : Out :=
  if fget s .COMP_SLICE_STATUS_STATE k = 7 ∧ scrubbing s k = false then
    match scrubTake s k with
    | some s => .next (scrubStart s k)
    | none => .next s
  else .next s

/-- R259: a write of PIN_WAYS. -/
def execPinWaysWrite (k : Stn) (ways : Nat) (s : State) : Out := .next (pinWaysWrite s k (ways % 32))

/-! Warm streams (R270, R271). -/

/-- A warm-stream record (R270). -/
structure WarmRec where
  base : Nat
  stride : Int
  rowBytes : Nat
  rows : Nat
  zeros : Nat
  done : Nat
deriving DecidableEq, Repr

def warmRecOf (bs : List Byte) : WarmRec :=
  ⟨fieldAt bs 0 8, signed 32 (fieldAt bs 8 4), fieldAt bs 12 4, fieldAt bs 16 4, fieldAt bs 21 3, fieldAt bs 24 8⟩

/-- The first byte of a row. -/
def WarmRec.rowAt (r : WarmRec) (i : Nat) : Int := (r.base : Int) + r.stride * (i : Int)

/-- R270, R271: the record is in range, its region lies in one slice of the depot die outside control memory, and
its tag owns the slice. -/
def warmOk (s : State) (m : Nat) (w : Who) (r : WarmRec) : Bool :=
  let k := r.base / sliceBytes
  let lo : Int := min (r.rowAt 0) (r.rowAt (r.rows - 1))
  let hi : Int := max (r.rowAt 0) (r.rowAt (r.rows - 1)) + (r.rowBytes : Int)
  r.base % 128 == 0 && r.stride % 128 == 0 && r.rowBytes % 128 == 0 &&
  decide (128 ≤ r.rowBytes ∧ r.rowBytes ≤ 16777216) && decide (1 ≤ r.rows ∧ r.rows ≤ 65536) && r.zeros == 0 &&
  decide (r.done < 2 ^ 48) && r.done % 8 == 0 && decide (k < 256) && k / 32 == m &&
  decide ((k * sliceBytes : Nat) ≤ lo) && decide (hi ≤ (k * sliceBytes + ctlOff : Nat)) &&
  (w.oper || boundTo s k == some w.part)

/-- R271: a stream ends: its completion word, its epoch's count, and the entry. -/
def warmWord (s : State) (w : Who) (done status rows : Nat) : State :=
  if done = 0 then s else writeWord s w done (2 ^ 63 + status * 2 ^ 32 + rows)

/-- R270, R271: one declaration is read and takes an entry, or ends BAD_RECORD or BUSY. -/
def warmDeclare (s : State) (m : Nat) (w : Who) (addr : Nat) : State :=
  let x := devRead s w addr 32
  let r := warmRecOf x.2.1
  let s := x.1
  if !warmOk s m w r then fsat (warmWord s w (if r.done < 2 ^ 48 ∧ r.done % 8 = 0 then r.done else 0) 1 0) .DILL_REFUSED_COUNT m else
  let k := r.base / sliceBytes
  let e := epochStart s w.part w.sub
  match dillTake e.2 ⟨k, .warm w r.base r.stride r.rowBytes r.done 0 e.1, r.rows, r.stride, w.part, w.sub, []⟩ true with
  | some s => s
  | none => fsat (warmWord s w r.done 2 0) .DILL_REFUSED_COUNT m

/-- Declarations written and not yet read are read, oldest first. -/
def settle (s : State) : State :=
  s.declares.foldl (fun s d => warmDeclare s d.1 d.2.1 d.2.2) { s with declares := [] }

/-- R270: a write of DILL_DECLARE of depot die m. -/
def execDillDeclare (m : Fin 8) (w : Who) (addr : Addr) (s : State) : Out :=
  patient s (fun s =>
    if !w.oper && (w.kind != 6) then .next s else
    .next (settle { s with declares := s.declares ++ [((m : Nat), w, alignDown addr 32 % 2 ^ 48)] }))

/-- A warm stream fills one 128-byte line of a slice's share (R255, R271, R272). -/
def warmLine (w : Who) (k : Nat) (s : State) (a : Nat) : State :=
  if scrubbing s k || !(w.oper || (prefetchPasses s w (a / 64) && prefetchPasses s w (a / 64 + 1))) ||
      !homeAccepts s w k || (depotWay s k a).isSome then s else
  let s := finc s .HBM_READ_BYTES_COUNT (k / 16) 2
  let s := meter s w.part w.oper mHbm 2
  let s := if isUe s (a / 64) then ueFound s k (a / 64) false 0 else s
  let s := if isUe s (a / 64 + 1) then ueFound s k (a / 64 + 1) false 0 else s
  depotFill s k a

/-- The rows from the i-th on, n of them. -/
def warmRows (w : Who) (k base : Nat) (stride : Int) (rowBytes : Nat) : Nat → Nat → State → State
  | 0, _, s => s
  | n + 1, i, s =>
    let a := ((base : Int) + stride * (i : Int)).toNat
    let s := (List.range (rowBytes / 128)).foldl (fun s j => warmLine w k s (a + 128 * j)) s
    warmRows w k base stride rowBytes n (i + 1) s

/-- The warm streams of a slice are cancelled (R271). -/
def warmCancel (s : State) (k : Nat) : State :=
  let mine := s.dill.filter (fun t => t.slice == k && t.isWarm)
  let s := { s with dill := s.dill.filter (fun t => !(t.slice == k && t.isWarm)) }
  mine.foldl (fun s t => match t.kind with
    | .warm w _ _ _ done row ep => epochEnd (warmWord s w done 3 row) ep
    | _ => s) s

/-- R271: the i-th entry, a warm stream, fills `rows` more rows; with its last row it ends OK. -/
def execWarmStreamDone (i rows : Nat) (s : State) : Out :=
  patient s (fun s =>
    match s.dill[i]? with
    | none => .next s
    | some t =>
      match t.kind with
      | .warm w base stride rowBytes done row ep =>
        let n := min rows (t.rows - row)
        let s := warmRows w t.slice base stride rowBytes n row s
        if row + n < t.rows then
          .next { s with dill := s.dill.set i { t with kind := .warm w base stride rowBytes done (row + n) ep } }
        else .next (epochEnd (warmWord { s with dill := s.dill.eraseIdx i } w done 0 t.rows) ep)
      | _ => .next s)

/-! Lanes (R268, R273). -/

/-- The tag of a lane's prefetches. -/
def laneWho (t : Stream) (l : Lane) : Who := ⟨t.part, t.sub, false, 1, l.station / 16, l.core % 96, false⟩

/-- Bytes of a station's prefetched lines not yet touched, those on their way included (R268). -/
def aheadBytes (s : State) (st : Nat) : Nat :=
  scPrefetched s st + 64 * (s.prefetches.filter (fun p => p.1 == st)).length

/-- R268: the line at which row r of a lane stands. -/
def lanePos (t : Stream) (l : Lane) (r : Nat) : Int := ((l.base : Int) + t.stride * (r : Int)) / 64

/-- R268: the next line of row r that a lane requests: its position, or the one after the last requested where that lies
further on in the direction of STEP. -/
def laneLine (t : Stream) (l : Lane) (step : Int) (r : Nat) : Int :=
  let p := lanePos t l r
  match l.ahead[r]? with
  | some n => if step < 0 then min p n else max p n
  | none => p

/-- R268: that line lies no more than AHEAD lines beyond the row's position. -/
def laneDue (s : State) (t : Stream) (l : Lane) (step : Int) (r : Nat) : Bool :=
  decide ((laneLine t l step r - lanePos t l r).natAbs ≤ fget s .DILL_CTRL_AHEAD (t.slice / 32))

/-- R268: the lane of a core in the i-th entry requests the next line of each of its rows that is due one. -/
def execPrefetchIssue (i core : Nat) (s : State) : Out :=
  match s.dill[i]? with
  | none => .next s
  | some t =>
    match t.lanes.find? (fun l => l.core == core) with
    | none => .next s
    | some l =>
      match l.step with
      | none => .next s
      | some step =>
        if 512 * 1024 ≤ aheadBytes s l.station then .next s else
        let lines := (List.range t.rows).filterMap (fun r =>
          let x := laneLine t l step r
          if laneDue s t l step r ∧ 0 ≤ x ∧ cacheable (64 * x.toNat) then some (l.station, laneWho t l, x.toNat) else none)
        let next := (List.range t.rows).map (fun r => laneLine t l step r +
          (if laneDue s t l step r then (if step < 0 then -1 else 1) else 0))
        let t' := { t with lanes := t.lanes.map (fun m => if m.core = core then { m with ahead := next } else m) }
        .next { s with dill := s.dill.set i t', prefetches := s.prefetches ++ lines }

/-- R273: the i-th prefetch on its way arrives: it installs as a clean line unless the line is present. -/
def execPrefetchFill (i : Nat) (s : State) : Out :=
  match s.prefetches[i]? with
  | none => .next s
  | some p =>
    let s := { s with prefetches := s.prefetches.eraseIdx i }
    let before := (scFind s p.1 p.2.2).isSome
    let s := scPrefetch s p.2.1 p.1 p.2.2
    if !before && (scFind s p.1 p.2.2).isSome then .next (finc s .SC_PREFETCHED_COUNT p.1) else .next s

/-- R268, R269: the lane of a core in the i-th entry has gone 8,192 cycles without an advance; a stream retires with
its last lane. -/
def execLaneRetire (i core : Nat) (s : State) : Out :=
  match s.dill[i]? with
  | none => .next s
  | some t =>
    if t.isWarm then .next s else
    let ls := t.lanes.filter (fun l => l.core != core)
    if ls.isEmpty then .next { s with dill := s.dill.eraseIdx i }
    else .next { s with dill := s.dill.set i { t with lanes := ls } }

end Sys2Proof.Machine
end

