-- ==== Sys2Proof/Machine/DirOps.lean ====
section
/-! DEFINITION. The directory's service of its holders (spec R308-R319, R326, R327): capacity, evictions, snoops,
grants, and the requests a holder's own access makes. -/
namespace Sys2Proof.Machine

/-- R309: the holders: conductors 0-63, queue-engine ports 64-67, the Branch-line write port 68, the Fuane port 69,
Chervil front ends 70-71; non-caching agents come after them (R317). -/
def hBranch : Nat := 68
def hFuane : Nat := 69
def hNone : Nat := 72

/-- The lines a holder has. -/
def holderLines (s : State) (h : Nat) : List Nat :=
  (s.holders.filter (fun e => e.1 / 2 ^ 34 == h)).map (fun e => e.1 % 2 ^ 34)

def dirBusy (s : State) (line : Nat) : Bool := deferring s line || (match getDir s line with
  | some e => e.active
  | none => false)

/-! Entries, their sets and ways (R308, R311). -/

/-- The directory set of a line, of all dies'. -/
def dirSet (line : Nat) : Nat := dirDie line * 8192 + line % 8192

/-- The entries of a line's set. -/
def setEntries (s : State) (line : Nat) : List (Nat × DirEntry) :=
  s.dirs.filterMap (fun e => if dirSet e.1 = dirSet line then e.2.map (fun x => (e.1, x)) else none)

/-- The lowest way of a line's set that has no entry. -/
def freeWay (s : State) (line : Nat) : Nat :=
  ((List.range 16).find? (fun w => (setEntries s line).all (fun e => e.2.way != w))).getD 0

def DirEntry.empty : DirEntry := ⟨false, 0, none, [], false, 0⟩

/-- The entry of a line; where it has none, that of U in a free way. -/
def dirEntry (s : State) (line : Nat) : DirEntry :=
  (getDir s line).getD { DirEntry.empty with way := freeWay s line }

/-- An entry with no holder and nothing in progress is no entry. -/
def putDir (s : State) (line : Nat) (e : DirEntry) : State :=
  setDir s line (if e.holders = 0 ∧ e.active = false then none else some e)

def dirTree (s : State) (line : Nat) : Nat := SMap.get (fun _ => 0) s.dirPlru (dirSet line)

/-- A grant uses the line's entry. -/
def dirTouch (s : State) (line : Nat) : State :=
  { s with dirPlru := SMap.set (fun _ => 0) s.dirPlru (dirSet line) (plruTouch 4 (dirTree s line) 0 (dirEntry s line).way) }

/-- The line of the set whose entry the pseudo-LRU evicts, among those with no request in progress. -/
def dirVictim (s : State) (line : Nat) : Option Nat :=
  let xs := (setEntries s line).filter (fun e => !dirBusy s e.1)
  if xs.isEmpty then none else
  let way := plruAmong (fun w => xs.any (fun e => e.2.way == w)) 4 (dirTree s line) 0 0
  (xs.find? (fun e => e.2.way == way)).map (·.1)

/-- The line has an entry, or its set has room for one. -/
def dirRoom (s : State) (line : Nat) : Bool := (getDir s line).isSome || decide ((setEntries s line).length < 16)

/-- R311: a line's entry is chosen for eviction: its holders are asked for it. -/
def dirEvict (s : State) (line : Nat) : State :=
  let e := dirEntry s line
  setDir (finc s .CTL_DIR_EVICTS_COUNT (dirDie line)) line
    (some { e with busy := some (⟨hNone, .evict, 0, false, 0, none⟩, e.holders) })

/-- The k-th of the candidates by a free value. -/
def drawFrom (s : State) (xs : List Nat) : Option Nat × State :=
  match xs with
  | [] => (none, s)
  | x :: _ => let d := draw s; (some (xs.getD (d.1.toNat % xs.length) x), d.2)

/-! What holders keep (R304, R309). -/

/-- A holder returns a line: dirty data to the home, its bit cleared (R310, R311). -/
def returnLine (s : State) (h line : Nat) : State :=
  match getHolder s h line with
  | none => s
  | some _ =>
    let s := setHolder (flushHolder s h line) h line none
    let e := dirEntry s line
    putDir s line { e with owned := false, holders := setBits e.holders h 1 0 }

/-- A request at a directory is the holder's. -/
def DirWait.by (w : DirWait) (h : Nat) : Bool := w.holder == h

/-- The requests for a line that a directory has and has not granted. -/
def dirAsked (s : State) (line : Nat) : List DirWait :=
  (match getDir s line with
   | some e => (match e.busy with
     | some b => b.1 :: e.waiters
     | none => e.waiters)
   | none => []) ++ (s.dirHeld.filter (fun e => e.1 == line)).flatMap (·.2)

/-- A holder has a request of the line in progress. -/
def asking (s : State) (h line : Nat) : Bool := (dirAsked s line).any (fun w => w.by h)

/-- The lines a holder has or has asked for. -/
def linesOut (s : State) (h : Nat) : List Nat :=
  (holderLines s h ++ ((s.dirs.map (·.1) ++ s.dirHeld.map (·.1)).filter (fun l => asking s h l))).eraseDups

/-- The lines that compete with a line for a holder's room, and how many it keeps of them: 8 of a conductor's L2 set, 32 of
a port (R304, R309; the sets DESIGN CHOICE, log 125). -/
def rivalLines (h line : Nat) (xs : List Nat) : List Nat :=
  if h < 64 then xs.filter (fun l => l % 1024 == line % 1024) else xs
def holderMax (h : Nat) : Nat := if h < 64 then 8 else 32

/-- R309: a holder makes room before it asks for a line: with as many lines as it keeps it returns one first, which a free
value picks; none where each of them is in use, and it cannot ask. -/
def holderRoom (s : State) (h line : Nat) : Option State :=
  let xs := rivalLines h line (linesOut s h)
  if xs.contains line || xs.length < holderMax h then some s else
  let d := drawFrom s (xs.filter (fun l => !dirBusy s l && (getHolder s h l).isSome))
  d.1.map (fun l => returnLine d.2 h l)

/-! Tags (R318, R319). -/

/-- A conductor holds lines of its own partition and SHARED lines, these to be owned only with OPER 1, and with OPER 1
those of unbound slices; never any other. -/
def cndAllows (s : State) (part : Nat) (oper own : Bool) (line : Nat) : Bool :=
  if isShared s line then oper || !own else
  match boundTo s (line / 2 ^ 26) with
  | some p => p == part
  | none => oper

/-- R318: a request of a holder the directory serves; the Fuane port's always. -/
def holderAllowed (s : State) (h part : Nat) (oper own : Bool) (line : Nat) : Bool :=
  h == hFuane || (if h < 64 then cndAllows s part oper own line else dirAllows s part oper own line)

/-- A request to own a line. -/
def DirReq.owns : DirReq → Bool
  | .getX | .upgrade => true
  | _ => false

/-! Grants and snoops (R311, R312, R314, R317, R606). -/

/-- A read of a line at its home for a holder; an uncorrectable one is zeros. -/
def dirHomeRead (s : State) (part : Nat) (oper : Bool) (line : Nat) : State × List Byte :=
  let k := line / 2 ^ 26
  let s := finc s .HBM_READ_BYTES_COUNT (k / 16)
  let s := finc s .DEP_MISSES_COUNT k
  let s := meter s part oper mHbm 1
  if isUe s line then (ueFound s k line false 0, List.replicate 64 0) else (s, Bytes.read s.mem (64 * line) 64)

/-- A store into a line with a bad check code, which no cache installs: a partial write at the home, silent (R606). -/
def badStore (s : State) (part : Nat) (oper : Bool) (line : Nat) (x : Nat × List Byte) : State :=
  let k := line / 2 ^ 26
  let s := finc (finc s .HBM_WRITE_BYTES_COUNT (k / 16)) .DEP_MISSES_COUNT k
  storeLine (meter s part oper mHbm 1) line (lineData (64 * line + x.1) x.2)

/-- A line's bytes with a store in them. -/
def putBytes (d : List Byte) (x : Nat × List Byte) : List Byte :=
  (List.range 64).map (fun i => if x.1 ≤ i ∧ i < x.1 + x.2.length then x.2.getD (i - x.1) 0 else d.getD i 0)

/-- A store of a holder into a line it owns, which is then modified (R312). -/
def ownStore (s : State) (h line : Nat) (x : Nat × List Byte) : State :=
  match getHolder s h line with
  | some l => setHolder s h line (some ⟨.M, putBytes l.data x⟩)
  | none => s

/-- What a request to own a line is granted: the former owner's line, the holder's own, or the home's. -/
def ownData (s : State) (w : DirWait) (passed : Option HLine) (line : Nat) : State × HLine :=
  match passed, getHolder s w.holder line with
  | some l, _ => (s, l)
  | none, some l => (s, ⟨if l.st = HState.M then .M else .E, l.data⟩)
  | none, none => let r := dirHomeRead s w.part w.oper line; (r.1, ⟨.E, r.2⟩)

/-- What a GetS is granted: the former owner's data, or the home's. -/
def readData (s : State) (w : DirWait) (passed : Option HLine) (line : Nat) : State × List Byte :=
  match passed with
  | some l => (s, l.data)
  | none => dirHomeRead s w.part w.oper line

/-- A grant to a holder (R311): for a GetS, E where no one holds the line and the holder may own it, else S; for a GetX or
Upgrade, ownership, and the store it was asked for is made at once (R312).  `passed` is what a former owner sent.  A line
that comes with a bad check code is not installed (R606). -/
def dirGrant (s : State) (w : DirWait) (passed : Option HLine) (line : Nat) : State :=
  let e := dirEntry s line
  let s := dirTouch (setDir s line (some e)) line
  let bad := passed.isNone && (getHolder s w.holder line).isNone && isUe s line
  if w.req.owns then
    if bad then
      (match w.store with
       | some x => putDir (badStore s w.part w.oper line x) line e
       | none => putDir (dirHomeRead s w.part w.oper line).1 line e)
    else
      let r := ownData s w passed line
      let s := putDir (setHolder r.1 w.holder line (some r.2)) line { e with owned := true, holders := 2 ^ w.holder }
      (match w.store with
       | some x => ownStore s w.holder line x
       | none => s)
  else
    let r := readData s w passed line
    if bad then putDir r.1 line e else
    let own := e.holders == 0 && holderAllowed s w.holder w.part w.oper true line
    let s := setHolder r.1 w.holder line (some ⟨if own then .E else .S, r.2⟩)
    putDir s line { e with owned := own, holders := setBits e.holders w.holder 1 1 }

/-- The answer to a non-caching access (R310, R311): served at the line's home in its turn. -/
def ncAccess (s : State) (a : Access) : State × List Byte × Bool :=
  match a.op with
  | .read n => readNC s a.who ⟨a.addr, min n (64 - a.addr % 64)⟩
  | .write data => (writeNC s a.who (a.addr / 64) (lineData a.addr (data.take (64 - a.addr % 64))), [], false)
  | .atomic op b posted =>
    let r := atomicAt s a.who a.addr (.op op b.toNat)
    (r.1, if posted then [] else leBytes (atomBytes op) r.2, false)
  | .cas c w posted =>
    let r := atomicAt s a.who a.addr (.cas c.toNat w.toNat)
    (r.1, if posted then [] else leBytes 8 r.2, false)

def ncServe (s : State) (a : Access) : State :=
  let r := ncAccess s a
  { r.1 with answers := r.1.answers ++ [⟨a, r.2.1, r.2.2⟩] }

/-- Serve a request at its turn (R311): a grant at once, or the snoops it waits for. -/
def dirStart (s : State) (w : DirWait) (passed : Option HLine) (line : Nat) : State :=
  let e := dirEntry s line
  let others := setBits e.holders w.holder 1 0
  let wait := if w.req.owns || e.owned then others else 0
  match w.req with
  | .nc a => let s := ncServe s a; putDir s line (dirEntry s line)
  | _ => if wait = 0 then dirGrant s w passed line else putDir s line { e with busy := some (w, wait) }

/-- R316: among the ownership requests of one cycle, the first holder at or after the pointer. -/
def rotate (ptr : Nat) (ws : List DirWait) : Option DirWait :=
  ((List.range 72).map (fun i => (ptr + i) % 72)).findSome? (fun h => ws.find? (fun w => w.by h))

/-- R317: the request of the lowest holder; non-caching agents come last, in the order given. -/
def lowest (w : DirWait) (ws : List DirWait) : DirWait :=
  ws.foldl (fun a b => if b.holder < a.holder then b else a) w

/-- R315-R317: which request of a cycle is served, and whether ownership requests competed. -/
def dirPick (s : State) (line : Nat) (w : DirWait) (same : List DirWait) : DirWait × Nat :=
  let owns := same.filter (fun x => x.req.owns)
  if owns.length < 2 then (lowest w same, 0)
  else ((rotate (SMap.get (fun _ => 0) s.dirPtr (dirDie line)) owns).getD w, owns.length - 1)

/-- A non-caching access waits while a conductor defers the snoops of the line. -/
def ncHeld (s : State) (line : Nat) (w : DirWait) : Bool := w.holder == hNone && deferring s line

/-- R315-R317: the next of the held requests is presented: those of the oldest cycle compete; losers stay held and are
counted.  `passed` is the data of a write-back that has just been retired. -/
def dirNext (s : State) (passed : Option HLine) (line : Nat) : State :=
  let e := dirEntry s line
  if e.busy.isSome || e.wbOut then s else
  match e.waiters with
  | [] => putDir s line e
  | w :: _ =>
    let p := dirPick s line w (e.waiters.filter (fun x => x.batch == w.batch))
    if ncHeld s line p.1 then s else
    let s := if p.2 = 0 then s else
      { finc s .CTL_RETRIES_COUNT (dirDie line) p.2 with
        dirPtr := SMap.set (fun _ => 0) s.dirPtr (dirDie line) ((p.1.holder + 1) % 72) }
    dirStart (setDir s line (some { e with waiters := e.waiters.erase p.1 })) p.1 passed line

/-- Evictions under way in a line's set. -/
def evicting (s : State) (line : Nat) : Nat :=
  ((setEntries s line).filter (fun e => match e.2.busy with
    | some b => b.1.req == .evict
    | none => false)).length

/-- The requests of one line wait for an entry; an eviction is under way for each line that waits (R308, R311). -/
def dirHold (s : State) (line : Nat) (ws : List DirWait) : State :=
  let s := { s with dirHeld := s.dirHeld ++ [(line, ws)] }
  if (s.dirHeld.filter (fun e => dirSet e.1 == dirSet line)).length ≤ evicting s line then s else
  match dirVictim s line with
  | some l => dirEvict s l
  | none => s

/-- Requests that arrive in one directory cycle, all for one line (R311, R315): non-caching accesses to a line that no cache
holds need no entry. -/
def dirEnter (s : State) (line : Nat) (ws : List DirWait) : State :=
  if ws.isEmpty then s
  else if s.dirHeld.any (fun e => e.1 == line) then dirHold s line ws
  else if (getDir s line).isNone && ws.all (fun w => w.holder == hNone) then
    ws.foldl (fun s w => dirStart s w none line) s
  else if !dirRoom s line then dirHold s line ws
  else
    let e := dirEntry s line
    let s' := setDir s line (some { e with waiters := e.waiters ++ ws })
    if e.active then s' else dirNext s' none line

/-- The requests that wait for an entry of a line's set try again, oldest first. -/
def dirAdmit (s : State) (line : Nat) : State :=
  let mine := s.dirHeld.filter (fun e => dirSet e.1 == dirSet line)
  mine.foldl (fun s e => dirEnter s e.1 e.2)
    { s with dirHeld := s.dirHeld.filter (fun e => dirSet e.1 != dirSet line) }

/-- The last answer to a request's snoops is in: a holder's request is granted; an evicted entry is freed, and the requests
that came to it meanwhile need one again. -/
def dirFinish (s : State) (w : DirWait) (passed : Option HLine) (line : Nat) : State :=
  let e := dirEntry s line
  let s := setDir s line (some { e with busy := none })
  if w.req ≠ .evict then dirGrant s w passed line else
  let s := setDir s line none
  if e.waiters.isEmpty then s else { s with dirHeld := s.dirHeld ++ [(line, e.waiters)] }

/-- A holder answers a snoop (R311, R312, R317): for a GetS it keeps S and its dirty data goes home; for an eviction dirty
data goes home; for a request to own, the owner's line passes to the requester.  With the last answer, and every
write-back retired (R314), the request is finished. -/
def snoopAnswer (s : State) (h line : Nat) : State :=
  match getDir s line with
  | none => s
  | some e =>
    match e.busy with
    | none => s
    | some (w, wait) =>
      if !bit wait h then s else
      let l := getHolder s h line
      let passed := if e.owned && w.req != .evict then l else none
      let keep := w.req == .getS && l.isSome
      let s := if w.req.owns then s else flushHolder s h line
      let s := setHolder s h line (if keep then l.map (fun x => ⟨.S, x.data⟩) else none)
      let wait := setBits wait h 1 0
      let e := { e with owned := false, busy := some (w, wait),
                        holders := if keep then e.holders else setBits e.holders h 1 0 }
      let s := setDir s line (some e)
      if wait = 0 ∧ e.wbOut = false then dirFinish s w passed line else s

/-- Every holder that a line's request waits for answers. -/
def snoopAll (s : State) (line : Nat) : State :=
  match (getDir s line).bind (·.busy) with
  | some b => (holderList b.2).foldl (fun s h => snoopAnswer s h line) s
  | none => s

/-! A holder's own access (R305, R310-R313). -/

/-- Room for a line's entry, made at once where an eviction makes it; none where every entry of the set is in use. -/
def roomNow (s : State) (line : Nat) : Option State :=
  if dirRoom s line then some s else (dirVictim s line).map (fun l => snoopAll (dirEvict s l) l)

/-- A holder's access to a line of control memory, with the request it makes where it does not hold the line as the
access needs, and the store it is for.  None: the line is in use and the access waits.  An empty answer: refused
(R319), or the slice is being scrubbed (R252). -/
def holdLine (s : State) (h part : Nat) (oper : Bool) (line : Nat) (own : Bool) (store : Option (Nat × List Byte)) :
    Option (State × Option (List Byte)) :=
  match getHolder s h line with
  | some ⟨.S, d⟩ => if own then ask else some (s, some d)
  | some l => some (match store with
    | some x => ownStore s h line x
    | none => s, some l.data)
  | none => ask
where
  ask : Option (State × Option (List Byte)) :=
    if scrubbing s (line / 2 ^ 26) then some (s, none) else
    if (dirEntry s line).active || (deferring s line && (getHart s h).rsv != some line)
        || s.dirHeld.any (fun e => e.1 == line) then none else
    if !holderAllowed s h part oper own line then some (dirRefuse s part line, none) else
    ((holderRoom s h line).bind (fun s => roomNow s line)).map (fun s =>
      let s := snoopAll (dirStart s ⟨h, if own then .getX else .getS, part, oper, 0, store⟩ none line) line
      (s, some (((getHolder s h line).map (·.data)).getD (List.replicate 64 0))))

/-- A conductor's L1 data cache: 128 sets of 8 ways, the line used first in its set, the last of a full set dropped (R304;
the replacement DESIGN CHOICE, log 125). -/
def l1Touch (s : State) (g line : Nat) : State :=
  if (getHolder s g line).isNone then s else
  let h := getHart s g
  let same := (h.l1d.filter (fun l => l % 128 == line % 128 && l != line)).take 7
  setHart s g { h with l1d := h.l1d.filter (fun l => l % 128 != line % 128) ++ line :: same }

/-- A conductor's access to a line with its tag. -/
def cndLine (s : State) (g line : Nat) (own : Bool) (store : Option (Nat × List Byte)) :
    Option (State × Option (List Byte)) :=
  holdLine s g (fget s .CND_STATUS_PART g) (fbit s .CND_STATUS_OPER g) line own store

/-- An atomic's store after its read: into the line the conductor owns; of a line no cache installs, at the home (R606). -/
def cndStore (s : State) (g line : Nat) (x : Nat × List Byte) : State :=
  if (getHolder s g line).isSome then ownStore s g line x
  else badStore s (fget s .CND_STATUS_PART g) (fbit s .CND_STATUS_OPER g) line x

/-! Errors (R326, R327). -/

/-- R318: the partition whose tag a line carries; none where it is SHARED or its slice unbound. -/
def dirTag (s : State) (line : Nat) : Option Nat := if isShared s line then none else boundTo s (line / 2 ^ 26)

/-- A lost line: out of every holder; the request that waited for its holders' answers is held again, as the first. -/
def loseLine (s : State) (line : Nat) : State :=
  let s := (List.range 72).foldl (fun s h => setHolder s h line none) s
  match getDir s line with
  | none => s
  | some e =>
    let ws := match e.busy with
      | some b => if b.1.req = .evict then e.waiters else b.1 :: e.waiters
      | none => e.waiters
    putDir s line { e with owned := false, holders := 0, busy := none, waiters := ws }

/-- R327: an uncorrectable error in the directory set of a line: its lines are invalidated in every holder, dirty data
lost, counted, and every partition whose tag the set held is told.  The requests go on. -/
def dirLose (s : State) (line : Nat) : State :=
  let ls := (setEntries s line).map (·.1)
  let parts := (ls.filterMap (dirTag s)).eraseDups
  let s := fsat (ls.foldl loseLine s) .CTL_DIR_UE_COUNT (dirDie line)
  let s := parts.foldl (fun s p => raiseTrouble s (some p) false .dirUe) s
  ls.foldl (fun s l => if (dirAsked s l).isEmpty then s else dirNext s none l) s

end Sys2Proof.Machine
end

