-- ==== Sys2Proof/Machine/RvFp.lean ====
section
/-! DEFINITION. The F and D arithmetic of a conductor core (spec R303 names RV64GC; the standard it names, IEEE 754, is
PRESUMED, log 5): rounding modes, exception flags, conversions.  A result is a code with its flags NV 16, DZ 8, OF 4, UF 2, NX 1. -/
namespace Sys2Proof.Machine

/-- n/d rounded to an integer in rounding mode rm (0 RNE, 1 RTZ, 2 RDN, 3 RUP, 4 RMM), the magnitude of a number with
the given sign; and whether it is inexact. -/
def rvRound (rm : Nat) (neg : Bool) (n d : Nat) : Nat × Bool :=
  let lo := n / d
  let rem := n % d
  if rem = 0 then (lo, false) else
  let up := match rm with
    | 0 => decide (d < 2 * rem) || (decide (2 * rem = d) && lo % 2 == 1)
    | 1 => false
    | 2 => neg
    | 3 => !neg
    | _ => decide (d ≤ 2 * rem)
  (lo + b2n up, true)

/-- (−1)^neg × n/d rounded into an encoding, with its flags; tininess is detected after rounding. -/
def rvEncode (c : Enc) (rm : Nat) (neg : Bool) (n d : Nat) : Nat × Nat :=
  if n = 0 then (c.signBit neg, 0) else
  let emin : Int := 1 - (c.bias : Int)
  let e0 := log2Quot n d
  let e := max e0 emin
  let p := scalePair n d (c.mb - e)
  let q := rvRound rm neg p.1 p.2
  let mag := (e + c.bias - 1).toNat * 2 ^ c.mb + q.1
  let tiny := decide (e0 < emin) &&
    (let p' := scalePair n d (c.mb - e0)
     decide (e0 + 1 < emin) || (rvRound rm neg p'.1 p'.2).1 != 2 ^ (c.mb + 1))
  if (2 ^ c.eb - 1) * 2 ^ c.mb ≤ mag then
    let toMax := rm == 1 || (rm == 2 && !neg) || (rm == 3 && neg)
    (if toMax then c.signBit neg + c.maxCode else c.infCode neg, 5)
  else (c.signBit neg + mag, b2n q.2 + 2 * b2n (tiny && q.2))

/-- A signalling NaN of an encoding. -/
def Enc.snan (c : Enc) (x : Nat) : Bool := (c.decode x).isNan && !bit x (c.mb - 1)

/-- The flag NV where some operand is a signalling NaN. -/
def nvOf (c : Enc) (xs : List Nat) : Nat := if xs.any c.snan then 16 else 0

def rvNum (c : Enc) (rm : Nat) : Num → Nat × Nat
  | .nan => (c.nan, 0)
  | .inf neg => (c.infCode neg, 0)
  | .fin neg m e => let p := scalePair m 1 e; rvEncode c rm neg p.1 p.2

/-- The exact sum of two values; an exact zero from opposite signs is +0, or −0 rounding down. -/
def rvSum (rm : Nat) : Num → Num → Option Num
  | .nan, _ => some .nan
  | _, .nan => some .nan
  | .inf a, .inf b => if a = b then some (.inf a) else none
  | .inf a, _ => some (.inf a)
  | _, .inf b => some (.inf b)
  | .fin a m e, .fin b n f =>
    let g := min e f
    let v : Int := (if a then -1 else 1) * ((m * 2 ^ (e - g).toNat : Nat) : Int)
      + (if b then -1 else 1) * ((n * 2 ^ (f - g).toNat : Nat) : Int)
    if v = 0 then some (.fin (if m = 0 ∧ n = 0 ∧ a = b then a else rm == 2) 0 0)
    else some (Num.ofInt v g)

/-- The exact product; none for zero times infinity. -/
def rvProd : Num → Num → Option Num
  | .nan, _ => some .nan
  | _, .nan => some .nan
  | .inf a, .inf b => some (.inf (a != b))
  | .inf a, .fin b m _ => if m = 0 then none else some (.inf (a != b))
  | .fin a m _, .inf b => if m = 0 then none else some (.inf (a != b))
  | .fin a m e, .fin b n f => some (.fin (a != b) (m * n) (e + f))

/-- A result that may be invalid. -/
def rvOut (c : Enc) (rm nv : Nat) : Option Num → Nat × Nat
  | none => (c.nan, 16)
  | some x => let r := rvNum c rm x; (r.1, Nat.lor r.2 nv)

def rvAdd (c : Enc) (rm a b : Nat) : Nat × Nat := rvOut c rm (nvOf c [a, b]) (rvSum rm (c.decode a) (c.decode b))

def rvSub (c : Enc) (rm a b : Nat) : Nat × Nat :=
  rvOut c rm (nvOf c [a, b]) (rvSum rm (c.decode a) (c.decode b).negate)

def rvMul (c : Enc) (rm a b : Nat) : Nat × Nat := rvOut c rm (nvOf c [a, b]) (rvProd (c.decode a) (c.decode b))

/-- ±(a × b) ± d, one rounding; zero times infinity is invalid even where d is a NaN. -/
def rvFma (c : Enc) (rm a b d : Nat) (negProd negAdd : Bool) : Nat × Nat :=
  let nv := nvOf c [a, b, d]
  match rvProd (c.decode a) (c.decode b) with
  | none => (c.nan, 16)
  | some p =>
    rvOut c rm nv (rvSum rm (if negProd then p.negate else p) (if negAdd then (c.decode d).negate else c.decode d))

def rvDiv (c : Enc) (rm a b : Nat) : Nat × Nat :=
  let nv := nvOf c [a, b]
  match c.decode a, c.decode b with
  | .nan, _ => (c.nan, nv)
  | _, .nan => (c.nan, nv)
  | .inf _, .inf _ => (c.nan, 16)
  | .inf x, .fin y _ _ => (c.infCode (x != y), 0)
  | .fin x _ _, .inf y => (c.signBit (x != y), 0)
  | .fin x m e, .fin y n f =>
    if n = 0 then (if m = 0 then (c.nan, 16) else (c.infCode (x != y), 8)) else
    let p := scalePair m n (e - f)
    rvEncode c rm (x != y) p.1 p.2

/-- The square root: an inexact one stands half a unit above its floor, far below the rounding's last place. -/
def rvSqrt (c : Enc) (rm a : Nat) : Nat × Nat :=
  match c.decode a with
  | .nan => (c.nan, nvOf c [a])
  | .inf neg => if neg then (c.nan, 16) else (a, 0)
  | .fin neg m e =>
    if m = 0 then (a, 0) else if neg then (c.nan, 16) else
    let k : Nat := 2 * (c.mb + 3)
    let up := if (e - k) % 2 = 0 then k else k + 1
    let v := m * 2 ^ up
    let r := isqrt v
    let h := (e - up) / 2
    if r * r = v then let p := scalePair r 1 h; rvEncode c rm false p.1 p.2
    else let p := scalePair (2 * r + 1) 2 h; rvEncode c rm false p.1 p.2

/-- Exact order of two values that are not NaN: −1, 0 or 1. -/
def numCmp : Num → Num → Int
  | .inf a, .inf b => if a = b then 0 else if a then -1 else 1
  | .inf a, _ => if a then -1 else 1
  | _, .inf b => if b then 1 else -1
  | .fin a m e, .fin b n f =>
    let g := min e f
    let v : Int := (if a then -1 else 1) * ((m * 2 ^ (e - g).toNat : Nat) : Int)
      - (if b then -1 else 1) * ((n * 2 ^ (f - g).toNat : Nat) : Int)
    if v < 0 then -1 else if v = 0 then 0 else 1
  | _, _ => 0

/-- FMIN (false) and FMAX (true). -/
def rvMinMax (c : Enc) (isMax : Bool) (a b : Nat) : Nat × Nat :=
  let nv := nvOf c [a, b]
  let x := c.decode a
  let y := c.decode b
  if x.isNan && y.isNan then (c.nan, nv) else if x.isNan then (b, nv) else if y.isNan then (a, nv) else
  let k := numCmp x y
  let less := decide (k < 0) || (k == 0 && bit a (c.eb + c.mb))
  (if less != isMax then a else b, nv)

/-- FLE 0, FLT 1, FEQ 2. -/
def rvCompare (c : Enc) (op a b : Nat) : Nat × Nat :=
  let x := c.decode a
  let y := c.decode b
  if x.isNan || y.isNan then (0, if op = 2 then nvOf c [a, b] else 16) else
  let k := numCmp x y
  (b2n (match op with | 0 => decide (k ≤ 0) | 1 => decide (k < 0) | _ => k == 0), 0)

/-- FCLASS. -/
def rvClass (c : Enc) (a : Nat) : Nat :=
  let neg := bit a (c.eb + c.mb)
  let sub := bits a c.mb c.eb == 0
  match c.decode a with
  | .nan => if c.snan a then 256 else 512
  | .inf _ => if neg then 1 else 128
  | .fin _ m _ =>
    if m = 0 then (if neg then 8 else 16) else if sub then (if neg then 4 else 32) else (if neg then 2 else 64)

/-- A conversion to an integer of w bits, signed or not: out of range is invalid and saturates. -/
def rvToInt (c : Enc) (rm w : Nat) (sgn : Bool) (a : Nat) : Int × Nat :=
  let lo : Int := if sgn then -(2 ^ (w - 1) : Nat) else 0
  let hi : Int := if sgn then (2 ^ (w - 1) : Nat) - 1 else (2 ^ w : Nat) - 1
  match c.decode a with
  | .nan => (hi, 16)
  | .inf neg => (if neg then lo else hi, 16)
  | .fin neg m e =>
    let p := scalePair m 1 e
    let q := rvRound rm neg p.1 p.2
    let v : Int := if neg then -(q.1 : Int) else q.1
    if v < lo then (lo, 16) else if hi < v then (hi, 16) else (v, b2n q.2)

/-- A conversion from an integer. -/
def rvOfInt (c : Enc) (rm : Nat) (v : Int) : Nat × Nat := rvEncode c rm (v < 0) v.natAbs 1

/-- A conversion between the two encodings. -/
def rvConvert (src dst : Enc) (rm a : Nat) : Nat × Nat :=
  let r := rvNum dst rm (src.decode a)
  (r.1, Nat.lor r.2 (nvOf src [a]))

end Sys2Proof.Machine
end

