-- ==== Sys2Proof/Machine/HartOps.lean ====
section
/-! DEFINITION. What a conductor core has beside its instructions (spec R303-R307, R318, R321-R324, R326; PRESUMED, log 5):
registers, CSRs, traps and interrupts, PMP, and its accesses to memory. -/
namespace Sys2Proof.Machine

/-! CND_STATUS.STATE (R328). -/
def cndHalted : Nat := 0
def cndRunning : Nat := 1
def cndWaiting : Nat := 2
def cndSwitching : Nat := 3

def cndState (s : State) (g : Nat) : Nat := fget s .CND_STATUS_STATE g
def setCndState (s : State) (g v : Nat) : State := fset s .CND_STATUS_STATE g v

/-- The tag of a conductor's accesses (R305, R515). -/
def cndWho (s : State) (g : Nat) : Who :=
  ⟨fget s .CND_STATUS_PART g, 4, fbit s .CND_STATUS_OPER g, 6, g / 4, g % 4, false⟩

/-! Registers. -/

def hx (s : State) (g r : Nat) : W64 := if r % 32 = 0 then 0 else SMap.get (fun _ => 0) (getHart s g).x (r % 32)
def hsetX (s : State) (g r : Nat) (v : W64) : State :=
  if r % 32 = 0 then s else
  let h := getHart s g
  setHart s g { h with x := SMap.set (fun _ => 0) h.x (r % 32) v }
def hf (s : State) (g r : Nat) : Nat := (SMap.get (fun _ => (0 : W64)) (getHart s g).f (r % 32)).toNat
/-- A write of an FP register marks the FP state dirty. -/
def hsetF (s : State) (g r v : Nat) : State :=
  let h := getHart s g
  setHart s g { h with f := SMap.set (fun _ => 0) h.f (r % 32) (BitVec.ofNat 64 v),
                       mstatus := setBits h.mstatus 13 2 3 }
/-- A single-precision operand: the canonical NaN where it is not boxed. -/
def unbox (v : Nat) : Nat := if v / 2 ^ 32 = 2 ^ 32 - 1 then v % 2 ^ 32 else Enc.f32.nan
def box (v : Nat) : Nat := v % 2 ^ 32 + (2 ^ 32 - 1) * 2 ^ 32
def haccrue (s : State) (g flags : Nat) : State :=
  let h := getHart s g
  if flags = 0 then s else
  setHart s g { h with fcsr := Nat.lor h.fcsr flags, mstatus := setBits h.mstatus 13 2 3 }
def hpc (s : State) (g : Nat) : W64 := (getHart s g).pc
def hsetPc (s : State) (g : Nat) (v : W64) : State := setHart s g { getHart s g with pc := v }

/-! Traps and interrupts (RISC-V privileged architecture; PRESUMED, log 5). -/

/-- The conductor's signal receive queue is not empty (R306). -/
def extPending (s : State) (g : Nat) : Bool := !(SMap.get (fun _ => []) s.rxq g).isEmpty

/-- mip: the timer's bit 7, the external interrupt's bit 11. -/
def mip (s : State) (g : Nat) : Nat := 128 * b2n (getHart s g).mtip + 2048 * b2n (extPending s g)

/-- Enter the trap handler: the pc, the cause and its value are saved, MIE goes to MPIE, the mode to MPP.
Taking the timer's interrupt ends its request, and any trap leaves the sequence of R313. -/
def takeTrap (s : State) (g : Nat) (irq : Bool) (cause : Nat) (pc : W64) (tval : Nat) : State :=
  let h := getHart s g
  let st := h.mstatus
  let st := setBits st 7 1 (bits st 3 1)
  let st := setBits st 3 1 0
  let st := setBits st 11 2 (if h.machine then 3 else 0)
  let base := h.mtvec / 4 * 4
  setHart s g { h with
    defer := 0
    mstatus := st
    machine := true
    mepc := pc.toNat
    mcause := cause + (if irq then 2 ^ 63 else 0)
    mtval := tval % 2 ^ 64
    mtip := h.mtip && !(irq && cause == 7)
    pc := BitVec.ofNat 64 (if irq && h.mtvec % 4 == 1 then base + 4 * cause else base) }

/-- The interrupt that is to be taken: enabled in mie, and in mstatus unless the core runs in user mode. -/
def pendingIrq (s : State) (g : Nat) : Option Nat :=
  let h := getHart s g
  let p := Nat.land (mip s g) h.mie
  if !(bit h.mstatus 3 || !h.machine) then none
  else if bit p 11 then some 11 else if bit p 7 then some 7 else none

/-- MRET. -/
def mret (s : State) (g : Nat) : State :=
  let h := getHart s g
  let mpp := bits h.mstatus 11 2
  let st := setBits h.mstatus 3 1 (bits h.mstatus 7 1)
  let st := setBits st 7 1 1
  let st := setBits st 11 2 0
  let st := if mpp = 3 then st else setBits st 17 1 0
  setHart s g { h with mstatus := st, machine := mpp == 3, pc := BitVec.ofNat 64 h.mepc }

/-- A waiting core goes on when what it waits for is there (R322, R328): a WFS when its queue is not empty, with 0 in
its register; a WFI when an interrupt is pending; a WFS also leaves its wait for an interrupt it takes. -/
def cndWake (s : State) (g : Nat) : State :=
  if cndState s g ≠ cndWaiting then s else
  let h := getHart s g
  match h.wfs with
  | some (rd, _) =>
    if extPending s g then
      let s := setHart s g { h with wfs := none, pc := h.pc + 4 }
      setCndState (finc (hsetX s g rd 0) .CND_INSTRET_COUNT g) g cndRunning
    else match pendingIrq s g with
      | some c => setCndState (takeTrap (setHart s g { h with wfs := none }) g true c h.pc 0) g cndRunning
      | none => s
  | none => if Nat.land (mip s g) h.mie = 0 then s else setCndState s g cndRunning

/-! CSRs (R306, R324; PRESUMED, log 5). -/

/-- mstatus as read: SD and UXL beside the stored bits. -/
def mstatusView (h : Hart) : Nat :=
  h.mstatus + 2 * 2 ^ 32 + (if bits h.mstatus 13 2 = 3 then 2 ^ 63 else 0)

/-- The bits of mstatus that a write may change: MIE, MPIE, MPP, FS, MPRV, TW. -/
def mstatusWrite (old v : Nat) : Nat :=
  let mpp := if bits v 11 2 = 3 ∨ bits v 11 2 = 0 then bits v 11 2 else bits old 11 2
  bits v 3 1 * 8 + bits v 7 1 * 128 + mpp * 2 ^ 11 + bits v 13 2 * 2 ^ 13 + bits v 17 1 * 2 ^ 17 + bits v 21 1 * 2 ^ 21

/-- The value of a CSR; none where there is no such CSR. -/
def csrValue (s : State) (g n : Nat) : Option Nat :=
  let h := getHart s g
  let fp := fun (v : Nat) => if bits h.mstatus 13 2 = 0 then none else some v
  let counter := fun (i v : Nat) => if h.machine || bit h.mcounteren i then some v else none
  match n with
  | 0x001 => fp (h.fcsr % 32)
  | 0x002 => fp (h.fcsr / 32 % 8)
  | 0x003 => fp (h.fcsr % 256)
  | 0xC00 => counter 0 ((fget s .CND_CYCLES_COUNT g + h.mcycle) % 2 ^ 64)
  | 0xC01 => counter 1 ((s.now + Config.dieSkew (g / 4)) % 2 ^ 64)
  | 0xC02 => counter 2 ((fget s .CND_INSTRET_COUNT g + h.minstret) % 2 ^ 64)
  | 0xB00 => some ((fget s .CND_CYCLES_COUNT g + h.mcycle) % 2 ^ 64)
  | 0xB02 => some ((fget s .CND_INSTRET_COUNT g + h.minstret) % 2 ^ 64)
  | 0xF11 => some 0
  | 0xF12 => some 0
  | 0xF13 => some 0
  | 0xF14 => some g
  | 0xF15 => some 0
  | 0x300 => some (mstatusView h)
  | 0x301 => some (2 * 2 ^ 62 + 0x90112D)
  | 0x304 => some h.mie
  | 0x305 => some h.mtvec
  | 0x306 => some h.mcounteren
  | 0x30A => some 0
  | 0x320 => some 0
  | 0x340 => some h.mscratch
  | 0x341 => some h.mepc
  | 0x342 => some h.mcause
  | 0x343 => some h.mtval
  | 0x344 => some (mip s g)
  | 0x3A0 => some ((List.range 8).foldl (fun v i => v + SMap.get (fun _ => 0) h.pmpcfg i * 2 ^ (8 * i)) 0)
  | 0x3A2 => some ((List.range 8).foldl (fun v i => v + SMap.get (fun _ => 0) h.pmpcfg (8 + i) * 2 ^ (8 * i)) 0)
  | 0x7C0 => some h.remdev
  | 0xFC0 => some h.sigrxd
  | 0xFC1 => some h.sigrxe
  | 0xFC2 => some g
  | n =>
    if 0x3B0 ≤ n ∧ n < 0x3C0 then some (SMap.get (fun _ => 0) h.pmpaddr (n - 0x3B0))
    else if (0xB03 ≤ n ∧ n < 0xB20) ∨ (0x323 ≤ n ∧ n < 0x340) then some 0
    else if 0xC03 ≤ n ∧ n < 0xC20 then counter (n - 0xC00) 0
    else none

def pmpCfg (h : Hart) (i : Nat) : Nat := SMap.get (fun _ => 0) h.pmpcfg i
def pmpAddr (h : Hart) (i : Nat) : Nat := SMap.get (fun _ => 0) h.pmpaddr i

/-- A write of eight PMP configuration bytes: locked ones keep their value, W without R is not taken. -/
def pmpCfgWrite (h : Hart) (base v : Nat) : Hart :=
  (List.range 8).foldl (fun h i =>
    let old := pmpCfg h (base + i)
    let b := bits v (8 * i) 8
    let b := Nat.land b 0x9F
    let b := if bits b 0 2 = 2 then setBits b 0 2 (bits old 0 2) else b
    if bit old 7 then h else { h with pmpcfg := SMap.set (fun _ => 0) h.pmpcfg (base + i) b }) h

/-- A write of a CSR (unknown and read-only ones unchanged). -/
def csrWrite (s : State) (g n v : Nat) : State :=
  let h := getHart s g
  let dirty := fun (h : Hart) => { h with mstatus := setBits h.mstatus 13 2 3 }
  match n with
  | 0x001 => setHart s g (dirty { h with fcsr := h.fcsr / 32 * 32 + v % 32 })
  | 0x002 => setHart s g (dirty { h with fcsr := v % 8 * 32 + h.fcsr % 32 })
  | 0x003 => setHart s g (dirty { h with fcsr := v % 256 })
  | 0xB00 => setHart s g { h with mcycle := (v + (2 ^ 64 - fget s .CND_CYCLES_COUNT g)) % 2 ^ 64 }
  | 0xB02 => setHart s g { h with minstret := (v + (2 ^ 64 - fget s .CND_INSTRET_COUNT g)) % 2 ^ 64 }
  | 0x300 => setHart s g { h with mstatus := mstatusWrite h.mstatus v }
  | 0x304 => setHart s g { h with mie := Nat.land v 0x880 }
  | 0x305 => setHart s g { h with mtvec := v / 4 * 4 + v % 2 }
  | 0x306 => setHart s g { h with mcounteren := v % 2 ^ 32 }
  | 0x340 => setHart s g { h with mscratch := v }
  | 0x341 => setHart s g { h with mepc := v / 2 * 2 }
  | 0x342 => setHart s g { h with mcause := v }
  | 0x343 => setHart s g { h with mtval := v }
  | 0x3A0 => setHart s g (pmpCfgWrite h 0 v)
  | 0x3A2 => setHart s g (pmpCfgWrite h 8 v)
  | 0x7C0 => setHart s g { h with remdev := v % 1024 }
  | n =>
    if 0x3B0 ≤ n ∧ n < 0x3C0 then
      let i := n - 0x3B0
      if bit (pmpCfg h i) 7 || (i < 15 && bit (pmpCfg h (i + 1)) 7 && bits (pmpCfg h (i + 1)) 3 2 == 1) then s
      else setHart s g { h with pmpaddr := SMap.set (fun _ => 0) h.pmpaddr i (v % 2 ^ 54) }
    else s

/-! Physical memory protection (R303 gives 16 entries). -/

/-- The range [lo, hi) of a PMP entry; none where it is off. -/
def pmpRange (h : Hart) (i : Nat) : Option (Nat × Nat) :=
  let a := pmpAddr h i
  match bits (pmpCfg h i) 3 2 with
  | 0 => none
  | 1 => some (if i = 0 then 0 else 4 * pmpAddr h (i - 1), 4 * a)
  | 2 => some (4 * a, 4 * a + 4)
  | _ =>
    let k := (((List.range 54).find? (fun j => !bit a j)).getD 54) + 3
    some (4 * a / 2 ^ k * 2 ^ k, 4 * a / 2 ^ k * 2 ^ k + 2 ^ k)

/-- Whether an access of n bytes passes: `perm` is the bit of R 0, W 1 or X 2; `m` whether it counts as machine mode. -/
def pmpOk (h : Hart) (m : Bool) (perm a n : Nat) : Bool :=
  match (List.range 16).find? (fun i => match pmpRange h i with
      | some r => decide (a < r.2 ∧ r.1 < a + n)
      | none => false) with
  | none => m
  | some i =>
    match pmpRange h i with
    | some r => decide (r.1 ≤ a ∧ a + n ≤ r.2) &&
        ((m && !bit (pmpCfg h i) 7) || bit (pmpCfg h i) perm)
    | none => m

/-- The mode a load or store is checked in (MPRV). -/
def dataMode (h : Hart) : Bool := if bit h.mstatus 17 then bits h.mstatus 11 2 == 3 else h.machine

/-! Accesses (R305, R318, R319). -/

/-- What an access comes to: it must wait, it is done with the bytes it read, or it raises an access fault. -/
inductive MemRes where
  | wait
  | fault (s : State)
  | ok (s : State) (bs : List Byte)

/-- R326: what the check codes of the core's caches find on an access to a line it holds. -/
def cndEcc (s : State) (g line : Nat) (ecc : Ecc) : State × Bool :=
  match ecc, getHolder s g line with
  | .corrected, some _ => (fsat s .CND_ECC_COUNT_CORRECTED g, false)
  | .uncorrectable, some ⟨.M, _⟩ =>
    let s := setHolder s g line none
    let e := dirEntry s line
    let s := putDir s line { e with owned := false, holders := setBits e.holders g 1 0 }
    let s := { s with mem := Bytes.write s.mem (64 * line) (List.replicate 64 0) }
    let s := setUe s line true
    (raiseTrouble s (some (fget s .CND_STATUS_PART g)) (fbit s .CND_STATUS_OPER g) .cndUe, true)
  | .uncorrectable, some _ => (returnLine s g line, false)
  | _, _ => (s, false)

/-- A coherent read of pieces of control memory. -/
def ctlRead (g : Nat) (ecc : Ecc) : List Piece → State → MemRes
  | [], s => .ok s []
  | p :: ps, s =>
    let e := cndEcc s g (p.addr / 64) ecc
    if e.2 then .fault e.1 else
    match cndLine e.1 g (p.addr / 64) false none with
    | none => .wait
    | some (s, d) =>
      let s := l1Touch s g (p.addr / 64)
      let bs := match d with
        | some d => (d.drop (p.addr % 64)).take p.len
        | none => List.replicate p.len 0
      match ctlRead g ecc ps s with
      | .ok s rest => .ok s (bs ++ rest)
      | r => r

/-- A coherent write of pieces. -/
def ctlWrite (g : Nat) (ecc : Ecc) : List Piece → List Byte → State → MemRes
  | [], _, s => .ok s []
  | p :: ps, bs, s =>
    let e := cndEcc s g (p.addr / 64) ecc
    if e.2 then .fault e.1 else
    match cndLine e.1 g (p.addr / 64) true (some (p.addr % 64, bs.take p.len)) with
    | none => .wait
    | some (s, _) => ctlWrite g ecc ps (bs.drop p.len) (l1Touch s g (p.addr / 64))

/-- R305: where an address leads; an unmapped one of 48 bits is under R242 as any other's (R489). -/
inductive Target where
  | control | home | remote | nothing
deriving DecidableEq, Repr

def target (a : Nat) : Target :=
  if a < 2 ^ 48 then
    (match regionOf a with
     | .control _ => .control
     | _ => .home)
  else if bits a 48 16 = 0x80 then .remote
  else .nothing

/-- The consist a conductor's remote access is issued for: its partition's first one, since a core carries no SUB (R341;
DESIGN CHOICE, log 127). -/
def cndConsist (s : State) (w : Who) : Who :=
  match (List.range 256).find? (fun i => fget s .COMP_CONSIST_ID_STATE i != 0 && fget s .COMP_CONSIST_ID_PART i == w.part) with
  | some i => { w with sub := fget s .COMP_CONSIST_ID_SUB i }
  | none => w

/-- The pieces of a remote access that pass the check at their source (R485). -/
def cndRemoteCheck (s : State) (w : Who) (r : Right) (dev : Nat) (ps : List Piece) : (Piece → Bool) × State :=
  if w.oper then (fun _ => true, s) else checkRemote s w r dev ps

/-- A remote read.  `peer` is the peer's answer; none is no answer in time, and the value is then open (R380). -/
def cndRemoteRead (s : State) (g a n : Nat) (peer : Option (List Byte)) : State × List Byte :=
  let w := cndWho s g
  let dev := (getHart s g).remdev
  let ps := pieces a n
  let c := cndRemoteCheck s w .read dev ps
  let s := c.2
  let mask := fun (bs : List Byte) => (ps.foldl (fun (acc : List Byte × Nat) p =>
    (acc.1 ++ (List.range p.len).map (fun i => if c.1 p then bs.getD (acc.2 + i) 0 else 0), acc.2 + p.len))
    (([] : List Byte), 0)).1
  if ps.all (fun p => !c.1 p) then (s, List.replicate n 0)
  else if dev = devNum s then
    let r := ownRead s w c.1 ps
    (r.1, r.2.1)
  else if fabricSize s ≤ dev then (destRefused s w c.1 ps, List.replicate n 0)
  else
    let s := (chunkPieces c.1 ps).foldl (fun s p => taskPacket s (cndConsist s w) 6 dev ptRead 0 p []) s
    let s := taskEnd s w.die peer.isSome
    match peer with
    | some bs => (s, mask bs)
    | none =>
      let d := draw s
      (d.2, leBytes n d.1.toNat)

/-- A remote write; one not acknowledged in time raises the event of R297. -/
def cndRemoteWrite (s : State) (g a : Nat) (bs : List Byte) (peer : Option (List Byte)) : State :=
  let w := cndWho s g
  let dev := (getHart s g).remdev
  let ps := pieces a bs.length
  let c := cndRemoteCheck s w .write dev ps
  let s := c.2
  if ps.all (fun p => !c.1 p) then s
  else if dev = devNum s then ownWrite s w c.1 ps bs
  else if fabricSize s ≤ dev then destRefused s w c.1 ps
  else
    let s := (chunkPieces c.1 ps).foldl (fun s p =>
      taskPacket s (cndConsist s w) 6 dev ptWrite 0 p ((bs.drop (p.addr - a)).take p.len)) s
    let s := taskEnd s w.die peer.isSome
    match peer with
    | some _ => s
    | none => raiseTrouble s (some w.part) w.oper .remoteWrite

/-- A read of n bytes by physical address (R305). -/
def cndRead (s : State) (g a n : Nat) (ecc : Ecc) (peer : Option (List Byte)) : MemRes :=
  match target a with
  | .control => ctlRead g ecc (pieces a n) s
  | .home =>
    if accessHeld s (pieces a n) then .wait else
    let r := devRead s (cndWho s g) a n
    .ok r.1 r.2.1
  | .remote => let r := cndRemoteRead s g (a % 2 ^ 48) n peer; .ok r.1 r.2
  | .nothing => .ok s (List.replicate n 0)

def cndWrite (s : State) (g a : Nat) (bs : List Byte) (ecc : Ecc) (peer : Option (List Byte)) : MemRes :=
  match target a with
  | .control => ctlWrite g ecc (pieces a bs.length) bs s
  | .home =>
    if accessHeld s (pieces a bs.length) then .wait else .ok (devWrite s (cndWho s g) a bs) []
  | .remote => .ok (cndRemoteWrite s g (a % 2 ^ 48) bs peer) []
  | .nothing => .ok s []

/-! Fetching an instruction (R304). -/

/-- A line goes into the L1 instruction cache, which keeps 512 of them; a free value picks the one it drops (R304; log 125). -/
def icachePut (s : State) (g line : Nat) (d : List Byte) : State :=
  let h := getHart s g
  let full := SMap.get (fun _ => []) h.icache line = [] ∧ 512 ≤ h.icache.length
  let x := if full then drawFrom s (h.icache.map (·.1)) else (none, s)
  let ic := match x.1 with
    | some l => SMap.erase l h.icache
    | none => h.icache
  setHart x.2 g { getHart x.2 g with icache := SMap.set (fun _ => []) ic line d }

/-- R326: what the check codes find on a fetch: in the copy of the L1 instruction cache, which is clean, where there is one,
else in the L2. -/
def fetchEcc (s : State) (g line : Nat) (ecc : Ecc) : State × Bool :=
  let h := getHart s g
  if SMap.get (fun _ => []) h.icache line = [] then cndEcc s g line ecc else
  match ecc with
  | .clean => (s, false)
  | .corrected => (fsat s .CND_ECC_COUNT_CORRECTED g, false)
  | .uncorrectable => (setHart s g { h with icache := SMap.erase line h.icache }, false)

/-- Two bytes of an instruction.  A line of the instruction cache is kept where it is the core's own; where the core has
written it since, a free value tells whether the old copy or the new data is used, until a FENCE.I.  `ecc` and `peer` as in
a data access. -/
def fetch16 (s : State) (g a : Nat) (ecc : Ecc) (peer : Option (List Byte)) : MemRes :=
  let h := getHart s g
  if !pmpOk h h.machine 2 a 2 then .fault s else
  match target a with
  | .control =>
    let e := fetchEcc s g (a / 64) ecc
    if e.2 then .fault e.1 else
    (match cndLine e.1 g (a / 64) false none with
     | none => .wait
     | some (s, none) => .ok s [0, 0]
     | some (s, some d) =>
       let old := SMap.get (fun _ => []) (getHart s g).icache (a / 64)
       let use := fun (s : State) (d : List Byte) =>
         MemRes.ok (if (getHolder s g (a / 64)).isSome then icachePut s g (a / 64) d else s) ((d.drop (a % 64)).take 2)
       if old = [] ∨ old = d then use s d
       else
         let f := draw s
         use f.2 (if bit f.1.toNat 0 then old else d))
  | _ => cndRead s g a 2 .clean peer

/-- What a fetch comes to: the instruction's bits and its length. -/
inductive FetchRes where
  | wait
  | fault (s : State) (addr : Nat)
  | ok (s : State) (w len : Nat)
deriving DecidableEq, Repr

/-- The instruction at the pc. -/
def cndFetch (s : State) (g : Nat) (f : Fetched) : FetchRes :=
  let a := (hpc s g).toNat
  match fetch16 s g a f.ecc (f.peers.getD 0 none) with
  | .wait => .wait
  | .fault s => .fault s a
  | .ok s lo =>
    if leNat lo % 4 ≠ 3 then .ok s (leNat lo) 2 else
    match fetch16 s g ((a + 2) % 2 ^ 64) (if a / 64 = (a + 2) / 64 then .clean else f.ecc) (f.peers.getD 1 none) with
    | .wait => .wait
    | .fault s => .fault s ((a + 2) % 2 ^ 64)
    | .ok s hi => .ok s (leNat lo + 65536 * leNat hi) 4

end Sys2Proof.Machine
end

