-- ==== Sys2Proof/Machine/Station.lean ====
section
/-! DEFINITION. The commands of stations, the junction mesh and the signal network (spec R110-R134, R471-R473). -/
namespace Sys2Proof.Machine

/-- The slice states of R334. -/
def slFree : Nat := 0
def slBinding : Nat := 1
def slIdle : Nat := 2
def slStaged : Nat := 3
def slActive : Nat := 4
def slLeaving : Nat := 5
def slLent : Nat := 6
def slScrubbing : Nat := 7

def sliceState (s : State) (k : Nat) : Nat := fget s .COMP_SLICE_STATUS_STATE k

/-- The oldest COMPOSE message delivered to a stop leaves it; none where there is none. -/
def composeTake (s : State) (die stop : Nat) : Option State :=
  (s.stopSigs.findIdx? (fun e => e.1 == die && e.2.1 == stop && e.2.2.cls == clsCompose)).map (fun i =>
    { s with stopSigs := s.stopSigs.eraseIdx i })

/-- R127 steps 2 to 6, on the COMPOSE message that reached the station: a sleeping region starts to wake and the message
waits; else the stores are cleared and the stop takes the new partition tag.  CLEARING stays 1 until step 7. -/
def bindStation (s t : State) (k : Nat) : State :=
  if stnPower s k ≠ domOn then afterDom (setWaking s (stnDomain k) true) (stnDomain k) else
  let t := fset t .STN_STATUS_CLEARING k 1
  let t := bindClear t k
  let t := fset t .STN_STATUS_PART k (fget t .COMP_SLICE_STATUS_PART k)
  fset t .STN_STATUS_BOUND k 1

/-! Accesses that arrive at a station stop (R111, R112, R119, R129). -/

/-- What an access of AccessOp does at a stop: station memory, or the station cache for the addresses it caches. -/
def serveStop (s : State) (k : Nat) (a : Access) : State × List Byte × Bool :=
  let own := match regionOf a.addr with
    | .station j _ => j == k
    | _ => false
  let sc := cacheable a.addr
  let ok := fun (_ : Piece) => true
  let zeros := fun n => List.replicate n (0 : Byte)
  if !own && stnPower s k == domOff then
    (fset s .STN_TROUBLE_REGION_OFF k 1, (match a.op with | .read n => zeros n | _ => []), false)
  else if !own && !stopAccepts s a.who k then
    (fset s .STN_TROUBLE_TAG_MISMATCH k 1, (match a.op with | .read n => zeros n | _ => []), false)
  else match a.op with
  | .read n =>
    if own then readPieces a.who none false true false ok (pieces a.addr n) s
    else if sc then readPieces a.who (some k) true a.nt a.stream ok (pieces a.addr n) s
    else (s, zeros n, false)
  | .write bs =>
    if own then (writePieces a.who none false true ok (pieces a.addr bs.length) bs s, [], false)
    else if sc then (writePieces a.who (some k) true a.nt ok (pieces a.addr bs.length) bs s, [], false)
    else (s, [], false)
  | .atomic op b posted =>
    if own then
      let r := atomicAt s a.who a.addr (.op op b.toNat)
      (r.1, if posted then [] else leBytes (atomBytes op) r.2, false)
    else (s, if posted then [] else zeros (atomBytes op), false)
  | .cas cmp swap posted =>
    if own then
      let r := atomicAt s a.who a.addr (.cas cmp.toNat swap.toNat)
      (r.1, if posted then [] else leBytes 8 r.2, false)
    else (s, if posted then [] else zeros 8, false)

/-- Serve an access and send its answer. -/
def serveAnswer (s : State) (k : Nat) (a : Access) : State :=
  let r := serveStop s k a
  { r.1 with answers := r.1.answers ++ [⟨a, r.2.1, r.2.2⟩] }

/-- R111, R112, R119, R129: an access arrives at a station stop; one that must wait is held there. -/
def execStationMeshAccess (k : Stn) (a : Access) (corrected : Bool) (s : State) : Out :=
  let s := if corrected then fsat s .STN_MEM_ECC_CORRECTED k else s
  if stopHeld s k then .next { s with heldAcc := s.heldAcc ++ [((k : Nat), a)] }
  else .next (serveAnswer s k a)

/-- The accesses held at a stop complete, in the order they arrived (R112, R129). -/
def releaseHeld (s : State) (k : Nat) : State :=
  let mine := s.heldAcc.filter (fun e => e.1 == k)
  let s := { s with heldAcc := s.heldAcc.filter (fun e => e.1 != k) }
  mine.foldl (fun s e => serveAnswer s k e.2) s

/-- R127 step 7: CLEARING ends, the clear is counted, the accesses held at the stop go on, and the station replies. -/
def bindEnd (s : State) (k : Nat) : State :=
  let s := fset s .STN_STATUS_CLEARING k 0
  let s := finc s .STN_CLEARS_COUNT k
  sendSignal (releaseHeld s k) (k / 16) (stnJunction (k % 16))
    ⟨clsCompose, 0, mdStop, (boundTo s k).getD 0, true, [BitVec.ofNat 32 k]⟩

/-- R127 steps 2 to 7: the COMPOSE message of a BIND has reached the station, which clears its stores and takes the new
partition tag, or, when it has cleared them, ends with its reply. -/
def execComposeBindStation (k : Stn) (s : State) : Out :=
  if fbit s .STN_STATUS_CLEARING k = true then .next (bindEnd s k) else
  if sliceState s k = slBinding ∧ stnPower s k ≠ domOff then
    match composeTake s ((k : Nat) / 16) (stnJunction ((k : Nat) % 16)) with
    | some t => .next (bindStation s t k)
    | none => .next s
  else .next s

/-! The junction mesh (R115-R118, R134). -/

/-- R117: the next junction of a route, along the row first. -/
def nextJunction (at_ dst : Nat) : Nat :=
  if at_ % 6 < dst % 6 then at_ + 1 else if dst % 6 < at_ % 6 then at_ - 1
  else if at_ / 6 < dst / 6 then at_ + 6 else if dst / 6 < at_ / 6 then at_ - 6 else at_

/-- R118: the mesh cycles of the link from one junction to the next. -/
def linkCost (a b : Nat) : Nat :=
  if a / 6 = b / 6 then (if min (a % 6) (b % 6) = 2 then 7 else 3)
  else if min (a / 6) (b / 6) = 1 ∨ min (a / 6) (b / 6) = 2 then 5 else 3

/-- The clock divisor of a die's half: 1, 2 or 4 periods of 0.5 ns (R113, R137). -/
def halfDiv (s : State) (d col : Nat) : Nat :=
  2 ^ (if col < 3 then fget s .SEAM_STATUS_WEST_DIV d else fget s .SEAM_STATUS_EAST_DIV d)

/-- R473: a deadline runs down to 1 and no further; 0 is none. -/
def runDown (deadline units : Nat) : Nat := if deadline = 0 then 0 else max 1 (deadline - units)

/-- Packets whose order is kept: of one source stop, on one virtual channel (R117, R472). -/
def MeshPacket.flow (p : MeshPacket) : Nat × (Nat × Nat) × Nat := (p.srcDie, (p.src, 0), b2n p.response)

/-- R472: the earlier packets of one source stop and virtual channel take the class and deadline of a later one
of a higher class. -/
def raiseClass (s : State) (d : Nat) (p : MeshPacket) : State :=
  { s with mesh := s.mesh.map (fun e =>
      if e.die == d && MeshPacket.flow e.pkt == MeshPacket.flow p && decide (e.pkt.cls < p.cls) then
        { e with pkt := { e.pkt with cls := p.cls, deadline := p.deadline } }
      else e) }

/-- R134: what a junction's ECC makes of a packet. -/
def junctionEcc (s : State) (d j : Nat) (p : MeshPacket) (ecc : Ecc) : State × MeshPacket :=
  match ecc with
  | .clean => (s, p)
  | .corrected => (fsat s .JCT_ECC_COUNT_CORRECTED (30 * d + j), p)
  | .uncorrectable =>
    (raiseTrouble (fset s .JCT_STATUS_UNCORR (30 * d + j) 1) (some p.part) p.oper .meshUe,
     { p with data := p.data.map (fun _ => 0) })

/-- R274: the neighbouring compute die on the way to another, the IX stop that leads there and the IX stop at which a
packet enters it: columns first, then rows. -/
def nextDie (d dst : Nat) : Nat × Nat × Nat :=
  if d % 4 < dst % 4 then (d + 1, 11, 6) else if dst % 4 < d % 4 then (d - 1, 6, 11)
  else if d / 4 < dst / 4 then (d + 4, 18, 23) else (d - 4, 23, 18)

/-- The junction of a die that a packet makes for: its stop, or the IX stop on the way to its die. -/
def meshGoal (d : Nat) (p : MeshPacket) : Nat := if p.dstDie = d then p.dst else (nextDie d p.dstDie).2.1

/-- R274: what a crossing between compute dies takes of a deadline: 10 ns, in units of 0.5 ns. -/
def crossUnits : Nat := 20

/-- What injecting at a stop, or ejecting there, takes of a deadline: 2 mesh cycles (R118, R473). -/
def stopUnits (s : State) (d j : Nat) : Nat := 2 * halfDiv s d (j % 6)

/-- Where a packet goes from a junction: ejected at its stop, over to the next die, or over the next link; with the units
of 0.5 ns that this takes (R117, R118, R274). -/
def meshStep (s : State) (d j : Nat) (p : MeshPacket) : Option (Nat × Nat) × Nat :=
  if j = meshGoal d p then
    (if p.dstDie = d then (none, stopUnits s d j)
     else
      let x := nextDie d p.dstDie
      (some (x.1, x.2.2), stopUnits s d j + crossUnits + stopUnits s x.1 x.2.2))
  else
    let n := nextJunction j (meshGoal d p)
    (some (d, n), linkCost j n * max (halfDiv s d (j % 6)) (if j % 6 = n % 6 then 0 else halfDiv s d (n % 6)))

/-- A packet leaves a junction (R117, R118, R274): its deadline runs down by the time it waited there and the time of the
way (R473). -/
def hop (s : State) (e : InMesh) (ecc : Ecc) : State :=
  let r := junctionEcc s e.die e.at_ e.pkt ecc
  let s := finc r.1 .JCT_FLITS_COUNT (30 * e.die + e.at_) (lineUnits r.2.data.length)
  let w := meshStep s e.die e.at_ e.pkt
  let p := { r.2 with deadline := runDown r.2.deadline (2 * (s.now - e.since) + w.2) }
  match w.1 with
  | none => { s with ejected := s.ejected ++ [(e.die, p)] }
  | some n => { s with mesh := s.mesh ++ [⟨n.1, n.2, s.now + (w.2 + 1) / 2, p⟩] }

/-- The output of a junction that a packet waits for: the next junction or the stop, of its virtual channel. -/
def meshOut (e : InMesh) : Nat :=
  let out := if e.at_ = meshGoal e.die e.pkt then 30 else nextJunction e.at_ (meshGoal e.die e.pkt)
  ((30 * e.die + e.at_) * 31 + out) * 2 + b2n e.pkt.response

/-- R471, R472: the packet that a junction's output serves next; an output carries 1,024 bytes in a mesh cycle (R116). -/
def meshNext (s : State) (out : Nat) : Option (InMesh × State) :=
  let q := s.mesh.filter (fun e => meshOut e == out)
  let div := match q.head? with
    | some e => halfDiv s e.die (e.at_ % 6)
    | none => 1
  match arbitrate s 1024 (128 * div) (SMap.get (fun _ => Arb.reset) s.meshArb out) (q.map (fun e =>
      ⟨MeshPacket.flow e.pkt, e.pkt.cls, e.pkt.deadline, e.since, max 32 e.pkt.data.length⟩)) with
  | none => none
  | some r => (q[r.1]?).map (fun e => (e, { aged s r.2.2 with meshArb := SMap.set (fun _ => Arb.reset) s.meshArb out r.2.1 }))

/-- A packet enters the mesh at its source stop (R118, R472). -/
def meshEnter (s : State) (d : Nat) (p : MeshPacket) : State :=
  let s := raiseClass s d p
  { s with mesh := s.mesh ++ [⟨d, p.src, s.now, { p with deadline := runDown p.deadline (stopUnits s d p.src) }⟩] }

/-- R117, R134, R471: the output a packet waits for forwards it if its turn has come; otherwise it waits on. -/
def meshServe (s : State) (e : InMesh) (ecc : Ecc) : State :=
  match meshNext s (meshOut e) with
  | some r => if r.1 == e then hop { r.2 with mesh := r.2.mesh.erase e } e ecc else s
  | none => s

/-- R117, R134: a junction forwards a packet.  One not yet in the mesh enters at its source stop. -/
def execMeshPacketHop (d : Die) (junction : Nat) (p : MeshPacket) (ecc : Ecc) (s : State) : Out :=
  match s.mesh.find? (fun e => e.die == (d : Nat) && e.at_ == junction && e.pkt == p) with
  | some e => .next (meshServe s e ecc)
  | none =>
    if (d : Nat) = p.srcDie ∧ p.dstDie < 16 ∧ junction = p.src ∧ p.src < 30 ∧ p.dst < 30 ∧ p.cls < 8 then
      .next (match (meshEnter s d p).mesh.getLast? with
        | some e => meshServe (meshEnter s d p) e ecc
        | none => s)
    else .next s

/-! The signal network (R121-R125). -/

def getRxq (s : State) (g : Nat) : List Signal := SMap.get (fun _ => []) s.rxq g
def setRxq (s : State) (g : Nat) (q : List Signal) : State := { s with rxq := SMap.set (fun _ => []) s.rxq g q }

/-- The register that holds the longest delivery of a class (R137). -/
def maxLatField (cls : Nat) : Option F :=
  match cls with
  | 0 => some .SIG_MAX_LAT_A_RESET | 1 => some .SIG_MAX_LAT_A_POWER | 2 => some .SIG_MAX_LAT_A_BARRIER
  | 3 => some .SIG_MAX_LAT_A_LAUNCH | 4 => some .SIG_MAX_LAT_B_COMPOSE | 5 => some .SIG_MAX_LAT_B_NOTIFY
  | _ => none

/-- R125, R137: the receiving die records the delivery. -/
def recordLatency (s : State) (d cls latency : Nat) (late : Bool) : State :=
  let s := if late && decide (cls < 6) then fsetBit s .SIG_LATE_CLASS d cls true else s
  match maxLatField cls with
  | some f => fset s f d (max (fget s f d) (min latency 65535))
  | none => s

/-- The station of a junction's stop, where it is one (R115). -/
def stopStation (d stop : Nat) : Option Nat :=
  ((List.range 16).find? (fun i => stnJunction i == stop)).map (fun i => 16 * d + i)

/-- R123: a station stop discards a message of another partition. -/
def stopDiscards (s : State) (k : Nat) (m : Signal) : Bool := !m.oper && boundTo s k != some m.part

end Sys2Proof.Machine
end

