-- ==== Sys2Proof/Machine/BelyanX.lean ====
section
/-! DEFINITION. The commands of the Belyan links (spec R361-R383): ports, flits, forwarding, arriving packets, timeouts. -/
namespace Sys2Proof.Machine

/-! Ports (R362, R374-R378, R575). -/

def execBlyLockWrite (s : State) : Out := .next (blyLock s)
def execPortEnable (p : PortId) (en : Bool) (s : State) : Out := .next (portEnable s p en)
def execRetrain (p : PortId) (s : State) : Out := .next (portRetrain s p)

/-- R376, R575: the presence pin of a port goes low or high. -/
def execPresenceChange (p : PortId) (low : Bool) (s : State) : Out :=
  let s := setMod s { s.mod with cables := SMap.set (fun _ => false) s.mod.cables p low }
  let s := if low && portState s p == pDown then setLink s p { getLink s p with downSince := s.now } else s
  .next (tryTrain s p)

/-- R363: the device and port that a port's neighbour must be. -/
def predicted (s : State) (p : Nat) : Nat × Nat :=
  let d := p / 2
  let n := dimSize s d
  let c := coord s (devNum s) d
  let c' := if p % 2 = 0 then (c + 1) % n else (c + n - 1) % n
  let unit := match d with
    | 0 => 1
    | 1 => dimSize s 0
    | _ => dimSize s 0 * dimSize s 1
  (devNum s - c * unit + c' * unit, otherPort p)

/-- R364, R375, R378: training ends: at full width, or (`half`) on the lower or upper lanes, with the neighbour's device
and port. -/
def execTrainingComplete (p : PortId) (half : Option Bool) (dev peer : Nat) (s : State) : Out :=
  if portState s p ≠ pTraining ∨ (half.isSome = true ∧ fbit s .BLY_PORT_CTRL_ALLOW_HALF p = false) then .next s else
  let s := fset s .BLY_PORT_STATUS_PEER_DEV p (dev % 1024)
  let s := fset s .BLY_PORT_STATUS_PEER_PORT p (peer % 8)
  let s := fset s .BLY_PORT_STATUS_HALF_WIDTH p (b2n half.isSome)
  let s := fset s .BLY_PORT_STATUS_UPPER p (b2n (half.getD false))
  let s := if half.isSome then fset s .BLY_PORT_EVENTS_DEGRADED p 1 else s
  if predicted s p = (dev, peer) then
    let s := setLink (setPort s p pUp) p Link.reset
    .next (linkBack s (otherPort p) (linkCoord s p))
  else .next (fset (setPort s p pMiscabled) .BLY_PORT_EVENTS_MISCABLED p 1)

def execTrainingTimeout (p : PortId) (s : State) : Out :=
  if portState s p = pTraining then
    .next (setLink (setPort s p pDown) p { getLink s p with downSince := s.now })
  else .next s

/-- R374: the sender plays its flits again. -/
def replay (s : State) (p : Nat) : State :=
  setLink (fsat s .BLY_REPLAYS_COUNT p) p { getLink s p with replays := (getLink s p).replays + 1 }

/-- R374: a flit is checked; an acknowledgement lets packets leave; a replay is asked for. -/
def execFlitReceive (p : PortId) (f : Flit) (s : State) : Out :=
  if portState s p ≠ pUp then .next s else
  let l := getLink s p
  match f with
  | .data seq crc fec fixed =>
    let s := fixed.foldl (fun s (k : Fin 32) => fsat s .BLY_LANE_ERR_CORRECTED (32 * p + k)) s
    let s := if fec then s else fsat s .BLY_FEC_UNCORR_COUNT p
    if !crc || !fec then .next { s with flitOut := s.flitOut ++ [((p : Nat), true, l.rxSeq)] }
    else if seq % 65536 = l.rxSeq then
      .next { setLink s p { l with rxSeq := (l.rxSeq + 1) % 65536 } with flitOut := s.flitOut ++ [((p : Nat), false, l.rxSeq)] }
    else .next { s with flitOut := s.flitOut ++ [((p : Nat), decide ((seq + 65536 - l.rxSeq) % 65536 < 32768), l.rxSeq)] }
  | .ack n =>
    let mine := s.unacked.filter (fun e => e.1 == (p : Nat))
    let s := { s with unacked := mine.drop n ++ s.unacked.filter (fun e => e.1 != (p : Nat)) }
    .next (setLink (portGo p portFuel s) p { l with replays := 0 })
  | .replay => .next (replay s p)

/-- R374, R375: 1.5 µs without an acknowledgement of new flits. -/
def execReplayTimeout (p : PortId) (s : State) : Out :=
  if portState s p ≠ pUp ∨ s.unacked.any (fun e => e.1 == (p : Nat)) = false then .next s
  else if 8 ≤ (getLink s p).replays then .next (fset (portDown s p pDown) .BLY_PORT_EVENTS_DOWN_REPLAY p 1)
  else .next (replay s p)

def execLossOfSignal (p : PortId) (s : State) : Out :=
  if portState s p = pUp then .next (fset (portDown s p pDown) .BLY_PORT_EVENTS_DOWN_LOS p 1) else .next s

/-- R375, R575: 100 ms in DOWN with a cable. -/
def execAutoRetrain (p : PortId) (s : State) : Out :=
  if portState s p = pDown ∧ fbit s .BLY_PORT_CTRL_AUTO_RETRAIN p = true ∧ cabled s p = true ∧
      (getLink s p).downSince + 100000000 ≤ s.now then .next (startTraining s p)
  else .next s

/-- R377: a notice of a break, or of its end, arrives at a port. -/
def execLinkdown (p : PortId) (c : Nat) (s : State) : Out :=
  if portState s p = pUp then .next (breakNote s (otherPort p) c) else .next s
def execLinkup (p : PortId) (c : Nat) (s : State) : Out :=
  if portState s p = pUp then .next (breakClear s (otherPort p) c) else .next s

/-! Packets (R365-R373). -/

/-- A packet has come in at a port: its payload is counted. -/
def received (s : State) (p : Nat) (k : Packet) : State := finc s .BLY_RX_BYTES_COUNT p (lineUnits k.payload.length)

/-- R366, R369, R379, R474: a packet for another device goes on. -/
def execPacketForward (p : PortId) (k : Packet) (s : State) : Out :=
  if portState s p ≠ pUp ∨ k.dst = devNum s then .next s else
  let s := received s p k
  match routePacket s { k with hops := k.hops + 1 } false with
  | some r => .next (portSend s r.1 r.2)
  | none => .next (fsat s .BLY_UNROUTABLE_COUNT 0)

/-- R351: a request comes under the grant of the lent slice it is for. -/
def underGrant (s : State) (k : Packet) : Bool :=
  match regionOf k.addr with
  | .hbm j => fbit s .COMP_LEND_VALID j && fget s .COMP_LEND_DEV j == k.src && fget s .COMP_LEND_PART j == k.part &&
      fget s .COMP_LEND_CONSIST j == k.consist
  | _ => false

/-- R371: the local tag of an arriving request: the operator's, a grantee's, or that of the consist's slot here. -/
def localTag (s : State) (k : Packet) : Option Who :=
  if k.oper then some ⟨0, 4, true, 8, k.srcDie, 0, false⟩
  else if underGrant s k then some ⟨k.part, 4, false, 8, k.srcDie, 0, true⟩
  else ((List.range 256).find? (fun i => fget s .COMP_CONSIST_ID_STATE i != 0 && fget s .COMP_CONSIST_ID_ID i == k.consist)).map
    (fun i => ⟨fget s .COMP_CONSIST_ID_PART i, fget s .COMP_CONSIST_ID_SUB i, false, 8, k.srcDie, 0, false⟩)

/-- The answer to a request (R365, R373). -/
def answerPacket (s : State) (k : Packet) (typ : Nat) (data : List Byte) (err : Bool) : State :=
  blyInject s { k with typ := typ, dst := k.src, src := devNum s, err := err, len := data.length, hops := 0, payload := data }

/-- A request for this device that has come in: not yet served where a home holds it. -/
def serves (s : State) (p : Nat) (k : Packet) (typ : Nat) : Bool :=
  portState s p == pUp && k.dst == devNum s && k.typ == typ &&
    !accessHeld s (pieces k.addr (if typ = ptRead then k.len else k.payload.length))

/-- R495: payload accepted for a partition. -/
def accepted (s : State) (w : Who) (n : Nat) : State := meter s w.part w.oper mLink (lineUnits n)

def execBlyRead (p : PortId) (k : Packet) (s : State) : Out :=
  patient s (fun s =>
    if !serves s p k ptRead then .next s else
    let s := received s p k
    match localTag s k with
    | none => .next (answerPacket (fsat s .BLY_TAG_DROPS_COUNT 0) k ptReadResp (List.replicate k.len 0) false)
    | some w =>
      let r := agentRead s w none false false false k.addr k.len
      .next (answerPacket r.1 k ptReadResp r.2.1 r.2.2))

def execBlyWrite (p : PortId) (k : Packet) (s : State) : Out :=
  patient s (fun s =>
    if !serves s p k ptWrite then .next s else
    let s := received s p k
    match localTag s k with
    | none => .next (answerPacket (fsat s .BLY_TAG_DROPS_COUNT 0) k ptWriteAck [] false)
    | some w =>
      let s := agentWrite (accepted s w k.payload.length) w none false false k.addr k.payload
      .next (settle (answerPacket s k ptWriteAck [] false)))

/-- R365: an ATOMIC carries its operand, a CAS the value to compare and the new one (DEDUCED, log 32). -/
def execBlyAtomic (p : PortId) (k : Packet) (s : State) : Out :=
  patient s (fun s =>
    if !serves s p k ptAtomic then .next s else
    let s := received s p k
    let n := if k.aop = 9 then 8 else k.payload.length
    match localTag s k with
    | none => .next (answerPacket (fsat s .BLY_TAG_DROPS_COUNT 0) k ptAtomicResp (List.replicate n 0) false)
    | some w =>
      let x : AtomDo := if k.aop = 9 then .cas (fieldAt k.payload 0 8) (fieldAt k.payload 8 8)
        else .op k.aop (leNat k.payload)
      let r := agentAtomic (accepted s w k.payload.length) w none k.addr x
      .next (answerPacket r.1 k ptAtomicResp (leBytes n r.2) false))

/-- R365, R371, R382: a message of another module's signal network enters this one. -/
def execBlySignal (p : PortId) (k : Packet) (s : State) : Out :=
  if portState s p ≠ pUp ∨ k.dst ≠ devNum s ∨ k.typ ≠ ptSignal ∨ k.payload.length < 4 then .next s else
  let s := received s p k
  match localTag s k with
  | none => .next (fsat s .BLY_TAG_DROPS_COUNT 0)
  | some w =>
    let h := fieldAt k.payload 0 4
    let m : Signal := ⟨h % 16, bits h 4 4, bits h 8 5, w.part, w.oper,
      (List.range (bits h 13 2)).map (fun i => BitVec.ofNat 32 (fieldAt k.payload (4 + 4 * i) 4))⟩
    .next (sendSignal s (17 + p) 30 m)

/-! Answers and timeouts (R380). -/

/-- n bytes at an address that no answer brought: their values are open (DESIGN CHOICE, log 33). -/
def openBytes (s : State) (a : Nat) : Nat → State × Bytes
  | 0 => (s, [])
  | n + 1 =>
    let r := openBytes s a n
    let d := draw r.1
    (d.2, r.2 ++ [(a + n, BitVec.ofNat 8 d.1.toNat)])

/-- An entry of a core has had its last answer: it completes with the bytes that came. -/
def remoteDone (s : State) (c : Nat) (e : Entry) : State :=
  let data := e.payload.pieces.flatMap (fun p => (List.range p.len).map (fun i =>
    ((e.got.find? (fun x => x.1 == p.addr + i)).map (·.2)).getD 0))
  match e.payload with
  | .store _ => completeEntry s c e
  | _ => completeEntry (applyLoad s c e.payload data) c e

/-- One answer, with the bytes at its address. -/
def entryAnswer (s : State) (c slot : Nat) (bytes : Bytes) : State :=
  match (getCore s c).table.find? (fun e => e.slot == slot) with
  | none => s
  | some e =>
    let e := { e with await := e.await - 1, got := e.got ++ bytes }
    if e.await = 0 then remoteDone (putEntry s c e) c e else putEntry s c e

/-- A poll's answer is compared, unless the WAITR's time has passed (R95). -/
def pollAnswer (s : State) (c : Nat) (v : W64) : State :=
  match polling s c false with
  | some (i, _, _, pc, past) =>
    if pollCond (bits i.mod 1 3) v ((getCore s c).s i.s2) then pollEnd s c i pc past false else s
  | none => s

/-- An answer completes its request, or is late (R380). -/
def answered (s : State) (p : Nat) (k : Packet) (typ : Nat) : Out :=
  if portState s p ≠ pUp ∨ k.dst ≠ devNum s ∨ k.typ ≠ typ then .next s else
  let s := received s p k
  match s.remotes.find? (fun r => r.die == k.srcDie && r.tag == k.tag && !r.quarantined) with
  | none => .next (fsat s .BLY_LATE_COUNT 0)
  | some r =>
    let s := { s with remotes := s.remotes.filter (fun x => !(x.die == r.die && x.tag == r.tag)) }
    let s := accepted (epochEnd s r.epoch) ⟨k.part, 4, k.oper, 8, 0, 0, false⟩ k.payload.length
    if r.slot = pollSlot then .next (pollAnswer s r.core (BitVec.ofNat 64 (leNat k.payload)))
    else .next (entryAnswer s r.core r.slot (lineData r.addr k.payload))

def execBlyReadResp (p : PortId) (k : Packet) (s : State) : Out := answered s p k ptReadResp
def execBlyWriteAck (p : PortId) (k : Packet) (s : State) : Out := answered s p k ptWriteAck
def execBlyAtomicResp (p : PortId) (k : Packet) (s : State) : Out := answered s p k ptAtomicResp

/-- R297, R380: the i-th remote access ends as timed out; its tag is quarantined.  A write raises an event; what a read
or an atomic would have brought is open. -/
def execRemoteTimeout (i : Nat) (s : State) : Out :=
  match s.remotes[i]? with
  | none => .next s
  | some r =>
    if r.quarantined then .next s else
    let s := { s with remotes := s.remotes.set i { r with quarantined := true, epoch := none } }
    let s := fsat (epochEnd s r.epoch) .BLY_TIMEOUTS_COUNT 0
    if r.slot = pollSlot then .next s else
    if r.write then
      let part := (getCore s r.core).launch.map (·.part)
      .next (entryAnswer (raiseTrouble s part false .remoteWrite) r.core r.slot [])
    else
      let b := openBytes s r.addr r.len
      .next (entryAnswer b.1 r.core r.slot b.2)

/-- R380: twice the timeout has passed: the i-th tag may be used again. -/
def execTagQuarantineEnd (i : Nat) (s : State) : Out :=
  match s.remotes[i]? with
  | none => .next s
  | some r => if r.quarantined then .next { s with remotes := s.remotes.eraseIdx i } else .next s

end Sys2Proof.Machine
end

