-- ==== Sys2Proof/Machine/PeerOps.lean ====
section
/-! DEFINITION. A unit's accesses to another device: checked at their source, served here when the device is this one,
sent to a peer otherwise (spec R371, R372, R380, R485). -/
namespace Sys2Proof.Machine

/-- What peers answered to a command's accesses, in order: the bytes of one (none of a write), or none for one that was
not answered in time. -/
abbrev Peers := List (Option (List Byte))

/-- The accesses of a command by their places: those in `lost` are not answered in time, the others get the answers in order. -/
def peersOf (answers : List (List Byte)) (lost : List Nat) : Peers :=
  (List.range (answers.length + lost.length)).map (fun i =>
    if lost.contains i then none else answers[i - (lost.filter (· < i)).length]?)

/-- Send an access's packets to a peer, and take its answer. -/
def peerCall (s : State) (w : Who) (cls dev typ aop : Nat) (ps : List Piece) (load : Piece → List Byte) (peers : Peers) :
    State × Option (List Byte) × Peers :=
  let s := ps.foldl (fun s p => taskPacket s w cls dev typ aop p (load p)) s
  (taskEnd s w.die (peers.headD none).isSome, peers.headD none, peers.tail)

/-- A read of n bytes at an address of a device; the lines that the check refuses are zero. -/
def peerRead (s : State) (w : Who) (cls dev a n : Nat) (peers : Peers) : State × Option (List Byte) × Peers :=
  let ps := pieces a n
  let c := checkRemote s w .read dev ps
  if ps.all (fun p => !c.1 p) then (c.2, some (List.replicate n 0), peers) else
  match peerKind s dev with
  | .own =>
    let r := ownRead c.2 w c.1 ps
    (r.1, some r.2.1, peers)
  | .outside => (destRefused c.2 w c.1 ps, some (List.replicate n 0), peers)
  | .peer =>
    let r := peerCall c.2 w cls dev ptRead 0 (chunkPieces c.1 ps) (fun _ => []) peers
    (r.1, r.2.1.map (fun bs => maskPieces c.1 ps (bs ++ List.replicate n 0)), r.2.2)

/-- A write of bytes; whether it was acknowledged. -/
def peerWrite (s : State) (w : Who) (cls dev a : Nat) (bs : List Byte) (peers : Peers) : State × Bool × Peers :=
  let ps := pieces a bs.length
  let c := checkRemote s w .write dev ps
  if ps.all (fun p => !c.1 p) then (c.2, true, peers) else
  match peerKind s dev with
  | .own => (ownWrite c.2 w c.1 ps bs, true, peers)
  | .outside => (destRefused c.2 w c.1 ps, true, peers)
  | .peer =>
    let r := peerCall c.2 w cls dev ptWrite 0 (chunkPieces c.1 ps) (fun p => (bs.drop (p.addr - a)).take p.len) peers
    (r.1, r.2.1.isSome, r.2.2)

/-- An atomic operation; its old value. -/
def peerAtomic (s : State) (w : Who) (cls dev a op b : Nat) (peers : Peers) : State × Option Nat × Peers :=
  let n := atomBytes op
  let ps := pieces a n
  let c := checkRemote s w .atomic dev ps
  if ps.any (fun p => !c.1 p) then (c.2, some 0, peers) else
  match peerKind s dev with
  | .own =>
    let r := agentAtomic c.2 w none a (.op op b)
    (r.1, some r.2, peers)
  | .outside => (destRefused c.2 w c.1 ps, some 0, peers)
  | .peer =>
    let r := peerCall c.2 w cls dev ptAtomic op ps (fun p => leBytes p.len b) peers
    (r.1, r.2.1.map leNat, r.2.2)

end Sys2Proof.Machine
end

