-- ==== Sys2Proof/Machine/KvGate.lean ====
section
/-! DEFINITION. The KV gate: its commands, planes and pages, staged buffers and conversions (spec R138-R158). -/
namespace Sys2Proof.Machine

/-! Planes (R140-R144). -/

/-- The layouts of R140. -/
inductive Layout where
  | tokenFp8 | tokenNs4 | dimNs4
deriving DecidableEq, Repr

/-- A plane as its directory entry gives it (R144). -/
structure Plane where
  ptBase : Nat
  pages : Nat
  dim : Nat
  layout : Layout
  stochastic : Bool
deriving DecidableEq, Repr

/-- R140: tokens per page. -/
def Plane.perPage (p : Plane) : Nat :=
  match p.layout with
  | .tokenFp8 => 65536 / p.dim
  | .tokenNs4 => 64 * (65536 / (35 * p.dim))
  | .dimNs4 => 64 * ((65536 - 64 * p.dim) / (35 * p.dim))

/-- R141: the byte offset in a page of the dim-major tail. -/
def Plane.tail (p : Plane) : Nat := 65536 - 64 * p.dim

/-- Bytes of one row of a token-major plane, or of a tail row (R141). -/
def Plane.rowBytes (p : Plane) : Nat :=
  match p.layout with
  | .tokenNs4 => 35 * p.dim / 64
  | _ => p.dim

/-- R150: BS, the space of a staged block. -/
def Plane.blockBytes (p : Plane) : Nat :=
  match p.layout with
  | .tokenNs4 => 35 * p.dim
  | _ => 64 * p.dim

/-- R144: a directory entry's plane, unless the entry is invalid. -/
def planeOf (bs : List Byte) : Option Plane :=
  let kind := fieldAt bs 12 1
  let k := bits kind 0 3
  let ns4 := bit kind 5
  if 5 ≤ k ∨ bit kind 7 = true ∨ (k = 4 ∧ ns4 = false) then none else
  some ⟨fieldAt bs 0 8 % 2 ^ 48, fieldAt bs 8 4, 64 * 2 ^ bits kind 3 2,
    if !ns4 then .tokenFp8 else if k = 1 ∨ k = 4 then .dimNs4 else .tokenNs4, bit kind 6⟩

/-! Commands (R148). -/

/-- A command as its 32 bytes give it. -/
structure KvCmd where
  op : Nat
  flags : Nat
  layer : Nat
  plane : Nat
  zero5 : Nat
  first : Nat
  count : Nat
  root : Nat
  buf : Nat
  aux : Nat
deriving DecidableEq, Repr

def kvCmdOf (bs : List Byte) : KvCmd :=
  ⟨fieldAt bs 0 1, fieldAt bs 1 1, fieldAt bs 2 2, fieldAt bs 4 1, fieldAt bs 5 3, fieldAt bs 8 4,
    fieldAt bs 12 4, fieldAt bs 16 8, fieldAt bs 24 4, fieldAt bs 28 4⟩

def KvCmd.stage (c : KvCmd) : Bool := c.op == 2 && bit c.flags 0

/-- R148, R149: what can be told from the command alone of a FETCH or WRITE. -/
def KvCmd.formOk (c : KvCmd) : Bool :=
  (c.op == 1 || c.op == 2) && c.zero5 == 0 && decide (c.root < 2 ^ 48) &&
  (if c.op = 1 then c.flags == 0 && c.aux == 0 && c.first % 64 == 0 && decide (1 ≤ c.count ∧ c.count ≤ 4096)
   else decide (c.flags < 2) && (c.stage || c.aux == 0) && decide (1 ≤ c.count ∧ c.count ≤ 64))

/-- R148: BUF and AUX keep the buffers and the source rows inside station memory. -/
def KvCmd.fits (c : KvCmd) (p : Plane) : Bool :=
  (if c.op = 1 then decide (c.buf + 128 + (c.count + 63) / 64 * p.blockBytes ≤ 0x800000)
   else decide (c.buf + 4 * p.dim * c.count ≤ 0x800000)) &&
  (!c.stage || decide (c.aux + 128 + 64 * p.blockBytes ≤ 0x800000))

/-! The gate's accesses (R156). -/

/-- The sub-consist of a slice: its slot's, while it belongs to a consist (R349). -/
def sliceSub (s : State) (k : Nat) : Nat :=
  let st := fget s .COMP_SLICE_STATUS_STATE k
  if 3 ≤ st ∧ st ≤ 5 then fget s .COMP_CONSIST_ID_SUB (fget s .COMP_SLICE_STATUS_SLOT k) else 0

/-- R156: the tag of the station's slice. -/
def kvgWho (s : State) (k : Nat) : Who := ⟨(boundTo s k).getD 0, sliceSub s k, false, 2, k / 16, k % 16, false⟩

def kvgRead (s : State) (k a n : Nat) : State × List Byte :=
  let r := devRead s (kvgWho s k) a n
  (r.1, r.2.1)

/-- R156, R263: a write to pages and tables bypasses the station cache. -/
def kvgWrite (s : State) (k a : Nat) (bs : List Byte) : State := agentWrite s (kvgWho s k) (some k) false false a bs

def stnRead (s : State) (k off n : Nat) : List Byte := Bytes.read s.mem (stnAddr k off) n
def stnWrite (s : State) (k off : Nat) (bs : List Byte) : State :=
  { s with mem := Bytes.write s.mem (stnAddr k off) bs }

/-- A page-table entry (R145). -/
structure Pte where
  addr : Nat
  page : Nat
  scale : Nat
  spilled : Bool
  dev : Nat
  fill : Nat
deriving DecidableEq, Repr

/-- R145, R149: the entry of a page, if the plane has the page and the entry is VALID. -/
def kvgPte (s : State) (k : Nat) (p : Plane) (i : Nat) : State × Option Pte :=
  if p.pages ≤ i then (s, none) else
  let a := (p.ptBase + 16 * i) % 2 ^ 48
  let r := kvgRead s k a 16
  let bs := r.2
  let fl := fieldAt bs 5 1
  (r.1, if bit fl 0 then
      some ⟨a, fieldAt bs 0 4 * 65536, fieldAt bs 4 1, bit fl 1, fieldAt bs 6 2 % 1024, fieldAt bs 8 4⟩
    else none)

/-- A read of a page: this device's, or a spilled one's from device DEV (R151, R372, R485); the gate's commands carry
label 5 (R468). -/
def pageRead (s : State) (k : Nat) (e : Pte) (off n : Nat) (peers : Peers) : State × Option (List Byte) × Peers :=
  let w := kvgWho s k
  if e.spilled then peerRead s w (taskClass s w 5) e.dev (e.page + off) n peers
  else
    let r := kvgRead s k (e.page + off) n
    (r.1, some r.2, peers)

/-! FETCH (R150, R151). -/

/-- Zero the rows of a staged block at or beyond the n-th. -/
def zeroRows (p : Plane) (bs : List Byte) (n : Nat) : List Byte :=
  bs.take (n * p.rowBytes) ++ List.replicate (bs.length - n * p.rowBytes) 0

/-- What a FETCH has staged: FORM, the scales, blocks, bytes. -/
structure Staged where
  form : Nat
  scales : List Nat
  blocks : Nat
  bytes : Nat
deriving DecidableEq, Repr

/-- R151: stage the blocks from the n-th on, `m` of them at most; the status ends them. -/
def fetchBlocks (k : Nat) (c : KvCmd) (p : Plane) (len : Nat) :
    Nat → Nat → Peers → Staged → State → State × Nat × Staged
  | 0, _, _, g, s => (s, 0, g)
  | m + 1, n, peers, g, s =>
    let t := c.first + 64 * n
    let e := kvgPte s k p (t / p.perPage)
    match e.2 with
    | none => (e.1, 1, g)
    | some pte =>
      let b := t % p.perPage / 64
      let tail := p.layout == .dimNs4 && decide (len < t + 64)
      let off := if tail then p.tail else if p.layout = .dimNs4 then b * 35 * p.dim else b * p.blockBytes
      let size := if p.layout = .dimNs4 ∧ ¬tail then 35 * p.dim else p.blockBytes
      let r := pageRead e.1 k pte off size peers
      match r.2.1 with
      | none => (r.1, 3, g)
      | some bs =>
        let bs := if len < t + 64 then zeroRows p bs (len - t) else bs
        let s := stnWrite r.1 k (c.buf + 128 + n * p.blockBytes) bs
        fetchBlocks k c p len m (n + 1) r.2.2
          ⟨g.form + b2n tail * 2 ^ n, g.scales ++ [pte.scale], g.blocks + 1, g.bytes + bs.length⟩ s

/-- R151: the count of blocks that cover the tokens from FIRST to min(FIRST + COUNT, L) − 1. -/
def fetchEnd (c : KvCmd) (len : Nat) : Nat := min (c.first + c.count) len - c.first

/-- R150, R151: the staged buffer's header. -/
def fetchHeader (c : KvCmd) (valid : Nat) (g : Staged) : List Byte :=
  leBytes 4 c.first ++ leBytes 4 valid ++ leBytes 8 g.form ++ List.replicate 48 0 ++
  (List.range 64).map (fun i => BitVec.ofNat 8 (g.scales.getD i 0))

/-- A FETCH: the state, its STATUS, its count. -/
def kvFetch (s : State) (k : Nat) (c : KvCmd) (p : Plane) (len : Nat) (peers : Peers) :
    State × Nat × Nat :=
  let want := fetchEnd c len
  let r := fetchBlocks k c p len ((want + 63) / 64) 0 peers ⟨0, [], 0, 0⟩ s
  let g := r.2.2
  let valid := if r.2.1 = 0 then want else 64 * g.blocks
  let s := stnWrite r.1 k c.buf (fetchHeader c valid g)
  (finc s .KVG_BYTES_COUNT k g.bytes, r.2.1, valid)

/-! WRITE (R152-R154). -/

/-- The ceiling of the base-2 logarithm of n/d. -/
def log2Ceil (n d : Nat) : Int :=
  let f := log2Quot n d
  let p := scalePair 1 1 f
  if n * p.2 = p.1 * d then f else f + 1

/-- R153: the page scale that a first row chooses. -/
def pageScale (p : Plane) (row : List Num) : Nat :=
  if p.layout = .tokenNs4 then 127 else
  let a := amax row
  if a.1 = 0 then 127 else (min (max (log2Ceil a.1 (112 * a.2) + 127) 1) 254).toNat

/-- R44: a finite value whose rounded magnitude is above E4M3's largest. -/
def e4m3Saturates (r : Rnd) (x : Num) : Bool :=
  match x with
  | .fin _ m e => let q := scalePair m 1 e; decide (Enc.e4m3.maxCode < Enc.e4m3.roundMag r q.1 q.2)
  | _ => false

/-- A row of FP8 codes: each value times 2^(127 − S), rounded; and the saturations (R46, R153). -/
def fp8Row (scale : Nat) (rs : List Rnd) (row : List Num) : List Byte × Nat :=
  let xs := (row.map (fun x => x.shift (127 - (scale : Int)))).zip rs
  (xs.map (fun x => BitVec.ofNat 8 (scalarElem .e4m3 x.2 x.1)), (xs.filter (fun x => e4m3Saturates x.2 x.1)).length)

/-- The bytes of one NS4 block of 64 values (R34). -/
def ns4Bytes (rs : List Rnd) (xs : List Num) : List Byte :=
  let b := nsBlock rs xs
  Fmt.packCodes .ns4 b.codes ++ b.scales.map (BitVec.ofNat 8)

/-- NS4 blocks of consecutive groups of 64 values, on fuel. -/
def ns4Blocks : Nat → List Rnd → List Num → List Byte
  | 0, _, _ => []
  | n + 1, rs, xs => ns4Bytes (rs.take 64) (xs.take 64) ++ ns4Blocks n (rs.drop 64) (xs.drop 64)

/-- The roundings that a conversion of n elements takes from the gate's generator (R43, R155). -/
def kvgDraw (s : State) (k : Nat) (p : Plane) (n : Nat) : State × List Rnd :=
  let g := roundings p.stochastic (getKvgLanes s k) n
  (setKvgLanes s k g.1, g.2)

/-- R154: seal block b of a dim-major page from its tail. -/
def kvSeal (s : State) (k : Nat) (p : Plane) (page scale b : Nat) : State :=
  let r := kvgRead s k (page + p.tail) (64 * p.dim)
  let g := kvgDraw r.1 k p (64 * p.dim)
  let cols := (List.range p.dim).flatMap (fun c => (List.range 64).map (fun j =>
    (Enc.e4m3.decode (r.2.getD (j * p.dim + c) 0).toNat).shift ((scale : Int) - 127)))
  let bs := ns4Blocks p.dim g.2 cols
  let s := kvgWrite g.1 k (page + b * 35 * p.dim) bs
  finc (finc s .KVG_SEALS_COUNT k) .KVG_BYTES_COUNT k bs.length

/-- R152 step 6: write a row into the staged buffer at AUX when its block lies there. -/
def kvStage (s : State) (k : Nat) (c : KvCmd) (p : Plane) (t scale : Nat) (bs : List Byte) : State :=
  let first := leNat (stnRead s k c.aux 4)
  let n := (t - first) / 64
  if c.stage = false ∨ t < first ∨ 64 ≤ n then s else
  let s := stnWrite s k (c.aux + 128 + n * p.blockBytes + (t - first) % 64 * p.rowBytes) bs
  let form := leNat (stnRead s k (c.aux + 8) 8)
  let s := stnWrite s k (c.aux + 8) (leBytes 8 (setBits form n 1 (b2n (p.layout == .dimNs4))))
  let s := stnWrite s k (c.aux + 64 + n) [BitVec.ofNat 8 scale]
  let valid := leNat (stnRead s k (c.aux + 4) 4)
  finc (stnWrite s k (c.aux + 4) (leBytes 4 (max valid (t - first + 1)))) .KVG_BYTES_COUNT k bs.length

/-- R152 steps 2 to 6 for one row of token t. -/
def kvWriteRow (s : State) (k : Nat) (c : KvCmd) (p : Plane) (e : Pte) (t : Nat) (row : List Num) : State :=
  let slot := t % p.perPage
  let scale := if e.scale = 255 then pageScale p row else e.scale
  let s := if e.scale = 255 then kvgWrite s k (e.addr + 4) [BitVec.ofNat 8 scale] else s
  let g := kvgDraw s k p p.dim
  let cv := if p.layout = .tokenNs4 then (ns4Blocks (p.dim / 64) g.2 row, 0) else fp8Row scale g.2 row
  let at_ := if p.layout = .dimNs4 then p.tail + slot % 64 * p.dim else slot * p.rowBytes
  let s := kvgWrite g.1 k (e.page + at_) cv.1
  let s := finc (fsat s .KVG_SAT_COUNT k cv.2) .KVG_BYTES_COUNT k cv.1.length
  let s := kvgWrite s k (e.addr + 8) (leBytes 4 (max e.fill (slot + 1)))
  let s := if p.layout = .dimNs4 ∧ slot % 64 = 63 then kvSeal s k p e.page scale (slot / 64) else s
  kvStage s k c p t scale cv.1

/-- R152: the rows from the r-th on, n of them at most: the state, the STATUS, the rows written. -/
def kvWriteRows (k : Nat) (c : KvCmd) (p : Plane) : Nat → Nat → State → State × Nat × Nat
  | 0, r, s => (s, 0, r)
  | n + 1, r, s =>
    let t := c.first + r
    let e := kvgPte s k p (t / p.perPage)
    match e.2 with
    | none => (e.1, 1, r)
    | some pte =>
      if pte.spilled then (e.1, 2, r) else
      let raw := stnRead e.1 k (c.buf + 4 * p.dim * r) (4 * p.dim)
      let row := (List.range p.dim).map (fun i => f32dec (BitVec.ofNat 32 (fieldAt raw (4 * i) 4)))
      kvWriteRows k c p n (r + 1) (kvWriteRow e.1 k c p pte t row)

/-! Executing a command (R147-R149). -/

/-- The command at a ring's head. -/
def kvgHead (s : State) (k ring : Nat) : Nat := if ring = 0 then fget s .KVG_HEAD_HEAD0 k else fget s .KVG_HEAD_HEAD1 k
def kvgBaseOff (s : State) (k ring : Nat) : Nat :=
  4096 * (if ring = 0 then fget s .KVG_RING0_BASE_OFFSET k else fget s .KVG_RING1_BASE_OFFSET k)
def kvgSlotOff (s : State) (k ring : Nat) : Nat := kvgBaseOff s k ring + 32 * kvgHead s k ring
def kvgCmd (s : State) (k ring : Nat) : KvCmd := kvCmdOf (stnRead s k (kvgSlotOff s k ring) 32)

/-- The plane a command names: the root and the directory entry are read and checked (R143, R144, R149), with
LENGTH. -/
def kvgPlane (s : State) (k : Nat) (c : KvCmd) : State × Option (Plane × Nat) :=
  let r := kvgRead s k c.root 64
  let bs := r.2
  let layers := fieldAt bs 4 2
  let planes := fieldAt bs 6 1
  let dir := fieldAt bs 8 8
  if layers = 0 ∨ 256 < layers ∨ planes = 0 ∨ fieldAt bs 7 1 ≠ 0 ∨ 2 ^ 48 ≤ dir ∨ dir % 16 ≠ 0 ∨
      fieldAt bs 16 48 ≠ 0 ∨ layers ≤ c.layer ∨ planes ≤ c.plane then (r.1, none) else
  let d := kvgRead r.1 k ((dir + 16 * (c.layer * planes + c.plane)) % 2 ^ 48) 16
  match planeOf d.2 with
  | none => (d.1, none)
  | some p => if c.fits p then (d.1, some (p, fieldAt bs 0 4)) else (d.1, none)

/-- Run a FETCH or WRITE: the state, STATUS and count. -/
def kvgRun (s : State) (k : Nat) (c : KvCmd) (peers : Peers) : State × Nat × Nat :=
  if !c.formOk then (s, 4, 0) else
  let p := kvgPlane s k c
  match p.2 with
  | none => (p.1, 4, 0)
  | some (pl, len) =>
    if c.op = 1 then kvFetch p.1 k c pl len peers else kvWriteRows k c pl c.count 0 p.1

/-- R149: a command ends: the completion word over bytes 0–7 of its slot, the head, the last status. -/
def kvgEnd (s : State) (k ring slotOff status count : Nat) : State :=
  let s := stnWrite s k slotOff (leBytes 8 (2 ^ 63 + status * 2 ^ 32 + count))
  let head := kvgHead s k ring
  let s := fset s (if ring = 0 then .KVG_HEAD_HEAD0 else .KVG_HEAD_HEAD1) k (head + 1)
  let s := setKvg s k { getKvg s k with last := ring }
  if status = 0 then s else
  let s := fset s .KVG_LAST_STATUS_STATUS k status
  let s := fset s .KVG_LAST_STATUS_RING k ring
  fset s .KVG_LAST_STATUS_SLOT k head

/-- The gate executes its next command, if it is of the asked-for kind, under its consist's CUR epoch (R341). -/
def kvgExec (s : State) (k : Nat) (isOp : Nat → Bool) (run : State → KvCmd → State × Nat × Nat) : State :=
  match kvgNext s k with
  | none => s
  | some ring =>
    let c := kvgCmd s k ring
    if !isOp c.op || inReset s k then s else
    let off := kvgSlotOff s k ring
    let w := kvgWho s k
    let e := epochStart s w.part w.sub
    let r := run e.2 c
    epochEnd (kvgEnd r.1 k ring off r.2.1 r.2.2) e.1

/-- Any command of the gate. -/
def kvgAny (s : State) (k : Nat) (c : KvCmd) (peers : Peers) : State × Nat × Nat :=
  if c.op = 1 ∨ c.op = 2 then kvgRun s k c peers else (s, if c.op = 3 ∧ c.flags = 0 ∧ c.zero5 = 0 then 0 else 4, 0)

/-- R147: a doorbell write. -/
def execKvgDoorbell (k : Stn) (ring tail : Nat) (s : State) : Out := .next (kvgDoorbell s k ring tail)

/-- R151: the next command of the station's KV gate is a FETCH and ends.  `peers` holds the answers of the devices that
hold spilled pages. -/
def execKvgFetch (k : Stn) (peers : Peers) (s : State) : Out :=
  patient s (fun s => .next (kvgExec s k (· == 1) (fun s c => kvgRun s k c peers)))

/-- R152: the next command is a WRITE and ends. -/
def execKvgWrite (k : Stn) (s : State) : Out :=
  patient s (fun s => .next (kvgExec s k (· == 2) (fun s c => kvgRun s k c [])))

/-- R148: the next command is a MARK, or one whose OP is unknown, and ends in ring order. -/
def execKvgMark (k : Stn) (s : State) : Out :=
  .next (kvgExec s k (fun op => op != 1 && op != 2) (fun s c => kvgAny s k c []))

/-! A reset during a command (R157). -/

/-- How far the row that a reset interrupts had come: not begun; its own bytes, those of the seal it calls for, or those of
the staged buffer being written. -/
def tearRow (s : State) (k : Nat) (c : KvCmd) (p : Plane) (r torn : Nat) : State :=
  let t := c.first + r
  let e := kvgPte s k p (t / p.perPage)
  match e.2 with
  | none => e.1
  | some pte =>
    if torn = 0 ∨ pte.spilled = true then s else
    let slot := t % p.perPage
    let at_ := if p.layout = .dimNs4 then p.tail + slot % 64 * p.dim else slot * p.rowBytes
    let raw := stnRead e.1 k (c.buf + 4 * p.dim * r) (4 * p.dim)
    let row := (List.range p.dim).map (fun i => f32dec (BitVec.ofNat 32 (fieldAt raw (4 * i) 4)))
    if torn = 1 then
      let s := if pte.scale = 255 then kvgWrite e.1 k (pte.addr + 4) [BitVec.ofNat 8 (pageScale p row)] else e.1
      let f := freeBytes s p.rowBytes
      kvgWrite f.1 k (pte.page + at_) f.2
    else
      let s := kvWriteRow e.1 k { c with flags := 0 } p pte t row
      if torn = 2 then
        if p.layout = .dimNs4 ∧ slot % 64 = 63 then
          let f := freeBytes s (35 * p.dim)
          kvgWrite f.1 k (pte.page + slot / 64 * 35 * p.dim) f.2
        else s
      else
        let n := (t - leNat (stnRead s k c.aux 4)) / 64
        if c.stage = false ∨ t < leNat (stnRead s k c.aux 4) ∨ 64 ≤ n then s else
        let f := freeBytes s p.rowBytes
        stnWrite f.1 k (c.aux + 128 + n * p.blockBytes + (t - leNat (stnRead s k c.aux 4)) % 64 * p.rowBytes) f.2

/-- R157: the command that the gate was executing is abandoned, with `rows` of its rows or blocks processed and no completion
word; `torn` says which bytes of the next row are undefined. -/
def kvgAbandon (s : State) (k rows torn : Nat) (peers : Peers) : State :=
  match kvgNext s k with
  | none => s
  | some ring =>
    let c := kvgCmd s k ring
    if !c.formOk then s else
    let p := kvgPlane s k c
    match p.2 with
    | none => p.1
    | some (pl, len) =>
      if c.op = 1 then
        (fetchBlocks k c pl len (min rows ((fetchEnd c len + 63) / 64)) 0 peers ⟨0, [], 0, 0⟩ p.1).1
      else
        let r := kvWriteRows k c pl (min rows c.count) 0 p.1
        if r.2.1 = 0 ∧ rows < c.count then tearRow r.1 k c pl rows torn else r.1

/-- R155: a write of KVG_RSEED. -/
def execKvgRseedWrite (k : Stn) (seed : W64) (s : State) : Out := .next (kvgSeed s k seed.toNat)

end Sys2Proof.Machine
end

