-- ==== Sys2Proof/Machine/PointsX.lean ====
section
/-! DEFINITION. The Points unit: selection, dispatch and combining of a ROUTE (spec R165-R175, R177). -/
namespace Sys2Proof.Machine

/-! Maps (R337, R342). -/

/-- Entry i of a slot's map under an epoch: (device, slice). -/
def mapEntry (s : State) (slot epoch i : Nat) : Option (Nat × Nat) :=
  let cur := decide (fget s .COMP_MAP_EPOCH_CUR slot = epoch)
  let m := if cur then (fget s .COMP_MAP_CUR_OFF slot, fget s .COMP_MAP_CUR_LEN slot)
    else SMap.get (fun _ => (0, 0)) s.oldMaps slot
  if i < m.2 then
    let e := fget s .COMP_MAP_STORE_ENTRY (m.1 + i)
    some (bits e 8 10, bits e 0 8)
  else none

/-! Descriptors (R165, R166, R172). -/

/-- A ROUTE's 64-byte command. -/
structure RouteCmd where
  op : Nat
  tokens : Nat
  layer : Nat
  zeros : Nat
  desc : Nat
  logits : Nat
  inRows : Nat
  outRows : Nat
  inStride : Nat
  hidden : Nat
deriving DecidableEq, Repr

def routeCmdOf (bs : List Byte) : RouteCmd :=
  ⟨fieldAt bs 0 1, fieldAt bs 2 2, fieldAt bs 4 2, fieldAt bs 1 1 + fieldAt bs 6 2 + fieldAt bs 48 16,
    fieldAt bs 8 8, fieldAt bs 16 8, fieldAt bs 24 8, fieldAt bs 32 8, fieldAt bs 40 4, fieldAt bs 44 4⟩

def RouteCmd.ok (c : RouteCmd) : Bool :=
  c.op == 1 && c.zeros == 0 && decide (1 ≤ c.tokens ∧ c.tokens ≤ 2048) && c.inStride % 64 == 0 &&
  c.hidden % 64 == 0 && decide (1 ≤ c.hidden ∧ c.hidden ≤ 16384)

/-- A route descriptor. -/
structure RouteDesc where
  experts : Nat
  topk : Nat
  score : Nat
  flags : Nat
  zeros : Nat
  wscale : W32
  capacity : Nat
  biasAddr : Nat
  mapAddr : Nat
deriving DecidableEq, Repr

def routeDescOf (bs : List Byte) : RouteDesc :=
  ⟨fieldAt bs 0 2, fieldAt bs 2 1, fieldAt bs 3 1, fieldAt bs 4 1, fieldAt bs 5 3, BitVec.ofNat 32 (fieldAt bs 8 4),
    fieldAt bs 12 4, fieldAt bs 16 8, fieldAt bs 24 8⟩

def RouteDesc.ok (d : RouteDesc) : Bool :=
  decide (1 ≤ d.experts ∧ d.experts ≤ 256) && decide (1 ≤ d.topk ∧ d.topk ≤ 16 ∧ d.topk ≤ d.experts) &&
  decide (d.score ≤ 2) && decide (d.flags < 8) && d.zeros == 0

def RouteDesc.norm (d : RouteDesc) : Bool := bit d.flags 0
def RouteDesc.bias (d : RouteDesc) : Bool := bit d.flags 1
/-- OVERFLOW NEXT. -/
def RouteDesc.next (d : RouteDesc) : Bool := bits d.flags 2 2 == 1

/-- An expert-map entry (R166). -/
structure Expert where
  first : Nat
  count : Nat
  flags : Nat
  bufOff : Nat
deriving DecidableEq, Repr

def expertOf (bs : List Byte) (e : Nat) : Expert :=
  ⟨fieldAt bs (8 * e) 2, fieldAt bs (8 * e + 2) 1, fieldAt bs (8 * e + 3) 1, fieldAt bs (8 * e + 4) 4⟩

def Expert.valid (e : Expert) : Bool := bit e.flags 0

/-! Selection (R167). -/

/-- Whether x ranks before y: larger, −0 and +0 equal, a NaN below every number. -/
def ranksAbove (x y : W32) : Bool :=
  if fIsNan x then false else if fIsNan y then true else
  let k := fun (z : W32) => if z = 0x80000000 then (0 : Int) else fKey z
  decide (k y < k x)

/-- Put an expert in its place of the ranking: after every earlier one that it does not rank above. -/
def rankInsert (e : Nat × W32) : List (Nat × W32) → List (Nat × W32)
  | [] => [e]
  | x :: xs => if ranksAbove e.2 x.2 then e :: x :: xs else x :: rankInsert e xs

/-- R167: the experts in descending order of their selection values, ties to the lower index. -/
def ranking (xs : List (Nat × W32)) : List Nat := (xs.foldl (fun acc e => rankInsert e acc) []).map (·.1)

/-- log2 e, in FP32. -/
def log2eF : W32 := 0x3FB8AA3B

/-- Softmax of logits in FP32 (R55); the order of its sum is free (DESIGN CHOICE, log 25). -/
def softmax (nonce : Nat) (xs : List W32) : List W32 :=
  let m := (xs.drop 1).foldl fmax (xs.headD 0)
  let es := xs.map (fun x => fexp2 (fmul (fsub x m) log2eF))
  let sum := freeSum nonce es
  es.map (fun e => fdiv e sum)

/-- Sigmoid of a logit in FP32 (DESIGN CHOICE, log 25). -/
def sigmoid (x : W32) : W32 := fdiv f32one (fadd f32one (fexp2 (fmul (fneg x) log2eF)))

/-- R167: the weights of the selected experts, in rank order. -/
def routeWeights (nonce : Nat) (d : RouteDesc) (logits : List W32) (sel : List Nat) : List W32 :=
  let raw := match d.score with
    | 0 => let w := softmax nonce logits; sel.map (fun e => w.getD e 0)
    | 1 => sel.map (fun e => sigmoid (logits.getD e 0))
    | _ => softmax nonce (sel.map (fun e => logits.getD e 0))
  let sum := freeSum (nonce + 1) raw
  let ws := if d.norm && sum &&& 0x7FFFFFFF != 0 then raw.map (fun w => fdiv w sum) else raw
  ws.map (fun w => fmul w d.wscale)

/-- One token's choices: the ranking's first sixteen, and the weights of the first k. -/
structure Choice where
  ranked : List Nat
  weights : List W32
deriving DecidableEq, Repr

def chooseExperts (nonce : Nat) (d : RouteDesc) (valid : List Nat) (logits bias : List W32) : Choice :=
  let vals := valid.map (fun e => (e, if d.bias then fadd (logits.getD e 0) (bias.getD e 0) else logits.getD e 0))
  let r := (ranking vals).take 16
  ⟨r, routeWeights nonce d logits (r.take d.topk)⟩

/-! Assignment and dispatch (R168-R171). -/

/-- The Points unit's tag for a command: its conductor's partition (R175); `sub` is the sub-consist the command is
issued for. -/
def ptsWho (s : State) (d r sub : Nat) : Who := ⟨fget s .CND_STATUS_PART (4 * d + r), sub, false, 3, d, 0, false⟩

/-- What the dispatch of a command carries along: assignments admitted to each expert, what the peers are still to answer,
whether one of them did not in time, the assignments made. -/
structure Dispatch where
  held : List Nat
  peers : Peers
  late : Bool
  made : List Assign
deriving DecidableEq, Repr

/-- The device address of a shard's buffer. -/
def shardAddr (sh : Nat × Nat) (off : Nat) : Nat := stnAddr sh.2 off

/-- The class of a Points unit's requests to peers: a ROUTE carries label 5 (R468). -/
def ptsClass (s : State) (w : Who) : Nat := taskClass s w 5

/-- The dispatch after one answer of a peer. -/
def Dispatch.heard {α : Type} (g : Dispatch) (x : State × Option α × Peers) : Dispatch :=
  { g with peers := x.2.2, late := g.late || x.2.1.isNone }

/-- R170: reserve a slot in the buffer of the expert's FIRST shard, which may lie on another module; none when no slot is
free. -/
def reserveSlot (s : State) (w : Who) (sh : Nat × Nat) (off : Nat) (g : Dispatch) : State × Option Nat × Dispatch :=
  if sh.1 = devNum s then
    let h := devRead s w (shardAddr sh off) 8
    if fieldAt h.2.1 0 4 < fieldAt h.2.1 4 4 then
      let r := agentAtomic h.1 w none (shardAddr sh off) (.op 0 1)
      (r.1, some r.2, g)
    else (h.1, none, g)
  else
    let h := peerRead s w (ptsClass s w) sh.1 (shardAddr sh off) 8 g.peers
    let g := g.heard h
    match h.2.1 with
    | none => (h.1, none, g)
    | some bs =>
      if fieldAt bs 0 4 < fieldAt bs 4 4 then
        let r := peerAtomic h.1 w (ptsClass s w) sh.1 (shardAddr sh off) 0 1 g.peers
        (r.1, r.2.1, g.heard r)
      else (h.1, none, g)

/-- R169, R170: the record and the input row go to one shard; those of another module travel over the links. -/
def sendShard (w : Who) (c : RouteCmd) (row rec : List Byte) (off slot : Nat) (x : State × Dispatch) (sh : Nat × Nat) :
    State × Dispatch :=
  let s := x.1
  if sh.1 = devNum s then
    let s := devWrite s w (shardAddr sh (off + 64 + 16 * slot)) rec
    let h := devRead s w (shardAddr sh (off + 8)) 4
    (devWrite h.1 w (shardAddr sh (leNat h.2.1 + slot * c.inStride)) row, x.2)
  else
    let cls := ptsClass s w
    let a := peerWrite s w cls sh.1 (shardAddr sh (off + 64 + 16 * slot)) rec x.2.peers
    let g := { x.2 with peers := a.2.2, late := x.2.late || !a.2.1 }
    let h := peerRead a.1 w cls sh.1 (shardAddr sh (off + 8)) 4 g.peers
    let g := g.heard h
    match h.2.1 with
    | none => (h.1, g)
    | some bs =>
      let b := peerWrite h.1 w cls sh.1 (shardAddr sh (leNat (bs.take 4) + slot * c.inStride)) row g.peers
      (b.1, { g with peers := b.2.2, late := g.late || !b.2.1 })

/-- What one command's dispatch reads once: its descriptor, the experts, and each expert's shards. -/
structure RouteCtx where
  who : Who
  die : Nat
  cmd : RouteCmd
  desc : RouteDesc
  experts : List Expert
  shards : List (List (Nat × Nat))
deriving DecidableEq, Repr

/-- R168: place a token to an expert: below its capacity and with a slot free. -/
def takeSlot (x : RouteCtx) (token rank e : Nat) (weight : W32) (s : State) (g : Dispatch) : State × Dispatch × Bool :=
  let held := g.held.getD e 0
  if x.desc.capacity ≠ 0 ∧ x.desc.capacity ≤ held then (s, g, false) else
  let ex := x.experts.getD e ⟨0, 0, 0, 0⟩
  let shs := x.shards.getD e []
  let r := reserveSlot s x.who (shs.headD (0, 0)) ex.bufOff g
  match r.2.1 with
  | none => (r.1, r.2.2, false)
  | some slot =>
    let row := devRead r.1 x.who ((x.cmd.inRows + token * x.cmd.inStride) % 2 ^ 48) x.cmd.inStride
    let rec_ := leBytes 2 token ++ leBytes 1 rank ++ leBytes 1 x.die ++ leBytes 4 weight.toNat ++ List.replicate 8 0
    let d := shs.foldl (sendShard x.who x.cmd row.2.1 rec_ ex.bufOff slot) (row.1, r.2.2)
    (d.1, { d.2 with held := setAt d.2.held e (held + 1)
                     made := d.2.made ++ [⟨token, shs, slot, ex.bufOff, weight⟩] }, true)

/-- R168: the spares in rank order, until one takes the assignment. -/
def trySpares (x : RouteCtx) (token : Nat) (weight : W32) (taken : List Nat) :
    List (Nat × Nat) → State → Dispatch → State × Dispatch × Option Nat
  | [], s, g => (s, g, none)
  | (rank, e) :: rest, s, g =>
    if taken.contains e then trySpares x token weight taken rest s g else
    let r := takeSlot x token rank e weight s g
    if r.2.2 then (r.1, r.2.1, some e) else trySpares x token weight taken rest r.1 r.2.1

/-- R168: a token's choices in rank order. -/
def assignChoices (x : RouteCtx) (token : Nat) (spares : List (Nat × Nat)) :
    List (Nat × Nat × W32) → List Nat → State → Dispatch → State × Dispatch
  | [], _, s, g => (s, g)
  | (rank, e, w) :: rest, taken, s, g =>
    let r := takeSlot x token rank e w s g
    if r.2.2 then assignChoices x token spares rest taken r.1 r.2.1
    else if x.desc.next then
      let t := trySpares x token w taken spares r.1 r.2.1
      match t.2.2 with
      | some e' => assignChoices x token spares rest (e' :: taken) (finc t.1 .PTS_REROUTED_COUNT x.die) t.2.1
      | none => assignChoices x token spares rest taken (finc t.1 .PTS_DROPPED_COUNT x.die) t.2.1
    else assignChoices x token spares rest taken (finc r.1 .PTS_DROPPED_COUNT x.die) r.2.1

/-- The tokens of a command in ascending order (R168). -/
def routeTokens (x : RouteCtx) (valid : List Nat) (bias : List W32) :
    Nat → Nat → State → Dispatch → State × Dispatch
  | 0, _, s, g => (s, g)
  | n + 1, i, s, g =>
    let e := x.desc.experts
    let l := devRead s x.who ((x.cmd.logits + i * ((4 * e + 63) / 64 * 64)) % 2 ^ 48) (4 * e)
    let logits := (List.range e).map (fun j => BitVec.ofNat 32 (fieldAt l.2.1 (4 * j) 4))
    let ch := chooseExperts l.1.freeCtr x.desc valid logits bias
    let ranked := (List.range ch.ranked.length).map (fun j => (j + 1, ch.ranked.getD j 0))
    let firsts := (ranked.take x.desc.topk).map (fun p => (p.1, p.2, ch.weights.getD (p.1 - 1) 0))
    let r := assignChoices x i (ranked.drop x.desc.topk) firsts (ch.ranked.take x.desc.topk)
      { l.1 with freeCtr := l.1.freeCtr + 2 } g
    routeTokens x valid bias n (i + 1) r.1 r.2

/-- The shards of an expert under the request's epoch; none when its map entry is out of range (R166, R342). -/
def expertShards (s : State) (ep : Option EpochRef) (e : Expert) : Option (List (Nat × Nat)) :=
  if 1 < e.flags ∨ e.count = 0 ∨ 64 < e.count then none else
  match ep with
  | none => none
  | some r => (List.range e.count).mapM (fun i => mapEntry s r.slot r.epoch (e.first + i))

/-- The word of R173. -/
def routeWord (done : Bool) (status tokens : Nat) : Nat :=
  b2n done * 2 ^ 63 + 2 ^ 62 + status * 2 ^ 32 + tokens

/-- A ROUTE ends: the word, the last error, and the epoch's count. -/
def routeEnd (s : State) (w : Who) (d word status tokens : Nat) (ep : Option EpochRef) : State :=
  let s := writeWord s w word (routeWord true status tokens)
  let s := if status = 0 then s else fset s .PTS_STATUS_LAST_ERROR d status
  epochEnd s ep

/-- The context of a command whose fields, descriptor and map are all in range. -/
def routeCtx (s : State) (w : Who) (d : Nat) (c : RouteCmd) (ep : Option EpochRef) : State × Option RouteCtx :=
  if !c.ok then (s, none) else
  let r := devRead s w (c.desc % 2 ^ 48) 32
  let ds := routeDescOf r.2.1
  if !ds.ok then (r.1, none) else
  let m := devRead r.1 w (ds.mapAddr % 2 ^ 48) (8 * ds.experts)
  let es := (List.range ds.experts).map (expertOf m.2.1)
  let shs := es.map (fun e => if e.valid then expertShards m.1 ep e else some [])
  (m.1, if shs.all Option.isSome then some ⟨w, d, c, ds, es, shs.map (fun x => x.getD [])⟩ else none)

/-- R168-R173: the Points unit takes its next command and dispatches it.  `sub` is the sub-consist that issued it,
`peers` what other modules answered to its accesses. -/
def routeRun (d : Die) (sub : Nat) (peers : Peers) (s : State) : State :=
  match ptsNext s d with
  | none => s
  | some r =>
    let w := ptsWho s d r (sub % 4)
    let word := 64 * fget s .PTS_RING_BASE_ADDR (4 * (d : Nat) + r) + 64 * ptsHead s d r
    let cr := devRead s w word 64
    let c := routeCmdOf cr.2.1
    let s := fset cr.1 (ptsHeadF r) d (ptsHead s d r + 1)
    let s := setPoints s d { getPoints s d with last := r }
    let e := epochStart s w.part w.sub
    let x := routeCtx e.2 w d c e.1
    match x.2 with
    | none => routeEnd x.1 w d word 1 0 e.1
    | some x' =>
      let bias := if x'.desc.bias then devRead x.1 w (x'.desc.biasAddr % 2 ^ 48) (4 * x'.desc.experts) else (x.1, [], false)
      let valid := (List.range x'.desc.experts).filter (fun i => (x'.experts.getD i ⟨0, 0, 0, 0⟩).valid)
      let bs := (List.range x'.desc.experts).map (fun j => BitVec.ofNat 32 (fieldAt bias.2.1 (4 * j) 4))
      let g := routeTokens x' valid bs c.tokens 0 bias.1 ⟨List.replicate x'.desc.experts 0, peers, false, []⟩
      let s := finc g.1 .PTS_TOKENS_COUNT d c.tokens
      if g.2.late then routeEnd s w d word 3 c.tokens e.1
      else
        let s := writeWord s w word (routeWord false 0 c.tokens)
        { s with routes := s.routes ++ [⟨d, r, word, w.part, w.sub, c.tokens, c.hidden, c.outRows, g.2.made, e.1, s.now⟩] }

/-- R168: the next ROUTE; `lost` names the accesses to other modules that get no answer in time. -/
def execRoute (d : Die) (sub : Nat) (answers : List (List Byte)) (lost : List Nat) (s : State) : Out :=
  patient s (fun s => .next (routeRun d sub (peersOf answers lost) s))

/-! Combining (R174). -/

/-- A contribution to combine: an assignment and one of its shards. -/
structure Contrib where
  a : Assign
  shard : Nat × Nat
deriving DecidableEq, Repr

def Route.contribs (r : Route) : List Contrib := r.assigns.flatMap (fun a => a.shards.map (fun sh => ⟨a, sh⟩))

/-- Whether a shard's READY covers the contribution's slot; `peers` answers the accesses to a shard of another module. -/
def covered (s : State) (w : Who) (c : Contrib) (peers : Peers) : State × Bool × Peers :=
  if c.shard.1 = devNum s then
    let r := devRead s w (shardAddr c.shard (c.a.bufOff + 24)) 4
    (r.1, decide (c.a.slot < leNat r.2.1), peers)
  else
    let r := peerRead s w (ptsClass s w) c.shard.1 (shardAddr c.shard (c.a.bufOff + 24)) 4 peers
    (r.1, r.2.1.any (fun bs => decide (c.a.slot < leNat (bs.take 4))), r.2.2)

/-- Add weight × partial to a row, element by element (R174). -/
def addRow (s : State) (w : Who) (rowAddr : Nat) (weight : W32) (part : List Byte) (n : Nat) : State :=
  let o := devRead s w rowAddr (4 * n)
  let vals := (List.range n).flatMap (fun i =>
    leBytes 4 (ffma weight (BitVec.ofNat 32 (fieldAt part (4 * i) 4)) (BitVec.ofNat 32 (fieldAt o.2.1 (4 * i) 4))).toNat)
  devWrite o.1 w rowAddr vals

/-- A contribution's partial output; none where its module did not answer in time. -/
def partOf (s : State) (w : Who) (r : Route) (c : Contrib) (peers : Peers) : State × Option (List Byte) :=
  let n := 4 * r.hidden
  if c.shard.1 = devNum s then
    let h := devRead s w (shardAddr c.shard (c.a.bufOff + 16)) 8
    let x := devRead h.1 w ((leNat h.2.1 + c.a.slot * n) % 2 ^ 48) n
    (x.1, some x.2.1)
  else
    let cls := ptsClass s w
    let h := peerRead s w cls c.shard.1 (shardAddr c.shard (c.a.bufOff + 16)) 8 peers
    match h.2.1 with
    | none => (h.1, none)
    | some bs =>
      let x := peerRead h.1 w cls c.shard.1 ((leNat (bs.take 8) + c.a.slot * n) % 2 ^ 48) n h.2.2
      (x.1, x.2.1)

/-- Add one contribution's partial output; whether it came. -/
def addContrib (w : Who) (r : Route) (x : State × Bool) (c : Contrib × Peers) : State × Bool :=
  let p := partOf x.1 w r c.1 c.2
  match p.2 with
  | none => (p.1, false)
  | some bs => (addRow p.1 w ((r.outRows + c.1.a.token * (4 * r.hidden)) % 2 ^ 48) c.1.a.weight bs r.hidden, x.2)

/-- The covered contributions, each with what its peer is still to answer, in index order. -/
def readyOnes (w : Who) : List (Contrib × Peers) → State → State × List (Contrib × Peers)
  | [], s => (s, [])
  | x :: xs, s =>
    let c := covered s w x.1 x.2
    let rest := readyOnes w xs c.1
    (rest.1, if c.2.1 then (x.1, c.2.2) :: rest.2 else rest.2)

/-- A list in the order that indices give; what they leave out follows in its own order. -/
def inOrder {α : Type} (order : List Nat) (xs : List α) : List α :=
  let o := (order.filter (fun i => decide (i < xs.length))).eraseDups
  (o ++ (List.range xs.length).filter (fun i => !o.contains i)).filterMap (fun i => xs[i]?)

/-- Combine a route's contributions, once every READY covers its slot, or at the timeout where some does not.  A partial that
its module does not return in time ends the command REMOTE_TIMEOUT (DEDUCED from R380, log 121). -/
def combine (s : State) (i : Nat) (r : Route) (order : List Nat) (peers : List Peers) (timeout : Bool) : State :=
  let w : Who := ⟨r.part, r.sub, false, 3, r.die, 0, false⟩
  let cs := r.contribs
  let xs := (List.range cs.length).filterMap (fun j => (cs[j]?).map (fun c => (c, peers.getD j [])))
  let ready := readyOnes w xs s
  let full := ready.2.length == cs.length
  if full == timeout then s else
  let x := (inOrder order ready.2).foldl (addContrib w r) (ready.1, true)
  let s := { x.1 with routes := x.1.routes.eraseIdx i }
  routeEnd s w r.die r.word (if timeout then 2 else if x.2 then 0 else 3) r.tokens r.epoch

/-- R174: every READY of the oldest dispatched ROUTE of ring r covers its slots.  `order` gives the order in which
the partials arrive, `peers` what other modules answer to the accesses of each contribution. -/
def execPointsCombine (d : Die) (r : Fin 4) (order : List Nat) (peers : List Peers) (s : State) : Out :=
  match s.routes.findIdx? (fun x => x.die == (d : Nat) && x.ring == (r : Nat)) with
  | none => .next s
  | some i => match s.routes[i]? with
    | none => .next s
    | some x => patient s (fun s => .next (combine s i x order peers false))

/-- R173: PTS_TIMEOUT passes while some READY of the ring's oldest dispatched ROUTE does not cover its slots. -/
def execPartialTimeout (d : Die) (r : Fin 4) (order : List Nat) (peers : List Peers) (s : State) : Out :=
  match s.routes.findIdx? (fun x => x.die == (d : Nat) && x.ring == (r : Nat)) with
  | none => .next s
  | some i => match s.routes[i]? with
    | none => .next s
    | some x =>
      if s.now < x.since + 1000 * fget s .PTS_TIMEOUT_MICROSECONDS d then .next s
      else patient s (fun s => .next (combine s i x order peers true))

/-- R172: a doorbell write. -/
def execPtsDoorbell (d : Die) (r : Fin 4) (tail : Nat) (s : State) : Out := .next (ptsDoorbell s d r tail)

end Sys2Proof.Machine
end

