-- ==== Sys2Proof/Machine/Ports.lean ====
section
/-! DEFINITION. The accesses of agents that hold lines of control memory (spec R309, R310): the Branch-line write port, the
Fuane port, the Chervil front ends, and the conductor that serves a partition's loop. -/
namespace Sys2Proof.Machine

/-- R309: the front end that fetches the descriptor chains of a channel: 0 for the dies of the west half (DESIGN CHOICE,
log 125). -/
def hChain (die : Nat) : Nat := 70 + die / 8 % 2

/-- A piece of control memory is read as a holder's line, a bad one with the error mark (R249, R606); where the access must
wait, the agent's command does (log 120). -/
def heldPiece (s : State) (w : Who) (h : Nat) (p : Piece) : State × List Byte × Bool :=
  match holdLine s h w.part w.oper (p.addr / 64) false none with
  | none => ({ s with stalled := true }, List.replicate p.len 0, false)
  | some (s, some d) =>
    (s, (d.drop (p.addr % 64)).take p.len, (getHolder s h (p.addr / 64)).isNone && isUe s (p.addr / 64))
  | some (s, none) => (s, List.replicate p.len 0, false)

def heldStore (s : State) (w : Who) (h : Nat) (p : Piece) (bs : List Byte) : State :=
  match holdLine s h w.part w.oper (p.addr / 64) true (some (p.addr % 64, bs)) with
  | none => { s with stalled := true }
  | some r => r.1

def isCtl (p : Piece) : Bool := match regionOf p.addr with
  | .control _ => true
  | _ => false

/-- Read checked pieces in order, those of control memory through a holder. -/
def heldReads (w : Who) (h : Nat) (ok : Piece → Bool) : List Piece → State → State × List Byte × Bool
  | [], s => (s, [], false)
  | p :: ps, s =>
    let r := if !ok p then (s, List.replicate p.len 0, false)
      else if isCtl p then heldPiece s w h p
      else pieceRead s w none false false false p
    let rest := heldReads w h ok ps r.1
    (rest.1, r.2.1 ++ rest.2.1, r.2.2 || rest.2.2)

def heldWrites (w : Who) (h : Nat) (ok : Piece → Bool) : List Piece → List Byte → State → State
  | [], _, s => s
  | p :: ps, bs, s =>
    heldWrites w h ok ps (bs.drop p.len)
      (if !ok p then s else if isCtl p then heldStore s w h p (bs.take p.len)
       else pieceWrite s w none false true p (bs.take p.len))

/-- A checked read of n bytes by an agent that holds lines of control memory. -/
def heldRead (s : State) (w : Who) (h a n : Nat) : State × List Byte × Bool :=
  let ps := pieces a n
  let c := checkAccess (reach s (ps.filter (fun p => !isCtl p))) w .read ps
  heldReads w h c.1 ps c.2

/-- A checked write. -/
def heldWrite (s : State) (w : Who) (h a : Nat) (bs : List Byte) : State :=
  let ps := pieces a bs.length
  let c := checkAccess (reach s (ps.filter (fun p => !isCtl p))) w .write ps
  heldWrites w h c.1 ps bs c.2

end Sys2Proof.Machine
end

