-- ==== Sys2Proof/Machine/BranchX.lean ====
section
/-! DEFINITION. The Branch-line units: drafting, acceptance and commit of token trees (spec R178-R207). -/
namespace Sys2Proof.Machine

/-! Commands and records (R180-R182, R184, R190, R194). -/

/-- The unit's tag (R179): partition u, in LY-5 mode the sub-consist of the ring. -/
def blWho (s : State) (u r : Nat) : Who :=
  ⟨u, if fbit s .COMP_PART_CFG_MODE u then r else 0, false, 5, u / 4, u % 4, false⟩

def blRead (s : State) (w : Who) (a n : Nat) : State × List Byte :=
  let r := devRead s w (a % 2 ^ 48) n
  (r.1, r.2.1)

/-- The write port holds lines of control memory (R309, R310). -/
def blWrite (s : State) (w : Who) (a : Nat) (bs : List Byte) : State := heldWrite s w hBranch (a % 2 ^ 48) bs

/-- The speculation record (R182). -/
structure Spec where
  histLen : Nat
  histCap : Nat
  hist : Nat
  ng : Nat
  ngN : Nat
  ngBits : Nat
  ways : Nat
  flags : Nat
  live : Nat
  wayRoots : List Nat
deriving DecidableEq, Repr

def specOf (bs : List Byte) : Spec :=
  ⟨fieldAt bs 0 4, fieldAt bs 4 4, fieldAt bs 8 8, fieldAt bs 16 8, fieldAt bs 24 1, fieldAt bs 25 1, fieldAt bs 26 1,
    fieldAt bs 27 1, fieldAt bs 32 8, (List.range 7).map (fun i => fieldAt bs (40 + 8 * i) 8)⟩

/-- R181: the record's ranges. -/
def Spec.ok (p : Spec) : Bool :=
  decide (1 ≤ p.ways ∧ p.ways ≤ 8) && decide (p.ngN ≤ 4) &&
  (p.ngN == 0 || decide (10 ≤ p.ngBits ∧ p.ngBits ≤ 20))

def Spec.isOpen (p : Spec) : Bool := bit p.flags 0

/-- The bytes of a command that its operation does not use are zero, and its fields are in range (R180, R181). -/
def blCmdOk (bs : List Byte) : Bool :=
  let z := fun off n => fieldAt bs off n == 0
  z 2 6 &&
  (match fieldAt bs 0 1 with
   | 1 => decide (fieldAt bs 1 1 ≤ 3) && z 32 20 && z 55 1 &&
      decide (1 ≤ fieldAt bs 52 1 ∧ fieldAt bs 52 1 ≤ 64) && decide (1 ≤ fieldAt bs 53 1 ∧ fieldAt bs 53 1 ≤ 16) &&
      decide (1 ≤ fieldAt bs 54 1 ∧ fieldAt bs 54 1 ≤ 64) &&
      (match f32dec (BitVec.ofNat 32 (fieldAt bs 56 4)) with
       | .nan => false
       | .inf neg => neg
       | .fin neg m _ => neg || m == 0) &&
      (z 60 4 || decide (32 ≤ fieldAt bs 60 4))
   | 2 => decide (fieldAt bs 1 1 ≤ 1) && z 52 12
   | 3 => z 1 1 && z 24 8 && z 40 8 && z 52 12
   | 4 => z 1 1 && z 24 40
   | _ => false)

/-- A node of a tree while it is built (R187, R188). -/
structure Node where
  token : Nat
  parent : Nat
  depth : Nat
  score : W32
  source : Nat
  chain : Bool
deriving DecidableEq, Repr

/-! Draft sources (R184, R185). -/

/-- x lies strictly above y, as numbers. -/
def fAbove (x y : W32) : Bool := !fIsNan x && !fIsNan y && ranksAbove x y

/-- Keep the higher log-probability of a token (R184). -/
def draftPut (t : Nat) (lp : W32) : List (Nat × W32) → List (Nat × W32)
  | [] => [(t, lp)]
  | e :: es => if e.1 = t then (t, if fAbove lp e.2 then lp else e.2) :: es else e :: draftPut t lp es

/-- A head's candidates (R184): NaN proposes nothing. -/
def draftHead (body : List Byte) (cands h : Nat) : List (Nat × W32) :=
  (List.range cands).foldl (fun acc i =>
    let o := 8 * (h * cands + i)
    let lp := BitVec.ofNat 32 (fieldAt body (o + 4) 4)
    if fIsNan lp then acc else draftPut (fieldAt body o 4) lp acc) []

/-- R185: the bucket of a key. -/
def ngBucket (key : List Nat) (nbits : Nat) : Nat :=
  (key.foldl (fun x t => Nat.xor x t * 0x9E3779B1 % 2 ^ 32) 0) / 2 ^ (32 - nbits)

/-- Tokens i to i + n − 1 of a history. -/
def histTokens (s : State) (w : Who) (hist i n : Nat) : State × List Nat :=
  let r := blRead s w (hist + 4 * i) (4 * n)
  (r.1, (List.range n).map (fun j => fieldAt r.2 (4 * j) 4))

/-- R185: the first entry of a bucket, newest first, that passes. -/
def ngPick (w : Who) (p : Spec) (key : List Nat) : List Nat → State → State × Option Nat
  | [], s => (s, none)
  | e :: es, s =>
    if e = 0 ∨ p.histLen ≤ e ∨ e < p.ngN then ngPick w p key es s else
    let t := histTokens s w p.hist (e - p.ngN) p.ngN
    if t.2 = key then (t.1, some e) else ngPick w p key es t.1

/-- R185: the continuation. -/
def ngLookup (s : State) (w : Who) (p : Spec) : State × List Nat :=
  if p.ngN = 0 ∨ p.histLen < p.ngN then (s, []) else
  let k := histTokens s w p.hist (p.histLen - p.ngN) p.ngN
  let b := blRead k.1 w (p.ng + 16 * ngBucket k.2 p.ngBits) 16
  let r := ngPick w p k.2 ((List.range 4).map (fun i => fieldAt b.2 (4 * i) 4)) b.1
  match r.2 with
  | none => (r.1, [])
  | some e => histTokens r.1 w p.hist e (min 16 (p.histLen - e))

/-! Building the tree (R187-R191). -/

/-- What a build draws on: the heads' candidates by depth, the continuation, NG_LOGP, and the limits. -/
structure Drafts where
  heads : List (List (Nat × W32))
  cont : List Nat
  ngLogp : W32
  nodes : Nat
  depth : Nat
  ways : Nat
deriving DecidableEq, Repr

/-- R188: the candidates under a node: token, score lp, source bits. -/
def candidates (g : Drafts) (p : Node) : List (Nat × W32 × Nat) :=
  let d := p.depth + 1
  let hs := (g.heads.getD (d - 1) []).map (fun e => (e.1, e.2, 1))
  if p.chain ∧ d ≤ g.cont.length then
    let x := g.cont.getD (d - 1) 0
    if hs.any (fun e => e.1 == x) then
      hs.map (fun e => if e.1 = x then (x, if fAbove g.ngLogp e.2.1 then g.ngLogp else e.2.1, 3) else e)
    else hs ++ [(x, g.ngLogp, 2)]
  else hs

/-- A candidate node: its score, its parent, its depth, its token and its source. -/
structure Cand where
  score : W32
  parent : Nat
  depth : Nat
  token : Nat
  source : Nat
deriving DecidableEq, Repr

/-- R188: the better of two candidates. -/
def betterCand (a b : Cand) : Cand :=
  if fAbove a.score b.score then a else if fAbove b.score a.score then b
  else if a.depth ≠ b.depth then (if a.depth < b.depth then a else b)
  else if a.parent ≠ b.parent then (if a.parent < b.parent then a else b)
  else if a.token ≤ b.token then a else b

def hasChild (nodes : List Node) (p : Nat) : Bool := (nodes.drop 1).any (fun n => n.parent == p)

/-- Every node that R188's loop would consider next. -/
def openCands (g : Drafts) (nodes : List Node) (leaves : Nat) : List Cand :=
  (List.range nodes.length).flatMap (fun i =>
    match nodes[i]? with
    | none => []
    | some p =>
      if g.depth ≤ p.depth ∨ (hasChild nodes i ∧ leaves = g.ways) then [] else
      ((candidates g p).filter (fun c => !(nodes.drop 1).any (fun n => n.parent == i && n.token == c.1))).filterMap
        (fun c =>
          let sc := fadd p.score c.2.1
          if fIsNan sc then none else some ⟨sc, i, p.depth + 1, c.1, c.2.2⟩))

/-- R188: best-first, at most `fuel` more nodes. -/
def growTree (g : Drafts) : Nat → Nat → List Node → List Node
  | 0, _, nodes => nodes
  | fuel + 1, leaves, nodes =>
    match openCands g nodes leaves with
    | [] => nodes
    | c :: cs =>
      let b := cs.foldl betterCand c
      let chain := (match nodes[b.parent]? with | some p => p.chain | none => false) &&
        decide (b.depth ≤ g.cont.length) && g.cont.getD (b.depth - 1) 0 == b.token
      growTree g fuel (if hasChild nodes b.parent then leaves + 1 else leaves)
        (nodes ++ [⟨b.token, b.parent, b.depth, b.score, b.source, chain⟩])

/-- R189: the way of each node, in node order, and the number of ways used. -/
def assignWays (nodes : List Node) : List Nat × Nat :=
  (List.range nodes.length).foldl (fun (acc : List Nat × Nat) i =>
    if i = 0 then ([0], 1) else
    let p := (nodes.getD i ⟨0, 0, 0, 0, 0, false⟩).parent
    if ((nodes.take i).drop 1).any (fun n => n.parent == p) then (acc.1 ++ [acc.2], acc.2 + 1)
    else (acc.1 ++ [acc.1.getD p 0], acc.2)) ([], 0)

/-- ANCESTOR words: bit j set when node j is the node or an ancestor of it (R190). -/
def ancestors (nodes : List Node) : List Nat :=
  (List.range nodes.length).foldl (fun (acc : List Nat) i =>
    acc ++ [2 ^ i + (if i = 0 then 0 else acc.getD (nodes.getD i ⟨0, 0, 0, 0, 0, false⟩).parent 0)]) []

/-- R189: WAYMASK of a node: the ways of it and its descendants. -/
def wayMask (ways anc : List Nat) (n : Nat) : Nat :=
  (List.range anc.length).foldl (fun m j => if bit (anc.getD j 0) n then Nat.lor m (2 ^ ways.getD j 0) else m) 0

def maxDepth (nodes : List Node) : Nat := nodes.foldl (fun m n => max m n.depth) 0

/-- R190: WIN_K0. -/
def winK0 (base window : Nat) : Nat := if window = 0 then 0 else 64 * ((base + 1 - window) / 64)

/-- R191: a row word of window image b for a node at a position. -/
def winWord (base window pos b : Nat) : Nat :=
  (List.range 64).foldl (fun m j =>
    let key := winK0 base window + 64 * b + j
    if key < base ∧ pos < key + window then m + 2 ^ j else m) 0

/-- R190: the tree record. -/
def treeRecord (nodes : List Node) (group base window : Nat) : List Byte :=
  let wy := assignWays nodes
  let anc := ancestors nodes
  let n := nodes.length
  let ns := (List.range 64).flatMap (fun i => match nodes[i]? with
    | none => List.replicate 16 (0 : Byte)
    | some x => leBytes 4 x.token ++ leBytes 1 (if i = 0 then 255 else x.parent) ++ leBytes 1 x.depth ++
        leBytes 1 (wayMask wy.1 anc i) ++ leBytes 1 x.source ++ leBytes 4 x.score.toNat ++ leBytes 4 (base + x.depth))
  let path := (List.range 8).flatMap (fun w => (List.range 32).map (fun d =>
    match (List.range n).find? (fun i => (nodes.getD i ⟨0, 0, 99, 0, 0, false⟩).depth == d && bit (wayMask wy.1 anc i) w) with
    | some i => BitVec.ofNat 8 i
    | none => (0xFF : Byte)))
  let mask := (List.range (64 * group)).flatMap (fun r => leBytes 8 (anc.getD (r / group) 0))
  let win := if window = 0 then [] else (List.range 2).flatMap (fun b => (List.range (64 * group)).flatMap (fun r =>
    match nodes[r / group]? with
    | some x => leBytes 8 (winWord base window (base + x.depth) b)
    | none => leBytes 8 0))
  leBytes 1 n ++ leBytes 1 (maxDepth nodes) ++ leBytes 1 wy.2 ++ leBytes 1 group ++ leBytes 4 base ++
  leBytes 4 window ++ leBytes 4 (winK0 base window) ++ List.replicate 48 0 ++ ns ++ path ++
  (List.range 64).flatMap (fun i => leBytes 8 (anc.getD i 0)) ++ List.replicate 192 0 ++ mask ++ win

/-! Page-table entries of a sequence's lists (R145, R196-R202). -/

/-- Every plane of a root in layer order and then plane order: its page list, its pages, its tokens per page. -/
def listPlanes (w : Who) : Nat → Nat → Nat → State → State × List (Nat × Nat × Nat)
  | 0, _, _, s => (s, [])
  | n + 1, dir, q, s =>
    let d := blRead s w (dir + 16 * q) 16
    let rest := listPlanes w n dir (q + 1) d.1
    (rest.1, (fieldAt d.2 0 8, fieldAt d.2 8 4, match planeOf d.2 with | some p => p.perPage | none => 0) :: rest.2)

def rootPlanes (s : State) (w : Who) (root : Nat) : State × List (Nat × Nat × Nat) :=
  let r := blRead s w root 16
  listPlanes w (fieldAt r.2 4 2 * fieldAt r.2 6 1) (fieldAt r.2 8 8) 0 r.1

/-- The page indices of a plane that hold positions lo to hi. -/
def pageIxs (p : Nat × Nat × Nat) (lo hi : Nat) : List Nat :=
  if p.2.2 = 0 then [] else
  (List.range (min (hi / p.2.2 + 1) p.2.1)).filter (fun i => decide (lo / p.2.2 ≤ i))

/-- Write PROV of a PTE. -/
def setProv (w : Who) (b : Bool) (s : State) (pte : Nat) : State :=
  let r := blRead s w (pte + 5) 1
  blWrite r.1 w (pte + 5) [BitVec.ofNat 8 (setBits (leNat r.2) 2 1 (b2n b))]

def withProv (e : List Byte) (b : Bool) : List Byte :=
  e.set 5 (BitVec.ofNat 8 (setBits (fieldAt e 5 1) 2 1 (b2n b)))

/-- R199: exchange a PTE of list 0 with one of list w. -/
def swapPte (w : Who) (s : State) (a b : Nat) : State :=
  let x := blRead s w a 16
  let y := blRead x.1 w b 16
  blWrite (blWrite y.1 w a (withProv y.2 false)) w b (withProv x.2 true)

/-- Write PROV of the list-0 PTEs that hold positions lo to hi, in every plane (R198, R202). -/
def markLists (w : Who) (b : Bool) (lo hi : Nat) (s : State) (ps : List (Nat × Nat × Nat)) : State :=
  ps.foldl (fun s p => (pageIxs p lo hi).foldl (fun s i => setProv w b s (p.1 + 16 * i)) s) s

/-- Write a flag of the speculation record. -/
def specFlag (w : Who) (n : Nat) (b : Bool) (s : State) (a : Nat) : State :=
  let r := blRead s w (a + 27) 1
  blWrite r.1 w (a + 27) [BitVec.ofNat 8 (setBits (leNat r.2) n 1 (b2n b))]

/-! The four commands.  Each answers the state after its reads, and what it does: STATUS, the value of its completion word,
and its effects in the order in which they happen, a part of which a reset may cut off (R205). -/

structure BlRun where
  status : Nat
  value : Nat
  stages : List (State → State)

def BlRun.fail (status : Nat) : BlRun := ⟨status, 0, []⟩

/-- The draft list when HEADS is set: none where its header is out of range (R181, R184). -/
def readDrafts (s : State) (w : Who) (a : Nat) : State × Option (List (List (Nat × W32))) :=
  let h := blRead s w a 16
  let nh := fieldAt h.2 0 1
  let nc := fieldAt h.2 1 1
  if 16 < nh ∨ nc = 0 ∨ 16 < nc ∨ fieldAt h.2 2 14 ≠ 0 then (h.1, none) else
  let b := blRead h.1 w (a + 16) (8 * nh * nc)
  (b.1, some ((List.range nh).map (draftHead b.2 nc)))

/-- One tree more or less is open (R183). -/
def openTree (w : Who) (spec : Nat) (s : State) : State := finc (specFlag w 0 true s spec) .BL_OPEN_COUNT w.part
def closeTree (w : Who) (spec : Nat) (s : State) : State :=
  let s := specFlag w 0 false s spec
  fset s .BL_OPEN_COUNT w.part (fget s .BL_OPEN_COUNT w.part - 1)

/-- BUILD (R183-R191, R198). -/
def blBuild (s : State) (w : Who) (cmd : List Byte) (p : Spec) : State × BlRun :=
  let fl := fieldAt cmd 1 1
  let d := if bit fl 0 then readDrafts s w (fieldAt cmd 24 8) else (s, some [])
  match d.2 with
  | none => (d.1, .fail 1)
  | some heads =>
    if p.isOpen then (d.1, .fail 2) else
    if p.histLen = 0 then (d.1, .fail 4) else
    let c := if bit fl 1 then ngLookup d.1 w p else (d.1, [])
    let root := histTokens c.1 w p.hist (p.histLen - 1) 1
    let l := blRead root.1 w p.live 4
    let base := leNat l.2
    let g : Drafts := ⟨heads, c.2, BitVec.ofNat 32 (fieldAt cmd 56 4), fieldAt cmd 52 1, fieldAt cmd 53 1, p.ways⟩
    let nodes := growTree g (g.nodes - 1) 1 [⟨root.2.headD 0, 255, 0, 0, 4, true⟩]
    let ps := rootPlanes l.1 w p.live
    (ps.1, ⟨0, nodes.length,
      [openTree w (fieldAt cmd 8 8),
        fun s => blWrite s w (fieldAt cmd 16 8) (treeRecord nodes (fieldAt cmd 54 1) base (fieldAt cmd 60 4))] ++
      ps.2.map (fun q s => markLists w true base (base + maxDepth nodes) s [q]) ++
      [fun s => finc (finc s .BL_TREES_COUNT w.part) .BL_DRAFTED_COUNT w.part (nodes.length - 1)]⟩)

/-- A tree record as ACCEPT, COMMIT and CANCEL read it. -/
structure Tree where
  n : Nat
  depth : Nat
  ways : Nat
  base : Nat
  nodes : List (Nat × Nat × Nat)   -- token, parent, WAYMASK
deriving DecidableEq, Repr

def treeOf (bs : List Byte) : Tree :=
  ⟨fieldAt bs 0 1, fieldAt bs 1 1, fieldAt bs 2 1, fieldAt bs 4 4,
    (List.range (fieldAt bs 0 1)).map (fun i =>
      (fieldAt bs (64 + 16 * i) 4, fieldAt bs (68 + 16 * i) 1, fieldAt bs (70 + 16 * i) 1))⟩

/-- R181: the tree record's ranges. -/
def Tree.ok (t : Tree) : Bool :=
  decide (1 ≤ t.n ∧ t.n ≤ 64) && decide (t.depth ≤ 16) && decide (1 ≤ t.ways ∧ t.ways ≤ 8) &&
  (List.range t.n).all (fun i => i == 0 || decide ((t.nodes.getD i (0, 0, 0)).2.1 < i))

def Tree.token (t : Tree) (i : Nat) : Nat := (t.nodes.getD i (0, 0, 0)).1
def Tree.mask (t : Tree) (i : Nat) : Nat := (t.nodes.getD i (0, 0, 0)).2.2
def Tree.children (t : Tree) (p : Nat) : List Nat :=
  (List.range t.n).filter (fun i => i != 0 && (t.nodes.getD i (0, 0, 0)).2.1 == p)

/-- R193: threshold(q). -/
def threshold (q : W32) : Nat :=
  match f32dec q with
  | .nan => 0
  | .inf neg => if neg then 0 else 2 ^ 32
  | .fin neg m e =>
    if neg then 0 else
    let p := scalePair m 1 (e + 32)
    min (p.1 / p.2) (2 ^ 32)

/-- The i-th 32-bit draw of a generator (R193). -/
def draw32 (seed : W64) (i : Nat) : Nat :=
  let d := (genDraws (i / 32 + 1) (genSeed seed)).2
  d.getD (2 * i) 0 + 2 ^ 16 * d.getD (2 * i + 1) 0

/-- The standing of ACCEPT at one node: M, the tokens excluded, and the draws consumed. -/
structure Walk where
  m : W32
  excluded : List Nat
  draws : Nat
deriving DecidableEq, Repr

/-- R193: the children of a node in index order, until one is chosen. -/
def tryChildren (t : Tree) (greedy : Bool) (seed : W64) (list : List (Nat × W32)) :
    List Nat → Walk → Option Nat × Walk
  | [], k => (none, k)
  | c :: cs, k =>
    let x := t.token c
    if greedy then
      (if x = (list.headD (0, 0)).1 then (some c, k) else tryChildren t greedy seed list cs k)
    else
      let left := list.filter (fun e => !k.excluded.contains e.1)
      match left.find? (fun e => e.1 == x) with
      | none => tryChildren t greedy seed list cs k
      | some e =>
        if left.length = 1 then (some c, k) else
        let d := draw32 seed k.draws
        if d < threshold (fdiv e.2 k.m) then (some c, { k with draws := k.draws + 1 })
        else tryChildren t greedy seed list cs ⟨fsub k.m e.2, x :: k.excluded, k.draws + 1⟩

/-- R193: the walk from a node, at most `fuel` deeper: the path, and the last node's standing. -/
def acceptWalk (t : Tree) (greedy : Bool) (seed : W64) (lists : List (List (Nat × W32))) :
    Nat → Nat → Nat → List Nat → List Nat × Nat × Walk
  | fuel, cur, draws, path =>
    let list := lists.getD cur []
    let k : Walk := ⟨list.foldl (fun m e => fadd m e.2) 0, [], draws⟩
    match fuel with
    | 0 => (path, cur, k)
    | f + 1 =>
      match tryChildren t greedy seed list (t.children cur) k with
      | (none, k) => (path, cur, k)
      | (some c, k) => acceptWalk t greedy seed lists f c k.draws (path ++ [c])

/-- R193: the first entry whose running sum exceeds v, or the last. -/
def bonusPick (v : W32) : List (Nat × W32) → W32 → Nat → Nat
  | [], _, last => last
  | e :: es, run, _ =>
    let run := fadd run e.2
    if fAbove run v then e.1 else bonusPick v es run e.1

/-- R192: one target list; none where it is a BAD_LIST. -/
def targetList (s : State) (w : Who) (a stride : Nat) : State × Option (List (Nat × W32)) :=
  let h := blRead s w a 2
  let n := leNat h.2
  if n = 0 ∨ stride < 16 + 8 * n then (h.1, none) else
  let b := blRead h.1 w (a + 16) (8 * n)
  (b.1, some ((List.range n).map (fun i => (fieldAt b.2 (8 * i) 4, BitVec.ofNat 32 (fieldAt b.2 (8 * i + 4) 4)))))

def targetLists (w : Who) (a stride : Nat) : Nat → Nat → State → State × Option (List (List (Nat × W32)))
  | 0, _, s => (s, some [])
  | n + 1, i, s =>
    let l := targetList s w (a + i * stride) stride
    match l.2 with
    | none => (l.1, none)
    | some x =>
      let rest := targetLists w a stride n (i + 1) l.1
      (rest.1, rest.2.map (fun xs => x :: xs))

/-- ACCEPT (R192-R194). -/
def blAccept (s : State) (w : Who) (cmd : List Byte) (p : Spec) : State × BlRun :=
  let t := blRead s w (fieldAt cmd 16 8) 1088
  let tr := treeOf t.2
  if !tr.ok then (t.1, .fail 1) else
  if !p.isOpen then (t.1, .fail 2) else
  let ls := targetLists w (fieldAt cmd 24 8) (fieldAt cmd 48 4) tr.n 0 t.1
  match ls.2 with
  | none => (ls.1, .fail 3)
  | some lists =>
    let greedy := fieldAt cmd 1 1 == 0
    let seed := BitVec.ofNat 64 (fieldAt cmd 40 8)
    let r := acceptWalk tr greedy seed lists 16 0 0 []
    let path := r.1
    let list := lists.getD r.2.1 []
    let k := r.2.2
    let v := f32enc ((Num.fin false (draw32 seed k.draws) (-32)).mul (f32dec k.m))
    let bonus := if greedy then (list.headD (0, 0)).1
      else bonusPick v (list.filter (fun e => !k.excluded.contains e.1)) 0 0
    let draws := if greedy then 0 else k.draws + 1
    let rec_ := leBytes 1 path.length ++ leBytes 1 0 ++ leBytes 1 (path.getLast?.getD 0) ++ leBytes 1 (fieldAt cmd 1 1) ++
      leBytes 4 bonus ++ (List.range 16).map (fun i => BitVec.ofNat 8 (path.getD i 255)) ++ leBytes 8 0 ++
      leBytes 4 draws ++ leBytes 4 0 ++ List.replicate 24 0
    (ls.1, ⟨0, path.length, [fun s => blWrite s w (fieldAt cmd 32 8) rec_]⟩)

/-- R186: append one token, and insert the n-gram that ends with it. -/
def appendToken (w : Who) (p : Spec) (s : State) (len t : Nat) : State :=
  let s := blWrite s w (p.hist + 4 * len) (leBytes 4 t)
  if p.ngN = 0 ∨ len + 1 < p.ngN then s else
  let k := histTokens s w p.hist (len + 1 - p.ngN) p.ngN
  let a := p.ng + 16 * ngBucket k.2 p.ngBits
  let b := blRead k.1 w a 12
  blWrite b.1 w a (leBytes 4 (len + 1) ++ b.2)

/-- R186: append tokens while the history has room: the state, the length, the tokens appended. -/
def appendTokens (w : Who) (p : Spec) (spec : Nat) : List Nat → Nat → Nat → State → State × Nat × Nat
  | [], len, n, s => (s, len, n)
  | t :: ts, len, n, s =>
    if p.histCap ≤ len then (specFlag w 1 true s spec, len, n)
    else appendTokens w p spec ts (len + 1) (n + 1) (appendToken w p s len t)

/-- R199 step 2 for one plane: exchanges, or clears. -/
def commitPlane (w : Who) (way lo hi : Nat) (s : State) (a b : Nat × Nat × Nat) : State :=
  if way = 0 then (pageIxs a lo hi).foldl (fun s i => setProv w false s (a.1 + 16 * i)) s
  else (pageIxs a lo hi).foldl (fun s i => swapPte w s (a.1 + 16 * i) (b.1 + 16 * i)) s

/-- R199 steps 2 and 3, the planes that PROGRESS counts skipped (R200): one effect a plane. -/
def commitPlanes (w : Who) (way lo hi rec_ start : Nat) (ps : List ((Nat × Nat × Nat) × (Nat × Nat × Nat))) :
    List (State → State) :=
  (((List.range ps.length).zip ps).drop start).map (fun x s =>
    blWrite (commitPlane w way lo hi s x.2.1 x.2.2) w (rec_ + 36) (leBytes 4 (x.1 + 1)))

/-- R201: CATCHUP of list v. -/
def catchup (t : Tree) (path : List Nat) (k way v : Nat) : Nat :=
  let holds := if v = 0 then way else if v = way then 0 else v
  match (List.range k).find? (fun d => !bit (t.mask (path.getD d 0)) holds) with
  | some d => d + 1
  | none => k + 1

/-- The lowest way of a mask. -/
def lowestWay (m : Nat) : Nat := ((List.range 8).find? (bit m)).getD 0

/-- R199 step 4: PROV is cleared in the PTEs that BUILD marked beyond the committed ones. -/
def clearRest (w : Who) (tr : Tree) (k : Nat) (s : State) (ps : List (Nat × Nat × Nat)) : State :=
  ps.foldl (fun s q => ((pageIxs q tr.base (tr.base + tr.depth)).filter (fun i =>
    !(pageIxs q tr.base (tr.base + k)).contains i)).foldl (fun s i => setProv w false s (q.1 + 16 * i)) s) s

/-- COMMIT (R195, R199-R201). -/
def blCommit (s : State) (w : Who) (cmd : List Byte) (p : Spec) : State × BlRun :=
  let t := blRead s w (fieldAt cmd 16 8) 1088
  let tr := treeOf t.2
  let ra := fieldAt cmd 32 8
  let r := blRead t.1 w ra 64
  let acc := fieldAt r.2 0 1
  let path := (List.range (min acc 16)).map (fun i => fieldAt r.2 (8 + i) 1)
  let k := fieldAt cmd 48 4
  if !tr.ok || decide (16 < acc) || path.any (fun x => decide (tr.n ≤ x)) || decide (acc < k) then (r.1, .fail 1) else
  if !p.isOpen then (r.1, .fail 2) else
  let way := lowestWay (tr.mask (if k = 0 then 0 else path.getD (k - 1) 0))
  let l0 := rootPlanes r.1 w p.live
  let lw := if way = 0 then (l0.1, l0.2) else rootPlanes l0.1 w (p.wayRoots.getD (way - 1) 0)
  let prog := fieldAt r.2 36 4
  let start := if prog = 0xFFFFFFFF then 0 else prog
  let toks := (path.take k).map tr.token ++ [if k < acc then tr.token (path.getD k 0) else fieldAt r.2 4 4]
  let spec := fieldAt cmd 8 8
  (lw.1, ⟨0, min toks.length (p.histCap - p.histLen),
    commitPlanes w way tr.base (tr.base + k) ra start (l0.2.zip lw.2) ++
    [fun s => clearRest w tr k s l0.2,
      fun s => blWrite (blWrite s w (ra + 1) [BitVec.ofNat 8 way]) w (ra + 24) ((List.range 8).map (fun v =>
        BitVec.ofNat 8 (if p.ways ≤ v then 255 else catchup tr path k way v))),
      fun s =>
        let a := appendTokens w p spec toks p.histLen 0 s
        let s := blWrite (blWrite a.1 w spec (leBytes 4 a.2.1)) w (ra + 36) (leBytes 4 0xFFFFFFFF)
        finc (closeTree w spec s) .BL_ACCEPTED_COUNT w.part k]⟩)

/-- CANCEL (R202). -/
def blCancel (s : State) (w : Who) (cmd : List Byte) (p : Spec) : State × BlRun :=
  let t := blRead s w (fieldAt cmd 16 8) 1088
  let tr := treeOf t.2
  if !tr.ok then (t.1, .fail 1) else
  if !p.isOpen then (t.1, .fail 2) else
  let l0 := rootPlanes t.1 w p.live
  (l0.1, ⟨0, 0, l0.2.map (fun q s => markLists w false tr.base (tr.base + tr.depth) s [q]) ++
    [closeTree w (fieldAt cmd 8 8)]⟩)

/-! Executing a command (R179, R181). -/

/-- A command ends: completion word, head, last error, the epoch's count. -/
def blEnd (s : State) (w : Who) (u r addr status value : Nat) : State :=
  let s := blWrite s w addr (leBytes 8 (2 ^ 63 + status * 2 ^ 32 + value % 2 ^ 32))
  let s := fset s (blHeadF r) u (blHead s u r + 1)
  let s := setBl s u { getBl s u with last := r }
  if status = 0 then s else fset (fset s .BL_STATUS_LAST_ERROR u status) .BL_STATUS_RING u r

/-- What a command of the unit would do: the state after its reads, and its run; BAD_CMD where its fields or its
speculation record are out of range (R181). -/
def blPlan (s : State) (w : Who) (c : List Byte) : State × BlRun :=
  if !blCmdOk c then (s, .fail 1) else
  let sp := blRead s w (fieldAt c 8 8) 128
  let p := specOf sp.2
  if !p.ok then (sp.1, .fail 1) else
  match fieldAt c 0 1 with
  | 1 => blBuild sp.1 w c p
  | 2 => blAccept sp.1 w c p
  | 3 => blCommit sp.1 w c p
  | _ => blCancel sp.1 w c p

/-- The address of the command at the head of ring r. -/
def blSlot (s : State) (u r : Nat) : Nat := 64 * fget s .BL_RING_BASE_ADDR (4 * u + r) + 64 * blHead s u r

/-- The unit executes its next command, if it is of the asked-for kind, under its consist's CUR epoch (R341).  `late`: an
access of it to another module is not answered, which ends it REMOTE_TIMEOUT with nothing done (DESIGN CHOICE, log 123). -/
def blExec (s : State) (u : Nat) (isOp : Nat → Bool) (late : Bool) : State :=
  match blNext s u with
  | none => s
  | some r =>
    let w := blWho s u r
    let addr := blSlot s u r
    let c := blRead s w addr 64
    if !isOp (fieldAt c.2 0 1) then s else
    let e := epochStart c.1 w.part w.sub
    let x := blPlan e.2 w c.2
    let timeout := late && x.2.status == 0
    let t := if timeout then fsat x.1 .BLY_TIMEOUTS_COUNT 0 else x.2.stages.foldl (fun s f => f s) x.1
    epochEnd (blEnd t w u r addr (if timeout then 5 else x.2.status) (if timeout then 0 else x.2.value)) e.1

/-- R205: a compute reset abandons the unit's command in progress after the first `done` of its effects, without a completion
word. -/
def blAbandon (s : State) (u done : Nat) : State :=
  match blReady s u with
  | none => s
  | some r =>
    let w := blWho s u r
    let c := blRead s w (blSlot s u r) 64
    let x := blPlan c.1 w c.2
    (x.2.stages.take done).foldl (fun s f => f s) x.1

/-- R179: a doorbell write. -/
def execBlDoorbell (u : PartId) (r : Fin 4) (tail : Nat) (s : State) : Out := .next (blDoorbell s u r tail)
/-- R188: the unit's next command is a BUILD and ends. -/
def execBuild (x : BlTurn) (s : State) : Out := patient s (fun s => .next (blExec s x.unit (· == 1) x.late))
/-- R193: the next command is an ACCEPT. -/
def execAccept (x : BlTurn) (s : State) : Out := patient s (fun s => .next (blExec s x.unit (· == 2) x.late))
/-- R199: the next command is a COMMIT. -/
def execCommit (x : BlTurn) (s : State) : Out := patient s (fun s => .next (blExec s x.unit (· == 3) x.late))
/-- R202: the next command is a CANCEL, or one whose OP is unknown, which ends BAD_CMD. -/
def execBlCancel (x : BlTurn) (s : State) : Out :=
  patient s (fun s => .next (blExec s x.unit (fun op => op != 1 && op != 2 && op != 3) x.late))

end Sys2Proof.Machine
end

