-- ==== Sys2Proof/Machine/ChervilX.lean ====
section
/-! DEFINITION. The commands of the Chervil channels (spec R444-R463). -/
namespace Sys2Proof.Machine

/-- What a descriptor's transfer has come to: all moved, waiting for data or a translation, or a bus error at an
address (device, host flag, direction, kind). -/
inductive Move where
  | done | wait
  | error (addr dev : Nat) (host write : Bool) (kind : Nat)
deriving DecidableEq, Repr

/-- The class of a channel's requests to peers: a host command's chain takes its partition's DEFAULT label, the loop labels
its own 2 (R468). -/
def chvClass (s : State) (w : Who) (n : Nat) : Nat :=
  taskClass s w (if (getChan s n).copy.isSome then fget s .TC_PART_CFG_DEFAULT w.part else 2)

/-- The bytes of the next burst (R452): at most 512, and within the boundaries of each side. -/
def burstLen (ctrl src dst left : Nat) : Nat :=
  let cap := fun (fixed host remote : Bool) (a : Nat) =>
    if fixed then 512 else if host then 4096 - a % 4096 else if remote then 512 else 512 - a % 512
  let b := min (min 512 left) (min (cap (bit ctrl 22) (bit ctrl 0) (bit ctrl 2) src)
    (cap (bit ctrl 23) (bit ctrl 1) (bit ctrl 3) dst))
  if bit ctrl 22 || bit ctrl 23 then min left (max (chWidth ctrl) (b / chWidth ctrl * chWidth ctrl)) else b

/-- A fixed source's element, read as many times as the burst holds elements (R451). -/
def fixedRead (w : Who) (a width : Nat) : Nat → State → State × List Byte × Bool
  | 0, s => (s, [], false)
  | n + 1, s =>
    let r := devRead s w a width
    let t := fixedRead w a width n r.1
    (t.1, r.2.1 ++ t.2.1, r.2.2 || t.2.2)

/-- A fixed destination receives each element in order (R451). -/
def fixedWrite (w : Who) (a width : Nat) : Nat → List Byte → State → State
  | 0, _, s => s
  | n + 1, bs, s => fixedWrite w a width n (bs.drop width) (devWrite s w a (bs.take width))

/-- The source side of a burst of b bytes: the bytes read and what is left of the data from outside, or a stop. -/
def burstRead (s : State) (n ctrl src b : Nat) (data : List Byte) : Sum (State × List Byte × List Byte) (State × Move) :=
  let w := chvWho s n
  let dev := bits ctrl 4 10
  if bit ctrl 0 then
    let f := chFunc s n
    if data.length < b then .inr (s, .wait) else
    let s := meter s w.part w.oper mHost (lineUnits b)
    if !(getFunc s f).ats then
      .inl ({ s with tlps := s.tlps ++ readTlps s f src b false }, data.take b, data.drop b)
    else match atcLookup s f src false with
      | some t => .inl ({ t.2 with tlps := s.tlps ++ readTlps s f t.1 b true }, data.take b, data.drop b)
      | none => .inr (atsAsk s f src, .wait)
  else if bit ctrl 2 then
    let ps := pieces src b
    let c := checkRemote s w .read dev ps
    if ps.all (fun p => !c.1 p) then .inl (c.2, List.replicate b 0, data) else
    match peerKind s dev with
    | .own =>
      let r := ownRead c.2 w c.1 ps
      if r.2.2 then .inr (r.1, .error src dev false false 1) else .inl (r.1, r.2.1, data)
    | .outside => .inl (destRefused c.2 w c.1 ps, List.replicate b 0, data)
    | .peer =>
      if data.length < b then .inr (s, .wait) else
      .inl ((chunkPieces c.1 ps).foldl (fun s p => taskPacket s w (chvClass s w n) dev ptRead 0 p []) c.2,
        maskPieces c.1 ps data, data.drop b)
  else
    let r := if bit ctrl 22 then fixedRead w src (chWidth ctrl) (b / chWidth ctrl) s else devRead s w src b
    if r.2.2 then .inr (r.1, .error src 0 false false 1) else .inl (r.1, r.2.1, data)

/-- The destination side of a burst. -/
def burstWrite (s : State) (n ctrl dst : Nat) (bs : List Byte) : State :=
  let w := chvWho s n
  let dev := bits ctrl 4 10
  if bit ctrl 1 then
    let who := match (getChan s n).copy.bind (getCmd s) with
      | some c => ⟨1, c.ctx, c.tag, localRing s c.ring⟩
      | none => ⟨1, 0, 0, 0⟩
    let s := setChan (meter s w.part w.oper mHost (lineUnits bs.length)) n { getChan s n with dirty := true }
    post s (chFunc s n) (.write dst bs ((getFunc s (chFunc s n)).relaxed && (getChan s n).copy.isSome) who none)
  else if bit ctrl 3 then
    let ps := pieces dst bs.length
    let c := checkRemote s w .write dev ps
    match peerKind s dev with
    | .own => ownWrite c.2 w c.1 ps bs
    | .outside => destRefused c.2 w c.1 ps
    | .peer => (chunkPieces c.1 ps).foldl (fun s p =>
        taskPacket s w (chvClass s w n) dev ptWrite 0 p ((bs.drop (p.addr - dst)).take p.len)) c.2
  else if bit ctrl 23 then fixedWrite w dst (chWidth ctrl) (bs.length / chWidth ctrl) bs s
  else devWrite s w dst bs

/-- R204: the units with an open tree and a pool in which the n bytes of a source read lie, in whole or in part; a source on
another device, or on the host, is outside them. -/
def provUnits (s : State) (ctrl src n : Nat) : List Nat :=
  if bit ctrl 0 || (bit ctrl 2 && bits ctrl 4 10 != devNum s) then [] else
  (List.range 64).filter (fun u => fget s .BL_OPEN_COUNT u != 0 && (List.range 4).any (fun k =>
    let base := fget s .BL_POOL_BASE_ADDR (4 * u + k) * 65536
    let size := fget s .BL_POOL_SIZE_PAGES (4 * u + k) * 65536
    size != 0 && decide (src < base + size) && decide (base < src + n)))

/-- R204, R461: a read inside an open pool flags the chain, and counts once for its descriptor. -/
def flagRead (s : State) (n ctrl src len : Nat) : State :=
  let us := provUnits s ctrl src len
  if us.isEmpty then s else
  let x := getChan s n
  let new := us.filter (fun u => !x.prov.contains u)
  new.foldl (fun s u => finc s .BL_PROV_READS_COUNT u)
    (setChan (fset s .CHV_CH_STATUS_PROVISIONAL n 1) n { x with prov := x.prov ++ new })

/-- R411, R457: a burst to the host needs its translation before it is written. -/
def hostReady (s : State) (n ctrl dst : Nat) : Option State :=
  if !bit ctrl 1 || !(getFunc s (chFunc s n)).ats then some s else (atcLookup s (chFunc s n) dst true).map (·.2)

/-- R451, R454: the bursts of the descriptor in the registers, on fuel, as far as `lim` bytes.  A burst one of whose
accesses is held waits with those that follow it (R112, R129); one to or from a peer has been answered before its bytes count
(R295, R380). -/
def chvMove (n : Nat) (clash : Bool) : Nat → Nat → List Byte → State → State × Move
  | 0, _, _, s => (s, .wait)
  | f + 1, lim, data, s0 =>
    let d := regDesc s0 n
    if d.count = 0 then (s0, .done) else
    if lim = 0 then (s0, .wait) else
    let b := burstLen d.ctrl d.src d.dst d.count
    match hostReady s0 n d.ctrl d.dst with
    | none => (atsAsk s0 (chFunc s0 n) d.dst, .wait)
    | some s1 =>
    match burstRead (flagRead s1 n d.ctrl d.src (if bit d.ctrl 22 then chWidth d.ctrl else b)) n d.ctrl d.src b data with
    | .inr r => if r.1.stalled then (s0, .wait) else r
    | .inl (s, bs, rest) =>
      let x := if clash then freeBytes s bs.length else (s, bs)
      let s := burstWrite x.1 n d.ctrl d.dst x.2
      if s.stalled then (s0, .wait) else
      let s := finc (taskEnd s (chvWho s n).die true) .CHV_CH_BYTES_COUNT n b
      let s := if bit d.ctrl 22 then s else fset s .CHV_CH_SRC_ADDR n (d.src + b)
      let s := if bit d.ctrl 23 then s else fset s .CHV_CH_DST_ADDR n (d.dst + b)
      chvMove n clash f (lim - b) rest (fset s .CHV_CH_COUNT_BYTES n (d.count - b))

/-- R454: both ranges lie on this device and overlap with the destination above the source. -/
def chvClash (s : State) (n : Nat) : Bool :=
  let d := regDesc s n
  let gone := (getChan s n).count0 - d.count
  let src := d.src - gone
  let dst := d.dst - gone
  d.ctrl % 16 == 0 && bits d.ctrl 22 2 == 0 && decide (src < dst) && decide (dst < src + (getChan s n).count0)

/-- The next descriptor of a chain: read through a front end, which holds lines of control memory (R309, R310). -/
def chainRead (s : State) (n : Nat) : State × List Byte × Bool :=
  let w := chvWho s n
  heldRead s w (hChain w.die) (fget s .CHV_CH_NEXT_ADDR n * 64) 64

/-- The next descriptor of a chain is read from control memory and loaded (R446, R450, R457). -/
def loadNext (s : State) (n : Nat) : State :=
  let a := fget s .CHV_CH_NEXT_ADDR n * 64
  let r := chainRead s n
  if r.2.2 then busError r.1 n a 0 false false 5 else
  let d := descOf r.2.1
  loadDesc r.1 n d.1 d.2

/-- R455, R459, R462: a descriptor's last write is performed. -/
def descEnd (s : State) (n : Nat) : State :=
  let x := getChan s n
  let ctrl := fget s .CHV_CH_CTRL_CTRL n
  let bump := fun (s : State) => fsat s .CHV_CH_STATUS_INDEX n
  if x.kill then clearFields (chainEnd s n) (fun f i => isChvField f && i == n) else
  if chState s n = chStopping then bump (chvRecord s n x.count0 2 0 true chIdle) else
  match x.copy with
  | some _ =>
    match x.todo with
    | [] => bump (chvRecord s n x.count0 0 0 true chIdle)
    | d :: rest =>
      let s := bump (setChan s n { x with todo := rest, total := x.total + x.count0 })
      descRun s n ⟨d.1, d.2.1, 0, d.2.2, fget s .CHV_CH_TAG_TAG n, ctrl⟩
  | none =>
    if fget s .CHV_CH_NEXT_ADDR n = 0 then bump (chvRecord s n x.count0 0 0 true chIdle)
    else if bit ctrl 26 then
      let s := bump (chvRecord s n x.count0 0 0 false chRunning)
      if chState s n = chRunning ∧ (getChan s n).due.isNone then loadNext s n else s
    else loadNext (bump s) n

/-- R454: the zero-length read behind a descriptor's host writes has completed: its record is written, STOPPED where a stop
came meanwhile (R462). -/
def dueEnd (s : State) (n : Nat) (e : ChanRec) : State :=
  let x := getChan s n
  let s := setChan s n { x with due := none }
  if x.kill then clearFields (chainEnd s n) (fun f i => isChvField f && i == n) else
  if chState s n = chStopping ∧ e.status = 0 then
    recordOut s n { e with
      bytes := (e.bytes.set 12 2).set 14 (BitVec.ofNat 8 (Nat.lor (e.bytes.getD 14 0).toNat 2)),
      status := 2, last := true, next := chIdle }
  else
    let s := recordOut s n e
    if chState s n = chRunning then loadNext s n else s

/-- A channel's transfer goes on as far as it can; `lim` bounds the bytes before an error from outside. -/
def chvRun (s : State) (n lim : Nat) (data : List Byte) : State × Move :=
  chvMove n (chvClash s n) (fget s .CHV_CH_COUNT_BYTES n + 1) lim data s

/-- R447, R457, R458: what a transfer has come to. -/
def chvOutcome (n : Nat) (r : State × Move) : State :=
  match r.2 with
  | .done => descEnd r.1 n
  | .wait => r.1
  | .error a dev host write kind => busError r.1 n a dev host write kind

/-- R445. -/
def execChvOwnerWrite (n : ChanId) (path : RegPath) (part : PartId) (oper valid : Bool) (sub : Fin 4) (s : State) : Out :=
  .next (ownerWrite s n path part oper valid sub)

/-- R462: GO.START. -/
def execChvStart (n : ChanId) (path : RegPath) (s : State) : Out := patient s (fun s => .next (chvStart s n path))

/-- R462: GO.FETCH. -/
def execChvFetch (n : ChanId) (path : RegPath) (s : State) : Out := patient s (fun s => .next (chvFetch s n path))

/-- R462: GO.STOP. -/
def execChvStop (n : ChanId) (path : RegPath) (s : State) : Out := patient s (fun s => .next (chvStop s n path))

/-- R462: GO.RESUME. -/
def execChvResume (n : ChanId) (path : RegPath) (s : State) : Out := patient s (fun s => .next (chvResume s n path))

/-- R462: GO.ABORT. -/
def execChvAbort (n : ChanId) (path : RegPath) (s : State) : Out := patient s (fun s => .next (chvAbort s n path))

/-- R462: a LOADING channel's descriptor arrives. -/
def execChvDescLoaded (n : ChanId) (s : State) : Out :=
  patient s (fun s => .next (if chState s n = chLoading then loadNext s n else s))

/-- R462: a running descriptor's transfer completes; `data` are the bytes that the host or a peer returned. -/
def execChvDescDone (n : ChanId) (data : List Byte) (s : State) : Out :=
  patient s (fun s =>
    if chState s n = chRunning ∨ chState s n = chStopping then
      (match (getChan s n).due with
      | some e => .next (dueEnd s n e)
      | none =>
        if fget s .CHV_CH_COUNT_BYTES n = 0 then
          .next (if (getChan s n).dirty then descEnd s n else loadNext s n)
        else .next (chvOutcome n (chvRun s n (2 ^ 24) data)))
    else .next s)

/-- The packets of the burst that a peer does not answer, on its source or destination side; their tags go into quarantine
(R380). -/
def chvUnanswered (s : State) (n : Nat) (write : Bool) (data : List Byte) : State :=
  let d := regDesc s n
  let b := burstLen d.ctrl d.src d.dst d.count
  let t := match burstRead s n d.ctrl d.src b (if write then data else List.replicate b 0) with
    | .inl (t, bs, _) => if write then burstWrite t n d.ctrl d.dst bs else t
    | .inr (t, _) => t
  taskEnd t (chvWho t n).die false

/-- R457: the zero-length read behind a descriptor's host writes fails: a host read's bus error, unless one is recorded
already. -/
def flushFails (s : State) (n : Nat) (e : ChanRec) : State :=
  if e.status = 0 ∨ e.status = 2 then
    let s := setChan s n { getChan s n with due := none }
    let s := busError s n (flushAddr s n) 0 true false 2
    setChan s n { getChan s n with dirty := (getChan s n).copy.isNone && chState s n != chIdle }
  else dueEnd s n e

/-- R457, R458, R380: the host or a peer stops a descriptor at the burst behind its first `at_` bytes. -/
def burstFails (s : State) (n kind at_ : Nat) (write : Bool) (data : List Byte) : State :=
  let c := fget s .CHV_CH_CTRL_CTRL n
  let t := (chvRun s n at_ data).1
  let t := if kind = 4 then chvUnanswered t n write (data.drop at_) else t
  let d := regDesc t n
  busError t n (if write then d.dst else d.src) (if bit c (if write then 3 else 2) then bits c 4 10 else 0)
    (bit c (if write then 1 else 0)) write kind

/-- R457, R458: a bus error.  Kind 1 is found in memory; kind 5 by a descriptor fetch; for the others the first `at_`
bytes moved before the failing burst. -/
def execChvBusError (n : ChanId) (kind at_ : Nat) (write : Bool) (data : List Byte) (s : State) : Out :=
  patient s (fun s =>
  let active := chState s n = chRunning ∨ chState s n = chStopping
  let c := fget s .CHV_CH_CTRL_CTRL n
  let host := bit c (if write then 1 else 0)
  let remote := bit c (if write then 3 else 2)
  match (getChan s n).due with
  | some e => .next (if kind = 2 ∧ write = false ∧ active then flushFails s n e else s)
  | none =>
  if kind = 1 ∧ active then
    match chvRun s n (2 ^ 24) data with
    | (t, .error a d h w k) => .next (busError t n a d h w k)
    | _ => .next s
  else if kind = 5 ∧ chState s n = chLoading then
    (if (chainRead s n).2.2 then .next (loadNext s n) else .next s)
  else if active ∧ ((kind = 2 ∧ host = true ∧ write = false) ∨ (kind = 3 ∧ host = true) ∨ (kind = 4 ∧ remote = true)) then
    .next (burstFails s n kind at_ write data)
  else .next s)

/-- R459, R462: the owner advances CQ_HEAD. -/
def execChvCqHeadWrite (n : ChanId) (path : RegPath) (head : W32) (s : State) : Out :=
  if chAccepts s n path then patient s (fun s => .next (cqRoom (fset s .CHV_CH_CQ_HEAD_HEAD n head.toNat) n))
  else .next (chIgnore s n)

end Sys2Proof.Machine
end

