-- ==== Sys2Proof/Machine/Rv.lean ====
section
/-! DEFINITION. The RV64GC instructions of a conductor core (spec R303, R305, R307, R313; the standard itself, PRESUMED, log 5):
each reads the state in which the pc already points behind the instruction. -/
namespace Sys2Proof.Machine

/-- What an instruction comes to: it must wait, it traps, it is done. -/
inductive HRes where
  | wait
  | trap (s : State) (cause tval : Nat)
  | done (s : State)

/-! Fields of a 32-bit instruction. -/
def iRd (w : Nat) : Nat := bits w 7 5
def iRs1 (w : Nat) : Nat := bits w 15 5
def iRs2 (w : Nat) : Nat := bits w 20 5
def iRs3 (w : Nat) : Nat := bits w 27 5
def iF3 (w : Nat) : Nat := bits w 12 3
def iF7 (w : Nat) : Nat := bits w 25 7
def w64i (x : Int) : W64 := BitVec.ofInt 64 x
def immI (w : Nat) : W64 := w64i (signed 12 (bits w 20 12))
def immS (w : Nat) : W64 := w64i (signed 12 (bits w 25 7 * 32 + bits w 7 5))
def immB (w : Nat) : W64 :=
  w64i (signed 13 (bits w 31 1 * 4096 + bits w 7 1 * 2048 + bits w 25 6 * 32 + bits w 8 4 * 2))
def immU (w : Nat) : W64 := w64i (signed 32 (bits w 12 20 * 4096))
def immJ (w : Nat) : W64 :=
  w64i (signed 21 (bits w 31 1 * 2 ^ 20 + bits w 12 8 * 4096 + bits w 20 1 * 2048 + bits w 21 10 * 2))

/-! Compressed instructions: each stands for a 32-bit one. -/

def encR (op f3 f7 rd rs1 rs2 : Nat) : Nat := op + rd * 128 + f3 * 4096 + rs1 * 2 ^ 15 + rs2 * 2 ^ 20 + f7 * 2 ^ 25
def encI (op f3 rd rs1 imm : Nat) : Nat := op + rd * 128 + f3 * 4096 + rs1 * 2 ^ 15 + imm % 4096 * 2 ^ 20
def encS (op f3 rs1 rs2 imm : Nat) : Nat :=
  op + bits imm 0 5 * 128 + f3 * 4096 + rs1 * 2 ^ 15 + rs2 * 2 ^ 20 + bits imm 5 7 * 2 ^ 25
def encB (f3 rs1 rs2 imm : Nat) : Nat :=
  0x63 + bits imm 11 1 * 128 + bits imm 1 4 * 256 + f3 * 4096 + rs1 * 2 ^ 15 + rs2 * 2 ^ 20 + bits imm 5 6 * 2 ^ 25
    + bits imm 12 1 * 2 ^ 31
def encJ (rd imm : Nat) : Nat :=
  0x6F + rd * 128 + bits imm 12 8 * 4096 + bits imm 11 1 * 2 ^ 20 + bits imm 1 10 * 2 ^ 21 + bits imm 20 1 * 2 ^ 31

/-- The sign-extended six-bit immediate of CI. -/
def cImm (c : Nat) : Nat := wrap 12 (signed 6 (bits c 12 1 * 32 + bits c 2 5))
def cShamt (c : Nat) : Nat := bits c 12 1 * 32 + bits c 2 5
def cUimm8 (c : Nat) : Nat := bits c 10 3 * 8 + bits c 5 2 * 64
def cUimm4 (c : Nat) : Nat := bits c 10 3 * 8 + bits c 6 1 * 4 + bits c 5 1 * 64

def rvc0 (c : Nat) : Option Nat :=
  let rd := 8 + bits c 2 3
  let rs := 8 + bits c 7 3
  match bits c 13 3 with
  | 0 =>
    let imm := bits c 7 4 * 64 + bits c 11 2 * 16 + bits c 5 1 * 8 + bits c 6 1 * 4
    if imm = 0 then none else some (encI 0x13 0 rd 2 imm)
  | 1 => some (encI 0x07 3 rd rs (cUimm8 c))
  | 2 => some (encI 0x03 2 rd rs (cUimm4 c))
  | 3 => some (encI 0x03 3 rd rs (cUimm8 c))
  | 5 => some (encS 0x27 3 rs rd (cUimm8 c))
  | 6 => some (encS 0x23 2 rs rd (cUimm4 c))
  | 7 => some (encS 0x23 3 rs rd (cUimm8 c))
  | _ => none

def rvc1 (c : Nat) : Option Nat :=
  let rd := bits c 7 5
  let r := 8 + bits c 7 3
  let r2 := 8 + bits c 2 3
  let bOff := wrap 13 (signed 9 (bits c 12 1 * 256 + bits c 10 2 * 8 + bits c 5 2 * 64 + bits c 3 2 * 2 + bits c 2 1 * 32))
  match bits c 13 3 with
  | 0 => some (encI 0x13 0 rd rd (cImm c))
  | 1 => if rd = 0 then none else some (encI 0x1B 0 rd rd (cImm c))
  | 2 => some (encI 0x13 0 rd 0 (cImm c))
  | 3 =>
    if cShamt c = 0 then none
    else if rd = 2 then
      some (encI 0x13 0 2 2 (wrap 12 (signed 10 (bits c 12 1 * 512 + bits c 6 1 * 16 + bits c 5 1 * 64 + bits c 3 2 * 128
        + bits c 2 1 * 32))))
    else some (0x37 + rd * 128 + wrap 20 (signed 6 (cShamt c)) * 4096)
  | 4 =>
    (match bits c 10 2 with
     | 0 => some (encI 0x13 5 r r (cShamt c))
     | 1 => some (encI 0x13 5 r r (cShamt c + 0x400))
     | 2 => some (encI 0x13 7 r r (cImm c))
     | _ =>
       match bits c 12 1, bits c 5 2 with
       | 0, 0 => some (encR 0x33 0 0x20 r r r2)
       | 0, 1 => some (encR 0x33 4 0 r r r2)
       | 0, 2 => some (encR 0x33 6 0 r r r2)
       | 0, _ => some (encR 0x33 7 0 r r r2)
       | _, 0 => some (encR 0x3B 0 0x20 r r r2)
       | _, 1 => some (encR 0x3B 0 0 r r r2)
       | _, _ => none)
  | 5 =>
    some (encJ 0 (wrap 21 (signed 12 (bits c 12 1 * 2048 + bits c 11 1 * 16 + bits c 9 2 * 256 + bits c 8 1 * 1024
      + bits c 7 1 * 64 + bits c 6 1 * 128 + bits c 3 3 * 2 + bits c 2 1 * 32))))
  | 6 => some (encB 0 r 0 bOff)
  | _ => some (encB 1 r 0 bOff)

def rvc2 (c : Nat) : Option Nat :=
  let rd := bits c 7 5
  let rs2 := bits c 2 5
  let ldOff := bits c 12 1 * 32 + bits c 5 2 * 8 + bits c 2 3 * 64
  let sdOff := bits c 10 3 * 8 + bits c 7 3 * 64
  match bits c 13 3 with
  | 0 => some (encI 0x13 1 rd rd (cShamt c))
  | 1 => some (encI 0x07 3 rd 2 ldOff)
  | 2 => if rd = 0 then none else some (encI 0x03 2 rd 2 (bits c 12 1 * 32 + bits c 4 3 * 4 + bits c 2 2 * 64))
  | 3 => if rd = 0 then none else some (encI 0x03 3 rd 2 ldOff)
  | 4 =>
    (match bits c 12 1 with
     | 0 =>
       if rs2 = 0 then (if rd = 0 then none else some (encI 0x67 0 0 rd 0)) else some (encR 0x33 0 0 rd 0 rs2)
     | _ =>
       if rs2 = 0 then (if rd = 0 then some 0x00100073 else some (encI 0x67 0 1 rd 0))
       else some (encR 0x33 0 0 rd rd rs2))
  | 5 => some (encS 0x27 3 2 rs2 sdOff)
  | 6 => some (encS 0x23 2 2 rs2 (bits c 9 4 * 4 + bits c 7 2 * 64))
  | _ => some (encS 0x23 3 2 rs2 sdOff)

/-- The 32-bit instruction a 16-bit one stands for; none where it is illegal. -/
def rvc (c : Nat) : Option Nat :=
  match c % 4 with
  | 0 => rvc0 c
  | 1 => rvc1 c
  | _ => rvc2 c

/-! Integer arithmetic. -/

/-- The low 32 bits sign-extended. -/
def sext32 (x : W64) : W64 := (x.setWidth 32).signExtend 64

def divS (a b : Int) (min : Int) : Int := if b = 0 then -1 else if a = min ∧ b = -1 then min else a.tdiv b
def remS (a b : Int) (min : Int) : Int := if b = 0 then a else if a = min ∧ b = -1 then 0 else a.tmod b

/-- OP and OP-IMM; `alt` is bit 30. -/
def alu (f3 : Nat) (alt : Bool) (a b : W64) : W64 :=
  match f3 with
  | 0 => if alt then a - b else a + b
  | 1 => a <<< (b.toNat % 64)
  | 2 => if a.slt b then 1 else 0
  | 3 => if a.ult b then 1 else 0
  | 4 => a ^^^ b
  | 5 => if alt then a.sshiftRight (b.toNat % 64) else a >>> (b.toNat % 64)
  | 6 => a ||| b
  | _ => a &&& b

/-- OP-32 and OP-IMM-32. -/
def aluW (f3 : Nat) (alt : Bool) (a b : W64) : Option W64 :=
  let x := a.setWidth 32
  let y := b.setWidth 32
  match f3 with
  | 0 => some ((if alt then x - y else x + y).signExtend 64)
  | 1 => some ((x <<< (y.toNat % 32)).signExtend 64)
  | 5 => some ((if alt then x.sshiftRight (y.toNat % 32) else x >>> (y.toNat % 32)).signExtend 64)
  | _ => none

/-- The M extension. -/
def mulDiv (f3 : Nat) (a b : W64) : W64 :=
  match f3 with
  | 0 => a * b
  | 1 => w64i (a.toInt * b.toInt / (2 ^ 64 : Nat))
  | 2 => w64i (a.toInt * (b.toNat : Int) / (2 ^ 64 : Nat))
  | 3 => BitVec.ofNat 64 (a.toNat * b.toNat / 2 ^ 64)
  | 4 => w64i (divS a.toInt b.toInt (-(2 ^ 63 : Nat)))
  | 5 => if b = 0 then BitVec.allOnes 64 else BitVec.ofNat 64 (a.toNat / b.toNat)
  | 6 => w64i (remS a.toInt b.toInt (-(2 ^ 63 : Nat)))
  | _ => if b = 0 then a else BitVec.ofNat 64 (a.toNat % b.toNat)

def mulDivW (f3 : Nat) (a b : W64) : Option W64 :=
  let x := a.setWidth 32
  let y := b.setWidth 32
  match f3 with
  | 0 => some ((x * y).signExtend 64)
  | 4 => some (w64i (divS x.toInt y.toInt (-(2 ^ 31 : Nat))))
  | 5 => some (if y = 0 then BitVec.allOnes 64 else ((BitVec.ofNat 32 (x.toNat / y.toNat)).signExtend 64))
  | 6 => some (w64i (remS x.toInt y.toInt (-(2 ^ 31 : Nat))))
  | 7 => some (if y = 0 then x.signExtend 64 else ((BitVec.ofNat 32 (x.toNat % y.toNat)).signExtend 64))
  | _ => none

/-- The condition of a branch. -/
def rvCond (f3 : Nat) (a b : W64) : Option Bool :=
  match f3 with
  | 0 => some (a == b)
  | 1 => some (a != b)
  | 4 => some (a.slt b)
  | 5 => some (!a.slt b)
  | 6 => some (a.ult b)
  | 7 => some (!a.ult b)
  | _ => none

/-! Loads and stores. -/

/-- The bytes of a load as a register value. -/
def loadValue (f3 v : Nat) : W64 :=
  match f3 with
  | 0 => w64i (signed 8 v)
  | 1 => w64i (signed 16 v)
  | 2 => w64i (signed 32 v)
  | _ => BitVec.ofNat 64 v

def illegal (s : State) (w : Nat) : HRes := .trap s 2 w

/-- A load of n bytes whose value goes where `k` puts it. -/
def rvLoad (s : State) (g : Nat) (a : W64) (n : Nat) (ecc : Ecc) (peer : Option (List Byte))
    (k : State → Nat → State) : HRes :=
  if !pmpOk (getHart s g) (dataMode (getHart s g)) 0 a.toNat n then .trap s 5 a.toNat else
  match cndRead s g a.toNat n ecc peer with
  | .wait => .wait
  | .fault s => .trap s 5 a.toNat
  | .ok s bs => .done (k s (leNat bs))

def rvStore (s : State) (g : Nat) (a : W64) (n v : Nat) (ecc : Ecc) (peer : Option (List Byte)) : HRes :=
  if !pmpOk (getHart s g) (dataMode (getHart s g)) 1 a.toNat n then .trap s 7 a.toNat else
  match cndWrite s g a.toNat (leBytes n v) ecc peer with
  | .wait => .wait
  | .fault s => .trap s 7 a.toNat
  | .ok s _ => .done s

/-! SYSTEM. -/

/-- The CSR instructions. -/
def rvCsr (s : State) (g w : Nat) : HRes :=
  let n := bits w 20 12
  let h := getHart s g
  let src := if bit w 14 then iRs1 w else (hx s g (iRs1 w)).toNat
  let op := bits w 12 2
  let writes := op == 1 || iRs1 w != 0
  if (bits n 8 2 != 0 && !h.machine) || (writes && bits n 10 2 == 3) then illegal s w else
  match csrValue s g n with
  | none => illegal s w
  | some old =>
    let v := match op with
      | 1 => src
      | 2 => Nat.lor old src
      | _ => old - Nat.land old src
    let s := if writes then csrWrite s g n (v % 2 ^ 64) else s
    .done (hsetX s g (iRd w) (BitVec.ofNat 64 old))

def rvSystem (s : State) (g w : Nat) (pc : W64) : HRes :=
  let h := getHart s g
  match iF3 w with
  | 0 =>
    (match w with
     | 0x00000073 => .trap s (if h.machine then 11 else 8) 0
     | 0x00100073 => .trap s 3 pc.toNat
     | 0x30200073 => if h.machine then .done (mret s g) else illegal s w
     | 0x10500073 =>
       -- WFI: waits until an interrupt is pending (R328)
       if !h.machine && bit h.mstatus 21 then illegal s w
       else .done (if Nat.land (mip s g) h.mie = 0 then setCndState s g cndWaiting else s)
     | _ => illegal s w)
  | 4 => illegal s w
  | _ => rvCsr s g w

/-! Floating point. -/

/-- The rounding mode of an instruction; none where it is reserved. -/
def rvRm (s : State) (g w : Nat) : Option Nat :=
  let r := if iF3 w = 7 then (getHart s g).fcsr / 32 % 8 else iF3 w
  if r ≤ 4 then some r else none

def fmtEnc (fmt : Nat) : Enc := if fmt = 0 then .f32 else .f64
/-- An FP register as an operand of a format. -/
def fOp (s : State) (g fmt r : Nat) : Nat := if fmt = 0 then unbox (hf s g r) else hf s g r
def fPut (s : State) (g fmt rd : Nat) (r : Nat × Nat) : State :=
  haccrue (hsetF s g rd (if fmt = 0 then box r.1 else r.1)) g r.2

/-- OP-FP. -/
def rvFp (s : State) (g w : Nat) : HRes :=
  let fmt := bits w 25 2
  let c := fmtEnc fmt
  let a := fOp s g fmt (iRs1 w)
  let b := fOp s g fmt (iRs2 w)
  let rd := iRd w
  let f3 := iF3 w
  let put := fun r => HRes.done (fPut s g fmt rd r)
  let round := fun (f : Nat → HRes) => match rvRm s g w with
    | some rm => f rm
    | none => illegal s w
  let sgn := c.eb + c.mb
  if 1 < fmt then illegal s w else
  match bits w 27 5 with
  | 0 => round (fun rm => put (rvAdd c rm a b))
  | 1 => round (fun rm => put (rvSub c rm a b))
  | 2 => round (fun rm => put (rvMul c rm a b))
  | 3 => round (fun rm => put (rvDiv c rm a b))
  | 11 => if iRs2 w = 0 then round (fun rm => put (rvSqrt c rm a)) else illegal s w
  | 4 =>
    (match f3 with
     | 0 => put (setBits a sgn 1 (bits b sgn 1), 0)
     | 1 => put (setBits a sgn 1 (1 - bits b sgn 1), 0)
     | 2 => put (setBits a sgn 1 ((bits a sgn 1 + bits b sgn 1) % 2), 0)
     | _ => illegal s w)
  | 5 => if f3 ≤ 1 then put (rvMinMax c (f3 == 1) a b) else illegal s w
  | 8 =>
    if iRs2 w ≤ 1 ∧ iRs2 w ≠ fmt then
      round (fun rm => put (rvConvert (fmtEnc (iRs2 w)) c rm (fOp s g (iRs2 w) (iRs1 w))))
    else illegal s w
  | 20 =>
    if f3 ≤ 2 then
      let r := rvCompare c f3 a b
      .done (haccrue (hsetX s g rd (BitVec.ofNat 64 r.1)) g r.2)
    else illegal s w
  | 24 =>
    if iRs2 w ≤ 3 then
      round (fun rm =>
        let wd := if iRs2 w < 2 then 32 else 64
        let r := rvToInt c rm wd (iRs2 w % 2 == 0) a
        .done (haccrue (hsetX s g rd (if wd = 32 then sext32 (w64i r.1) else w64i r.1)) g r.2))
    else illegal s w
  | 26 =>
    if iRs2 w ≤ 3 then
      round (fun rm =>
        let x := (hx s g (iRs1 w)).toNat
        let v : Int := match iRs2 w with
          | 0 => signed 32 x
          | 1 => ((x % 2 ^ 32 : Nat) : Int)
          | 2 => signed 64 x
          | _ => (x : Int)
        put (rvOfInt c rm v))
    else illegal s w
  | 28 =>
    if iRs2 w ≠ 0 then illegal s w else
    (match f3 with
     | 0 =>
       let v := hf s g (iRs1 w)
       .done (hsetX s g rd (if fmt = 0 then w64i (signed 32 v) else BitVec.ofNat 64 v))
     | 1 => .done (hsetX s g rd (BitVec.ofNat 64 (rvClass c a)))
     | _ => illegal s w)
  | 30 =>
    if iRs2 w = 0 ∧ f3 = 0 then
      let v := (hx s g (iRs1 w)).toNat
      .done (hsetF s g rd (if fmt = 0 then box v else v))
    else illegal s w
  | _ => illegal s w

/-- FMADD, FMSUB, FNMSUB, FNMADD. -/
def rvFmaOp (s : State) (g w : Nat) (negProd negAdd : Bool) : HRes :=
  let fmt := bits w 25 2
  if 1 < fmt then illegal s w else
  match rvRm s g w with
  | none => illegal s w
  | some rm =>
    .done (fPut s g fmt (iRd w)
      (rvFma (fmtEnc fmt) rm (fOp s g fmt (iRs1 w)) (fOp s g fmt (iRs2 w)) (fOp s g fmt (iRs3 w)) negProd negAdd))

/-- An FP instruction is illegal while the FP state is off. -/
def fpGate (s : State) (g w : Nat) (r : HRes) : HRes :=
  if bits (getHart s g).mstatus 13 2 = 0 then illegal s w else r

/-! Atomics (R307, R313). -/

/-- Where an atomic may go: a control-memory address, aligned, in memory the PMP opens to the rights it needs; the cause it
raises otherwise (R307).  An LR is a load, an SC a store, and an AMO both. -/
def amoCheck (s : State) (g a n : Nat) (reads writes : Bool) : Option Nat :=
  let h := getHart s g
  let ok := fun (perm : Nat) => pmpOk h (dataMode h) perm a n
  if target a ≠ .control then some 7
  else if a % n ≠ 0 then some (if writes then 6 else 4)
  else if (reads && !ok 0) || (writes && !ok 1) then some (if writes then 7 else 5)
  else none

/-- The result of an AMO on n bytes; none for a reserved function. -/
def amoResult (f5 n : Nat) (old b : Nat) : Option Nat :=
  let s := fun (x : Nat) => signed (8 * n) x
  match f5 with
  | 0 => some ((old + b) % 2 ^ (8 * n))
  | 1 => some b
  | 4 => some (Nat.xor old b)
  | 8 => some (Nat.lor old b)
  | 12 => some (Nat.land old b)
  | 16 => some (if s old < s b then old else b)
  | 20 => some (if s old < s b then b else old)
  | 24 => some (if old < b then old else b)
  | 28 => some (if old < b then b else old)
  | _ => none

def amoBytes (w : Nat) : Nat := if iF3 w = 2 then 4 else 8
def amoPut (s : State) (g rd n v : Nat) : State := hsetX s g rd (w64i (signed (8 * n) v))

/-- The register's bytes as an atomic's operand. -/
def amoSrc (s : State) (g w : Nat) : Nat := (hx s g (iRs2 w)).toNat % 2 ^ (8 * amoBytes w)

/-- The n bytes of a line from a place in it. -/
def lineNat (d : List Byte) (off n : Nat) : Nat := leNat ((d.drop off).take n)

/-- An AMO: the line is owned, and the operation is done in the cache; a refused one reads zero and writes nothing. -/
def rvAmo (s : State) (g w : Nat) (ecc : Ecc) : HRes :=
  let n := amoBytes w
  let a := (hx s g (iRs1 w)).toNat
  if (iF3 w ≠ 2 ∧ iF3 w ≠ 3) ∨ (amoResult (iRs3 w) n 0 0).isNone then illegal s w else
  match amoCheck s g a n true true with
  | some c => .trap s c a
  | none =>
    let e := cndEcc s g (a / 64) ecc
    if e.2 then .trap e.1 7 a else
    match cndLine e.1 g (a / 64) true none with
    | none => .wait
    | some (s, none) => .done (hsetX s g (iRd w) 0)
    | some (s, some d) =>
      let old := lineNat d (a % 64) n
      match amoResult (iRs3 w) n old (amoSrc s g w) with
      | some v =>
        .done (amoPut (l1Touch (cndStore s g (a / 64) (a % 64, leBytes n v)) g (a / 64)) g (iRd w) n old)
      | none => illegal s w

/-- The instructions of a sequence that starts with an LR: 16 with it (RISC-V's constrained sequences; PRESUMED, log 5). -/
def lrSpan : Nat := 15

/-- LR: takes ownership, reserves the line and starts the deferral; a line no cache installs is not reserved (R606). -/
def rvLr (s : State) (g w : Nat) (ecc : Ecc) : HRes :=
  let n := amoBytes w
  let a := (hx s g (iRs1 w)).toNat
  if (iF3 w ≠ 2 ∧ iF3 w ≠ 3) ∨ iRs2 w ≠ 0 then illegal s w else
  match amoCheck s g a n true false with
  | some c => .trap s c a
  | none =>
    let e := cndEcc s g (a / 64) ecc
    if e.2 then .trap e.1 5 a else
    match cndLine e.1 g (a / 64) true none with
    | none => .wait
    | some (s, none) => .done (hsetX s g (iRd w) 0)
    | some (s, some d) =>
      let held := (getHolder s g (a / 64)).isSome
      let s := setHart s g { getHart s g with
        rsv := if held then some (a / 64) else none, defer := if held then lrSpan else 0 }
      .done (amoPut (l1Touch s g (a / 64)) g (iRd w) n (lineNat d (a % 64) n))

/-- SC: writes only where the reserved line never left the cache; it ends the reservation and the deferral. -/
def rvSc (s : State) (g w : Nat) (ecc : Ecc) : HRes :=
  let n := amoBytes w
  let a := (hx s g (iRs1 w)).toNat
  if iF3 w ≠ 2 ∧ iF3 w ≠ 3 then illegal s w else
  match amoCheck s g a n false true with
  | some c => .trap s c a
  | none =>
    let fin := fun (s : State) (v : W64) =>
      HRes.done (hsetX (setHart s g { getHart s g with rsv := none, defer := 0 }) g (iRd w) v)
    if (getHart s g).rsv ≠ some (a / 64) then fin s 1 else
    let e := cndEcc s g (a / 64) ecc
    if e.2 then .trap e.1 7 a else
    if (getHart e.1 g).rsv ≠ some (a / 64) then fin e.1 1 else
    match cndLine e.1 g (a / 64) true (some (a % 64, leBytes n (amoSrc s g w))) with
    | none => .wait
    | some (s, none) => fin s 1
    | some (s, some _) => fin (l1Touch s g (a / 64)) 0

/-- R313: whether an instruction may stand between the LR and the SC of a constrained sequence, as RISC-V defines one: of
the base integer set, no load, store, FENCE, SYSTEM or JALR, and no jump or taken branch backwards (PRESUMED, log 5). -/
def constrained (w : Nat) (back : Bool) : Bool :=
  let op := bits w 0 7
  !back && ([0x37, 0x17, 0x6F, 0x63, 0x13, 0x1B].contains op || ([0x33, 0x3B].contains op && iF7 w != 1))

/-- The deferral goes on through a constrained sequence of at most 16 instructions, and ends at any other instruction. -/
def deferStep (s : State) (g w : Nat) (pc : W64) : State :=
  let h := getHart s g
  if h.defer = 0 then s else
  let back := decide (h.pc.toNat < pc.toNat)
  setHart s g { h with defer := if constrained w back then h.defer - 1 else 0 }

/-! The ordinary instructions. -/

/-- One ordinary instruction, its 32-bit form w. -/
def rvOrdinary (s : State) (g w : Nat) (pc : W64) (ecc : Ecc) (peer : Option (List Byte)) : HRes :=
  let rd := iRd w
  let f3 := iF3 w
  let a := hx s g (iRs1 w)
  let b := hx s g (iRs2 w)
  let put := fun v => HRes.done (hsetX s g rd v)
  let jump := fun (t : W64) => HRes.done (hsetX (hsetPc s g t) g rd (hpc s g))
  match bits w 0 7 with
  | 0x37 => put (immU w)
  | 0x17 => put (pc + immU w)
  | 0x6F => jump (pc + immJ w)
  | 0x67 => if f3 = 0 then jump (((a + immI w) >>> 1) <<< 1) else illegal s w
  | 0x63 =>
    (match rvCond f3 a b with
     | some c => .done (if c then hsetPc s g (pc + immB w) else s)
     | none => illegal s w)
  | 0x03 =>
    if f3 = 7 then illegal s w else
    rvLoad s g (a + immI w) (2 ^ (f3 % 4)) ecc peer (fun s v => hsetX s g rd (loadValue f3 v))
  | 0x23 => if f3 ≤ 3 then rvStore s g (a + immS w) (2 ^ f3) b.toNat ecc peer else illegal s w
  | 0x13 =>
    if f3 = 1 then (if bits w 26 6 = 0 then put (alu 1 false a (BitVec.ofNat 64 (bits w 20 6))) else illegal s w)
    else if f3 = 5 then
      (if bits w 26 6 = 0 ∨ bits w 26 6 = 16 then put (alu 5 (bit w 30) a (BitVec.ofNat 64 (bits w 20 6)))
       else illegal s w)
    else put (alu f3 false a (immI w))
  | 0x1B =>
    (match f3 with
     | 0 => put (sext32 (a + immI w))
     | 1 => if iF7 w = 0 then put ((aluW 1 false a (BitVec.ofNat 64 (iRs2 w))).getD 0) else illegal s w
     | 5 => if iF7 w = 0 ∨ iF7 w = 32 then put ((aluW 5 (bit w 30) a (BitVec.ofNat 64 (iRs2 w))).getD 0)
            else illegal s w
     | _ => illegal s w)
  | 0x33 =>
    if iF7 w = 1 then put (mulDiv f3 a b)
    else if iF7 w = 0 ∨ (iF7 w = 32 ∧ (f3 = 0 ∨ f3 = 5)) then put (alu f3 (iF7 w == 32) a b)
    else illegal s w
  | 0x3B =>
    let r := if iF7 w = 1 then mulDivW f3 a b
      else if iF7 w = 0 ∨ (iF7 w = 32 ∧ (f3 = 0 ∨ f3 = 5)) then aluW f3 (iF7 w == 32) a b else none
    (match r with
     | some v => put v
     | none => illegal s w)
  | 0x73 => rvSystem s g w pc
  | 0x07 =>
    fpGate s g w
      (if f3 = 2 then rvLoad s g (a + immI w) 4 ecc peer (fun s v => hsetF s g rd (box v))
       else if f3 = 3 then rvLoad s g (a + immI w) 8 ecc peer (fun s v => hsetF s g rd v)
       else illegal s w)
  | 0x27 =>
    fpGate s g w
      (if f3 = 2 ∨ f3 = 3 then rvStore s g (a + immS w) (2 ^ f3) (hf s g (iRs2 w)) ecc peer else illegal s w)
  | 0x43 => fpGate s g w (rvFmaOp s g w false false)
  | 0x47 => fpGate s g w (rvFmaOp s g w false true)
  | 0x4B => fpGate s g w (rvFmaOp s g w true false)
  | 0x4F => fpGate s g w (rvFmaOp s g w true true)
  | 0x53 => fpGate s g w (rvFp s g w)
  | _ => illegal s w

end Sys2Proof.Machine
end

