-- ==== Sys2Proof/Machine/CndX.lean ====
section
/-! DEFINITION. The commands of the conductor cores, their directory and the partial-sort engine (spec R303-R329,
R231). -/
namespace Sys2Proof.Machine

/-- The rows of the conductor's instructions. -/
inductive RvClass where
  | ordinary | fence | fenceI | amo | lr | sc | sigsend | sigrecv | wfs | psort
deriving DecidableEq, Repr

/-- The class of a 32-bit instruction; an encoding of custom-0 with an unused field set is no Heryon instruction, and
raises the exception of R322 as an ordinary one. -/
def rvClass32 (w : Nat) : RvClass :=
  let noRs2 := bits w 20 12 == 0
  match bits w 0 7 with
  | 0x0F => (match iF3 w with
    | 0 => .fence
    | 1 => .fenceI
    | _ => .ordinary)
  | 0x2F => (match iRs3 w with
    | 2 => .lr
    | 3 => .sc
    | _ => .amo)
  | 0x0B => (match iF3 w with
    | 0 => if bits w 25 2 = 0 then .sigsend else .ordinary
    | 1 => if noRs2 && iRs1 w == 0 then .sigrecv else .ordinary
    | 2 => if noRs2 then .wfs else .ordinary
    | 3 => if noRs2 then .psort else .ordinary
    | _ => .ordinary)
  | _ => .ordinary

/-- Run the instruction at a conductor's pc where it is of the given class: an interrupt that is due comes first; a
halted, waiting or switching core runs nothing; an access that must wait leaves the instruction to a later command. -/
def hartRun (s : State) (g : Nat) (f : Fetched) (cls : RvClass) (k : State → Nat → W64 → HRes) : State :=
  let s := cndWake s g
  if cndState s g ≠ cndRunning then s else
  match pendingIrq s g with
  | some c => takeTrap s g true c (hpc s g) 0
  | none =>
    let pc := hpc s g
    match cndFetch s g f with
    | .wait => s
    | .fault t a => if cls = .ordinary then takeTrap t g false 1 pc a else s
    | .ok t w len =>
      let full := if len = 2 then rvc w else some w
      match full with
      | none => if cls = .ordinary then takeTrap t g false 2 pc w else s
      | some x =>
        if rvClass32 x ≠ cls then s else
        match k (hsetPc t g (pc + BitVec.ofNat 64 len)) x pc with
        | .wait => s
        | .trap t c v => takeTrap t g false c pc (if c = 2 then w else v)
        | .done t => finc (if cls = .lr ∨ cls = .sc then t else deferStep t g x pc) .CND_INSTRET_COUNT g

/-- R303: an ordinary RV64GC instruction.  `peer` is a peer's answer to a remote access, none where none came in
time. -/
def execRiscvInstruction (i : CndInsn) (ecc : Ecc) (peer : Option (List Byte)) (s : State) : Out :=
  .next (settle (hartRun s i.cnd i.fetched .ordinary (fun s w pc => rvOrdinary s i.cnd w pc ecc peer)))

/-- R304: FENCE.I forgets the instruction cache. -/
def execFenceI (i : CndInsn) (s : State) : Out :=
  .next (hartRun s i.cnd i.fetched .fenceI (fun s _ _ => .done (setHart s i.cnd { getHart s i.cnd with icache := [] })))

/-- R307: every earlier access of the core has been performed, so that a FENCE has nothing to wait for. -/
def execConductorFence (i : CndInsn) (s : State) : Out :=
  .next (hartRun s i.cnd i.fetched .fence (fun s _ _ => .done s))

/-- R313. -/
def execConductorAmo (i : CndInsn) (ecc : Ecc) (s : State) : Out :=
  .next (hartRun s i.cnd i.fetched .amo (fun s w _ => rvAmo s i.cnd w ecc))

def execConductorLr (i : CndInsn) (ecc : Ecc) (s : State) : Out :=
  .next (hartRun s i.cnd i.fetched .lr (fun s w _ => rvLr s i.cnd w ecc))

def execConductorSc (i : CndInsn) (ecc : Ecc) (s : State) : Out :=
  .next (hartRun s i.cnd i.fetched .sc (fun s w _ => rvSc s i.cnd w ecc))

/-- R313: 64 cycles after an LR the core answers snoops of its line again. -/
def execLrDeferExpire (g : CndId) (s : State) : Out :=
  .next (setHart s g { getHart s g with defer := 0 })

/-- R322, R323: SIGSEND. -/
def sigsend (s : State) (g w : Nat) : HRes :=
  let h := (hx s g (iRs1 w)).toNat
  let b := (hx s g (iRs2 w)).toNat
  let c := (hx s g (iRs3 w)).toNat
  let oper := fbit s .CND_STATUS_OPER g
  let cls := bits h 0 4
  let mine := s.sigs.filter (fun x => x.srcDie == g / 4 && x.srcStop == ccStop && x.msg.cls == cls)
  let put := fun (s : State) (v : Nat) => HRes.done (hsetX s g (iRd w) (BitVec.ofNat 64 v))
  if !oper && (cls == clsReset || cls == clsCompose) then put s 2
  else if 2 ≤ mine.length then put s 1
  else
    let flits := [BitVec.ofNat 32 b, BitVec.ofNat 32 (b / 2 ^ 32), BitVec.ofNat 32 c]
    put (sendSignal s (g / 4) ccStop
      ⟨cls, bits h 4 4, bits h 8 5, fget s .CND_STATUS_PART g, oper, flits.take (bits h 13 2)⟩) 0

def execSigsend (i : CndInsn) (s : State) : Out :=
  .next (hartRun s i.cnd i.fetched .sigsend (fun s w _ => sigsend s i.cnd w))

/-- R322, R324: SIGRECV takes the oldest message; SIGRXD and SIGRXE get its payload. -/
def sigrecv (s : State) (g w : Nat) : HRes :=
  match getRxq s g with
  | [] => .done (hsetX s g (iRd w) 0)
  | m :: ms =>
    let fl := fun i => (m.payload.getD i 0).toNat
    let s := setRxq s g ms
    let s := setHart s g { getHart s g with sigrxd := fl 0 + fl 1 * 2 ^ 32, sigrxe := fl 2 }
    .done (hsetX s g (iRd w) (BitVec.ofNat 64 (sigHeader m + 2 ^ 63)))

def execSigrecv (i : CndInsn) (s : State) : Out :=
  .next (hartRun s i.cnd i.fetched .sigrecv (fun s w _ => sigrecv s i.cnd w))

/-- R322: WFS ends at once where a message is there; else the core waits at the instruction, which retires when it
ends. -/
def execWfs (i : CndInsn) (s : State) : Out :=
  .next (hartRun s i.cnd i.fetched .wfs (fun s w pc =>
    if extPending s i.cnd then .done (hsetX s i.cnd (iRd w) 0) else
    let s' := hsetPc s i.cnd pc
    let s' := setHart s' i.cnd { getHart s' i.cnd with wfs := some (iRd w, s.now + (hx s i.cnd (iRs1 w)).toNat) }
    let s' := setCndState s' i.cnd cndWaiting
    .done (fset s' .CND_INSTRET_COUNT i.cnd (fget s' .CND_INSTRET_COUNT i.cnd + (2 ^ 64 - 1)))))

/-- R322: the limit of a WFS has passed: rd becomes 1. -/
def execWfsTimeout (g : CndId) (s : State) : Out :=
  match (getHart s g).wfs with
  | some (rd, limit) =>
    if cndState s g = cndWaiting ∧ limit ≤ s.now then
      let h := getHart s g
      let s := setHart s g { h with wfs := none, pc := h.pc + 4 }
      .next (setCndState (finc (hsetX s g rd 1) .CND_INSTRET_COUNT g) g cndRunning)
    else .next s
  | none => .next s

def getSorts (s : State) (d : Nat) : List SortJob := SMap.get (fun _ => []) s.sorts d
def setSorts (s : State) (d : Nat) (q : List SortJob) : State :=
  { s with sorts := SMap.set (fun _ => []) s.sorts d q }

/-- R322, R325: PSORT queues a descriptor with the conductor's tag. -/
def execPsort (i : CndInsn) (s : State) : Out :=
  .next (hartRun s i.cnd i.fetched .psort (fun s w _ =>
    let d := i.cnd.val / 4
    let q := getSorts s d
    if 8 ≤ q.length then .done (hsetX s i.cnd (iRd w) 1) else
    let w' := cndWho s i.cnd
    .done (hsetX (setSorts s d (q ++ [⟨i.cnd, w'.part, w'.oper, (hx s i.cnd (iRs1 w)).toNat⟩])) i.cnd (iRd w) 0)))

/-- R231: the order of a value: a NaN below every number, −0 below +0. -/
def sortKey (x : W32) : Int :=
  if fIsNan x then -(2 ^ 33 : Nat) else
  if bit x.toNat 31 then -((bits x.toNat 0 31 : Nat) : Int) - 1 else ((bits x.toNat 0 31 : Nat) : Int)

/-- Put a pair into a descending list, behind its equals: the lower index stays first. -/
def sortInsert (e : Nat × W32) : List (Nat × W32) → List (Nat × W32)
  | [] => [e]
  | x :: xs => if sortKey x.2 < sortKey e.2 then e :: x :: xs else x :: sortInsert e xs

/-- The n largest of a list of values, with their indices. -/
def sortTop (n : Nat) (xs : List W32) : List (Nat × W32) :=
  ((List.range xs.length).zip xs).foldl (fun acc e => (sortInsert e acc).take n) []

/-- R325: a sort of die d runs: its descriptor is read, its values sorted, the pairs and the completion word written. -/
def sortRun (s : State) (d : Nat) (j : SortJob) : State :=
  let w : Who := ⟨j.part, 4, j.oper, 6, d, j.cnd % 4, false⟩
  let r := devRead s w j.addr 32
  let bs := r.2.1
  let s := r.1
  let v := fieldAt bs 16 4
  let n := fieldAt bs 20 2
  let done := fieldAt bs 24 8
  let word := fun (st k : Nat) => 2 ^ 63 + st * 2 ^ 32 + k
  if v = 0 ∨ 262144 < v ∨ n = 0 ∨ 1024 < n ∨ fieldAt bs 22 2 ≠ 0 ∨ target done ≠ .control then
    if target done = .control then writeWord s w done (word 1 0) else s
  else
    let src := devRead s w (fieldAt bs 0 8) (4 * v)
    let xs := (List.range v).map (fun i => BitVec.ofNat 32 (fieldAt src.2.1 (4 * i) 4))
    let top := sortTop n xs
    let s := devWrite src.1 w (fieldAt bs 8 8) (top.flatMap (fun e => leBytes 4 e.1 ++ leBytes 4 e.2.toNat))
    settle (writeWord (finc s .PSE_SORTS_COUNT d) w done (word 0 top.length))

/-- R325: the engine ends the oldest sort. -/
def execSortComplete (d : Die) (s : State) : Out :=
  patient s (fun s => .next (match getSorts s d with
    | [] => s
    | j :: js => sortRun (setSorts s d js) d j))

/-- R306: the timer's request; a core that waits goes on. -/
def execMachineTimerInterrupt (g : CndId) (s : State) : Out :=
  .next (cndWake (setHart s g { getHart s g with mtip := true }) g)

/-! The directory (R308-R319). -/

/-- A holder's request: a conductor carries its own tag, any other holder that of the work it does (R318). -/
def holderReq (s : State) (h : Nat) (q : DirReq) (part : Nat) (oper : Bool) (store : Option (Nat × List Byte)) : DirWait :=
  if h < 64 then ⟨h, q, fget s .CND_STATUS_PART h, fbit s .CND_STATUS_OPER h, s.nextId, store⟩
  else ⟨h, q, part, oper, s.nextId, store⟩

def isControl (line : Nat) : Bool := match regionOf (64 * line) with
  | .control _ => true
  | _ => false

/-- What the directory's check codes find (R326, R327). -/
def dirEcc (s : State) (line : Nat) (ecc : Ecc) : State :=
  match ecc with
  | .clean => s
  | .corrected => fsat s .CTL_ECC_COUNT_CORRECTED (dirDie line)
  | .uncorrectable => dirLose s line

/-- A holder asks for a line: refused (R319), or added to the requests of the cycle; none where it has a request of the line
in progress or no room for it (R309). -/
def holderAsk (s : State) (line : Nat) (ws : List DirWait) (w : DirWait) : State × List DirWait :=
  if asking s w.holder line || ws.any (fun x => x.by w.holder) then (s, ws)
  else if !holderAllowed s w.holder w.part w.oper w.req.owns line then (dirRefuse s w.part line, ws)
  else match holderRoom s w.holder line with
    | some s => (s, ws ++ [w])
    | none => (s, ws)

/-- R310, R317: an agent's wish as the request it makes: a holder that has the line as it needs asks for nothing, and a store
into a line it owns is made at once; an Upgrade without its copy is a GetX. -/
def askOne (line : Nat) (r : State × List DirWait) (q : DirAsk) : State × List DirWait :=
  let s := r.1
  let own := fun (h : Nat) (q : DirReq) (part : Nat) (oper : Bool) (store : Option (Nat × List Byte)) =>
    match getHolder s h line with
    | none => holderAsk s line r.2 (holderReq s h .getX part oper store)
    | some ⟨.S, _⟩ => holderAsk s line r.2 (holderReq s h q part oper store)
    | some _ => (match store with
      | some x => ownStore s h line x
      | none => s, r.2)
  match q with
  | .gets h part oper =>
    if (getHolder s h line).isSome then r else holderAsk s line r.2 (holderReq s h .getS part oper none)
  | .getx h part oper store => own h .getX part oper store
  | .upgrade h part oper store => own h .upgrade part oper store
  | .nc a => if a.addr / 64 = line then (s, r.2 ++ [⟨hNone, .nc a, a.who.part, a.who.oper, s.nextId, none⟩]) else r

/-- R252: of the requests for a line that is being scrubbed, only the non-caching are answered, with zeros. -/
def askScrubbed (line : Nat) (s : State) (q : DirAsk) : State :=
  match q with
  | .nc a => if a.addr / 64 = line then ncServe s a else s
  | _ => s

/-- The requests for a line that arrive in one directory cycle (R311, R315-R317), and what the check codes find. -/
def dirArrive (s : State) (line : Nat) (ecc : Ecc) (qs : List DirAsk) : State :=
  if !isControl line then s
  else if scrubbing s (line / 2 ^ 26) then qs.foldl (askScrubbed line) s
  else
    let r := qs.foldl (askOne line) (dirEcc s line ecc, [])
    dirAdmit (dirEnter { r.1 with nextId := r.1.nextId + 1 } line r.2) line

/-- R311: a GetS of a holder, with the requests of others for the line in the same cycle. -/
def execGets (h : Fin 72) (l : DirLine) (part : Nat) (oper : Bool) (rivals : List DirAsk) (s : State) : Out :=
  .next (dirArrive s l.line l.ecc (.gets h part oper :: rivals))

/-- R311, R315: a GetX of a holder. -/
def execGetx (h : Fin 72) (l : DirLine) (part : Nat) (oper : Bool) (want : DirWant) (s : State) : Out :=
  .next (dirArrive s l.line l.ecc (.getx h part oper want.store :: want.rivals))

/-- R311, R317: an Upgrade of a holder. -/
def execUpgrade (h : Fin 72) (l : DirLine) (tag : DirTag) (want : DirWant) (s : State) : Out :=
  .next (dirArrive s l.line l.ecc (.upgrade h tag.part tag.oper want.store :: want.rivals))

/-- R311, R314: a dirty line comes back: its data goes home, and its write-back is then to be retired.  Where the owner has
been snooped, the data is its answer, and the snooped request is finished when the home has accepted it. -/
def putMLine (s : State) (h line : Nat) : State :=
  let s := setHolder (flushHolder s h line) h line none
  let e := dirEntry s line
  let e := { e with owned := false, holders := setBits e.holders h 1 0, wbOut := true }
  match e.busy with
  | some (w, wait) =>
    if bit wait h then
      finc (setDir s line (some { e with busy := some (w, setBits wait h 1 0) })) .CTL_XWB_COUNT (dirDie line)
    else setDir s line (some e)
  | none => setDir s line (some e)

def execPutm (h : Fin 72) (l : DirLine) (s : State) : Out :=
  match getHolder s h l.line with
  | some ⟨.M, _⟩ =>
    let s := dirEcc s l.line l.ecc
    .next (dirAdmit (if (getHolder s h l.line).isSome then putMLine s h l.line else s) l.line)
  | _ => .next s

/-- R311, R317: a clean line comes back; a snoop it crosses is still to be answered, without data. -/
def execPutc (h : Fin 72) (l : DirLine) (s : State) : Out :=
  match getHolder s h l.line with
  | some ⟨.M, _⟩ => .next s
  | some _ => .next (dirAdmit (returnLine (dirEcc s l.line l.ecc) h l.line) l.line)
  | none => .next s

/-- R310, R311: a non-caching access, of the kind of its command. -/
def execNc (q : NcAsk) (mine : Bool) (s : State) : Out :=
  .next (if mine then dirArrive s (q.access.addr / 64) q.ecc (.nc q.access :: q.rivals) else s)

def execReadnc (q : NcAsk) (s : State) : Out :=
  execNc q (match q.access.op with | .read _ => true | _ => false) s

def execWritenc (q : NcAsk) (s : State) : Out :=
  execNc q (match q.access.op with | .write _ => true | _ => false) s

def execAtomicnc (q : NcAsk) (s : State) : Out :=
  execNc q (match q.access.op with | .atomic .. => true | .cas .. => true | _ => false) s

/-- R312: a holder answers a snoop of a line, unless it defers it (R313). -/
def execSnoopResponse (h : Fin 72) (line : Nat) (s : State) : Out :=
  if (getHart s h).defer ≠ 0 ∧ (getHart s h).rsv = some line then .next s
  else .next (dirAdmit (snoopAnswer s h line) line)

/-- R314, R315: the home has accepted a write-back: the snooped request that waited for it is finished, or the next of the
held requests is served, with the data written back. -/
def retireLine (s : State) (line : Nat) (e : DirEntry) : State :=
  let s := setDir s line (some { e with wbOut := false })
  let back := some (⟨.E, Bytes.read s.mem (64 * line) 64⟩ : HLine)
  match e.busy with
  | some (w, wait) => if wait = 0 then dirFinish s w back line else s
  | none => dirNext s back line

def execWritebackRetired (line : Nat) (s : State) : Out :=
  match getDir s line with
  | some e => .next (if e.wbOut then dirAdmit (retireLine s line e) line else s)
  | none => .next s

/-- R315: a held request is presented again. -/
def execDirRetry (line : Nat) (s : State) : Out :=
  .next (dirAdmit (if (getDir s line).isSome then dirNext s none line else s) line)

/-! Switching and running (R321, R328, R329). -/

/-- R321 steps 3 to 5 with the tag as it is: every line returned, the registers cleared, the core at CND_ENTRY. -/
def cndRestart (s : State) (g : Nat) : State :=
  let s := (holderLines s g).foldl (fun s l =>
    match getHolder s g l with
    | some ⟨.M, _⟩ => putMLine s g l
    | _ => returnLine s g l) s
  let s := setHart s g { getHart s g with
    x := [], f := [], icache := [], l1d := [], rsv := none, defer := 0, wfs := none,
    pc := BitVec.ofNat 64 (fget s .CND_ENTRY_ADDR g) }
  rstKick (setCndState s g cndRunning) g

/-- R321 step 2: the core has a request at a directory that is not granted yet. -/
def cndOutstanding (s : State) (g : Nat) : Bool :=
  s.dirs.any (fun e => (dirAsked s e.1).any (fun w => w.by g)) || s.dirHeld.any (fun e => e.2.any (fun w => w.by g))

/-- R321: the switch of a conductor: it stops, and once its outstanding accesses are complete it goes on to RUNNING with its
new tag. -/
def execCndSwitch (g : CndId) (s : State) : Out :=
  let s := cndSwitchStart s g
  if cndOutstanding s g then .next s else
  let s := cndRestart s g
  let s := fset s .CND_STATUS_PART g (fget s .CND_NEXT_PART_PART g)
  .next (fset s .CND_STATUS_OPER g (fget s .CND_NEXT_PART_OPER g))

/-- R303: CND_CTRL.RUN. -/
def execCndRun (g : CndId) (run : Bool) (s : State) : Out := .next (cndRunWrite s g run)

/-- R329: the shared-region registers are locked. -/
def execCtlLock (d : Die) (s : State) : Out := .next (fset s .CTL_LOCK_LOCK d 1)

end Sys2Proof.Machine
end

