-- ==== Sys2Proof/Machine/RingX.lean ====
section
/-! DEFINITION. The commands of rings, descriptors, the translation cache and command starts (spec R392-R412,
R423-R430, R437-R439, R447). -/
namespace Sys2Proof.Machine

/-! Rings. -/

/-- R395: a doorbell of a function: a ring ID in PF BAR2, a local index in a VF's BAR0. -/
def doorbellOf (s : State) (f ring v : Nat) : State :=
  if f = 0 then (if ring < 262144 then ringDoorbell s ring v else s)
  else if vfServes s (f - 1) && decide (ring < fget s .QE_PART_RINGS_COUNT (f - 1)) then
    ringDoorbell s (globalRing s (f - 1) ring) v
  else dropDoorbell s f

/-- R395, R396. -/
def execDoorbell (f : FuncId) (ring : Nat) (value : W32) (s : State) : Out := .next (doorbellOf s f ring value.toNat)

/-- R393: CONFIGURE. -/
def execRingConfigure (f : FuncId) (s : State) : Out := .next (ringConfigure s f)

/-- R393, R394: DISABLE. -/
def execRingDisable (f : FuncId) (s : State) : Out := .next (ringDisable s f)

/-- R393: READ. -/
def execRingRead (f : FuncId) (s : State) : Out := .next (ringRead s f)

/-- R394: a DRAINING ring's last record is written. -/
def execRingDrained (r : RingId) (s : State) : Out :=
  let x := getRing s r
  if x.state = rDraining ∧ ringDone s (((ringPart s r).map (funcOf s)).getD 0) r = true then
    .next (setRing s r { x with state := rDisabled })
  else .next s

/-- R406: MOD_TIME has passed since the first record that no interrupt covers. -/
def execInterruptModerationTimer (r : RingId) (s : State) : Out :=
  let x := getRing s r
  match ringPart s r with
  | some p =>
    if x.irq ∧ 0 < x.uncovered then .next (raiseVector (setRing s r { x with uncovered := 0 }) (funcOf s p) x.vector)
    else .next s
  | none => .next s

/-! Descriptor reads (R397, R398, R407, R409). -/

/-- The bytes of a descriptor of a ring (R399). -/
def descBytes (x : Ring) : Nat := if x.format = 1 then 16 else if x.format = 2 then 32 else 64

/-- How many descriptors the next read of a ring fetches (R397, R398): up to 8, within the ring's end, a 4 KiB page,
the partition's trackers and the completion ring's unreserved slots. -/
def fetchCount (s : State) (r p : Nat) : Nat :=
  let x := getRing s r
  let c := compRing s r
  let cx := getRing s c
  let room := cx.size - ringGap cx.tail cx.head - reservedSlots s c
  let slot := x.issued % x.size
  List.foldl min 8 [ringGap x.tail x.issued, x.size - slot, (4096 - slot * descBytes x % 4096) / descBytes x,
    fget s .QE_PART_CFG_TRACKERS p - trackersOf s p, if cx.state = rEnabled ∨ cx.state = rError then room else 0]

/-- R213: the places of a loop's join queue that no request holds or may still take: those queued, fetched or being fetched
from the request rings of its sub-consist. -/
def joinRoom (s : State) (p sub : Nat) : Nat :=
  let mine := fun r => ringPart s r == some p && (getRing s r).sub == sub
  4096 - ((s.reqs.filter (fun q => q.part == p && q.sub == sub && q.st == .queued)).length +
    (s.intake.filter (fun q => mine q.ring)).length +
    ((s.hreads.filterMap (fun h => match h.why with
      | .descs r _ n => if mine r && (getRing s r).kind == kRequest then some n else none
      | _ => none)).foldl (· + ·) 0))

/-- A host read leaves, or waits for its translation (R397, R409). -/
def issueRead (s : State) (f : Nat) (why : ReadFor) (a n : Nat) : State :=
  if !(getFunc s f).ats then
    { s with hreads := s.hreads ++ [⟨f, why, a, n, true, false⟩], tlps := s.tlps ++ readTlps s f a n false }
  else match atcLookup s f a false with
    | some t => { t.2 with hreads := s.hreads ++ [⟨f, why, a, n, true, false⟩], tlps := s.tlps ++ readTlps s f t.1 n true }
    | none => atsAsk { s with hreads := s.hreads ++ [⟨f, why, a, n, false, false⟩] } f a

/-- How many descriptors of a ring the queue engine may read now; 0 where it serves it not (R213, R394-R398, R414). -/
def fetchable (s : State) (r : Nat) : Nat :=
  let x := getRing s r
  match ringPart s r with
  | none => 0
  | some p =>
    let f := funcOf s p
    if x.state = rEnabled ∧ (x.kind = kCommand ∨ x.kind = kRequest) ∧ (getFunc s f).bme = true ∧
        quiescing s f = false ∧ silent s p = false ∧ fbit s .RST_PART_STATUS_OUT p = false then
      (if x.kind = kRequest then min (fetchCount s r p) (joinRoom s p x.sub) else fetchCount s r p)
    else 0

/-- How far round a circle of n places b lies behind a. -/
def roundBehind (n a b : Nat) : Nat := (b + n - a % n - 1) % n

/-- The entry with the least key. -/
def leastBy (key : Nat → Nat) (l : List Nat) : Option Nat :=
  l.foldl (fun b x => match b with
    | none => some x
    | some y => if key x < key y then some x else some y) none

/-- R398: the ring that is served next: the one whose turn it is while any of its 8 descriptors are left, or the next ring
with work of the next partition with work. -/
def nextRing (s : State) : Option Nat :=
  let t := s.turn
  if t.left ≠ 0 ∧ fetchable s t.ring ≠ 0 then some t.ring else
  let rs := (s.rings.map (·.1)).filter (fun r => fetchable s r != 0)
  let part := fun r => (ringPart s r).getD 0
  match leastBy (fun r => roundBehind 64 t.part (part r)) rs with
  | none => none
  | some q =>
    let p := part q
    let last := SMap.get (fun _ => 262143) t.rings p
    leastBy (roundBehind 262144 last) (rs.filter (fun r => part r == p))

/-- R397, R398: the queue engine reads new descriptors of a ring whose turn it is. -/
def execDescriptorFetch (r : RingId) (s : State) : Out :=
  match nextRing s, ringPart s r with
  | some q, some p =>
    if q ≠ (r : Nat) then .next s else
    let t := s.turn
    let x := getRing s r
    let f := funcOf s p
    let left := if t.left ≠ 0 ∧ t.ring = (r : Nat) then t.left else 8
    let n := min left (fetchable s r)
    let s := setRing { s with turn := ⟨r, left - n, p, SMap.set (fun _ => 262143) t.rings p r⟩ } r
      { x with issued := (x.issued + n) % 2 ^ 32 }
    .next (issueRead s f (.descs r (x.issued % 2 ^ 32) n) (x.base + x.issued % x.size * descBytes x) (n * descBytes x))
  | _, _ => .next s

/-! Commands (R399-R403, R422, R429, R430). -/

/-- R400: the generations that carry an opcode. -/
def opKnown (op format : Nat) : Bool :=
  if op ≤ 2 then true
  else if op = 3 ∨ op = 4 ∨ (0x10 ≤ op ∧ op ≤ 0x19) then decide (format ≠ 1)
  else op == 7 && format == 3

/-- R400, R421: the bits of A0–A4 that an opcode names. -/
def argMask (op : Nat) : List Nat :=
  let m := fun n => 2 ^ n - 1
  match op with
  | 0x01 => [m 48, m 48, m 24 + 3 * 2 ^ 28, m 22, 0]
  | 0x02 => [m 48, m 48, m 13 + m 11 * 2 ^ 16 + 3 * 2 ^ 28, 0, 0]
  | 0x03 => [m 48, m 48, 3, 0, 0]
  | 0x04 => [0x103, m 16, 0, 0, 0]
  | 0x10 => [3, 0, 0, 0, 0]
  | 0x12 => [m 48, m 25, m 19, 0, 0]
  | 0x13 => [0, 0, m 19, 0, 0]
  | 0x14 => [0, 0, m 16, 0, 0]
  | 0x15 => [m 16, m 64, m 12, m 63, 0]
  | 0x16 => [m 16, m 63, 0, 0, 0]
  | 0x17 => [m 16, m 63, m 32, 0, 0]
  | 0x18 => [m 16, 0, 0, 0, 0]
  | 0x19 => [m 64, m 12, 0, 0, 0]
  | _ => [0, 0, 0, 0, 0]

def Cmd.arg (c : Cmd) (i : Nat) : Nat := c.args.getD i 0

/-- R400, R401, R421, R447: the arguments are in range and their reserved bits zero. -/
def argsOk (s : State) (c : Cmd) : Bool :=
  (c.args.zip (argMask c.op)).all (fun e => Nat.land e.1 e.2 == e.1) &&
  (match c.op with
   | 0x01 =>
     let f := c.arg 3
     c.arg 2 % 2 ^ 24 != 0 && !(bit f 0 && bit f 1) && !(bit f 0 && bit f 2) && !(bit f 1 && bit f 3) &&
     !(bit f 2 && bit f 3) && (fbit s .COMP_PART_CFG_MODE c.part || bits (c.arg 2) 28 2 == 0)
   | 0x02 => decide (1 ≤ bits (c.arg 2) 16 11 ∧ bits (c.arg 2) 16 11 ≤ 1536)
   | 0x11 => c.ctx != 0
   | 0x12 => c.arg 0 % 65536 == 0 && c.arg 1 != 0
   | 0x15 => c.arg 1 % 8 == 0 && (funcOf s c.part == 0 || decide (c.arg 2 % 2 ^ 11 < 64))
   | 0x19 => c.arg 0 % 64 == 0
   | _ => true)

/-- R429, R430: a command's device-side ranges, each with the right that CONFINE asks for. -/
def cmdRanges (c : Cmd) : List (Nat × Nat × Nat) :=
  match c.op with
  | 0x01 =>
    let f := c.arg 3
    let n := c.arg 2 % 2 ^ 24
    (if bit f 0 || bit f 2 then [] else [(c.arg 0, n, 0)]) ++ (if bit f 1 || bit f 3 then [] else [(c.arg 1, n, 1)])
  | 0x02 | 0x03 => [(c.arg 0, 1, 0), (c.arg 1, 1, 0)]
  | _ => []

/-- The objects of a partition in use, with their handles. -/
def objsOf (s : State) (p : Nat) : List (Nat × Obj) :=
  s.objs.filterMap (fun e => if e.1 / 65536 = p then e.2.map (fun o => (e.1 % 65536, o)) else none)

def Obj.size (o : Obj) : Nat := o.pages * 65536

def overlaps (a n b m : Nat) : Bool := decide (a < b + m) && decide (b < a + n)

/-- R429: the objects a command names. -/
def cmdObjs (s : State) (c : Cmd) : List (Nat × Obj) :=
  (objsOf s c.part).filter (fun e => (cmdRanges c).any (fun r => overlaps r.1 r.2.1 e.2.base e.2.size))

/-- R430: a range lies wholly in one mapping that grants the right. -/
def confined (s : State) (p : Nat) (x : Ctx) (r : Nat × Nat × Nat) : Bool :=
  x.maps.any (fun m => bit m.2 r.2.2 && (objsOf s p).any (fun e => e.1 == m.1 && decide (e.2.base ≤ r.1) &&
    decide (r.1 + r.2.1 ≤ e.2.base + e.2.size)))

/-- What a command with its arguments at hand is ended with at fetch, if anything: a status, with the address and right
of a mapping fault (R422, R429, R430, R447). -/
def cmdRefused (s : State) (c : Cmd) : Option (Nat × Option (Nat × Nat)) :=
  let limit := fget s .QE_PART_LIMITS_CONTEXTS c.part
  if !argsOk s c then some (0x40, none)
  else if limit ≤ c.ctx ∨ ((getCtx s c.part c.ctx).isNone ∧ c.op ≠ 0x10) then some (0x62, none)
  else if ((getCtx s c.part c.ctx).map (·.destroying)).getD false then some (0x61, none)
  else if c.op = 0x01 ∧ (copyChans s c.part (bits (c.arg 2) 28 2)).isEmpty then some (0x45, none)
  else if (cmdObjs s c).any (fun e => e.2.freeing) then some (0x60, none)
  else match getCtx s c.part c.ctx with
    | some x =>
      if x.confine then
        (match (cmdRanges c).find? (fun r => !confined s c.part x r) with
         | some r => some (0x68, some (r.1, r.2.2))
         | none => none)
      else none
    | none => none

/-- R403, R534: a hint is passed to the Lovage power controller. -/
def passHint (s : State) (c : Cmd) : State :=
  match c.hint with
  | some h => { s with hints := s.hints ++ [⟨c.part, h.1, h.2.1, h.2.2, s.now⟩] }
  | none => s

/-- A command whose arguments are here: ended at fetch, or held with its references. -/
def cmdReady (s : State) (c : Cmd) : State :=
  match cmdRefused s c with
  | some (st, fault) =>
    let s := match fault with
      | some a => recordFault s (funcOf s c.part) a.1 3 a.2 ⟨0, c.ctx, c.tag, localRing s c.ring⟩
      | none => s
    endCmd s c st 0 0 0
  | none =>
    setCmd s { c with refs := (cmdObjs s c).map (·.1) }

/-- R399: a descriptor of a COMMAND ring takes its tracker entry. -/
def cmdArrive (s : State) (r p : Nat) (x : Ring) (d : List Byte) : State :=
  let op := fieldAt d 0 1
  let fl := fieldAt d 1 1
  let ind := x.format == 2 && bit fl 4
  let ctx := if x.format = 1 then x.ctx else fieldAt d 2 2
  let tag := if x.format = 1 then fieldAt d 2 2 else if x.format = 2 then fieldAt d 4 4 else fieldAt d 8 8
  let argp := if x.format = 1 then fieldAt d 8 8 else if ind then fieldAt d 8 8 else 0
  let args := match x.format with
    | 1 => [0, 0, 0, 0, 0]
    | 2 => [fieldAt d 8 8, fieldAt d 16 8, fieldAt d 24 8, 0, 0]
    | _ => (List.range 5).map (fun i => fieldAt d (16 + 8 * i) 8)
  let block := if x.format = 1 then argp != 0 else ind
  let zeros := match x.format with
    | 1 => fl / 2 == 0 && fieldAt d 4 4 == 0
    | 2 => Nat.land fl 0xEE == 0 && decide (ctx < 4096) && (!ind || (fieldAt d 16 8 == 0 && fieldAt d 24 8 == 0))
    | _ => fl / 4 == 0 && decide (ctx < 4096) && fieldAt d 4 4 == 0 && fieldAt d 56 1 / 4 == 0 && fieldAt d 58 2 == 0
  let hint := if x.format = 3 && (bit fl 1 || op == 0x07) then some (fieldAt d 56 1 % 4, fieldAt d 57 1, fieldAt d 60 4) else none
  let c : Cmd := ⟨s.nextId, r, p, op, x.format, ctx % 4096, tag, bit fl 0, hint, if block then [] else args, false, [],
    none, none, none, [], 0⟩
  let s := { s with nextId := s.nextId + 1, cmds := s.cmds ++ [c] }
  if !opKnown op x.format then endCmd s c 0x41 0 0 0
  else if !zeros then endCmd s c 0x40 0 0 0
  else if block then issueRead s (funcOf s p) (.args c.id) argp 40
  else cmdReady s c

/-- R398, R399: fetched descriptors arrive: the i-th host read is answered with them. -/
def execDescriptorArrive (i : Nat) (data : List (List Byte)) (s : State) : Out :=
  match s.hreads[i]? with
  | none => .next s
  | some h =>
    match h.why with
    | .args _ => .next s
    | .descs r first n =>
      let x := getRing s r
      match ringPart s r with
      | none => .next s
      | some p =>
        if h.sent && data.length == n && data.all (fun d => d.length == descBytes x) then
          let s := { s with hreads := s.hreads.eraseIdx i }
          let s := meter s p false mHost (lineUnits h.n)
          let s := setRing s r { x with head := (first + n) % 2 ^ 32 }
          .next (data.foldl (fun s d =>
            if x.kind = kRequest then { s with intake := s.intake ++ [⟨r, p, d⟩] } else cmdArrive s r p x d) s)
        else .next s

/-- A host read fails (R405): its command ends, or each descriptor it would have brought ends with no tag known. -/
def readFails (s : State) (h : HRead) (status kind : Nat) : State :=
  match h.why with
  | .args id =>
    match getCmd s id with
    | some c => endCmd (recordFault s h.f h.addr kind 0 ⟨0, c.ctx, c.tag, localRing s c.ring⟩) c status 0 0 0
    | none => s
  | .descs r first n =>
    let x := getRing s r
    let s := setRing s r { x with head := (first + n) % 2 ^ 32 }
    let s := recordFault s h.f h.addr kind 0 ⟨if x.kind = kRequest then 4 else 0, x.ctx, 0, localRing s r⟩
    (List.range n).foldl (fun s _ =>
      let t := draw s
      writeRecord t.2 ((ringPart s r).getD 0) r x.ctx t.1.toNat 0 0 status 0) s

/-- R405: the i-th host read completes: with data, or (`none`) with UR, CA or poison. -/
def execHostReadCompletion (i : Nat) (data : Option (List Byte)) (s : State) : Out :=
  match s.hreads[i]? with
  | none => .next s
  | some h =>
    if !h.sent then .next s else
    match data, h.why with
    | none, _ => .next (readFails { s with hreads := s.hreads.eraseIdx i } h 0x42 2)
    | some d, .args id =>
      let s := { s with hreads := s.hreads.eraseIdx i }
      match getCmd s id with
      | some c =>
        let s := meter s c.part false mHost (lineUnits 40)
        let c := { c with args := (List.range 5).map (fun k => fieldAt d (8 * k) 8) }
        .next (cmdReady (setCmd s c) c)
      | none => .next s
    | some _, .descs _ _ _ => .next s

/-- R386: a function's AER status records a completion timeout: bit 14, for which the standard logs no header (PRESUMED, log 6). -/
def aerTimeout (s : State) (f : Nat) : State :=
  let x := getFunc s f
  setFunc s f { x with aer := setBits x.aer 14 1 1 }

/-- R405: the i-th host read times out. -/
def execCompletionTimeout (i : Nat) (s : State) : Out :=
  match s.hreads[i]? with
  | none => .next s
  | some h =>
    if h.sent then .next (readFails (aerTimeout { s with hreads := s.hreads.eraseIdx i } h.f) h 0x42 2) else .next s

/-! The translation cache (R409-R412). -/

/-- Posted writes of a function to a refused range are lost, each with its fault record (R411). -/
def dropRefused (f : Nat) (e : AtcEntry) : Nat → State → State
  | 0, s => s
  | n + 1, s =>
    match getPosted s f with
    | .write a _ _ who _ :: rest =>
      if e.covers a && !e.w then dropRefused f e n (pumpAll (recordFault (setPosted s f rest) f a 1 1 who) f) else s
    | _ => s

/-- The waiting reads of a range leave, or fail where it is refused. -/
def resumeReads (f : Nat) (e : AtcEntry) (s : State) : State :=
  let mine := fun (h : HRead) => h.f == f && !h.sent && e.covers h.addr
  let waiting := s.hreads.filter mine
  let s := { s with hreads := s.hreads.filter (fun h => !mine h) }
  waiting.foldl (fun s h => if e.r then issueRead s f h.why h.addr h.n else readFails s h 0x43 1) s

/-- R409-R411: a translation completion: its range, the translated base and the permissions it grants. -/
def execAtsTranslationComplete (f : FuncId) (addr size target : Nat) (r w : Bool) (s : State) : Out :=
  if s.atsOut.contains ((f : Nat), addr / 4096) && decide (4096 ≤ size) then
    let e : AtcEntry := ⟨addr / size * size, size, target, r, w⟩
    let s := { s with atsOut := s.atsOut.filter (fun x => !(x.1 == (f : Nat) && e.covers (x.2 * 4096))) }
    let s := if r || w then atcInsert s f e else s
    let s := resumeReads f e s
    let s := pumpAll s f
    .next (dropRefused f e (getPosted s f).length s)
  else .next s

/-- R412, R415: an Invalidate Request: the entries that overlap go at once, and reads in flight there are marked. -/
def execInvalidateRequest (f : FuncId) (addr size tag : Nat) (s : State) : Out :=
  let s := setAtc s f ((getAtc s f).filter (fun e => !overlaps e.base e.size addr size))
  let s := { s with hreads := s.hreads.map (fun (h : HRead) =>
    if h.f == (f : Nat) && h.sent && overlaps h.addr h.n addr size then { h with stale := true } else h) }
  .next { s with invals := s.invals ++ [((f : Nat), addr, size, tag)] }

/-- R412: every TLP under an old translation has finished: the i-th Invalidate Request is completed. -/
def execInvalidateComplete (i : Nat) (s : State) : Out :=
  match s.invals[i]? with
  | none => .next s
  | some v =>
    if s.hreads.any (fun h => h.f == v.1 && h.stale && overlaps h.addr h.n v.2.1 v.2.2.1) then .next s
    else .next { s with invals := s.invals.eraseIdx i, tlps := s.tlps ++ [.invalidateDone v.1 v.2.2.2] }

/-- R439: the i-th open fault is written 2 µs after its first fault. -/
def execFaultRecordFlush (i : Nat) (s : State) : Out :=
  match s.faults[i]? with
  | some x => .next (flushFault { s with faults := s.faults.eraseIdx i } x)
  | none => .next s

/-! Starting commands (R402, R403, R423, R424). -/

/-- R413, R555: nothing of a partition starts while it resets or its function shuts down. -/
def startsOpen (s : State) (p : Nat) : Bool :=
  !quiescing s (funcOf s p) && !silent s p && !fbit s .RST_PART_STATUS_RESETTING p

/-- A command may start except that its context may not be resident (R402, R425, R555). -/
def runnable (s : State) (c : Cmd) : Bool :=
  !c.started && !c.args.isEmpty && startsOpen s c.part &&
  (s.cmds.takeWhile (fun x => x.id != c.id)).all (fun x => x.ring != c.ring || (x.started && !c.serial))

/-- R422: it may start. -/
def canStart (s : State) (c : Cmd) : Bool := runnable s c && (c.op == 0x10 || ctxResident s c.part c.ctx)

/-- A command starts: its hint is passed, LAST_RUN recorded, the slot's state follows (R403, R423-R425). -/
def startCmd (s : State) (c : Cmd) : State :=
  let s := passHint (setCmd s { c with started := true }) c
  let s := match getCtx s c.part c.ctx with
    | some x => setCtx s c.part c.ctx (some { x with lastRun := hostNs s, fresh := false })
    | none => s
  let s := match ctxSlot s c.part c.ctx with
    | some i => fset s .QE_CTX_SLOT_LAST_RUN i (hostNs s / 1000)
    | none => s
  slotUpdate s c.part c.ctx

/-- The command in tracker position i starts, where it has the opcode and may start; one whose accesses must wait does not
start yet (log 120). -/
def runCmd (s : State) (i op : Nat) (k : State → Cmd → State) : Out :=
  match s.cmds[i]? with
  | some c => if c.op = op ∧ canStart s c = true then .next (k (startCmd s c) { c with started := true }) else .next s
  | none => .next s

/-- R400: NOP. -/
def execQeNop (i : Nat) (s : State) : Out := runCmd s i 0x00 (fun s c => endCmd s c 0 0 0 0)

/-- R403: a fetched HINT passes its hint and completes, whatever its ring's order. -/
def execHint (i : Nat) (s : State) : Out :=
  match s.cmds[i]? with
  | some c => if c.op = 0x07 then .next (endCmd (passHint s c) c 0 0 0 0) else .next s
  | none => .next s

/-- R401, R447: COPY takes a channel, or waits for one. -/
def execCopy (i : Nat) (s : State) : Out := runCmd s i 0x01 copyAssign

/-- R447: a waiting COPY takes the first suitable channel to become IDLE. -/
def execCopyChannelAssign (i : Nat) (s : State) : Out :=
  match s.cmds[i]? with
  | some c => if c.op = 0x01 ∧ c.started ∧ c.chan = none ∧ startsOpen s c.part = true then .next (copyAssign s c) else .next s
  | none => .next s

/-! LAUNCH (R219, R341, R401). -/

/-- A consist's cores on this module, in composition order. -/
def consistCores (s : State) (p sub : Nat) : List Nat :=
  (consistStns s p sub).flatMap (fun k => (List.range 6).map (fun c => 6 * k + c))

def coreFenced (s : State) (c : Nat) : Bool := bit (fget s .STN_CORE_FENCE_FENCE (c / 6)) (c % 6)

/-- R219: a core that a launch may take. -/
def coreFree (s : State) (c : Nat) : Bool :=
  coreState s c == stFree && !coreFenced s c && stnPower s (c / 6) == domOn &&
    !fbit s .PWR_DOM_STATUS_HOT (stnDomain (c / 6))

/-- R219: a launch of n cores on the first free ones of a consist, with its identity. -/
def startLaunch (s : State) (p sub image : Nat) (args : List Byte) (n label : Nat) (cmd : Option Nat) : State × Nat :=
  let free := (consistCores s p sub).filter (coreFree s)
  let id := s.nextId
  let e := epochStart s p sub
  let s := { e.2 with nextId := id + 1, launches := e.2.launches ++ [⟨id, p, sub, n, n, [], false, cmd, e.1, false⟩] }
  let g := Fin.ofNat 64 (servingCnd s p)
  (((free.take n).zip (List.range n)).foldl (fun s k => assignCore s k.1 ⟨id, p, sub, image, args, k.2, n, n, label, g⟩) s, id)

/-- The launch of a started LAUNCH command that has no cores yet: TOO_MANY, more waiting, or the first free cores take
the program (R400, R401). -/
def launchCmd (s : State) (c : Cmd) : State :=
  let a2 := c.arg 2
  let n := bits a2 16 11
  let sub := bits a2 28 2
  let cores := consistCores s c.part sub
  if (cores.filter (fun k => !coreFenced s k)).length < n then endCmd s c 0 3 0 0 else
  if (cores.filter (coreFree s)).length < n then s else
  let label := fget s .TC_PART_CFG_DEFAULT c.part
  let w : Who := ⟨c.part, sub, false, 6, servingCnd s c.part / 4, servingCnd s c.part % 4, false⟩
  let args := devRead s w (c.arg 1) (a2 % 2 ^ 13)
  let x := startLaunch args.1 c.part sub (c.arg 0) args.2.1 n label (some c.id)
  let s := setCmd x.1 { c with launch := some x.2 }
  match getLaunch s x.2 with
  | some l =>
    if l.refused then
      endCmd (epochEnd { s with launches := s.launches.filter (fun x => x.id != l.id) } l.epoch) c 0 1 0 0
    else s
  | none => s

/-- R401: LAUNCH starts, or, started, takes its cores once enough are free. -/
def execLaunch (i : Nat) (s : State) : Out :=
  patient s (fun s =>
    match s.cmds[i]? with
    | some c =>
      if c.op ≠ 0x02 then .next s
      else if canStart s c then .next (launchCmd (startCmd s c) { c with started := true })
      else if c.started ∧ c.launch = none ∧ startsOpen s c.part = true then .next (launchCmd s c)
      else .next s
    | none => .next s)

/-! The tables in control memory (R309, R419). -/

/-- The queue engine's own tag: it writes the tables for the operator (R419). -/
def qeWho (p : Nat) : Who := ⟨p, 0, true, 0, 0, 0, false⟩

/-- R309: the queue-engine port that holds a partition's tables (DESIGN CHOICE, log 125). -/
def hQe (p : Nat) : Nat := 64 + p % 4

/-- The queue engine writes bytes of a table.  A table that the operator has not placed in control memory is not written
(R419; DESIGN CHOICE, log 63). -/
def tableWrite (s : State) (p a : Nat) (bs : List Byte) : State :=
  match regionOf a with
  | .control _ => heldWrite s (qeWho p) (hQe p) a bs
  | _ => s

/-- R419: an entry of n bytes is written; its layout is not the spec's, so its bytes are open (log 63). -/
def entryPut (s : State) (p base n i : Nat) : State :=
  let b := freeBytes s n
  tableWrite b.1 p (base * 4096 + n * i) b.2

def ctxEntryPut (s : State) (p c : Nat) : State := entryPut s p (fget s .QE_PART_CTX_BASE_ADDR p) 4096 c
def objEntryPut (s : State) (p h : Nat) : State := entryPut s p (fget s .QE_PART_OBJ_BASE_ADDR p) 32 h

/-! Context slots (R424, R425). -/

/-- The contexts that are swapped out and runnable, in fetch order. -/
def wanting (s : State) : List (Nat × Nat) :=
  ((s.cmds.filter (fun c => runnable s c && c.op != 0x10 && (ctxSlot s c.part c.ctx).isNone &&
    (getCtx s c.part c.ctx).isSome)).map (fun c => (c.part, c.ctx))).eraseDups

/-- R425: a slot may be taken from its context for a context of partition p. -/
def evictable (s : State) (p i : Nat) : Bool :=
  let q := fget s .QE_CTX_SLOT_PART i
  let c := fget s .QE_CTX_SLOT_CONTEXT i
  let residents := ((List.range 96).filter (fun j => slotState s j != csFree && fget s .QE_CTX_SLOT_PART j == q)).length
  (q == p || decide (fget s .QE_PART_LIMITS_RESERVED q < residents)) && !((getCtx s q c).map (·.fresh)).getD true

/-- The least recently run evictable context in a slot state. -/
def leastRun (s : State) (p st : Nat) : Option Nat :=
  let run := fun i => ((getCtx s (fget s .QE_CTX_SLOT_PART i) (fget s .QE_CTX_SLOT_CONTEXT i)).map (·.lastRun)).getD 0
  ((List.range 96).filter (fun i => slotState s i == st && evictable s p i)).foldl
    (fun b i => match b with
      | none => some i
      | some j => if run i < run j then some i else some j) none

/-- The slot's context leaves the counters of its residence (R440). -/
def leaveSlot (s : State) (i : Nat) : State :=
  let q := fget s .QE_CTX_SLOT_PART i
  let c := fget s .QE_CTX_SLOT_CONTEXT i
  match getCtx s q c with
  | some x =>
    let b := match x.blockedSince with
      | some t => hostNs s - t
      | none => 0
    setCtx s q c (some { x with residentNs := (x.residentNs + (hostNs s - x.since)) % 2 ^ 64, blockedSince := none,
                                blockedNs := (x.blockedNs + b) % 2 ^ 64 })
  | none => s

/-- A FREE slot is given to a context, which begins to load (R424). -/
def giveSlot (s : State) (i p c : Nat) : State :=
  let s := fset s .QE_CTX_SLOT_VALID i 1
  let s := fset s .QE_CTX_SLOT_STATE i csLoading
  let s := fset s .QE_CTX_SLOT_PART i p
  let s := fset s .QE_CTX_SLOT_CONTEXT i c
  let s := finc s .QE_CTX_LOADS_COUNT 0
  match getCtx s p c with
  | some x => setCtx s p c (some { x with loads := (x.loads + 1) % 2 ^ 32, fresh := true, since := hostNs s })
  | none => s

/-- A context is evicted: its entry is written back (R424, R425). -/
def evictSlot (s : State) (i : Nat) : State :=
  let q := fget s .QE_CTX_SLOT_PART i
  let c := fget s .QE_CTX_SLOT_CONTEXT i
  let s := fset (leaveSlot s i) .QE_CTX_SLOT_STATE i csSaving
  match getCtx s q c with
  | some x => setCtx s q c (some { x with evictions := (x.evictions + 1) % 2 ^ 32 })
  | none => s

/-- R425: the first runnable swapped-out context takes a FREE slot; where every slot is taken, one is evicted for
each context that waits. -/
def execContextSwapIn (s : State) : Out :=
  let want := wanting s
  match want with
  | [] => .next s
  | w :: _ =>
    match (List.range 96).find? (fun i => slotState s i == csFree) with
    | some i => .next (giveSlot s i w.1 w.2)
    | none =>
      let saving := ((List.range 96).filter (fun i => slotState s i == csSaving)).length
      match want[saving]? with
      | none => .next s
      | some v =>
        match (leastRun s v.1 csIdle).orElse (fun _ => leastRun s v.1 csBlocked) with
        | some i => .next (evictSlot s i)
        | none => .next s

/-- R424: a slot's entry has been read. -/
def execSlotLoaded (i : Fin 96) (s : State) : Out :=
  if slotState s i = csLoading then
    .next (slotUpdate (fset s .QE_CTX_SLOT_STATE i csIdle) (fget s .QE_CTX_SLOT_PART i) (fget s .QE_CTX_SLOT_CONTEXT i))
  else .next s

/-- A slot becomes FREE. -/
def ctxSlotFree (s : State) (i : Nat) : State :=
  let s := fset s .QE_CTX_SLOT_VALID i 0
  let s := fset s .QE_CTX_SLOT_STATE i csFree
  let s := fset s .QE_CTX_SLOT_PART i 0
  let s := fset s .QE_CTX_SLOT_CONTEXT i 0
  fset s .QE_CTX_SLOT_LAST_RUN i 0

/-- R424: an evicted context's entry has been written. -/
def execSlotSaved (i : Fin 96) (s : State) : Out :=
  patient s (fun s =>
    if slotState s i = csSaving then
      .next (ctxSlotFree (ctxEntryPut s (fget s .QE_CTX_SLOT_PART i) (fget s .QE_CTX_SLOT_CONTEXT i)) i)
    else .next s)

end Sys2Proof.Machine
end

