-- ==== Sys2Proof/Machine/LoopMem.lean ====
section
/-! DEFINITION. What the serving loop keeps in device memory and does through the units: a sequence's structures and page-table
entries, the pool's pages, KV gate WRITEs and Branch-line commands (spec R143-R146, R152, R196-R204, R210, R221, R347). -/
namespace Sys2Proof.Machine

/-! The loop's accesses are those of the conductor it runs on, which holds lines of control memory (R305, R310). -/
def fwRead (s : State) (w : Who) (a n : Nat) : State × List Byte × Bool := heldRead s w (4 * w.die + w.index) a n
def fwWrite (s : State) (w : Who) (a : Nat) (bs : List Byte) : State := heldWrite s w (4 * w.die + w.index) a bs
def fwWord (s : State) (w : Who) (a v : Nat) : State := fwWrite s w a (leBytes 8 v)

/-! The service and its configuration (R209, R210). -/

def Service.u (v : Service) (off n : Nat) : Nat := fieldAt v.cfg off n
def Service.maxSeqs (v : Service) : Nat := v.u 0 2
def Service.chunk (v : Service) : Nat := v.u 2 2
def Service.stepTokens (v : Service) : Nat := v.u 4 4
def Service.poolBase (v : Service) : Nat := v.u 8 8
def Service.poolPages (v : Service) : Nat := v.u 16 4
def Service.ways (v : Service) : Nat := v.u 21 1
def Service.nodes (v : Service) : Nat := v.u 22 1
def Service.depth (v : Service) : Nat := v.u 23 1
def Service.tier (v : Service) : Nat := v.u 24 8
def Service.speculates (v : Service) : Bool := bit (v.u 20 1) 0
def Service.hotPages (v : Service) : Nat := v.u 46 1
/-- NG_N as the speculation records carry it: 0 where SPEC.NGRAM is clear. -/
def Service.ngN (v : Service) : Nat := if bit (v.u 20 1) 2 then v.u 44 1 else 0

/-- The conductor that runs a loop, as its accesses name it (R208, R349). -/
def loopWho (s : State) (p sub : Nat) : Who :=
  let w := cndWho s (servingCnd s p)
  { w with part := p, sub := sub, oper := false }

/-- The Chervil channels that copy for a loop (R224, R227, R228; DESIGN CHOICE, log 124: which one is not modelled). -/
def loopChv (s : State) (p sub : Nat) : Who := { loopWho s p sub with kind := 4, index := 0 }

def Req.who (s : State) (r : Req) : Who := loopWho s r.part r.sub

/-! Requests. -/

def getReq (s : State) (id : Nat) : Option Req := s.reqs.find? (fun r => r.id == id)
def setReq (s : State) (r : Req) : State := { s with reqs := s.reqs.map (fun x => if x.id == r.id then r else x) }

/-- A request has left the join queue. -/
def Req.live (r : Req) : Bool := r.st != .queued
/-- The requests of a service. -/
def reqsOf (s : State) (p sub : Nat) : List Req := s.reqs.filter (fun r => r.part == p && r.sub == sub)

def Req.speculates (r : Req) (v : Service) : Bool := v.speculates && bit r.flags 0
def Req.lists (r : Req) (v : Service) : Nat := if r.speculates v then v.ways else 1
/-- Positions that a sequence may come to hold: its prompt and tokens at full length, and a tree beyond them. -/
def Req.span (r : Req) (v : Service) : Nat := r.prompt.length + r.maxNew + v.depth

/-! The bundle's planes (R25, R138-R144). -/

/-- The planes of one KV head: kind and width (R138). -/
def layerKinds (l : LayerDecl) (ns4 : Bool) : List (Nat × Nat) :=
  if l.attn = 3 then [(2, l.widthA), (3, l.widthB)] ++ (if ns4 then [(4, l.widthA)] else [])
  else [(0, l.widthA), (1, l.widthB)]

/-- A plane of the model: its directory entry's KIND, and the window of its layer (0: none). -/
structure PlaneDecl where
  kind : Nat
  window : Nat
deriving DecidableEq, Repr

/-- The KIND byte of R144. -/
def kindByte (b : Bundle) (k : Nat × Nat) : Nat :=
  k.1 + 8 * Nat.log2 (k.2 / 64) + 32 * b2n b.ns4 + 64 * b2n b.stochastic

def layerPlanes (l : LayerDecl) (b : Bundle) : List PlaneDecl :=
  (List.replicate l.heads ((layerKinds l b.ns4).map (fun k => ⟨kindByte b k, if l.attn = 2 then l.window else 0⟩))).flatten

/-- PLANES of R143: a layer with fewer planes than another has invalid entries for the rest (DESIGN CHOICE, log 124). -/
def perLayer (b : Bundle) : Nat := (b.layers.map (fun l => (layerPlanes l b).length)).foldl max 0

/-- Every plane in layer order and plane order. -/
def bundlePlanes (b : Bundle) : List PlaneDecl :=
  b.layers.flatMap (fun l =>
    let ps := layerPlanes l b
    ps ++ List.replicate (perLayer b - ps.length) ⟨0x80, 0⟩)

/-- T of a plane (R140); 0 of one that is not there. -/
def PlaneDecl.perPage (p : PlaneDecl) : Nat :=
  match planeOf (List.replicate 12 0 ++ [BitVec.ofNat 8 p.kind] ++ List.replicate 3 0) with
  | some x => x.perPage
  | none => 0

/-- T of every plane. -/
def perPages (b : Bundle) : List Nat := (bundlePlanes b).map PlaneDecl.perPage

/-- R25, R138: the loop runs the bundle's architecture. -/
def bundleOk (b : Bundle) : Bool :=
  b.decoder && decide (1 ≤ b.layers.length ∧ b.layers.length ≤ 256) &&
  decide (1 ≤ perLayer b ∧ perLayer b ≤ 255) &&
  b.layers.all (fun l => decide (l.attn ≤ 3) && decide (1 ≤ l.heads) && (l.experts == 0 ||
      decide (l.experts ≤ 256 ∧ 1 ≤ l.topk ∧ l.topk ≤ 16 ∧ l.topk ≤ l.experts)) &&
    (layerKinds l b.ns4).all (fun k => [64, 128, 256, 512].contains k.2))

/-- The pages of a plane that hold positions below n. -/
def pagesFor (t n : Nat) : Nat := if t = 0 then 0 else (n + t - 1) / t

/-- The pages of a sequence of n positions, every plane counted (R213, R221). -/
def bundlePages (b : Bundle) (n : Nat) : Nat := ((perPages b).map (fun t => pagesFor t n)).foldl (· + ·) 0

/-- R225: the last position of a page lies below LENGTH − WINDOW. -/
def outOfWindow (window t i length : Nat) : Bool := window != 0 && t != 0 && decide ((i + 1) * t + window ≤ length)

/-! A sequence's structures (R143-R145, R182, R190, R210; their places are the loop's own, DESIGN CHOICE, log 124). -/

/-- Entries of each plane's page list. -/
def Req.entries (r : Req) (v : Service) : List Nat := (perPages v.bundle).map (fun t => pagesFor t (r.span v))

def Service.dirBytes (v : Service) : Nat := 16 * (bundlePlanes v.bundle).length
/-- A list: its root, its directory and its page lists, one after the other. -/
def Req.listBytes (r : Req) (v : Service) : Nat := 64 + v.dirBytes + 16 * (r.entries v).foldl (· + ·) 0
def Service.treeBytes (v : Service) : Nat := 2048 + 1536 * v.bundle.group
def Req.histCap (r : Req) : Nat := r.prompt.length + r.maxNew + 17
/-- The speculation record, the accept record, the tree record, the draft list and the history. -/
def Req.specBytes (r : Req) (v : Service) : Nat := 192 + v.treeBytes + 2112 + 4 * r.histCap
/-- TSTRIDE: room for 1,024 entries. -/
def tStride : Nat := 16 + 8 * 1024

/-- The structures of a sequence: the bytes of each, and whether it lies in control memory (R210). -/
def Req.parts (r : Req) (v : Service) : List (Nat × Bool) :=
  List.replicate (r.lists v) (r.listBytes v, true) ++
  (if r.speculates v then [(r.specBytes v, true), (v.nodes * tStride, false)] ++
    (if v.ngN = 0 then [] else [(16 * 2 ^ v.u 45 1, false)]) else [])

def Req.root (r : Req) (list : Nat) : Nat := r.heap.getD list 0
def Req.spec (r : Req) (v : Service) : Nat := r.heap.getD (r.lists v) 0
def Req.acceptAt (r : Req) (v : Service) : Nat := r.spec v + 128
def Req.treeAt (r : Req) (v : Service) : Nat := r.spec v + 192
def Req.draftAt (r : Req) (v : Service) : Nat := r.treeAt v + v.treeBytes
def Req.histAt (r : Req) (v : Service) : Nat := r.draftAt v + 2112
def Req.targetsAt (r : Req) (v : Service) : Nat := r.heap.getD (r.lists v + 1) 0
def Req.ngAt (r : Req) (v : Service) : Nat := r.heap.getD (r.lists v + 2) 0
/-- The page-table entry of a page of a list. -/
def Req.pte (r : Req) (v : Service) (list plane index : Nat) : Nat :=
  r.root list + 64 + v.dirBytes + 16 * (((r.entries v).take plane).foldl (· + ·) 0 + index)

/-- A structure's place is one that R210 allows: on its 64 bytes, inside one slice of the consist on this module, in control
memory or else outside the pool. -/
def placeOk (s : State) (v : Service) (a n : Nat) (ctl : Bool) : Bool :=
  a % 64 == 0 && match regionOf a, regionOf (a + n - 1) with
  | .control k, .control j => k == j && boundTo s k == some v.part
  | .hbm k, .hbm j => !ctl && k == j && boundTo s k == some v.part &&
      (decide (a + n ≤ v.poolBase) || decide (v.poolBase + 65536 * v.poolPages ≤ a))
  | _, _ => false

def apart (a b : Nat × Nat) : Bool := decide (a.1 + a.2 ≤ b.1) || decide (b.1 + b.2 ≤ a.1)

/-- Every structure of a request has its place, and none meets another or one of another request. -/
def heapOk (s : State) (v : Service) (r : Req) (heap : List Nat) : Bool :=
  let ps := r.parts v
  let mine := heap.zip (ps.map (·.1))
  let theirs := s.reqs.flatMap (fun q => if q.id == r.id then [] else
    match s.services.find? (fun w => w.part == q.part && w.sub == q.sub) with
    | some w => q.heap.zip ((q.parts w).map (·.1))
    | none => [])
  heap.length == ps.length && (heap.zip ps).all (fun x => placeOk s v x.1 x.2.1 x.2.2) &&
  (List.range mine.length).all (fun i => ((mine.drop (i + 1)) ++ theirs).all (fun y => (mine[i]?).all (fun x => apart x y)))

def loopRead (s : State) (r : Req) (a n : Nat) : State × List Byte :=
  let x := fwRead s (r.who s) (a % 2 ^ 48) n
  (x.1, x.2.1)
def loopStore (s : State) (r : Req) (a : Nat) (bs : List Byte) : State := fwWrite s (r.who s) (a % 2 ^ 48) bs

/-- A fresh list: LENGTH 0, the directory, and page-table entries without a page (R143-R146). -/
def listImage (v : Service) (r : Req) (root : Nat) : List Byte :=
  let es := r.entries v
  let pt := fun q => root + 64 + v.dirBytes + 16 * (es.take q).foldl (· + ·) 0
  leBytes 4 0 ++ leBytes 2 v.bundle.layers.length ++ leBytes 1 (perLayer v.bundle) ++ leBytes 1 0 ++ leBytes 8 (root + 64) ++
  List.replicate 48 0 ++
  ((List.range es.length).zip (es.zip (bundlePlanes v.bundle))).flatMap (fun x =>
    leBytes 8 (pt x.1) ++ leBytes 4 x.2.1 ++ leBytes 1 x.2.2.kind ++ leBytes 3 0) ++
  (List.replicate (es.foldl (· + ·) 0) (leBytes 4 0 ++ [(0xFF : Byte)] ++ List.replicate 11 0)).flatten

/-- The speculation record of a sequence (R182); its draft list names no head yet. -/
def specImage (v : Service) (r : Req) : List Byte :=
  leBytes 4 (r.prompt.length + r.emitted.length) ++ leBytes 4 (r.histCap) ++ leBytes 8 (r.histAt v) ++
  leBytes 8 (r.ngAt v) ++ leBytes 1 v.ngN ++ leBytes 1 (v.u 45 1) ++ leBytes 1 v.ways ++ leBytes 5 0 ++ leBytes 8 (r.root 0) ++
  (List.range 7).flatMap (fun w => leBytes 8 (if w + 1 < v.ways then r.root (w + 1) else 0)) ++ List.replicate 32 0

/-- R210, R215: a sequence's structures are set up: its lists and, where it speculates, its records, its history and an empty
n-gram table. -/
def setUp (s : State) (v : Service) (r : Req) : State :=
  let s := (List.range (r.lists v)).foldl (fun s w => loopStore s r (r.root w) (listImage v r (r.root w))) s
  if !r.speculates v then s else
  let s := loopStore s r (r.spec v) (specImage v r)
  let s := loopStore s r (r.draftAt v) (leBytes 1 0 ++ leBytes 1 1 ++ List.replicate 14 0)
  let s := loopStore s r (r.histAt v) ((r.prompt ++ r.emitted).flatMap (leBytes 4))
  if v.ngN = 0 then s else loopStore s r (r.ngAt v) (List.replicate (16 * 2 ^ v.u 45 1) 0)

/-- R152: LENGTH advances in the root. -/
def setLength (s : State) (r : Req) (n : Nat) : State :=
  setReq (loopStore s r (r.root 0) (leBytes 4 n)) { r with length := n }

/-- A token emitted without a COMMIT joins the history, while it has room (R182; DESIGN CHOICE, log 124). -/
def histAppend (s : State) (v : Service) (r : Req) (t : Nat) : State :=
  if !r.speculates v || r.heap.isEmpty then s else
  let h := loopRead s r (r.spec v) 4
  let n := leNat h.2
  if r.histCap ≤ n then h.1 else loopStore (loopStore h.1 r (r.histAt v + 4 * n) (leBytes 4 t)) r (r.spec v) (leBytes 4 (n + 1))

/-! Pages (R145, R146, R204, R221, R347). -/

/-- Pool pages that the requests of a service hold. -/
def usedPages (s : State) (v : Service) : List Nat := (reqsOf s v.part v.sub).flatMap (·.pages)

/-- R345, R347: a page of the pool that the loop may use: HBM of a slice of the consist's map that no REBIND removes. -/
def pageOk (s : State) (v : Service) (n : Nat) : Bool :=
  match regionOf (v.poolBase + 65536 * n) with
  | .hbm k => (consistStns s v.part v.sub).contains k && !((v.rebind.map (·.2)).getD []).contains k
  | _ => false

/-- The free pages of the pool, in the order in which the loop takes them. -/
def freePages (s : State) (v : Service) (order : List Nat) : List Nat :=
  let used := usedPages s v
  let ok := fun n => decide (n < v.poolPages) && !used.contains n && pageOk s v n
  (order.filter ok).eraseDups ++ (List.range v.poolPages).filter (fun n => ok n && !order.contains n)

def freeCount (s : State) (v : Service) : Nat := (freePages s v []).length

def Req.has (r : Req) (x : Nat × Nat × Nat) : Bool :=
  r.slots.any (fun e => e.list == x.1 && e.plane == x.2.1 && e.index == x.2.2)

/-- The entries of a list, in every plane, that hold positions lo to hi. -/
def spanSlots (v : Service) (list lo hi : Nat) : List (Nat × Nat × Nat) :=
  ((List.range (perPages v.bundle).length).zip (perPages v.bundle)).flatMap (fun x =>
    if x.2 = 0 then [] else
    ((List.range (hi / x.2 + 1)).filter (fun i => decide (lo / x.2 ≤ i))).map (fun i => (list, x.1, i)))

/-- Of some entries, those that a request lacks. -/
def lacking (r : Req) (want : List (Nat × Nat × Nat)) : List (Nat × Nat × Nat) := want.filter (fun x => !r.has x)

/-- PAGE, FLAGS and DEV of a page-table entry are written; SCALE and FILL are the KV gate's (R146). -/
def ptePut (s : State) (r : Req) (a page flags dev : Nat) : State :=
  loopStore (loopStore s r a (leBytes 4 (page / 65536))) r (a + 5) (leBytes 1 flags ++ leBytes 2 dev)

/-- R146: an entry is freed: VALID clear, SCALE 0xFF, FILL 0. -/
def pteFree (s : State) (r : Req) (a : Nat) : State :=
  loopStore (loopStore s r (a + 4) ([(0xFF : Byte)] ++ leBytes 3 0)) r (a + 8) (leBytes 4 0)

/-- FLAGS of a valid entry of a list: PROV in lists 1-7 (R196). -/
def wayFlags (list : Nat) : Nat := if list = 0 then 1 else 5

/-- One page of the pool is given to an entry. -/
def givePage (v : Service) (s : State) (id : Nat) (x : (Nat × Nat × Nat) × Nat) : State :=
  match getReq s id with
  | none => s
  | some r =>
    let t := (perPages v.bundle).getD x.1.2.1 0
    let s := ptePut s r (r.pte v x.1.1 x.1.2.1 x.1.2.2) (v.poolBase + 65536 * x.2) (wayFlags x.1.1) 0
    setReq s { r with
      slots := r.slots ++ [⟨x.1.1, x.1.2.1, x.1.2.2, x.1.1 != 0 && decide (x.1.2.2 * t < r.length), none⟩],
      pages := r.pages ++ [x.2] }

/-- The entries that a request lacks get pages, which are there. -/
def provide (s : State) (v : Service) (r : Req) (want : List (Nat × Nat × Nat)) (order : List Nat) : State :=
  ((lacking r want).zip (freePages s v order)).foldl (fun s x => givePage v s r.id x) s

/-- The local page that an entry names (R145). -/
def pteRead (s : State) (r : Req) (a : Nat) : State × Nat × Nat × Nat × Nat :=
  let e := loopRead s r a 16
  (e.1, fieldAt e.2 0 4 * 65536, fieldAt e.2 4 1, fieldAt e.2 5 1, fieldAt e.2 8 4)

/-- An entry of a request leaves it: the entry is freed, and its page returns to the pool. -/
def dropSlot (v : Service) (id : Nat) (s : State) (e : Slot) : State :=
  match getReq s id with
  | none => s
  | some r =>
    let a := r.pte v e.list e.plane e.index
    let p := pteRead s r a
    let s := pteFree p.1 r a
    setReq s { r with
      slots := r.slots.filter (fun x => !(x.list == e.list && x.plane == e.plane && x.index == e.index)),
      pages := if e.spill.isSome then r.pages else r.pages.filter (· != (p.2.1 - v.poolBase) / 65536) }

/-- R225, and the pages of lists 1-7 that no tree reaches any more (DESIGN CHOICE, log 124). -/
def slideOut (v : Service) (r : Req) (e : Slot) : Bool :=
  let t := (perPages v.bundle).getD e.plane 0
  let w := (((bundlePlanes v.bundle)[e.plane]?).map (·.window)).getD 0
  if e.list = 0 then outOfWindow w t e.index r.length else decide ((e.index + 1) * t ≤ r.length)

def slideOne (s : State) (r : Req) : State :=
  match s.services.find? (fun v => v.part == r.part && v.sub == r.sub) with
  | some v => (r.slots.filter (slideOut v r)).foldl (dropSlot v r.id) s
  | none => s

/-- Everything a request holds is free again: its entries, then its pages (R146, R214). -/
def dropAll (s : State) (v : Service) (r : Req) : State :=
  let s := r.slots.foldl (dropSlot v r.id) s
  match getReq s r.id with
  | some r => setReq s { r with slots := [], pages := [] }
  | none => s

/-! KV gate WRITEs (R147-R149, R152, R197, R218). -/

/-- A WRITE that the loop has made: rows of consecutive tokens, into one plane of one list. -/
structure KvJob where
  list : Nat
  plane : Nat
  first : Nat
  count : Nat
deriving DecidableEq, Repr

/-- Rows lo to lo + n − 1 of a plane, 64 a command at most. -/
def rowJobs (list plane lo n : Nat) : List KvJob :=
  (List.range ((n + 63) / 64)).map (fun j => ⟨list, plane, lo + 64 * j, min 64 (n - 64 * j)⟩)

/-- The WRITEs of rows lo to lo + n − 1: into list 0 whole, and into every other list where it holds an entry at the row's page
index (R197). -/
def rangeJobs (v : Service) (r : Req) (lo n : Nat) : List KvJob :=
  ((List.range (perPages v.bundle).length).zip (perPages v.bundle)).flatMap (fun x =>
    if x.2 = 0 then [] else
    rowJobs 0 x.1 lo n ++ (r.slots.filter (fun e => e.list != 0 && e.plane == x.1)).flatMap (fun e =>
      let a := max lo (e.index * x.2)
      let b := min (lo + n) ((e.index + 1) * x.2)
      rowJobs e.list x.1 a (b - a)))

/-- The WRITEs of the rows below LENGTH that entries given in the middle of a page still lack (R197). -/
def freshJobs (v : Service) (r : Req) : List KvJob :=
  (r.slots.filter (fun e => e.fresh)).flatMap (fun e =>
    let t := (perPages v.bundle).getD e.plane 0
    rowJobs e.list e.plane (e.index * t) (min r.length ((e.index + 1) * t) - e.index * t))

/-- The WRITEs of a tree's rows: each way's path into its own list (R189, R197). -/
def treeJobs (v : Service) (t : Tree) : List KvJob :=
  (List.range t.ways).flatMap (fun w =>
    let n := ((List.range t.n).filter (fun i => bit (t.mask i) w)).length
    ((List.range (perPages v.bundle).length).zip (perPages v.bundle)).flatMap (fun x =>
      if x.2 = 0 then [] else rowJobs w x.1 t.base n))

/-- A command's 32 bytes (R148). -/
def jobBytes (v : Service) (r : Req) (j : KvJob) (buf : Nat) : List Byte :=
  leBytes 1 2 ++ leBytes 1 0 ++ leBytes 2 (j.plane / perLayer v.bundle) ++ leBytes 1 (j.plane % perLayer v.bundle) ++ leBytes 3 0 ++
  leBytes 4 j.first ++ leBytes 4 j.count ++ leBytes 8 (r.root j.list) ++ leBytes 4 buf ++ leBytes 4 0

/-- The gate works until ring 0 is empty; on fuel, and held where it executes nothing. -/
def gateRun (k : Nat) : Nat → State → State
  | 0, s => { s with stalled := true }
  | n + 1, s =>
    if !kvgWork s k 0 then s
    else if (kvgNext s k).isNone || inReset s k then { s with stalled := true }
    else gateRun k n (kvgExec s k (fun _ => true) (fun s c => kvgAny s k c []))

/-- The station whose gate runs a WRITE: the one named, if it is the partition's, else the partition's first. -/
def putStn (s : State) (p k : Nat) : Nat := if boundTo s k = some p then k else (slicesOf s p).headD 0

/-- One WRITE: the rows that the layer program left, the command at the tail of ring 0, its doorbell and its completion
word's STATUS and count. -/
def kvPut (v : Service) (r : Req) (s : State) (j : KvJob) (put : KvPut) : State × Nat × Nat :=
  let k := putStn s r.part put.stn
  let s := stnWrite s k put.buf put.rows
  let tail := (getKvg s k).tail0
  let off := kvgBaseOff s k 0 + 32 * tail
  let s := kvgDoorbell (stnWrite s k off (jobBytes v r j put.buf)) k 0 (tail + 1)
  let s := gateRun k 513 s
  let word := leNat (stnRead s k off 8)
  (s, bits word 32 8, word % 2 ^ 32)

/-- The WRITEs in order, with the STATUS and count each ended with. -/
def kvPuts (v : Service) (r : Req) : List KvJob → List KvPut → State → State × List (KvJob × Nat × Nat)
  | [], _, s => (s, [])
  | j :: js, ps, s =>
    let x := kvPut v r s j (ps.headD ⟨0, 0, []⟩)
    let rest := kvPuts v r js ps.tail x.1
    (rest.1, (j, x.2) :: rest.2)

/-- An entry that a WRITE found without a page is one that the request lacks (R235): the page indices of a failed WRITE. -/
def failedSlots (v : Service) (j : KvJob) : List (Nat × Nat × Nat) :=
  let t := (perPages v.bundle).getD j.plane 0
  if t = 0 then [] else
  ((List.range ((j.first + j.count - 1) / t + 1)).filter (fun i => decide (j.first / t ≤ i))).map (fun i => (j.list, j.plane, i))

/-- R235: after failed WRITEs, the entries that are not VALID no longer count as the request's. -/
def noteFailures (v : Service) (s : State) (id : Nat) (done : List (KvJob × Nat × Nat)) : State :=
  (done.filter (fun x => x.2.1 != 0)).foldl (fun s x => (failedSlots v x.1).foldl (fun s e =>
    match getReq s id with
    | none => s
    | some r =>
      let p := pteRead s r (r.pte v e.1 e.2.1 e.2.2)
      if bit p.2.2.2.1 0 then p.1
      else setReq p.1 { r with slots := r.slots.filter (fun y => !(y.list == e.1 && y.plane == e.2.1 && y.index == e.2.2)) }) s) s

/-- The entries that were given in the middle of a page hold its rows now. -/
def freshDone (s : State) (id : Nat) : State :=
  match getReq s id with
  | some r => setReq s { r with slots := r.slots.map (fun e => { e with fresh := false }) }
  | none => s

/-! Branch-line commands (R179-R181, R232). -/

/-- The ring of a loop: in LY-5 mode its sub-consist's, else ring 0 (R179, R205; DESIGN CHOICE, log 124). -/
def loopRing (s : State) (p sub : Nat) : Nat := if fbit s .COMP_PART_CFG_MODE p then sub else 0

/-- The unit works until a ring is empty; on fuel, and held where it executes nothing. -/
def blRun (u r : Nat) : Nat → State → State
  | 0, s => { s with stalled := true }
  | n + 1, s =>
    if !blWork s u r then s
    else if (blNext s u).isNone then { s with stalled := true }
    else blRun u r n (blExec s u (fun _ => true) false)

/-- One command at the tail of the loop's ring: STATUS and the value of its completion word. -/
def blCall (s : State) (v : Service) (cmd : List Byte) : State × Nat × Nat :=
  let r := loopRing s v.part v.sub
  let tail := (getBl s v.part).tails.getD r 0
  let a := 64 * fget s .BL_RING_BASE_ADDR (4 * v.part + r) + 64 * tail
  let s := fwWrite s (loopWho s v.part v.sub) a cmd
  let s := blRun v.part r 257 (blDoorbell s v.part r (tail + 1))
  let w := fwRead s (loopWho s v.part v.sub) a 8
  (w.1, bits (leNat w.2.1) 32 8, leNat w.2.1 % 2 ^ 32)

/-- The unit of a partition takes commands: a loop builds trees only then. -/
def blReadyFor (s : State) (p : Nat) : Bool := fbit s .BL_CTRL_ENABLE p && !fbit s .RST_PART_STATUS_RESETTING p

def buildCmd (v : Service) (r : Req) (nodes : Nat) : List Byte :=
  let win := ((v.bundle.layers.find? (fun l => l.attn == 2)).map (·.window)).getD 0
  leBytes 1 1 ++ leBytes 1 (bits (v.u 20 1) 1 2) ++ leBytes 6 0 ++ leBytes 8 (r.spec v) ++ leBytes 8 (r.treeAt v) ++
  leBytes 8 (if bit (v.u 20 1) 1 then r.draftAt v else 0) ++ leBytes 20 0 ++ leBytes 1 nodes ++ leBytes 1 v.depth ++
  leBytes 1 v.bundle.group ++ leBytes 1 0 ++ leBytes 4 (v.u 40 4) ++ leBytes 4 win

def acceptCmd (v : Service) (r : Req) : List Byte :=
  leBytes 1 2 ++ leBytes 1 (if r.temp &&& 0x7FFFFFFF = 0 then 0 else 1) ++ leBytes 6 0 ++ leBytes 8 (r.spec v) ++
  leBytes 8 (r.treeAt v) ++ leBytes 8 (r.targetsAt v) ++ leBytes 8 (r.acceptAt v) ++
  leBytes 8 (r.seed + BitVec.ofNat 64 r.emitted.length).toNat ++ leBytes 4 tStride ++ leBytes 12 0

def commitCmd (v : Service) (r : Req) (k : Nat) : List Byte :=
  leBytes 1 3 ++ leBytes 7 0 ++ leBytes 8 (r.spec v) ++ leBytes 8 (r.treeAt v) ++ leBytes 8 0 ++ leBytes 8 (r.acceptAt v) ++
  leBytes 8 0 ++ leBytes 4 k ++ leBytes 12 0

def cancelCmd (v : Service) (r : Req) : List Byte :=
  leBytes 1 4 ++ leBytes 7 0 ++ leBytes 8 (r.spec v) ++ leBytes 8 (r.treeAt v) ++ leBytes 40 0

/-- R202, R205, R239: an open tree of a request is cancelled. -/
def cancelTree (s : State) (id : Nat) : State :=
  match getReq s id with
  | none => s
  | some r =>
    if !r.tree then s else
    match s.services.find? (fun v => v.part == r.part && v.sub == r.sub) with
    | some v =>
      let s := (blCall s v (cancelCmd v r)).1
      setReq s { r with tree := false }
    | none => setReq s { r with tree := false }

/-- A request's tree record. -/
def treeRead (s : State) (v : Service) (r : Req) : State × Tree :=
  let t := loopRead s r (r.treeAt v) 1088
  (t.1, treeOf t.2)

end Sys2Proof.Machine
end

