-- ==== Sys2Proof/Machine/ComposeX.lean ====
section
/-! DEFINITION. The commands of the composer (spec R127, R251, R330-R359, R494). -/
namespace Sys2Proof.Machine

/-- The composer's command with an operation that has not begun (R331). -/
def compNext (s : State) (op : Nat) : Option (List Byte) :=
  match s.comp with
  | some j => if !j.begun && cOp j.cmd == op then some j.cmd else none
  | none => none

def compBegin (s : State) : State := { s with comp := s.comp.map (fun j => { j with begun := true }) }

/-- The command in progress names slices that must all have come to a state before it ends OK. -/
def compWaits (s : State) (ops : List Nat) (st : Nat) : State :=
  match s.comp with
  | some j =>
    if j.begun && ops.contains (cOp j.cmd) && (cSlices j.cmd).all (fun k => sliceState s k == st) then compEnd s 0 else s
  | none => s

def role (s : State) : Nat := fget s .COMP_ROLE_ROLE

/-- R334, R350: BIND. -/
def execBind (s : State) : Out :=
  match compNext s 1 with
  | none => .next s
  | some c =>
    if role s = 1 then .next (compEnd s 7)
    else if (cSlices c).any (fun k => sliceState s k != slFree) then .next (compEnd s 2)
    else .next ((cSlices c).foldl (fun s k =>
      composeSend (fset (setSlice s k slBinding) .COMP_SLICE_STATUS_PART k (cPart c)) (k / 16) (stnJunction (k % 16))
        (cPart c) [BitVec.ofNat 32 (cPart c)]) (compBegin s))

/-- R251 step 1: the composer tells the home's HBM controller to scrub a slice. -/
def scrubSend (s : State) (k : Nat) : State := composeSend s (k / 16) (hbmStop k) 0 [BitVec.ofNat 32 k]

/-- A COMPOSE reply that names a slice has reached the composer; none where none has. -/
def replyTake (s : State) (k : Nat) : Option State :=
  (s.mdSigs.findIdx? (fun m => m.cls == clsCompose && m.payload == [BitVec.ofNat 32 k])).map (fun i =>
    { s with mdSigs := s.mdSigs.eraseIdx i })

/-- R334: the station's COMPOSE reply reaches the composer: the slice is IDLE. -/
def execBindingReply (k : Stn) (s : State) : Out :=
  if sliceState s k = slBinding ∧ fbit s .STN_STATUS_CLEARING k = false then
    match replyTake s k with
    | some s => .next (compWaits (setSlice s k slIdle) [1] slIdle)
    | none => .next s
  else .next s

/-- R334: an IDLE slice is released: its cache written back, its stop unbound, its scrub due. -/
def releaseSlice (s : State) (k : Nat) : State :=
  let p := fget s .COMP_SLICE_STATUS_PART k
  let s := warmCancel (scFlushAll s k) k
  let s := fset s .STN_STATUS_BOUND k 0
  let s := fset s .STN_STATUS_PART k 0
  let s := fset s .COMP_SLICE_STATUS_PART k 0
  scrubSend (setSlice { s with scrubOf := SMap.set (fun _ => none) s.scrubOf k (some p) } k slScrubbing) k

/-- R511: a partition left without slices has no UNWRAP. -/
def releaseUnwrap (s : State) (p : Nat) : State := if slicesOf s p = [] then unwrapCancel s p else s

/-- R334, R359, R511: RELEASE. -/
def execRelease (s : State) : Out :=
  match compNext s 2 with
  | none => .next s
  | some c =>
    let bound := fun k => decide (1 ≤ sliceState s k ∧ sliceState s k ≤ 5)
    if (cSlices c).any (fun k => bound k && fget s .COMP_SLICE_STATUS_PART k != cPart c) then .next (compEnd s 3)
    else if (cSlices c).any (fun k => sliceState s k != slIdle) then .next (compEnd s 2)
    else .next (releaseUnwrap ((cSlices c).foldl releaseSlice (compBegin s)) (cPart c))

/-- R494: no slice is bound to a partition, and none is being scrubbed for it. -/
def partitionGone (s : State) (p : Nat) : Bool :=
  (List.range 256).all (fun k => SMap.get (fun _ => none) s.scrubOf k != some p &&
    !(decide (1 ≤ sliceState s k ∧ sliceState s k ≤ 5) && fget s .COMP_SLICE_STATUS_PART k == p))

/-- R334, R494: the composer has the scrub reply: the slice is FREE. -/
def scrubFree (s : State) (k : Nat) : State :=
  let s := setSlice s k slFree
  let p := SMap.get (fun _ => none) s.scrubOf k
  let s := { s with scrubOf := SMap.set (fun _ => none) s.scrubOf k none }
  let s := match p with
    | some q => if partitionGone s q then { s with measures := SMap.set (fun _ => List.replicate 64 0) s.measures q (List.replicate 64 0) } else s
    | none => s
  compWaits s [2, 7] slFree

/-- R251 step 5: the scrub ends, is counted, and the controller replies; then, its reply with the composer, the slice is FREE
(R334). -/
def execScrubComplete (k : Stn) (s : State) : Out :=
  if sliceState s k ≠ slScrubbing then .next s
  else if scrubbing s k then
    let s := fsetBit s .HBM_STATUS_SCRUBBING ((k : Nat) / 16) ((k : Nat) % 16) false
    let s := finc s .HBM_SCRUBS_COUNT ((k : Nat) / 16)
    .next (sendSignal s ((k : Nat) / 16) (hbmStop k) ⟨clsCompose, 0, mdStop, 0, true, [BitVec.ofNat 32 k]⟩)
  else match replyTake s k with
    | some s => .next (scrubFree s k)
    | none => .next s

/-! Consists (R338, R343-R348). -/

/-- The slots of a partition's consists. -/
def partSlots (s : State) (p : Nat) : List Nat :=
  (List.range 256).filter (fun i => slotState' s i != ctFree && fget s .COMP_CONSIST_ID_PART i == p)

/-- What FORM is refused with (R338, R343, R344, R348, R350). -/
def formStatus (s : State) (c : List Byte) : Nat :=
  let p := cPart c
  let mine := partSlots s p
  let ly5 := fbit s .COMP_PART_CFG_MODE p
  if role s = 1 then 7
  else if !ly5 && (cSub c != 0 || cWindows c != 0xFFFFFFFF) then 1
  else if slotState' s (cSlot c) ≠ ctFree then 11
  else if (if ly5 then decide (4 ≤ mine.length) || mine.any (fun i => fget s .COMP_CONSIST_ID_SUB i == cSub c)
           else !mine.isEmpty) then 11
  else if mine.any (fun i => Nat.land (fget s .COMP_WINDOWS_MASK i) (cWindows c) != 0) then 1
  else if !mapOk s (cSlot c) p (cMembers c) then 5
  else if !conductorsOk s p (mapLocal s (mapEntries s (fget s .COMP_MAP_NEXT_OFF (cSlot c)) (fget s .COMP_MAP_NEXT_LEN (cSlot c)))) then 6
  else 0

/-- The next map of slot i becomes its current map (R343, R345). -/
def mapSwitch (s : State) (i : Nat) : State :=
  let off := fget s .COMP_MAP_NEXT_OFF i
  let len := fget s .COMP_MAP_NEXT_LEN i
  let s := fset s .COMP_MAP_CUR_OFF i off
  let s := fset s .COMP_MAP_CUR_LEN i len
  fset s .COMP_MAP_CRC_CRC i (mapCrc (mapEntries s off len))

/-- R343: FORM. -/
def formConsist (s : State) (c : List Byte) : State :=
  let i := cSlot c
  let s := mapSwitch s i
  let s := (mapLocal s (mapEntries s (fget s .COMP_MAP_CUR_OFF i) (fget s .COMP_MAP_CUR_LEN i))).foldl
    (fun s k => fset (setSlice s k slActive) .COMP_SLICE_STATUS_SLOT k i) s
  let s := fset s .COMP_CONSIST_ID_ID i (cId c)
  let s := fset s .COMP_CONSIST_ID_PART i (cPart c)
  let s := fset s .COMP_CONSIST_ID_SUB i (cSub c)
  let s := fset s .COMP_CONSIST_ID_MEMBERS i (cMembers c - 1)
  let s := fset s .COMP_CONSIST_ID_STATE i ctActive
  let s := fset s .COMP_MAP_EPOCH_CUR i 1
  let s := fset s .COMP_MAP_EPOCH_OLD i 1
  let s := fset s .COMP_INFLIGHT_CUR i 0
  let s := fset s .COMP_INFLIGHT_OLD i 0
  let s := fset s .COMP_WINDOWS_MASK i (cWindows c)
  assignConductors (fset s .COMP_SWITCH_STEP_STEP i 0)

def execForm (s : State) : Out :=
  match compNext s 3 with
  | none => .next s
  | some c => if formStatus s c = 0 then .next (compEnd (formConsist s c) 0) else .next (compEnd s (formStatus s c))

/-- What REBIND is refused with (R338, R344, R345, R350, R359). -/
def rebindStatus (s : State) (c : List Byte) : Nat :=
  let i := cSlot c
  let ks := mapLocal s (mapEntries s (fget s .COMP_MAP_NEXT_OFF i) (fget s .COMP_MAP_NEXT_LEN i))
  if role s = 1 then 7
  else if slotState' s i = ctFree ∨ fget s .COMP_CONSIST_ID_PART i ≠ cPart c ∨ fget s .COMP_CONSIST_ID_ID i ≠ cId c then 1
  else if slotState' s i ≠ ctActive then 4
  else if !mapOk s i (cPart c) (cMembers c) then 5
  else if !conductorsOk s (cPart c) ks then 6
  else 0

/-- R345 steps 1 and 2: added slices are STAGED, and the loop is told. -/
def rebindStart (s : State) (i : Nat) : State :=
  let ks := mapLocal s (mapEntries s (fget s .COMP_MAP_NEXT_OFF i) (fget s .COMP_MAP_NEXT_LEN i))
  let added := ks.filter (fun k => sliceState s k == slIdle)
  let s := added.foldl (fun s k => fset (setSlice s k slStaged) .COMP_SLICE_STATUS_SLOT k i) s
  let s := fset s .COMP_CONSIST_ID_STATE i ctStaging
  assignConductors (loopMsg s i lmRebind [])

def execRebind (s : State) : Out :=
  match compNext s 4 with
  | none => .next s
  | some c =>
    if rebindStatus s c = 0 then .next (rebindStart (compBegin s) (cSlot c)) else .next (compEnd s (rebindStatus s c))

/-- The REBIND in progress, by its slot. -/
def rebindJob (s : State) (i : Nat) : Option CompJob :=
  match s.comp with
  | some j => if j.begun && cOp j.cmd == 4 && cSlot j.cmd == i && slotState' s i == ctStaging then some j else none
  | none => none

/-- The devices of the next map, and the lead: the lowest of them (R345). -/
def nextDevs (s : State) (i : Nat) : List Nat :=
  mapDevs (mapEntries s (fget s .COMP_MAP_NEXT_OFF i) (fget s .COMP_MAP_NEXT_LEN i))

def leadOf (s : State) (i : Nat) : Nat :=
  match nextDevs s i with
  | [] => devNum s
  | d :: ds => ds.foldl min d

/-- R345 steps 5 and 6 on the lead: with every report in, the rebind ends MAP_MISMATCH or the switch is set. -/
def readyIn (s : State) (i step : Nat) (j : CompJob) (dev crc : Nat) : State :=
  let rs := j.ready.filter (fun r => r.1 != dev) ++ [(dev, crc)]
  let s := { s with comp := some { j with ready := rs } }
  let others := (nextDevs s i).filter (· != devNum s)
  if rs.length < (nextDevs s i).length then s
  else if rs.any (fun r => r.2 != crc) then
    let s := { s with compOut := s.compOut ++ others.map (fun d => (d, i, 0, 0)) }
    rebindCancel (fset s .COMP_TROUBLE_MAP_MISMATCH 0 1) i 8
  else
    let s := { s with compOut := s.compOut ++ others.map (fun d => (d, i, crc, step + 2)) }
    fset (fset s .COMP_SWITCH_STEP_STEP i (step + 2)) .COMP_CONSIST_ID_STATE i ctSwitching

/-- R345 step 3 is over: no page of the loop lies in a slice that the REBIND removes. -/
def resharded (s : State) (v : Service) : Bool :=
  (usedPages s v).all (fun n => !((v.rebind.map (·.2)).getD []).contains ((v.poolBase + 65536 * n) / sliceBytes))

/-- R345 step 4: the loop of slot i, which has been told of the REBIND and has its pages in place, reports READY in its step,
with the next map's checksum. -/
def execRebindReady (i : SlotId) (s : State) : Out :=
  match rebindJob s i, slotService s i with
  | some j, some v =>
    let crc := mapCrc (mapEntries s (fget s .COMP_MAP_NEXT_OFF i) (fget s .COMP_MAP_NEXT_LEN i))
    if j.ready.any (fun r => r.1 == devNum s) || v.rebind.isNone || !resharded s v then .next s
    else .next (composerMsg s v i cmReady [BitVec.ofNat 32 crc, BitVec.ofNat 32 v.step])
  | _, _ => .next s

/-- R345 step 5: the composer has its loop's READY: the lead counts it, another member passes it to the lead. -/
def ownReady (s : State) (i crc step : Nat) : State :=
  match rebindJob s i with
  | some j =>
    if j.ready.any (fun r => r.1 == devNum s) then s
    else if leadOf s i = devNum s then readyIn s i step j (devNum s) crc
    else { s with comp := some { j with ready := j.ready ++ [(devNum s, crc)] },
                  compOut := s.compOut ++ [(leadOf s i, i, crc, step)] }
  | none => s

/-- R345 steps 5 and 6: on the lead, a member's READY in step `step`; on another member, the lead's decision: its
checksum and the switch step. -/
def execMemberReady (i : SlotId) (dev crc step : Nat) (s : State) : Out :=
  match rebindJob s i with
  | none => .next s
  | some j =>
    if dev = devNum s ∨ (nextDevs s i).contains dev = false then .next s
    else if leadOf s i = devNum s then .next (readyIn s i step j dev crc)
    else if dev ≠ leadOf s i ∨ j.ready.isEmpty = true then .next s
    else if j.ready.any (fun r => r.2 != crc) then .next (rebindCancel (fset s .COMP_TROUBLE_MAP_MISMATCH 0 1) i 8)
    else .next (fset (fset s .COMP_SWITCH_STEP_STEP i step) .COMP_CONSIST_ID_STATE i ctSwitching)

/-- R340: the epoch after one. -/
def nextEpoch (e : Nat) : Nat := if (e + 1) % 65536 = 0 then 1 else (e + 1) % 65536

/-- R345 step 8. -/
def epochSwitch (s : State) (i members : Nat) : State :=
  let old := (fget s .COMP_MAP_CUR_OFF i, fget s .COMP_MAP_CUR_LEN i)
  let s := { s with oldMaps := SMap.set (fun _ => (0, 0)) s.oldMaps i old }
  let s := mapSwitch s i
  let ks := mapLocal s (mapEntries s (fget s .COMP_MAP_CUR_OFF i) (fget s .COMP_MAP_CUR_LEN i))
  let s := fset s .COMP_MAP_EPOCH_OLD i (fget s .COMP_MAP_EPOCH_CUR i)
  let s := fset s .COMP_MAP_EPOCH_CUR i (nextEpoch (fget s .COMP_MAP_EPOCH_CUR i))
  let s := fset s .COMP_INFLIGHT_OLD i (fget s .COMP_INFLIGHT_CUR i)
  let s := fset s .COMP_INFLIGHT_CUR i 0
  let s := (slotSlices s i slStaged).foldl (fun s k => setSlice s k slActive) s
  let s := ((slotSlices s i slActive).filter (fun k => !ks.contains k)).foldl (fun s k => setSlice s k slLeaving) s
  let s := fset s .COMP_CONSIST_ID_MEMBERS i (members - 1)
  let s := fset s .COMP_CONSIST_ID_STATE i ctDraining
  let s := fset s .COMP_SWITCH_STEP_STEP i 0
  let s := takeNotice s ⟨5, 0, devNum s, fget s .COMP_CONSIST_ID_ID i⟩
  compEnd (assignConductors s) 0

/-- R345 step 7: the loop's message that asks for the switch has reached the composer; a consist without a loop needs none. -/
def switchAsked (s : State) (i : Nat) : Option State :=
  match slotService s i with
  | none => some s
  | some v => if s.mdSigs.contains (composerNote v i cmSwitch []) then
      some { s with mdSigs := s.mdSigs.filter (· != composerNote v i cmSwitch []) } else none

/-- R345 steps 7 and 8: at the boundary before step COMP_SWITCH_STEP the loop has asked the composer to switch. -/
def execEpochSwitch (i : SlotId) (s : State) : Out :=
  match s.comp with
  | some j =>
    if slotState' s i = ctSwitching ∧ cSlot j.cmd = (i : Nat) ∧ (slotService s i).all (fun v => !v.inStep) = true then
      match switchAsked s i with
      | some s => .next (epochSwitch s i (cMembers j.cmd))
      | none => .next s
    else .next s
  | none => .next s

/-- R334: a LEAVING slice becomes IDLE: its cache written back, its cores and KV gate compute-reset, its warm streams
ended. -/
def leaveIdle (s : State) (k : Nat) : State :=
  let s := warmCancel (scFlushAll s k) k
  let s := (List.range 6).foldl (fun s c => resetCore s (6 * k + c)) s
  fset (setSlice (kvgCompute s k) k slIdle) .COMP_SLICE_STATUS_SLOT k 0

/-- R345 step 9, R356: the drain of slot i is over. -/
def drained (s : State) (i : Nat) : State :=
  let s := (slotSlices s i slLeaving).foldl leaveIdle s
  let s := { s with oldMaps := SMap.set (fun _ => (0, 0)) s.oldMaps i (0, 0) }
  if slotState' s i = ctDraining then
    let s := fset s .COMP_MAP_EPOCH_OLD i (fget s .COMP_MAP_EPOCH_CUR i)
    assignConductors (fset (fset s .COMP_INFLIGHT_OLD i 0) .COMP_CONSIST_ID_STATE i ctActive)
  else
    let s := clearFields s (fun f k => k == i && decide (F.num .COMP_CONSIST_ID_ID ≤ f.num ∧ f.num ≤ F.num .COMP_MAP_CRC_CRC) &&
      f != .COMP_MAP_NEXT_OFF && f != .COMP_MAP_NEXT_LEN)
    let s := assignConductors s
    match s.comp with
    | some j => if j.begun && cOp j.cmd == 5 && cSlot j.cmd == i then compEnd s 0 else s
    | none => s

/-- R345 step 9, R356: nothing of the old epoch (of either, when it dissolves) is in flight here, and `reported` other
members have said the same. -/
def execEpochDrained (i : SlotId) (reported : Nat) (s : State) : Out :=
  let st := slotState' s i
  if reported = fget s .COMP_CONSIST_ID_MEMBERS i ∧ fget s .COMP_INFLIGHT_OLD i = 0 ∧
      (st = ctDraining ∨ (st = ctDissolving ∧ fget s .COMP_INFLIGHT_CUR i = 0 ∧ (slotService s i).isNone = true)) then .next (drained s i)
  else .next s

/-- R346: COMP_DRAIN_LIMIT passes: the composer proceeds. -/
def execDrainLimitExpire (i : SlotId) (s : State) : Out :=
  let st := slotState' s i
  if st = ctDraining ∨ (st = ctDissolving ∧ (slotService s i).isNone = true) then
    .next (drained (fset s .COMP_TROUBLE_DRAIN_FORCED 0 1) i)
  else .next s

/-- R334, R356: the consist of slot i dissolves: its slices are reserved, its loop is told. -/
def dissolve (s : State) (i : Nat) (graceful : Bool) : State :=
  let s := (slotSlices s i slActive).foldl (fun s k => setSlice s k slLeaving) s
  let s := fset s .COMP_CONSIST_ID_STATE i ctDissolving
  assignConductors (loopMsg s i (if graceful then lmGraceful else lmDissolve) [])

/-- R356: DISSOLVE. -/
def execDissolve (s : State) : Out :=
  match compNext s 5 with
  | none => .next s
  | some c =>
    let i := cSlot c
    if slotState' s i = ctFree ∨ fget s .COMP_CONSIST_ID_PART i ≠ cPart c then .next (compEnd s 1)
    else if rebinding s i || slotState' s i == ctDissolving then .next (compEnd s 4)
    else .next (dissolve (compBegin s) i (cGraceful c))

/-- R356, R401: LIMIT_MS of a graceful stop passes: the requests that remain end at the next boundary. -/
def execDissolveLimitExpire (p : PartId) (sub : Fin 4) (s : State) : Out :=
  match getService s p sub with
  | some v =>
    match v.stopping with
    | some (true, c) => .next (setService s { v with stopping := some (false, c) })
    | _ => .next s
  | none => .next s

/-! Lending (R350-R355). -/

/-- R351: LEND. -/
def execLend (s : State) : Out :=
  match compNext s 6 with
  | none => .next s
  | some c =>
    let dev := fieldAt c 48 2
    let id := fieldAt c 52 2
    if role s = 0 then .next (compEnd s 7)
    else if (cSlices c).any (fun k => sliceState s k != slFree) then .next (compEnd s 2)
    else
      let s := (cSlices c).foldl (fun s k =>
        let s := fset s .COMP_LEND_DEV k dev
        let s := fset s .COMP_LEND_PART k (fieldAt c 50 1)
        let s := fset s .COMP_LEND_CONSIST k id
        let s := setSlice (fset s .COMP_LEND_VALID k 1) k slLent
        let n : Notice := ⟨1, k, devNum s, id⟩
        sendNotice (takeNotice s n) dev n) s
      .next (compEnd s 0)

/-- A notice about a lent slice, to its grantee. -/
def lendNotice (s : State) (kind k : Nat) : State :=
  let n : Notice := ⟨kind, k, devNum s, fget s .COMP_LEND_CONSIST k⟩
  sendNotice (takeNotice s n) (fget s .COMP_LEND_DEV k) n

/-- R355: the lent slices of a WITHDRAW are taken back and scrubbed. -/
def withdrawNow (s : State) (ks : List Nat) : State :=
  ks.foldl (fun s k =>
    let s := lendNotice s 4 k
    let s := fset s .COMP_LEND_DEV k 0
    let s := fset s .COMP_LEND_PART k 0
    let s := fset s .COMP_LEND_CONSIST k 0
    scrubSend (setSlice (fset s .COMP_LEND_VALID k 0) k slScrubbing) k) s

/-- R355: WITHDRAW. -/
def execWithdraw (s : State) : Out :=
  match compNext s 7 with
  | none => .next s
  | some c =>
    if (cSlices c).any (fun k => sliceState s k != slLent) then .next (compEnd s 2)
    else if cGraceful c then .next ((cSlices c).foldl (fun s k => lendNotice s 2 k) (compBegin s))
    else .next (withdrawNow (compBegin s) (cSlices c))

/-- The graceful WITHDRAW that waits for RECALLED. -/
def withdrawWaits (s : State) : Option CompJob :=
  match s.comp with
  | some j => if j.begun && cOp j.cmd == 7 && cGraceful j.cmd && (cSlices j.cmd).any (fun k => sliceState s k == slLent)
      then some j else none
  | none => none

/-- R355: RECALLED has not arrived within LIMIT_MS. -/
def execWithdrawRecallTimeout (s : State) : Out :=
  match withdrawWaits s with
  | some j => .next (withdrawNow (fset s .COMP_TROUBLE_PEER_TIMEOUT 0 1) (cSlices j.cmd))
  | none => .next s

/-- R350: the states a role allows a slice. -/
def roleAllows (r st : Nat) : Bool :=
  match r with
  | 0 => st != slLent
  | 1 => st == slFree || st == slLent || st == slScrubbing
  | _ => true

/-- R350, R357: ROLE; a POOL module's regions sleep. -/
def execRole (s : State) : Out :=
  match compNext s 8 with
  | none => .next s
  | some c =>
    if (List.range 256).all (fun k => roleAllows (cRole c) (sliceState s k)) then
      let s := fset s .COMP_ROLE_ROLE 0 (cRole c)
      let s := if cRole c = 1 then
          (List.range 16).foldl (fun s d => (List.range 4).foldl (fun s q =>
            if fget s .PWR_DOM_STATUS_STATE (5 * d + q) < 3 then fset s .PWR_DOM_STATUS_STATE (5 * d + q) 3 else s) s) s
        else s
      let devs := ((List.range 256).filterMap (fun k =>
        if fbit s .COMP_LEND_VALID k then some (fget s .COMP_LEND_DEV k) else none)).eraseDups
      let n : Notice := ⟨6, cRole c, devNum s, 0⟩
      .next (compEnd (devs.foldl (fun s d => sendNotice s d n) (takeNotice s n)) 0)
    else .next (compEnd s 7)

/-- R353-R355: a notice arrives from another composer. -/
def execNoticeReceive (kind slice dev consist : Nat) (s : State) : Out :=
  let s := takeNotice s ⟨kind, slice, dev, consist⟩
  match withdrawWaits s with
  | some j =>
    if kind = 3 ∧ (cSlices j.cmd).contains slice = true then
      let j := { j with recalled := slice :: j.recalled }
      let s := { s with comp := some j }
      if (cSlices j.cmd).all (fun k => j.recalled.contains k) then .next (withdrawNow s (cSlices j.cmd)) else .next s
    else .next s
  | none => .next s

/-- R353, R593: a read of COMP_NOTICE. -/
def execCompNoticeRead (s : State) : Out :=
  let r := noticeRead s
  .next { r.1 with reads := r.1.reads ++ [r.2] }

/-- R359: a member has sent no READY within COMP_DRAIN_LIMIT of the first. -/
def execComposerPeerTimeout (i : SlotId) (s : State) : Out :=
  match rebindJob s i with
  | some j =>
    if j.ready.isEmpty then .next s
    else .next (rebindCancel (fset s .COMP_TROUBLE_PEER_TIMEOUT 0 1) i 10)
  | none => .next s

end Sys2Proof.Machine
end

