-- ==== Sys2Proof/Machine/CtxX.lean ====
section
/-! DEFINITION. The commands of contexts, memory objects and fences (spec R419-R441). -/
namespace Sys2Proof.Machine

/-! Objects (R427-R431). -/

def getObj (s : State) (p h : Nat) : Option Obj := SMap.get (fun _ => none) s.objs (p * 65536 + h)
def setObj (s : State) (p h : Nat) (o : Option Obj) : State :=
  { s with objs := SMap.set (fun _ => none) s.objs (p * 65536 + h) o }

/-- The contexts of a partition that exist, with their numbers. -/
def ctxsOf (s : State) (p : Nat) : List (Nat × Ctx) :=
  (List.range 4096).filterMap (fun c => (getCtx s p c).map (fun x => (c, x)))

/-- The mappings an object has (R428). -/
def mapCount (s : State) (p h : Nat) : Nat :=
  ((ctxsOf s p).filter (fun e => e.2.maps.any (fun m => m.1 == h))).length

/-- R429: some command holds a reference on the object. -/
def objHeld (s : State) (p h : Nat) : Bool := s.cmds.any (fun c => c.part == p && c.refs.contains h)

/-- R432 steps 5 and 6: the last of a destroyed context: its slot, its entry and the record. -/
def ctxFinish (s : State) (c : Cmd) : State :=
  let s := match ctxSlot s c.part c.ctx with
    | some i => ctxSlotFree s i
    | none => s
  endCmd (ctxEntryPut (setCtx s c.part c.ctx none) c.part c.ctx) c 0 0 c.count 0

/-- An object is FREE: the unmaps and destroys that waited for it go on (R431). -/
def objFree (s : State) (p h : Nat) : State :=
  let s := objEntryPut (setObj s p h none) p h
  let hit := s.cmds.filter (fun c => c.part == p && c.waits.contains h)
  hit.foldl (fun s c =>
    let c := { c with waits := c.waits.filter (· != h) }
    let s := setCmd s c
    if !c.waits.isEmpty then s else if c.op = 0x14 then endCmd s c 0 1 0 0 else ctxFinish s c) s

/-- R431: FORCED: what the freeing does to the commands that name the object. -/
def forceGone (s : State) (p h : Nat) : State :=
  let hit := s.cmds.filter (fun c => c.part == p && c.refs.contains h)
  hit.foldl (fun s c =>
    if !c.started then endCmd s c 0x60 0 0 0 else
    let c := { c with gone := some 0x60 }
    let s := setCmd s c
    if c.op ≠ 0x01 then s
    else if c.chan.isNone then endCmd s c 0x60 0 0 0
    else copyStop s c) s

/-- R431: an object has lost its last mapping under a teardown mode. -/
def objLast (s : State) (p h : Nat) (forced : Bool) : State :=
  match getObj s p h with
  | none => s
  | some o =>
    let s := if forced then forceGone s p h else s
    objEntryPut (if objHeld s p h then setObj s p h (some { o with freeing := true, forced := forced }) else setObj s p h none) p h

/-- R427: every 64 KiB page of a range lies in HBM or a pinned window, outside control memory, and in a window of the
partition for each right asked. -/
def rangeGranted (s : State) (p base pages rights : Nat) : Bool :=
  let t := (List.range 32).map (getWin s p)
  (List.range pages).all (fun i =>
    let a := base + 65536 * i
    (match regionOf a with | .hbm _ | .window _ _ => true | _ => false) &&
    [Right.read, .write, .atomic].all (fun r => !bit rights r.code || lineOk t 0xFFFFFFFF none r (a / 64)))

/-- R421, R427: OBJ_CREATE. -/
def objCreate (s : State) (c : Cmd) : State :=
  let h := c.arg 2 % 65536
  let rights := bits (c.arg 2) 16 3
  let o : Obj := ⟨c.arg 0, c.arg 1, rights, false, false⟩
  match getCtx s c.part c.ctx with
  | none => endCmd s c 0x62 0 0 0
  | some x =>
    if fget s .QE_PART_LIMITS_OBJECTS c.part ≤ h ∨ (getObj s c.part h).isSome then endCmd s c 0x64 0 0 0
    else if !rangeGranted s c.part o.base o.pages rights then endCmd s c 0x65 0 0 0
    else if (objsOf s c.part).any (fun e => overlaps o.base o.size e.2.base e.2.size) then endCmd s c 0x66 0 0 0
    else if 240 ≤ x.maps.length then endCmd s c 0x67 0 0 0
    else
      let s := objEntryPut (setObj s c.part h (some o)) c.part h
      endCmd (setCtx s c.part c.ctx (some { x with maps := x.maps ++ [(h, rights)] })) c 0 0 1 0

/-- R421, R422: OBJ_MAP. -/
def objMap (s : State) (c : Cmd) : State :=
  let h := c.arg 2 % 65536
  let rights := bits (c.arg 2) 16 3
  match getCtx s c.part c.ctx, getObj s c.part h with
  | some x, some o =>
    if o.freeing then endCmd s c 0x60 0 0 0
    else if x.maps.any (fun m => m.1 == h) then endCmd s c 0x64 0 0 0
    else if Nat.land rights o.rights != rights then endCmd s c 0x40 0 0 0
    else if 240 ≤ x.maps.length then endCmd s c 0x67 0 0 0
    else
      let s := setCtx s c.part c.ctx (some { x with maps := x.maps ++ [(h, rights)] })
      endCmd s c 0 0 (mapCount s c.part h) 0
  | _, _ => endCmd s c 0x64 0 0 0

/-- R421, R428, R431: OBJ_UNMAP. -/
def objUnmap (s : State) (c : Cmd) : State :=
  let h := c.arg 2 % 65536
  match getCtx s c.part c.ctx with
  | none => endCmd s c 0x62 0 0 0
  | some x =>
    if !(x.maps.any (fun m => m.1 == h)) then endCmd s c 0x64 0 0 0 else
    let s := setCtx s c.part c.ctx (some { x with maps := x.maps.filter (fun m => m.1 != h) })
    let n := mapCount s c.part h
    if n ≠ 0 then endCmd s c 0 0 n 0 else
    let s := objLast s c.part h x.forced
    if (getObj s c.part h).isSome then setCmd s { c with waits := [h] } else endCmd s c 0 1 0 0

def execObjCreate (i : Nat) (s : State) : Out := patient s (fun s => runCmd s i 0x12 objCreate)
def execObjMap (i : Nat) (s : State) : Out := patient s (fun s => runCmd s i 0x13 objMap)
def execObjUnmap (i : Nat) (s : State) : Out := patient s (fun s => runCmd s i 0x14 objUnmap)

/-- R431: the last reference on a FREEING object is released. -/
def execObjectFreed (p : PartId) (h : BitVec 16) (s : State) : Out :=
  match getObj s p h.toNat with
  | some o =>
    if o.freeing && !objHeld s p h.toNat then patient s (fun s => .next (objFree s p h.toNat)) else .next s
  | none => .next s

/-- R431: 5 ms of a FORCED freeing have passed: the object is FREE whatever its commands do. -/
def execForcedTeardownLimit (p : PartId) (h : BitVec 16) (s : State) : Out :=
  match getObj s p h.toNat with
  | some o => if o.freeing && o.forced then patient s (fun s => .next (objFree s p h.toNat)) else .next s
  | none => .next s

/-! Fences (R433-R436). -/

def getFence (s : State) (p h : Nat) : Option Fence := SMap.get (fun _ => none) s.fences (p * 65536 + h)
def setFence (s : State) (p h : Nat) (x : Option Fence) : State :=
  { s with fences := SMap.set (fun _ => none) s.fences (p * 65536 + h) x }

def Fence.word (x : Fence) : Nat := x.value % 2 ^ 63 + 2 ^ 63 * b2n x.error

/-- R433: the fence word in the fence table. -/
def putWord (s : State) (p h v : Nat) : State :=
  tableWrite s p (fget s .QE_PART_FENCE_BASE_ADDR p * 4096 + 32 * h) (leBytes 8 v)

/-- R435: the waits that a fence's word satisfies or ends. -/
def fenceWake (s : State) (p h : Nat) (x : Fence) : State :=
  (s.cmds.filter (fun c => c.part == p && c.started && c.op == 0x17 && c.arg 0 == h)).foldl (fun s c =>
    if c.arg 1 ≤ x.value then endCmd s c 0 0 0 0 else if x.error then endCmd s c 0x69 0 0 0 else s) s

/-- R433: a fence changes, and with its word the table, the mirror, the vector, and the waits; step 6 of R413 writes no mirror. -/
def fenceChange (s : State) (p h : Nat) (x : Fence) (mirror : Bool) : State :=
  let same := ((getFence s p h).map Fence.word) == some x.word
  let s := setFence s p h (some x)
  if same then s else
  let s := putWord s p h x.word
  let f := funcOf s p
  let s := if x.mirror ≠ 0 ∧ mirror = true then
      let s := hostWrite s p f x.mirror (leBytes 8 x.word) false ⟨3, x.owner.getD 0, 0, 0⟩ none
      if x.irq then raiseVector s f x.vector else s
    else s
  fenceWake s p h x

/-- R421, R433: FENCE_CREATE. -/
def fenceCreate (s : State) (c : Cmd) : State :=
  let h := c.arg 0
  if fget s .QE_PART_LIMITS_FENCES c.part ≤ h ∨ (getFence s c.part h).isSome then endCmd s c 0x64 0 0 0 else
  let x : Fence := ⟨c.arg 3, false, c.arg 1, c.arg 2 % 2 ^ 11, bit (c.arg 2) 11, some c.ctx⟩
  endCmd (putWord (setFence s c.part h (some x)) c.part h x.word) c 0 0 0 0

/-- R421, R434: FENCE_SIGNAL. -/
def fenceSignal (s : State) (c : Cmd) : State :=
  match getFence s c.part (c.arg 0) with
  | none => endCmd s c 0x64 0 0 0
  | some x =>
    if !x.error && decide (x.value < c.arg 1) then
      endCmd (fenceChange s c.part (c.arg 0) { x with value := c.arg 1 } true) c 0 0 0 0
    else endCmd s c 0 1 0 0

/-- R421, R435: FENCE_WAIT. -/
def fenceWait (s : State) (c : Cmd) : State :=
  match getFence s c.part (c.arg 0) with
  | none => endCmd s c 0x64 0 0 0
  | some x => if c.arg 1 ≤ x.value then endCmd s c 0 0 0 0 else if x.error then endCmd s c 0x69 0 0 0 else s

/-- R421, R436: FENCE_DESTROY. -/
def fenceDestroy (s : State) (c : Cmd) : State :=
  match getFence s c.part (c.arg 0) with
  | none => endCmd s c 0x64 0 0 0
  | some _ =>
    let hit := s.cmds.filter (fun k => k.part == c.part && k.started && k.op == 0x17 && k.arg 0 == c.arg 0)
    let s := hit.foldl (fun s k => endCmd s k 0x6A 0 0 0) s
    endCmd (setFence s c.part (c.arg 0) none) c 0 0 hit.length 0

def execFenceCreate (i : Nat) (s : State) : Out := patient s (fun s => runCmd s i 0x15 fenceCreate)
def execFenceSignal (i : Nat) (s : State) : Out := patient s (fun s => runCmd s i 0x16 fenceSignal)
def execFenceWait (i : Nat) (s : State) : Out := runCmd s i 0x17 fenceWait
def execFenceDestroy (i : Nat) (s : State) : Out := patient s (fun s => runCmd s i 0x18 fenceDestroy)

/-- R435: a pending FENCE_WAIT's timeout passes. -/
def execFenceWaitTimeout (i : Nat) (s : State) : Out :=
  match s.cmds[i]? with
  | some c => if c.op = 0x17 ∧ c.started = true ∧ c.arg 2 ≠ 0 then .next (endCmd s c 0 1 0 0) else .next s
  | none => .next s

/-! Contexts (R420, R421, R432, R440). -/

/-- R421, R422: CTX_CREATE. -/
def ctxCreate (s : State) (c : Cmd) : State :=
  if (getCtx s c.part c.ctx).isSome then endCmd s c 0x63 0 0 0
  else endCmd (ctxEntryPut (setCtx s c.part c.ctx (some { Ctx.fresh0 with forced := bit (c.arg 0) 0, confine := bit (c.arg 0) 1 })) c.part c.ctx) c 0 0 0 0

/-- The fences of a partition with their handles. -/
def fencesOf (s : State) (p : Nat) : List (Nat × Fence) :=
  s.fences.filterMap (fun e => if e.1 / 65536 = p then e.2.map (fun x => (e.1 % 65536, x)) else none)

/-- R432 step 3: ERROR in every fence of a context, their owner cleared. -/
def errorFences (s : State) (p c : Nat) : State :=
  ((fencesOf s p).filter (fun e => e.2.owner == some c)).foldl (fun s e =>
    fenceChange s p e.1 { e.2 with error := true, owner := none } true) s

/-- R432 steps 1 to 4: CTX_DESTROY. -/
def ctxDestroy (s : State) (c : Cmd) : State :=
  match getCtx s c.part c.ctx with
  | none => endCmd s c 0x62 0 0 0
  | some x =>
    let s := setCtx s c.part c.ctx (some { x with destroying := true })
    let mine := fun (k : Cmd) => k.part == c.part && k.ctx == c.ctx && k.id != c.id
    let dead := s.cmds.filter (fun k => mine k && (!k.started || isWait k))
    let s := dead.foldl (fun s k => endCmd s k 0x61 0 0 0) s
    let s := errorFences s c.part c.ctx
    let live := if x.forced then s.cmds.filter mine else []
    let s := live.foldl (fun s k =>
      let k := { k with gone := some 0x61 }
      let s := setCmd s k
      if k.op ≠ 0x01 then s else if k.chan.isNone then endCmd s k 0x61 0 0 0 else copyStop s k) s
    setCmd s { c with count := dead.length + live.length }

/-- R432 steps 5 and 6, once the started commands that step 4 waits for have ended. -/
def ctxDestroyResume (s : State) (c : Cmd) : State :=
  match getCtx s c.part c.ctx with
  | none => s
  | some x =>
    let busy := s.cmds.any (fun k => k.part == c.part && k.ctx == c.ctx && k.id != c.id && k.started &&
      (!x.forced || k.op == 0x01))
    if busy || !c.waits.isEmpty then s else
    let s := setCtx s c.part c.ctx (some { x with maps := [] })
    let s := x.maps.foldl (fun s m => if mapCount s c.part m.1 = 0 then objLast s c.part m.1 x.forced else s) s
    let waits := (x.maps.map (·.1)).filter (fun h => mapCount s c.part h == 0 && (getObj s c.part h).isSome)
    if waits.isEmpty then ctxFinish s c else setCmd s { c with waits := waits }

def execCtxCreate (i : Nat) (s : State) : Out := patient s (fun s => runCmd s i 0x10 ctxCreate)
def execCtxDestroy (i : Nat) (s : State) : Out := patient s (fun s => runCmd s i 0x11 ctxDestroy)

def execCtxDestroyResume (i : Nat) (s : State) : Out :=
  match s.cmds[i]? with
  | some c => if c.op = 0x11 ∧ c.started = true then patient s (fun s => .next (ctxDestroyResume s c)) else .next s
  | none => .next s

/-- R440: the 128-byte result about a context. -/
def ctxResult (s : State) (p n : Nat) : List Byte :=
  match getCtx s p n with
  | none => leBytes 2 n ++ List.replicate 126 0
  | some x =>
    let res := (ctxSlot s p n).isSome
    let st := if x.destroying then 3 else if res then 1 else 2
    let pages := (x.maps.map (fun m => ((getObj s p m.1).map (·.pages)).getD 0)).foldl (· + ·) 0
    let flight := (s.cmds.filter (fun k => k.part == p && k.ctx == n)).length
    let owned := ((fencesOf s p).filter (fun e => e.2.owner == some n)).length
    let rns := x.residentNs + (if res then hostNs s - x.since else 0)
    let bns := x.blockedNs + (match x.blockedSince with | some t => hostNs s - t | none => 0)
    leBytes 2 n ++ leBytes 1 st ++ leBytes 1 (b2n x.forced + 2 * b2n x.confine) ++ leBytes 4 x.maps.length ++
    leBytes 8 pages ++ leBytes 8 x.commands ++ leBytes 4 flight ++ leBytes 4 owned ++ leBytes 8 x.coreCycles ++
    leBytes 8 x.chervilBytes ++ leBytes 8 rns ++ leBytes 8 bns ++ leBytes 4 x.loads ++ leBytes 4 x.evictions ++
    leBytes 8 x.lastRun ++ List.replicate 48 0

/-- R421, R440: CTX_QUERY writes its result before its record. -/
def ctxQuery (s : State) (c : Cmd) : State :=
  let who : HostFor := ⟨2, c.ctx, c.tag, localRing s c.ring⟩
  endCmd (hostWrite s c.part (funcOf s c.part) (c.arg 0) (ctxResult s c.part (c.arg 1)) false who (writerDue s false)) c 0 0 0 0

def execCtxQuery (i : Nat) (s : State) : Out := runCmd s i 0x19 ctxQuery

end Sys2Proof.Machine
end

