-- ==== Sys2Proof/Machine/FuaneX.lean ====
section
/-! DEFINITION. The commands of partitions and of Fuane (spec R481-R516): windows, meters, the mailbox's commands, and the
SPDM responder. -/
namespace Sys2Proof.Machine

/-! Windows and meters (R488, R496, R497). -/

/-- PART_WIN_COMMIT.GO is written 1 (R488). -/
def execWinCommit (p : PartId) (s : State) : Out := .next (winCommit s p)

/-- The last checker holds the table (R488). -/
def execWinCommitDone (p : PartId) (s : State) : Out := .next (winInstall s p)

/-- PART_METER_SNAP.GO is written 1 (R497). -/
def execMeterSnap (p : PartId) (s : State) : Out := .next (meterSnap s p)

/-- A partition's share of a domain's energy: whole millijoules go to its meter, the rest is carried (R496). -/
def energyTo (s : State) (p nj : Nat) : State :=
  let f := SMap.get (fun _ => 0) s.power.partNj p + nj
  let s := setPower s { s.power with partNj := SMap.set (fun _ => 0) s.power.partNj p (f % 1000000) }
  meter s p false mEnergy (f / 1000000)

/-- An energy in nJ divided by weights, of which the 64 partitions hold some and `total` is the sum of all; the running sum
is what is rounded, so that the shares lose nothing. -/
def divide (s : State) (nj total : Nat) (weight : Nat → Nat) : State :=
  if total = 0 then s else
  ((List.range 64).foldl (fun (acc : State × Nat) p =>
    let cum := acc.2 + weight p
    (energyTo acc.1 p (nj * cum / total - nj * acc.2 / total), cum)) (s, 0)).1

/-- How many of the stations are bound to a partition. -/
def boundIn (s : State) (ks : List Nat) (p : Nat) : Nat := (ks.filter (fun k => boundTo s k == some p)).length

/-- R496: the energy of one domain. -/
def attribute1 (s : State) (d : Nat) : State :=
  let nj := SMap.get (fun _ => 0) s.power.spanNj d
  if isRegion d then
    let run := fun p => SMap.get (fun _ => 0) s.power.runCycles (64 * d + p)
    let total := ((List.range 64).map run).foldl (· + ·) 0
    if total = 0 then divide s nj 4 (boundIn s (regionStns d)) else divide s nj total run
  else if d < 80 then divide s nj 16 (boundIn s ((List.range 16).map (fun i => 16 * (d / 5) + i)))
  else if d < 88 then divide s nj 32 (boundIn s ((List.range 32).map (fun i => 32 * (d - 80) + i)))
  else s

/-- R496: 1 ms of energy is divided among the partitions. -/
def execEnergyAttribution (s : State) : Out :=
  let s := (List.range 96).foldl attribute1 s
  .next (setPower s { s.power with spanNj := [], runCycles := [] })

/-! The mailbox's commands (R500, R501, R510-R512, R516). -/

/-- A length argument, or an address or offset below its bound. -/
def mbLenOk (n : Nat) : Bool := decide (1 ≤ n) && decide (n ≤ 4096)

/-- GET_CERT: a part of the slot-0 chain into the buffer. -/
def execGetCert (f : FuncId) (s : State) : Out :=
  if mbRuns s f 0x01 = false then .next s else
  let off := mbArg s f 0
  let n := mbArg s f 1
  if mbLenOk n = false ∨ Config.certChain.length ≤ off then .next (mbEnd s f mbBadArg 0) else
  let b := (Config.certChain.drop off).take n
  .next (mbEnd (setBuf s f (Bytes.write (getBuf s f) 0 b)) f mbOk b.length)

/-- Fuane as the agent of a partition's UNWRAP, and of the operator's debug (R510, R512, R515). -/
def fuaneWho (part : Nat) (oper : Bool) : Who := ⟨part, 4, oper, 7, 0, 0, false⟩

/-- R509: the identity digest of a plaintext. -/
def modelDigest (n : Nat) (b : List Byte) : List Byte :=
  Config.sha512 ((List.range ((n + 1048575) / 1048576)).flatMap (fun i =>
    Config.sha512 ((b.drop (1048576 * i)).take 1048576)))

/-- R508: the fields of a header that R510 checks before the key. -/
def headerOk (h : List Byte) : Bool :=
  fieldAt h 0 4 == 0x4C594257 && fieldAt h 4 2 == 1 && decide (1 ≤ fieldAt h 6 2) && decide (fieldAt h 6 2 ≤ 1024) &&
  fieldAt h 92 4 == 0 && fieldAt h 112 16 == 0

/-- The wrapped key of this device in a member table. -/
def memberKey (h : List Byte) : Option (List Byte) :=
  ((List.range (fieldAt h 6 2)).find? (fun m =>
    (h.drop (128 + 576 * m)).take 64 == Config.sha512 Config.identityKey)).map
    (fun m => (h.drop (192 + 576 * m)).take 512)

/-- The measurement of a partition's bundles (R494, R510). -/
def measureOf (s : State) (p : Nat) : List Byte := SMap.get (fun _ => List.replicate 64 0) s.measures p
def setMeasure (s : State) (p : Nat) (m : List Byte) : State :=
  { s with measures := SMap.set (fun _ => List.replicate 64 0) s.measures p m }

/-- The oldest UNWRAP is no longer in progress or waiting. -/
def unwrapPop (s : State) : State := setMod s { s.mod with unwraps := s.mod.unwraps.drop 1 }

/-- UNWRAP, its first three steps: the header, the key, the plaintext at its destination (R510). -/
def execUnwrap (f : FuncId) (s : State) : Out :=
  patient s (fun s =>
    match s.mod.unwraps with
    | [] => .next s
    | u :: us =>
      if u.f ≠ f ∨ u.begun = true then .next s
      else if 2 ^ 48 ≤ u.src ∨ 2 ^ 48 ≤ u.dst then .next (mbEnd (unwrapPop s) f mbBadArg 0) else
      let w := fuaneWho u.part false
      let a := heldRead s w hFuane u.src 128
      if headerOk a.2.1 = false then .next (mbEnd (unwrapPop a.1) f mbBadHeader 0) else
      let table := 128 + 576 * fieldAt a.2.1 6 2
      let b := heldRead a.1 w hFuane u.src table
      match memberKey b.2.1 with
      | none => .next (mbEnd (unwrapPop b.1) f mbNotMember 0)
      | some wrapped =>
        match Config.oaepOpen wrapped with
        | none => .next (mbEnd (unwrapPop b.1) f mbBadHeader 0)
        | some key =>
          let h := a.2.1
          let n := fieldAt h 8 8
          let c := heldRead b.1 w hFuane (u.src + alignDown (table + 4095) 4096) n
          let iv := (h.drop 80).take 12
          let plain := (Config.aesGcmBytes key iv c.2.1).take n
          let tagOk := Config.aesGcmTagOk key iv (h.take 80) c.2.1 ((h.drop 96).take 16)
          let model := (h.drop 16).take 64
          let u := { u with begun := true, bytes := n, tagOk := tagOk,
                            digestOk := modelDigest n plain == model, model := model }
          let s := heldWrite c.1 w hFuane u.dst plain
          .next (setMod s { s.mod with unwraps := u :: us }))

/-- UNWRAP's end: its last two steps (R510). -/
def execUnwrapComplete (f : FuncId) (s : State) : Out :=
  patient s (fun s =>
    match s.mod.unwraps with
    | [] => .next s
    | u :: _ =>
      if u.f ≠ f ∨ u.begun = false then .next s else
      let s := unwrapPop s
      let wipe := fun (_ : Unit) => heldWrite s (fuaneWho u.part false) hFuane u.dst (List.replicate u.bytes 0)
      if u.tagOk = false then .next (mbEnd (wipe ()) f mbTagFail 0)
      else if u.digestOk = false then .next (mbEnd (wipe ()) f mbDigestFail 0)
      else .next (mbEnd (setMeasure s u.part (Config.sha512 (measureOf s u.part ++ u.model))) f mbOk u.bytes))

/-- The bank that runs, and a bank's bytes. -/
def runBank (s : State) : Nat := s.mod.romBank.getD 0
def bankBytes (s : State) (b : Nat) : Bytes := SMap.get (fun _ => []) s.mod.banks b

/-- FW_STAGE: a chunk of an image into the bank that is not running (R500). -/
def execFwStage (f : FuncId) (s : State) : Out :=
  if mbRuns s f 0x10 = false then .next s else
  let off := mbArg s f 0
  let n := mbArg s f 1
  if mbLenOk n = false ∨ 2048 + 33554432 < off + n then .next (mbEnd s f mbBadArg 0) else
  let b := 1 - runBank s
  let m := Bytes.write (bankBytes s b) off (Bytes.read (getBuf s f) 0 n)
  .next (mbEnd (setMod s { s.mod with banks := SMap.set (fun _ => []) s.mod.banks b m }) f mbOk 0)

/-- R498, R499: the image in a bank boots. -/
def imageValid (s : State) (b : Nat) : Bool :=
  let m := bankBytes s b
  let h := Bytes.read m 0 2048
  let n := fieldAt h 8 8
  fieldAt h 0 4 == 0x46554E45 && fieldAt h 4 2 == 1 && decide (fieldAt h 6 1 ≤ 64) && decide (s.mod.fuses ≤ fieldAt h 6 1) &&
  fieldAt h 7 1 == 0 && decide (1 ≤ n) && decide (n ≤ 33554432) && fieldAt h 604 932 == 0 && Config.imageSigned h &&
  Config.sha512 (Bytes.read m 2048 n) == (h.drop 24).take 64

/-- The security version of a bank's image. -/
def bankSvn (s : State) (b : Nat) : Nat := (Bytes.get (bankBytes s b) 6).toNat

/-- FW_ACTIVATE: the staged image is the next reset's, if it boots (R500); it waits for a running UNWRAP (R513). -/
def execFwActivate (f : FuncId) (s : State) : Out :=
  if mbRuns s f 0x11 = false ∨ s.mod.unwraps.any (·.begun) = true then .next s else
  let b := 1 - runBank s
  if imageValid s b = false then .next (mbEnd s f mbImageFail 0) else
  .next (mbEnd (setMod s { s.mod with bootBank := b, pending := true, tried := false }) f mbOk (bankSvn s b))

/-- FW_COMMIT: fuses are blown one at a time, one fuse a command, up to the running image's SVN; the mailbox command
runs until the count equals it, so power may fail with the count between (R501). -/
def execFwCommit (f : FuncId) (s : State) : Out :=
  if mbRuns s f 0x12 = false then .next s else
  let n := max s.mod.fuses (min (bankSvn s (runBank s)) 64)
  if s.mod.fuses + 1 < n then .next (setMod s { s.mod with fuses := s.mod.fuses + 1 }) else
  .next (mbEnd (setMod s { s.mod with fuses := n }) f mbOk n)

/-- The slice that a device address belongs to. -/
def sliceAt (a : Nat) : Option Nat :=
  match regionOf a with
  | .hbm k => some k
  | .control k => some k
  | .station k _ => some k
  | .window k _ => some k
  | _ => none

/-- R512: each partition with a bound slice in the range counts one access of the operator. -/
def debugCount (s : State) (a n : Nat) : State :=
  let ks := (pieces a n).filterMap (fun p => sliceAt p.addr)
  ((ks.filterMap (boundTo s)).eraseDups).foldl (fun s p => fsat s .TRB_PART_OPER_ACCESSES_COUNT p) s

/-- DEBUG_READ (R512). -/
def execDebugRead (f : FuncId) (s : State) : Out :=
  patient s (fun s =>
    if mbRuns s f 0x20 = false then .next s else
    let a := mbArg s f 0
    let n := mbArg s f 1
    if mbLenOk n = false ∨ 2 ^ 48 < a + n then .next (mbEnd s f mbBadArg 0) else
    let r := heldRead (debugCount s a n) (fuaneWho 0 true) hFuane a n
    .next (mbEnd (setBuf r.1 f (Bytes.write (getBuf r.1 f) 0 r.2.1)) f mbOk n))

/-- DEBUG_WRITE (R512). -/
def execDebugWrite (f : FuncId) (s : State) : Out :=
  patient s (fun s =>
    if mbRuns s f 0x21 = false then .next s else
    let a := mbArg s f 0
    let n := mbArg s f 1
    if mbLenOk n = false ∨ 2 ^ 48 < a + n then .next (mbEnd s f mbBadArg 0) else
    let s := settle (heldWrite (debugCount s a n) (fuaneWho 0 true) hFuane a (Bytes.read (getBuf s f) 0 n))
    .next (mbEnd s f mbOk n))

/-! Attestation (R503-R507).  The formats of SPDM 1.3 are DSP0274's (PRESUMED, log 34).  Endpoint 0 is the physical function's, 1 to
64 the virtual functions', 65 the I3C port's. -/

/-- An endpoint that answers (R503). -/
def endpointOn (s : State) (e : Nat) : Bool :=
  e == 65 || (s.mod.linkUp && s.mod.started && (e == 0 || vfServes s (e - 1)))

def spdmSt (s : State) (e : Nat) : Nat := SMap.get (fun _ => 0) s.mod.spdmState e
def setSpdmSt (s : State) (e v : Nat) : State :=
  setMod s { s.mod with spdmState := SMap.set (fun _ => 0) s.mod.spdmState e v }

/-- A transcript of an endpoint: 0 of version, capabilities and algorithms, 1 of certificates, 2 of measurements. -/
def script (s : State) (e k : Nat) : List Byte := SMap.get (fun _ => []) s.mod.spdm (4 * e + k)
def setScript (s : State) (e k : Nat) (b : List Byte) : State :=
  setMod s { s.mod with spdm := SMap.set (fun _ => []) s.mod.spdm (4 * e + k) b }

/-- An endpoint answers: an MCTP message of type 5, SPDM's (R503; the type is DSP0275's, PRESUMED, log 34).  Its carriage in
packets over VDMs or I3C is the bindings' of R5. -/
def spdmSend (s : State) (e : Nat) (b : List Byte) : State := setMod s { s.mod with sent := s.mod.sent ++ [(e, 5 :: b)] }

/-- A response's first four bytes. -/
def spdmHead (code p1 p2 : Nat) : List Byte := [0x13, BitVec.ofNat 8 code, BitVec.ofNat 8 p1, BitVec.ofNat 8 p2]

def spdmErr (s : State) (e code data : Nat) : State := spdmSend s e (spdmHead 0x7F code data)
def eInvalid : Nat := 1
def eUnexpected : Nat := 4
def eUnsupported : Nat := 7
def eVersion : Nat := 0x41

/-- A request's own checks: its length, its code, its version, and the exchange it must follow. -/
def spdmCheck (s : State) (e : Nat) (req : List Byte) (code len after : Nat) : Option Nat :=
  if req.length < len ∨ fieldAt req 1 1 ≠ code then some eInvalid
  else if fieldAt req 0 1 ≠ 0x13 then some eVersion
  else if spdmSt s e < after then some eUnexpected
  else none

/-- GET_VERSION: 1.3. -/
def execGetVersion (e : Endpoint) (req : List Byte) (s : State) : Out :=
  if endpointOn s e = false then .next s
  else if req.length < 4 ∨ fieldAt req 0 2 ≠ 0x8410 then .next (spdmErr s e eInvalid 0) else
  let a : List Byte := [0x10, 0x04, 0, 0, 0, 1, 0x00, 0x13]
  let s := setScript (setScript (setScript s e 0 (req ++ a)) e 1 []) e 2 []
  .next (spdmSend (setSpdmSt s e 1) e a)

/-- GET_CAPABILITIES: certificates, challenges, signed measurements (R503). -/
def execGetCapabilities (e : Endpoint) (req : List Byte) (s : State) : Out :=
  if endpointOn s e = false then .next s else
  match spdmCheck s e req 0xE1 4 1 with
  | some c => .next (spdmErr s e c 0)
  | none =>
    let a := spdmHead 0x61 0 0 ++ [0, BitVec.ofNat 8 (Config.spdmParam 0), 0, 0] ++ leBytes 4 0x16 ++
      leBytes 4 (Config.spdmParam 1) ++ leBytes 4 (Config.spdmParam 2)
    .next (spdmSend (setSpdmSt (setScript s e 0 (script s e 0 ++ req ++ a)) e 2) e a)

/-- NEGOTIATE_ALGORITHMS: RSASSA-PSS 4096 and SHA-512, where they are offered (R503). -/
def execNegotiateAlgorithms (e : Endpoint) (req : List Byte) (s : State) : Out :=
  if endpointOn s e = false then .next s else
  match spdmCheck s e req 0xE3 32 2 with
  | some c => .next (spdmErr s e c 0)
  | none =>
    let spec := Nat.land (fieldAt req 6 1) 1
    let fmt := Nat.land (fieldAt req 7 1) 2
    let a := spdmHead 0x63 0 0 ++ leBytes 2 36 ++ leBytes 1 spec ++ leBytes 1 fmt ++ leBytes 4 (8 * spec) ++
      leBytes 4 (Nat.land (fieldAt req 8 4) 0x40) ++ leBytes 4 (Nat.land (fieldAt req 12 4) 4) ++ List.replicate 16 0
    .next (spdmSend (setSpdmSt (setScript s e 0 (script s e 0 ++ req ++ a)) e 3) e a)

/-- GET_DIGESTS: the digest of slot 0's chain. -/
def execGetDigests (e : Endpoint) (req : List Byte) (s : State) : Out :=
  if endpointOn s e = false then .next s else
  match spdmCheck s e req 0x81 4 3 with
  | some c => .next (spdmErr s e c 0)
  | none =>
    let a := spdmHead 0x01 1 1 ++ Config.sha512 Config.certChain
    .next (spdmSend (setScript s e 1 (script s e 1 ++ req ++ a)) e a)

/-- GET_CERTIFICATE: a part of slot 0's chain. -/
def execGetCertificate (e : Endpoint) (req : List Byte) (s : State) : Out :=
  if endpointOn s e = false then .next s else
  match spdmCheck s e req 0x82 8 3 with
  | some c => .next (spdmErr s e c 0)
  | none =>
    let off := fieldAt req 4 2
    let n := fieldAt req 6 2
    if fieldAt req 2 1 % 16 ≠ 0 ∨ Config.certChain.length ≤ off then .next (spdmErr s e eInvalid 0) else
    let b := (Config.certChain.drop off).take n
    let a := spdmHead 0x02 0 0 ++ leBytes 2 b.length ++ leBytes 2 (Config.certChain.length - off - b.length) ++ b
    .next (spdmSend (setScript s e 1 (script s e 1 ++ req ++ a)) e a)

/-- Byte 0 of measurement 5: OPERATOR_ACCESS and PROFILING (R506). -/
def debugByte : Byte := 5

/-- R507: the element with R506's byte, in the DMTF general opaque data format. -/
def opaqueData : List Byte := [1, 0, 0, 0, 3, 2, 0x7E, 0x1F, 1, 0, debugByte, 0]

/-- The committed windows of a partition in register order (R504). -/
def windowWords (s : State) (p : Nat) : List Byte :=
  (List.range 32).flatMap (fun i =>
    let w := getWin s p i
    leBytes 8 (b2n w.enable + 2 * b2n w.r + 4 * b2n w.w + 8 * b2n w.a + 16 * b2n w.remote + w.base + w.dev * 2 ^ 48) ++
      leBytes 8 w.limit)

/-- The fence list as firmware keeps it (R133). -/
def fenceList (s : State) : List Byte :=
  (List.range 256).flatMap (fun k => leBytes 1 (fget s .STN_CORE_FENCE_FENCE k) ++ leBytes 1 (fget s .STN_CORE_FENCE_FW k))

/-- The content of a measurement block, and whether it is raw (R504-R506); none where the index does not exist. -/
def measurement (s : State) (i : Nat) : Option (Bool × List Byte) :=
  if i = 1 then some (false, Config.sha512 Config.bootRom)
  else if i = 2 then
    let m := bankBytes s (runBank s)
    some (false, Config.sha512 (Bytes.read m 0 (2048 + Bytes.le m 8 8)))
  else if i = 3 then
    some (true, leBytes 1 (bankSvn s (runBank s)) ++ leBytes 1 s.mod.fuses ++ leBytes 1 (runBank s) ++
      leBytes 1 (fget s .FUA_BOOT_STATUS_FALLBACK))
  else if i = 4 then some (false, Config.sha512 (Config.flashConfig ++ fenceList s))
  else if i = 5 then some (true, debugByte :: List.replicate 7 0)
  else if i = 6 then
    some (true, leBytes 2 (devNum s) ++ leBytes 1 (fget s .COMP_ROLE_ROLE) ++ List.replicate 5 0 ++
      leBytes 8 ((List.range 64).foldl (fun v p => v + b2n (slicesOf s p != []) * 2 ^ p) 0))
  else if 16 ≤ i ∧ i < 80 then
    let p := i - 16
    some (false, Config.sha512 (leBytes 8 (fget s .PART_CTRL_CLASS p) ++ windowWords s p ++
      leBytes 8 (fget s .COMP_PART_CFG_MODE p) ++
      leBytes 8 (fget s .QE_PART_RINGS_BASE p + fget s .QE_PART_RINGS_COUNT p * 2 ^ 32) ++
      leBytes 8 (fget s .QE_PART_CFG_VF p + fget s .QE_PART_CFG_TRACKERS p * 2 ^ 4 + fget s .QE_PART_CFG_ATC_QUOTA p * 2 ^ 18)))
  else if 80 ≤ i ∧ i < 144 then some (false, measureOf s (i - 80))
  else none

/-- The indices an endpoint sees (R504). -/
def visible (e : Nat) : List Nat :=
  if e = 0 ∨ e = 65 then (List.range 144).filter (fun i => (decide (1 ≤ i) && decide (i ≤ 6)) || decide (16 ≤ i))
  else [1, 2, 3, 4, 5, 6, 15 + e, 79 + e]

/-- DSP0274's kind of a measurement. -/
def measureKind (i : Nat) : Nat :=
  if i = 1 then 0 else if i = 2 then 1 else if i = 3 then 7 else if i = 4 then 3 else if i = 5 then 5 else if i = 6 then 2 else 3

/-- A measurement block. -/
def measureBlock (s : State) (i : Nat) : List Byte :=
  match measurement s i with
  | none => []
  | some (raw, b) =>
    leBytes 1 i ++ [1] ++ leBytes 2 (b.length + 3) ++ leBytes 1 (measureKind i + 128 * b2n raw) ++ leBytes 2 b.length ++ b

/-- n fresh bytes: a nonce. -/
def nonceBytes : Nat → State → List Byte × State
  | 0, s => ([], s)
  | n + 1, s =>
    let d := draw s
    let r := nonceBytes n d.2
    (leBytes 8 d.1.toNat ++ r.1, r.2)

/-- A signature over a transcript, under the context string of its response (R503). -/
def spdmSign (s : State) (context : List Byte) (transcript : List Byte) : List Byte × State :=
  let d := draw s
  let ver : List Byte := "dmtf-spdm-v1.3.*".toList.map (fun c => BitVec.ofNat 8 c.toNat)
  let pad := List.replicate (36 - context.length) (0 : Byte)
  (Config.pssSign d.1.toNat (ver ++ ver ++ ver ++ ver ++ pad ++ context ++ Config.sha512 transcript), d.2)

def asciiBytes (x : String) : List Byte := x.toList.map (fun c => BitVec.ofNat 8 c.toNat)

/-- CHALLENGE: a signed report that states operator access (R507). -/
def execChallenge (e : Endpoint) (req : List Byte) (s : State) : Out :=
  if endpointOn s e = false then .next s else
  match spdmCheck s e req 0x83 44 3 with
  | some c => .next (spdmErr s e c 0)
  | none =>
    let kind := fieldAt req 3 1
    if fieldAt req 2 1 ≠ 0 ∨ kind ∉ [0, 1, 0xFF] then .next (spdmErr s e eInvalid 0) else
    let n := nonceBytes 4 s
    let s := n.2
    let summary := if kind = 0 then [] else Config.sha512 ((visible e).flatMap (measureBlock s))
    let body := spdmHead 0x03 0 1 ++ Config.sha512 Config.certChain ++ n.1 ++ summary ++ leBytes 2 opaqueData.length ++
      opaqueData ++ (req.drop 36).take 8
    let g := spdmSign s (asciiBytes "responder-challenge_auth signing") (script s e 0 ++ script s e 1 ++ req ++ body)
    .next (spdmSend (setScript g.2 e 1 []) e (body ++ g.1))

/-- GET_MEASUREMENTS: the blocks an endpoint sees, signed where a signature is asked for (R503-R507). -/
def execGetMeasurements (e : Endpoint) (req : List Byte) (s : State) : Out :=
  if endpointOn s e = false then .next s else
  let sign := bit (fieldAt req 2 1) 0
  match spdmCheck s e req 0xE0 (if sign then 45 else 12) 3 with
  | some c => .next (spdmErr s e c 0)
  | none =>
    let op := fieldAt req 3 1
    let seen := visible e
    if (op ≠ 0 ∧ op ≠ 0xFF ∧ seen.contains op = false) ∨ (sign = true ∧ fieldAt req 36 1 % 16 ≠ 0) then .next (spdmErr s e eInvalid 0)
    else
      let idx := if op = 0 then [] else if op = 0xFF then seen else [op]
      let rec0 := idx.flatMap (measureBlock s)
      let n := nonceBytes 4 s
      let body := spdmHead 0x60 (if op = 0 then seen.length else 0) 0 ++ leBytes 1 idx.length ++ leBytes 3 rec0.length ++ rec0 ++
        n.1 ++ leBytes 2 opaqueData.length ++ opaqueData ++ (req.drop (if sign then 37 else 4)).take 8
      let t := script n.2 e 2 ++ req ++ body
      if sign then
        let g := spdmSign n.2 (asciiBytes "responder-measurements signing") (script n.2 e 0 ++ t)
        .next (spdmSend (setScript g.2 e 2 []) e (body ++ g.1))
      else .next (spdmSend (setScript n.2 e 2 t) e body)

/-- Every other request (R503). -/
def execSpdmUnsupported (e : Endpoint) (req : List Byte) (s : State) : Out :=
  if endpointOn s e then .next (spdmErr s e eUnsupported (fieldAt req 1 1)) else .next s

end Sys2Proof.Machine
end

