-- ==== Sys2Proof/Machine/LoopOps.lean ====
section
/-! DEFINITION. The serving loop's parts (spec R209-R240): the configuration, output records, ends, sampling, a step's results,
provisioning and the batch. -/
namespace Sys2Proof.Machine

/-! The configuration (R209, R210). -/

/-- FP32 comparisons on codes; a NaN compares false. -/
def fLe (x y : W32) : Bool := !fIsNan x && !fIsNan y && !fAbove x y || decide (x &&& 0x7FFFFFFF = 0 ∧ y &&& 0x7FFFFFFF = 0)

/-- R209, R210: every field is in its range and the reserved ones are zero. -/
def configOk (b : List Byte) : Bool :=
  let u := fieldAt b
  let maxSeqs := u 0 2
  let chunk := u 2 2
  decide (1 ≤ maxSeqs ∧ maxSeqs ≤ 2048 ∧ 64 ≤ chunk ∧ chunk ≤ 4096 ∧ chunk % 64 = 0 ∧ maxSeqs + chunk ≤ u 4 4 ∧
    u 4 4 ≤ 16384 ∧ u 8 8 % 65536 = 0 ∧ u 8 8 < 2 ^ 48 ∧ u 20 1 < 8 ∧ 1 ≤ u 21 1 ∧ u 21 1 ≤ 8 ∧ 1 ≤ u 22 1 ∧
    u 22 1 ≤ 64 ∧ 1 ≤ u 23 1 ∧ u 23 1 ≤ 16 ∧ u 24 8 % 64 = 0 ∧ u 24 8 < 2 ^ 48 ∧ u 32 8 % 64 = 0 ∧ u 32 8 < 2 ^ 48 ∧
    u 44 1 ≤ 4 ∧ 10 ≤ u 45 1 ∧ u 45 1 ≤ 20 ∧ 1 ≤ u 46 1 ∧ u 46 1 ≤ 16) &&
  fLe (BitVec.ofNat 32 (u 40 4)) 0 && (b.drop 47).all (· == 0)

/-- Counter n of the status block goes up (R240). -/
def Service.count (v : Service) (n k : Nat) : Service := { v with counters := v.counters.set n (v.counters.getD n 0 + k) }

/-- Counters of the status block (R240), by index. -/
def scSteps : Nat := 0
def scTokens : Nat := 1
def scDeferred : Nat := 4
def scKvWaits : Nat := 5
def scSpilled : Nat := 6
def scReplays : Nat := 7
def scStateLost : Nat := 8
def scRefused : Nat := 9
def scNucleus : Nat := 10
def scOutWaits : Nat := 11
def scMisses : Nat := 12
def scExhausted : Nat := 13

def svcCount (s : State) (p sub n k : Nat) : State :=
  match getService s p sub with
  | some v => setService s (v.count n k)
  | none => s

/-! Requests. -/

/-- A list in the order of a number each member carries. -/
def byOrder {α : Type} (key : α → Nat) (rs : List α) : List α :=
  rs.foldl (fun acc r => acc.takeWhile (fun x => decide (key x ≤ key r)) ++ r :: acc.dropWhile (fun x => decide (key x ≤ key r))) []

def Req.bytes (r : Req) : Bool := bit r.flags 1
def Req.canReplay (r : Req) : Bool := bit r.flags 2
def Req.prefillOnly (r : Req) : Bool := bit r.flags 3
def Req.resumes (r : Req) : Bool := bit r.flags 4

/-- Tokens a prefill covers: the prompt, and under a replay all but the last token emitted (R218). -/
def Req.prefillLen (r : Req) : Nat := r.prompt.length + if r.replay then r.emitted.length - 1 else 0

/-! Output (R236-R239). -/

/-- A record of the output ring (R236). -/
def outBody (tag token index kind flags status : Nat) (bytes : List Byte) (phase : Nat) : List Byte :=
  leBytes 8 tag ++ leBytes 4 token ++ leBytes 4 index ++ leBytes 1 kind ++ leBytes 1 (flags + 128 * phase) ++
    leBytes 1 status ++ leBytes 1 bytes.length ++ bytes ++ List.replicate (12 - bytes.length) 0

/-- A request's record is written; it uses one that was reserved. -/
def outRecord (s : State) (id token kind flags status : Nat) (bytes : List Byte) : State :=
  match getReq s id with
  | none => s
  | some r =>
    let s := ringRecord s r.outRing (outBody r.tag token (if kind = 0 then r.emitted.length - 1 else r.emitted.length)
      kind flags status bytes) ⟨4, 0, r.tag, localRing s r.outRing⟩
    setReq s { r with reserved := r.reserved - 1 }

/-- Room on a request's output ring beyond what the others have reserved (R238). -/
def outRoom (s : State) (r : Req) : Nat :=
  let x := getRing s r.outRing
  let others := (s.reqs.filter (fun q => q.id != r.id && q.outRing == r.outRing)).map (·.reserved)
  x.size - ringGap x.tail x.head - others.foldl (· + ·) 0

/-- R239: the output ring can take no further record. -/
def outGone (s : State) (r : Req) : Bool :=
  let x := getRing s r.outRing
  x.state == rError || x.state == rDisabled || x.state == rDraining || x.kind != kOutput

/-- A token's byte string: the vocabulary table's entry gives its place and its length (R237). -/
def tokenBytes (b : Bundle) (t : Nat) : List Byte :=
  let e := (b.vocab.drop (8 * t)).take 8
  (b.strings.drop (fieldAt e 0 4)).take (min 36 (fieldAt e 4 1))

/-- The chunks of a token's byte string (R237). -/
def tokenChunks (v : Service) (r : Req) (t : Nat) : List (List Byte) :=
  if !r.bytes then [[]] else
  let b := tokenBytes v.bundle t
  [b.take 12] ++ (if 12 < b.length then [(b.drop 12).take 12] else []) ++ (if 24 < b.length then [b.drop 24] else [])

/-- R236, R237: one emitted token. -/
def emitToken (v : Service) (s : State) (id t : Nat) (last : Bool) : State :=
  match getReq s id with
  | none => s
  | some r =>
    let r := { r with emitted := r.emitted ++ [t] }
    let s := svcCount (setReq s r) r.part r.sub scTokens 1
    let cs := tokenChunks v r t
    ((List.range cs.length).zip cs).foldl (fun s c =>
      outRecord s id t 0 (b2n (decide (c.1 + 1 < cs.length)) + 2 * b2n last) 0 c.2) s

/-- R205, R214: a request ends: an open tree is cancelled, its entries and pages are free, and its completion record is
written. -/
def endReq (s : State) (r : Req) (status : Nat) : State :=
  let s := cancelTree s r.id
  match getService s r.part r.sub with
  | none => writeRecord { s with reqs := s.reqs.filter (fun x => x.id != r.id) } r.part r.ring 0 r.tag r.emitted.length 0 status 0
  | some v =>
    let s := dropAll s v r
    let s := { s with reqs := s.reqs.filter (fun x => x.id != r.id) }
    let s := setService s { v with spilling := v.spilling.filter (fun e => e.1 != r.id),
                                   ended := v.ended + (if status = 0x23 then 1 else 0) }
    writeRecord s r.part r.ring 0 r.tag r.emitted.length 0 status 0

/-- R214: a request ends with its FINAL record; one whose ring has no room waits for it (R238), one whose ring is gone
writes none (R239). -/
def finish (s : State) (id status stop : Nat) : State :=
  match getReq s id with
  | none => s
  | some r =>
    if outGone s r then
      endReq ((List.range r.reserved).foldl (fun s _ => fsat s .QE_RECORDS_LOST_COUNT 0) s) r 0x24
    else if outRoom s r = 0 then s
    else endReq (outRecord s id stop 1 0 status []) r status

/-! Sampling (R230, R232). -/

/-- R230 step 2: the repetition penalty on the tokens of a context. -/
def applyPenalty (r : Req) (ctx : List Nat) (ls : List W32) : List W32 :=
  let w := (if r.repWindow = 0 then ctx else ctx.drop (ctx.length - r.repWindow)).eraseDups
  w.foldl (fun ls t => match ls[t]? with
    | some l => ls.set t (if fAbove l 0 then fdiv l r.rep else fmul l r.rep)
    | none => ls) ls

/-- The longest prefix whose running sum stays below TOP_P, with the entry that reaches it; `false` where none does. -/
def nucleus (topP : W32) : W32 → List (Nat × W32) → List (Nat × W32) × Bool
  | _, [] => ([], false)
  | run, e :: es =>
    let run := fadd run e.2
    if fLe topP run then ([e], true) else
    let n := nucleus topP run es
    (e :: n.1, n.2)

/-- R230: the list of a position and whether it was cut at the sort window; none where every logit is NaN: after step 2 when
TEMP is 0, on l_max otherwise.  `ctx` is the prompt and the output before the position, a tree's path included (DEDUCED,
log 124); the order in which Z is summed is free (R56), drawn from `nonce`; the entries stand in the order of R192. -/
def positionList (r : Req) (ctx : List Nat) (logits : List W32) (nonce : Nat) : Option (List (Nat × W32) × Bool) :=
  let ls := logits.map (fun l => if l = f32inf then 0x7F7FFFFF else l)
  let ls := applyPenalty r ctx ls
  if r.temp &&& 0x7FFFFFFF = 0 then
    if ls.all fIsNan then none else some ((sortTop 1 ls).map (fun e => (e.1, f32one)), false)
  else
  let ls := ls.map (fun l => fdiv l r.temp)
  if ls.all fIsNan then none else
  let nums := ls.filter (fun l => !fIsNan l)
  let lmax := (nums.drop 1).foldl fmax (nums.headD 0)
  let terms := ls.map (fun l => if fIsNan l then 0 else fexp2 (fmul (fsub l lmax) log2eF))
  let z := freeSum nonce terms
  let top := sortTop (if r.topK = 0 then 1024 else r.topK) (terms.map (fun t => fdiv t z))
  let floor := fmul r.minP ((top.headD (0, 0)).2)
  let kept := top.filter (fun e => !fAbove floor e.2)
  let kept := if kept.isEmpty then top.take 1 else kept
  let n := nucleus r.topP 0 kept
  some (n.1, !n.2)

/-- The lists of a step's positions, with how many were cut at the sort window; none where every logit of one is NaN. -/
def positionLists (r : Req) : List (List Nat × List W32) → Nat → Option (List (List (Nat × W32)) × Nat)
  | [], _ => some ([], 0)
  | x :: xs, nonce =>
    match positionList r x.1 x.2 nonce, positionLists r xs (nonce + 1) with
    | some l, some ls => some (l.1 :: ls.1, b2n l.2 + ls.2)
    | _, _ => none

/-- R232: the token of output index i. -/
def drawToken (r : Req) (list : List (Nat × W32)) : Nat :=
  if r.temp &&& 0x7FFFFFFF = 0 then (list.headD (0, 0)).1 else
  let m := list.foldl (fun a e => fadd a e.2) 0
  let d := draw32 (r.seed + BitVec.ofNat 64 r.emitted.length) 0
  bonusPick (f32enc ((Num.fin false d (-32)).mul (f32dec m))) list 0 0

/-! Emission and end conditions (R195, R233). -/

/-- What ends a request at its newest token, if anything: the status and the stop entry. -/
def endOf (v : Service) (r : Req) : Option (Nat × Nat) :=
  let last := r.emitted.getLast?.getD 0
  if v.bundle.eos.contains last then some (0x02, 0) else
  match (List.range r.stops.length).find? (fun n => let x := r.stops.getD n []; x != [] && x.isSuffixOf r.emitted) with
  | some n => some (0x01, n)
  | none => if r.maxNew ≤ r.emitted.length then some (0x00, 0) else none

/-- The tokens of a step that are emitted: up to the first that ends the request (R195, R233). -/
def untilEnd (v : Service) (r : Req) : List Nat → List Nat × Option (Nat × Nat)
  | [] => ([], none)
  | t :: ts =>
    let r := { r with emitted := r.emitted ++ [t] }
    match endOf v r with
    | some e => ([t], some e)
    | none =>
      let x := untilEnd v r ts
      (t :: x.1, x.2)

/-- R233, R236: a step's tokens go out, and the request ends where one of them ends it. -/
def emitAll (v : Service) (s : State) (id : Nat) (ts : List Nat) : State :=
  match getReq s id with
  | none => s
  | some r =>
    let x := untilEnd v r ts
    let s := ((List.range x.1.length).zip x.1).foldl (fun s t => emitToken v s id t.2 (t.1 + 1 == x.1.length)) s
    match x.2 with
    | some e => finish s id e.1 e.2
    | none => s

/-! A step's results (R195, R201, R215, R218, R230-R235). -/

/-- A position without a tree: its token joins the history and goes out, or the request ends NUMERIC (R230, R232). -/
def sampleOut (v : Service) (s : State) (r : Req) (logits : List W32) : State :=
  let s' := { s with freeCtr := s.freeCtr + 1 }
  match positionList r (r.prompt ++ r.emitted) logits s.freeCtr with
  | none => finish s' r.id 0x22 0
  | some l =>
    let t := drawToken r l.1
    emitAll v (histAppend (svcCount s' r.part r.sub scNucleus (b2n l.2)) v r t) r.id [t]

def setSt (s : State) (id : Nat) (st : RState) : State :=
  match getReq s id with
  | some r => setReq s { r with st := st, replay := false }
  | none => s

/-- R184: the draft heads leave their list for the next BUILD. -/
def putDrafts (v : Service) (s : State) (r : Req) (x : StepResult) : State :=
  if r.speculates v && !x.drafts.isEmpty then loopStore s r (r.draftAt v) (x.drafts.take 2064) else s

/-- The rows that a step's WRITEs have put into list 0 whole; what a failed one lacks is noted (R235). -/
def writeRows (v : Service) (s : State) (r : Req) (jobs : List KvJob) (puts : List KvPut) :
    State × List (KvJob × Nat × Nat) :=
  let w := kvPuts v r jobs puts s
  (freshDone (noteFailures v w.1 r.id w.2) r.id, w.2)

def liveFailed (done : List (KvJob × Nat × Nat)) : Bool := done.any (fun d => d.1.list == 0 && d.2.1 != 0)

/-- Step 1 for a prefill chunk (R215, R218); one whose WRITEs fail is offered again (DESIGN CHOICE, log 124). -/
def prefillDone (v : Service) (s : State) (r : Req) (x : StepResult) : State :=
  let w := writeRows v s r (rangeJobs v r r.length r.rows) x.puts
  match getReq w.1 r.id with
  | none => w.1
  | some q =>
    let s := setReq w.1 { q with rows := 0 }
    if liveFailed w.2 then s else
    let n := r.length + r.rows
    let s := setLength s { q with rows := 0 } n
    if n < r.prefillLen then s
    else if r.replay then setSt s r.id .decode
    else match x.logits with
      | [] => s
      | l :: _ =>
        let s := putDrafts v s r x
        setSt (sampleOut v s { q with rows := 0, length := n } l) r.id (if r.prefillOnly then .exporting else .decode)

/-- Step 1 for a decode row (R195, R218, R232, R235). -/
def rowDone (v : Service) (s : State) (r : Req) (x : StepResult) : State :=
  let w := writeRows v s r (rangeJobs v r r.length 1) x.puts
  match getReq w.1 r.id, x.logits with
  | some q, l :: _ =>
    if liveFailed w.2 then w.1 else
    let s := putDrafts v (setLength w.1 q (r.length + 1)) r x
    sampleOut v s { q with length := r.length + 1 } l
  | _, _ => w.1

/-- The tokens on the path from a node's root to it, the root left out. -/
def nodePath (t : Tree) : Nat → Nat → List Nat
  | 0, _ => []
  | k + 1, i => if i = 0 then [] else nodePath t k (t.nodes.getD i (0, 0, 0)).2.1 ++ [t.token i]

/-- R192: the target list of a node, in its place. -/
def targetImage (l : List (Nat × W32)) : List Byte :=
  leBytes 2 l.length ++ List.replicate 14 0 ++ l.flatMap (fun e => leBytes 4 e.1 ++ leBytes 4 e.2.toNat)

/-- R201: the committed rows at depths CATCHUP[v] to K go to list v, where a page is there for them; an entry whose slot 0 one of
them takes is freed and made valid again first. -/
def catchupRows (v : Service) (s : State) (id : Nat) (base k : Nat) (catchup : List Nat) (puts : List KvPut) : State :=
  match getReq s id with
  | none => s
  | some r =>
    let span := fun w => ((List.range (k + 1)).filter (fun d => decide (catchup.getD w 255 ≤ d))).map (fun d => base + d)
    let s := (r.slots.filter (fun e => (span e.list).any (fun t =>
        let n := (perPages v.bundle).getD e.plane 0
        n != 0 && t % n == 0 && t / n == e.index))).foldl (fun s e =>
      let a := r.pte v e.list e.plane e.index
      let p := pteRead s r a
      ptePut (pteFree p.1 r a) r a p.2.1 (wayFlags e.list) 0) s
    let jobs := (List.range (r.lists v)).flatMap (fun w =>
      match span w with
      | [] => []
      | t :: ts => ((List.range (perPages v.bundle).length).zip (perPages v.bundle)).flatMap (fun x =>
          if x.2 = 0 then [] else rowJobs w x.1 t (ts.length + 1)))
    (writeRows v s r jobs puts).1

/-- Step 1 for a tree: its rows are written, its lists formed, ACCEPT taken, K chosen, COMMIT issued, and what it leaves written
again.  With a failed row K is 0 (R205); without its root's row in list 0 the sequence is one without pages (R235). -/
def treeDone (v : Service) (s : State) (r : Req) (x : StepResult) : State :=
  let t := treeRead s v r
  let tr := t.2
  let jobs := freshJobs v r ++ treeJobs v tr
  let w := writeRows v t.1 r jobs x.puts
  if w.2.any (fun d => d.1.list == 0 && d.1.first == tr.base && d.2.1 != 0 && d.2.2 == 0) || decide (x.logits.length < tr.n) then w.1
  else
  let ctxs := (List.range tr.n).map (fun i => (r.prompt ++ r.emitted ++ nodePath tr 17 i, x.logits.getD i []))
  let s := { w.1 with freeCtr := w.1.freeCtr + tr.n }
  match positionLists r ctxs w.1.freeCtr with
  | none => finish s r.id 0x22 0
  | some ls =>
    let s := svcCount s r.part r.sub scNucleus ls.2
    let s := ((List.range tr.n).zip ls.1).foldl (fun s e => loopStore s r (r.targetsAt v + tStride * e.1) (targetImage e.2)) s
    let a := blCall s v (acceptCmd v r)
    if a.2.1 ≠ 0 then a.1 else
    let rec_ := loopRead a.1 r (r.acceptAt v) 64
    let acc := fieldAt rec_.2 0 1
    let ts := (List.range acc).map (fun i => tr.token (fieldAt rec_.2 (8 + i) 1)) ++ [fieldAt rec_.2 4 4]
    let ts := if w.2.any (fun d => d.2.1 != 0) then ts.take 1 else ts
    let out := (untilEnd v r ts).1
    let k := out.length - 1
    let c := blCall rec_.1 v (commitCmd v r k)
    if c.2.1 ≠ 0 then c.1 else
    let done := loopRead c.1 r (r.acceptAt v + 24) 8
    match getReq done.1 r.id with
    | none => done.1
    | some q =>
      let s := setLength done.1 { q with tree := false } (tr.base + k + 1)
      let s := catchupRows v s r.id tr.base k (done.2.map BitVec.toNat) (x.puts.drop jobs.length)
      emitAll v (putDrafts v s r x) r.id out

/-- A launch of a step has not come to its end. -/
def stepRuns (s : State) (v : Service) : Bool :=
  s.launches.any (fun l => v.launched.contains l.id && !l.refused && !l.finished)

/-- A launch of a step was refused, or a core of it did not end: the step is discarded (R557). -/
def stepFaulted (s : State) (v : Service) : Bool :=
  s.launches.any (fun l => v.launched.contains l.id && (l.refused || l.cores.any (fun c => c.2 != .ended)))

/-- The requests of a batch. -/
def batch (s : State) (p sub : Nat) : List Req := (reqsOf s p sub).filter (fun r => decide (0 < r.rows))

/-- R216 step 1: the results of a step; those of a cancelled or lost request, of one whose output ring is gone, and all those of
a faulted step are discarded (R229, R234, R239, R557). -/
def stepOne (s : State) (v : Service) (results : List (Nat × StepResult)) : State :=
  let res := fun (r : Req) => ((results.find? (fun e => (s.reqs[e.1]?).any (fun q => q.id == r.id))).map (·.2)).getD ⟨[], [], [], false⟩
  let bad := stepFaulted s v
  let done := (batch s v.part v.sub).foldl (fun t r =>
    let x := res r
    let q := { r with rows := 0, lost := r.lost || x.lost }
    if bad || r.cancel || q.lost || outGone t r then setReq t q
    else if r.st = .prefill then prefillDone v t r x
    else if r.tree then treeDone v (setReq t q) q x
    else rowDone v (setReq t q) q x) s
  { done with launches := done.launches.filter (fun l => !v.launched.contains l.id) }

/-! Pages (R221-R225, R347). -/

/-- The entries that a decoding request's next step needs: list 0 at its row, or, with a tree, every list from BASE to
BASE + DEPTH (R196, R221). -/
def stepSlots (v : Service) (r : Req) (tree : Bool) : List (Nat × Nat × Nat) :=
  if tree then (List.range (r.lists v)).flatMap (fun w => spanSlots v w r.length (r.length + v.depth))
  else spanSlots v 0 r.length r.length

/-- R223: the nodes of the largest tree, the row without a tree included, whose entries the free pages cover: BUILD's DEPTH does
not depend on NODES, so a tree fits whole or not at all. -/
def fitNodes (s : State) (v : Service) (r : Req) : Option Nat :=
  let fits := fun tree => decide ((lacking r (stepSlots v r tree)).length ≤ freeCount s v)
  if r.speculates v && decide (1 < v.nodes) && fits true then some v.nodes
  else if fits false then some 1 else none

/-- The newest page index of list 0. -/
def newestIndex (r : Req) : Nat := ((r.slots.filter (fun e => e.list == 0)).map (·.index)).foldl max 0
/-- A page group: page index i in every plane of list 0. -/
def groupOf (r : Req) (i : Nat) : List Slot := r.slots.filter (fun e => e.list == 0 && e.index == i)

/-- R224: a group is spillable: every page full, none provisional, none spilled. -/
def groupFull (v : Service) (s : State) (r : Req) (es : List Slot) : State × Bool :=
  es.foldl (fun x e =>
    let p := pteRead x.1 r (r.pte v e.list e.plane e.index)
    (p.1, x.2 && e.spill.isNone && !bit p.2.2.2.1 2 && p.2.2.2.2 == (perPages v.bundle).getD e.plane 0)) (s, !es.isEmpty)

/-- The spillable groups of a request, lowest index first, by index and pages. -/
def spillable (v : Service) (s : State) (r : Req) : State × List (Nat × Nat) :=
  ((List.range (newestIndex r + 1)).filter (fun i => decide (i + v.hotPages ≤ newestIndex r))).foldl (fun x i =>
    let g := groupFull v x.1 r (groupOf r i)
    (g.1, if g.2 then x.2 ++ [(i, (groupOf r i).length)] else x.2)) (s, [])

/-- The extents that spilled groups may use: listed, granted and inside the lent extent (R352). -/
def usable (s : State) (v : Service) : List (Nat × Nat × Nat) :=
  match slotOf s v.part v.sub with
  | none => []
  | some i => v.extents.filter (fun e =>
      match regionOf e.2.1, regionOf (e.2.1 + 65536 * e.2.2 - 1) with
      | .hbm k, .hbm j => k == j && s.lentExt.contains (fget s .COMP_CONSIST_ID_ID i, e.1, k) && !v.recalled.contains (e.1, k)
      | _, _ => false)

/-- The places for a page in the usable extents that no page of the service lies in. -/
def tierRoom (s : State) (v : Service) : List (Nat × Nat) :=
  let used := (reqsOf s v.part v.sub).flatMap (fun r => r.slots.filterMap (fun e => e.spill.map (fun x => (x.1, x.2.1))))
  (usable s v).flatMap (fun e => (List.range e.2.2).filterMap (fun k =>
    let a := e.2.1 + 65536 * k
    if used.contains (e.1, a) then none else some (e.1, a)))

/-- Groups to spill, lowest index first, until n pages are free, as far as the tier has room. -/
def enoughSpill (n : Nat) : Nat → Nat → List (Nat × Nat) → List Nat
  | _, _, [] => []
  | free, room, g :: gs => if n ≤ free ∨ room < g.2 then [] else g.1 :: enoughSpill n (free + g.2) (room - g.2) gs

/-- R215, R223: a request enters KV_WAIT; it keeps its pages and leaves the batch. -/
def kvWaitEnter (s : State) (r : Req) : State :=
  let n := s.nextId
  let s := setReq { s with nextId := n + 1 } { r with st := .kvWait, outWait := false, nodes := 0, waitNo := n }
  outRecord (svcCount s r.part r.sub scKvWaits 1) r.id 0 2 0 0x30 []

/-- R223: a running request is provisioned for its next step, sheds demand, begins to spill or enters KV_WAIT. -/
def provision (order : List Nat) (s : State) (id : Nat) : State :=
  match getReq s id with
  | none => s
  | some r =>
    match getService s r.part r.sub with
    | none => s
    | some v =>
      if r.st ≠ .decode then s else
      match fitNodes s v r with
      | some n =>
        let r := { r with nodes := n }
        provide (setReq s r) v r (stepSlots v r (decide (1 < n))) order
      | none =>
        let g := spillable v s r
        let gs := if v.tier = 0 then [] else
          enoughSpill (lacking r (stepSlots v r false)).length (freeCount s v) (tierRoom s v).length g.2
        if gs.isEmpty then kvWaitEnter g.1 r
        else setService g.1 { v with spilling := v.spilling ++ gs.map (fun i => (id, i)) }

/-- R222: running requests are provisioned in admission order, until one must spill. -/
def provisionAll (p sub : Nat) (order : List Nat) : List Nat → State → State
  | [], s => s
  | id :: ids, s =>
    let s := provision order s id
    match getService s p sub with
    | some v => if v.spilling.isEmpty then provisionAll p sub order ids s else s
    | none => s

/-- R222 step 3: requests in KV_WAIT, oldest entry first. -/
def wakeKv (order : List Nat) (s : State) (id : Nat) : State :=
  match getReq s id with
  | none => s
  | some r =>
    match getService s r.part r.sub with
    | none => s
    | some v =>
      if (lacking r (stepSlots v r false)).length ≤ freeCount s v ∧ 0 < outRoom s r then
        let r := { r with st := .decode, nodes := 1 }
        outRecord (provide (setReq s r) v r (stepSlots v r false) order) id 0 2 0 0x31 []
      else s

/-! Joins (R221, R222). -/

/-- The last position whose group a join needs. -/
def joinEnd (r : Req) : Nat :=
  if r.resumes || r.replay then r.prompt.length + r.emitted.length - 1 else r.prompt.length

/-- Joins are admitted in queue order, each whole; the first that cannot be stops admission.  `heap` is where their structures
go; a join whose places do not serve waits (DESIGN CHOICE, log 124). -/
def admitJoins (p sub : Nat) (order : List Nat) : List Nat → List Nat → State → State
  | [], _, s => s
  | id :: ids, heap, s =>
    match getReq s id, getService s p sub with
    | some r, some v =>
      let all := reqsOf s p sub
      let want := spanSlots v 0 0 (joinEnd r)
      let mine := heap.take (r.parts v).length
      if all.any (fun q => q.st == .kvWait) || decide (v.maxSeqs ≤ (all.filter Req.live).length) ||
          decide (freeCount s v < (lacking r want).length) || !heapOk s v r mine then setService s (v.count scDeferred 1)
      else
        let n := s.nextId
        let st := if r.resumes && !r.replay then RState.importing else .prefill
        let r := { r with st := st, length := 0, admitted := n, heap := mine, event := none }
        let s := setUp (setReq { s with nextId := n + 1 } r) v r
        admitJoins p sub order ids (heap.drop (r.parts v).length) (provide s v r want order)
    | _, _ => s

/-! The batch (R217, R220, R238). -/

/-- Records to reserve for a request that may emit (R238). -/
def reservation (v : Service) (r : Req) : Nat :=
  (if 1 < r.nodes then v.depth + 1 else 1) * (if r.bytes then 3 else 1) + 2

/-- A request reserves its records, or enters OUT_WAIT. -/
def reserve (s : State) (id : Nat) : State :=
  match getReq s id with
  | none => s
  | some r =>
    match getService s r.part r.sub with
    | none => s
    | some v =>
      if reservation v r ≤ outRoom s r then setReq s { r with reserved := reservation v r, outWait := false }
      else if r.outWait then s
      else setReq (setService s (v.count scOutWaits 1)) { r with outWait := true }

/-- R217: the nodes of every tree are lowered, one at a time, until the decode rows fit. -/
def lowerNodes (limit : Nat) : Nat → List Nat → List Nat
  | 0, ns => ns
  | k + 1, ns => if (ns.foldl (· + ·) 0) ≤ limit then ns else lowerNodes limit k (ns.map (fun n => max 1 (n - 1)))

/-- R217: a prefill chunk, while the rows fit. -/
def takeChunk (v : Service) (room : Nat) (r : Req) : Nat :=
  let n := min v.chunk (r.prefillLen - r.length)
  if n ≤ room then n else 0

/-- Prefill requests take one chunk each, in admission order, while the rows fit; a chunk that samples needs its
records (R217, R238). -/
def chunks (p sub : Nat) : List Nat → Nat → State → State
  | [], _, s => s
  | id :: ids, room, s =>
    match getReq s id, getService s p sub with
    | some r, some v =>
      let n := takeChunk v room r
      if n = 0 then s else
      let samples := !r.replay && r.length + n == r.prefillLen
      let s := if samples then reserve s id else setReq s { r with outWait := false }
      match getReq s id with
      | some r => if r.outWait then chunks p sub ids room s else chunks p sub ids (room - n) (setReq s { r with rows := n })
      | none => s
    | _, _ => s

/-- R215: a request in OUT_WAIT leaves it once its ring has room. -/
def outWake (v : Service) (s : State) (id : Nat) : State :=
  match getReq s id with
  | some r => if r.outWait && decide (reservation v r ≤ outRoom s r) then setReq s { r with outWait := false } else s
  | none => s

/-- R216 step 6: compose the batch: trees are lowered before records are reserved. -/
def composeBatch (s : State) (p sub : Nat) : State :=
  match getService s p sub with
  | none => s
  | some v =>
    let mine := byOrder (·.admitted) ((reqsOf s p sub).filter (fun r => r.st == .decode || r.st == .prefill))
    let s := mine.foldl (fun s r => setReq s { r with rows := 0, reserved := 0 }) s
    let s := (mine.map (·.id)).foldl (outWake v) s
    let now := (mine.map (·.id)).filterMap (getReq s)
    let run := now.filter (fun r => r.st == .decode && !r.outWait)
    let limit := if now.any (fun r => r.st == .prefill && !r.outWait) then v.stepTokens - v.chunk else v.stepTokens
    let ns := lowerNodes limit 64 (run.map (fun r => max 1 r.nodes))
    let s := (run.zip ns).foldl (fun s e => reserve (setReq s { e.1 with nodes := e.2 }) e.1.id) s
    let s := ((now.filter (fun r => r.st == .decode)).map (·.id)).foldl (fun s id =>
      match getReq s id with
      | some r => setReq s { r with rows := if r.outWait then 0 else r.nodes }
      | none => s) s
    let used := ((batch s p sub).map (·.rows)).foldl (· + ·) 0
    chunks p sub ((now.filter (fun r => r.st == .prefill)).map (·.id)) (v.stepTokens - used) s

/-- A refused part of the batch is taken out for this step. -/
def dropChunks (s : State) (p sub : Nat) : State :=
  ((batch s p sub).filter (fun r => r.st == .prefill)).foldl (fun s r => setReq s { r with rows := 0, reserved := 0 }) s
def dropTrees (s : State) (p sub : Nat) : State :=
  ((batch s p sub).filter (fun r => r.st == .decode)).foldl (fun s r => setReq s { r with rows := 1, nodes := 1 }) s

/-- R216 step 8 for one tree: BUILD; without it the request carries its row only. -/
def buildTree (v : Service) (s : State) (r : Req) : State :=
  let row := { r with rows := 1, nodes := 1 }
  if !blReadyFor s v.part then setReq s row else
  let b := blCall s v (buildCmd v r r.nodes)
  if b.2.1 ≠ 0 then setReq b.1 row
  else setReq b.1 { r with tree := true, rows := b.2.2 }

/-- R219, R468: one program of a step, on the first free cores; a step waits until there are enough. -/
def launchProg (v : Service) (s : State) (g : LoopProg) : State :=
  if ((consistCores s v.part v.sub).filter (coreFree s)).length < g.cores then { s with stalled := true } else
  let x := startLaunch s v.part v.sub g.image g.args g.cores (if g.label = 4 then 4 else 5) none
  match getService x.1 v.part v.sub with
  | some v => setService x.1 { v with launched := v.launched ++ [x.2] }
  | none => x.1

/-- R216 step 8: the trees are built and the step's programs launched. -/
def launchStep (s : State) (p sub : Nat) (plan : Plan) : State :=
  match getService s p sub with
  | none => s
  | some v =>
    let s := ((batch s p sub).filter (fun r => r.st == .decode && decide (1 < r.nodes))).foldl (buildTree v) s
    let s := setService s { v.count scSteps 1 with inStep := true, step := v.step + 1, waitGrant := none, launched := [] }
    plan.progs.foldl (launchProg v) s

/-- One attempt of R220's ladder. -/
def attempt (s : State) (p sub phase : Nat) (ask : Nat × Nat) : Bool × State :=
  match slotOf s p sub with
  | none => (true, s)
  | some i =>
    let r := grantRequest s i phase ask.1 ask.2
    (r.1, if r.1 then r.2 else svcCount r.2 p sub scRefused 1)

def waitFor (s : State) (p sub n : Nat) : State :=
  match getService s p sub with
  | some v => setService s { v with waitGrant := some n }
  | none => s

/-- R220: decode rows only. -/
def ladder3 (s : State) (p sub : Nat) (plan : Plan) : State :=
  let a := attempt s p sub 1 (plan.asks.getD 2 (0, 0))
  if a.1 then launchStep a.2 p sub plan else waitFor a.2 p sub 3

def ladder2 (s : State) (p sub : Nat) (plan : Plan) : State :=
  if (batch s p sub).any (fun r => decide (1 < r.nodes) && r.st == .decode) then
    let a := attempt s p sub 2 (plan.asks.getD 1 (0, 0))
    if a.1 then launchStep a.2 p sub plan else ladder3 (dropTrees a.2 p sub) p sub plan
  else ladder3 s p sub plan

/-- R220: the ladder of grants; no rows are an IDLE_GAP notice. -/
def ladder (s : State) (p sub : Nat) (plan : Plan) : State :=
  let b := batch s p sub
  if b.isEmpty then { s with hints := s.hints ++ [⟨p, 3, 0, (plan.asks.getD 3 (0, 0)).2, s.now⟩] }
  else if b.any (fun r => r.st == .prefill) then
    let a := attempt s p sub 0 (plan.asks.getD 0 (0, 0))
    if a.1 then launchStep a.2 p sub plan
    else if b.all (fun r => r.st == .prefill) then waitFor a.2 p sub 1
    else ladder2 (dropChunks a.2 p sub) p sub plan
  else ladder2 s p sub plan

end Sys2Proof.Machine
end

