-- ==== Sys2Proof/Machine/LoopX.lean ====
section
/-! DEFINITION. The commands of the serving loop (spec R208-R240, R347, R352-R356, R401). -/
namespace Sys2Proof.Machine

/-! Starting and stopping (R208-R210, R401). -/

/-- R352: the extents of the shared-tier descriptor; a descriptor that is none lists nothing. -/
def readTier (s : State) (w : Who) (a : Nat) : State × List (Nat × Nat × Nat) :=
  if a = 0 then (s, []) else
  let h := fwRead s w a 64
  let n := fieldAt h.2.1 4 2
  if fieldAt h.2.1 0 4 ≠ 0x54494552 ∨ n = 0 ∨ 256 < n then (h.1, []) else
  let b := fwRead h.1 w (a + 64) (16 * n)
  (b.1, (List.range n).filterMap (fun i =>
    let dev := fieldAt b.2.1 (16 * i) 2
    let pages := fieldAt b.2.1 (16 * i + 4) 4
    let base := fieldAt b.2.1 (16 * i + 8) 8
    if dev < 1024 ∧ 0 < pages ∧ base % 65536 = 0 ∧ base < 2 ^ 48 then some (dev, base, pages) else none))

/-- R240: the status block. -/
def statusBlock (s : State) (p sub : Nat) : State :=
  match getService s p sub with
  | none => s
  | some v =>
    let rs := reqsOf s p sub
    let live := (rs.filter Req.live).length + 2 ^ 32 * (rs.filter (fun r => r.st == .kvWait)).length
    let ws := (List.range 14).map (fun n => if n = 2 then live else if n = 3 then freeCount s v else v.counters.getD n 0)
    ((List.range 14).zip ws).foldl (fun s e => fwWord s (loopWho s p sub) (v.u 32 8 + 8 * e.1) e.2) s

/-- R204, R210: the loop's branch pool is set. -/
def setPool (s : State) (p sub : Nat) (cfg : List Byte) : State :=
  if bit (fieldAt cfg 20 1) 0 then
    let s := fset s .BL_POOL_BASE_ADDR (4 * p + sub) (fieldAt cfg 8 8 / 65536)
    fset s .BL_POOL_SIZE_PAGES (4 * p + sub) (fieldAt cfg 16 4)
  else s

/-- SERVE starts the loop of a consist, or refuses.  Where several refusals apply, NO_CONSIST comes first, then RUNNING, then
BAD_CONFIG, then MODEL_UNSUPPORTED: the spec gives no order (DESIGN CHOICE, log 124). -/
def serveCmd (s : State) (c : Cmd) (b : Bundle) : State :=
  let p := c.part
  let sub := c.arg 2 % 4
  match slotOf s p sub with
  | none => endCmd s c 0 4 0 0
  | some i =>
    if slotState' s i = ctDissolving then endCmd s c 0 4 0 0
    else if (getService s p sub).isSome then endCmd s c 0 3 0 0
    else
      let r := fwRead s (loopWho s p sub) (c.arg 1) 64
      let s := r.1
      if c.arg 1 % 64 ≠ 0 ∨ configOk r.2.1 = false then endCmd s c 0 1 0 0
      else if !bundleOk b then endCmd s c 0 2 0 0
      else
        let s := setPool s p sub r.2.1
        let t := readTier s (loopWho s p sub) (fieldAt r.2.1 24 8)
        let v : Service :=
          { part := p, sub := sub, bundle := b, cfg := r.2.1, step := 0, inStep := false, launched := [],
            counters := List.replicate 14 0, extents := t.2, reread := false, recalled := [], rebind := none,
            stopping := none, ended := 0, spilling := [], waitGrant := none }
        let s := (List.range 14).foldl (fun s n => fwWord s (loopWho s p sub) (fieldAt r.2.1 32 8 + 8 * n) 0) t.1
        endCmd { s with services := s.services ++ [v] } c 0 0 0 0

/-- R208, R210, R400. -/
def execServe (i : Nat) (bundle : Bundle) (s : State) : Out :=
  patient s (fun s => runCmd s i 0x03 (fun s c => serveCmd s c bundle))

/-- R356, R401: STOP tells the loop, and completes when it has stopped. -/
def execStop (i : Nat) (s : State) : Out :=
  runCmd s i 0x04 (fun s c =>
    match getService s c.part (c.arg 0 % 4) with
    | none => endCmd s c 0 1 0 0
    | some v =>
      let old := v.stopping.getD (true, [])
      setService s { v with stopping := some (bit (c.arg 0) 8 && old.1, old.2 ++ [c.id]) })

/-- The loop has stopped: its STOPs complete with the requests that they ended. -/
def serviceEnd (s : State) (v : Service) : State :=
  let s := { s with services := s.services.filter (fun x => !(x.part == v.part && x.sub == v.sub)) }
  ((v.stopping.map (·.2)).getD []).foldl (fun s id =>
    match getCmd s id with
    | some c => endCmd s c 0 0 v.ended 0
    | none => s) s

/-! Intake (R211-R213, R234). -/

/-- R212: the reserved fields of an extension are zero and its stop entries are in range. -/
def extOk (e : List Byte) : Bool :=
  let n := fieldAt e 0 1
  decide (n ≤ 8) && fieldAt e 1 1 == 0 && bits (fieldAt e 16 8) 10 6 == 0 && decide (fieldAt e 16 8 < 2 ^ 48) &&
  fieldAt e 24 8 == 0 && (List.range n).all (fun k =>
    let l := fieldAt e (32 + 64 * k) 1
    decide (1 ≤ l ∧ l ≤ 15) && fieldAt e (33 + 64 * k) 3 == 0)

def tokensOf (b : List Byte) (n : Nat) : List Nat := (List.range n).map (fun k => fieldAt b (4 * k) 4)

/-- The request a SUBMIT descriptor asks for, with its prompt, extension and emitted tokens. -/
def reqOf (s : State) (q : Intake) (out : Nat) (prompt ext emitted : List Byte) : Req :=
  let d := q.desc
  let w := fun o => BitVec.ofNat 32 (fieldAt d o 4)
  let resume := bit (fieldAt d 1 1) 4
  { id := s.nextId, ring := q.ring, part := q.part, sub := (getRing s q.ring).sub, tag := fieldAt d 8 8,
    flags := fieldAt d 1 1, topK := fieldAt d 2 2, maxNew := fieldAt d 36 4, temp := w 40, topP := w 44, minP := w 48,
    rep := w 52, seed := BitVec.ofNat 64 (fieldAt d 56 8), outRing := out, prompt := tokensOf prompt (fieldAt d 4 4),
    stops := (List.range (fieldAt ext 0 1)).map (fun k => tokensOf (ext.drop (36 + 64 * k)) (fieldAt ext (32 + 64 * k) 1)),
    repWindow := fieldAt ext 2 2, emitted := if resume then tokensOf emitted (fieldAt ext 4 4) else [],
    extDev := fieldAt ext 16 2 % 1024, extAddr := fieldAt ext 16 8 / 65536 * 65536, st := .queued, outWait := false,
    length := 0, rows := 0, nodes := 1, reserved := 0, slots := [], pages := [], heap := [], tree := false, admitted := 0,
    waitNo := 0, cancel := false, outLost := false, lost := false, event := none, replay := false }

/-- R211: the fields of a SUBMIT are in range; `tier` says whether the service has one bound. -/
def submitOk (d ext : List Byte) (outOk tier : Bool) : Bool :=
  let u := fieldAt d
  let w := fun o => BitVec.ofNat 32 (fieldAt d o 4)
  let fl := u 1 1
  let pos := fun (x : W32) => fAbove x 0
  outOk && decide (u 0 1 = 1 ∧ fl < 64 ∧ u 2 2 ≤ 1024 ∧ 1 ≤ u 4 4 ∧ 1 ≤ u 36 4 ∧ u 32 4 < 2 ^ 18 ∧ u 24 8 % 64 = 0) &&
  fLe 0 (w 40) && pos (w 44) && fLe (w 44) f32one && fLe 0 (w 48) && fLe (w 48) f32one && pos (w 52) &&
  (u 24 8 == 0 || extOk ext) && !(bit fl 4 && (u 24 8 == 0 || fieldAt ext 4 4 == 0)) && !(bit fl 3 && bit fl 4) &&
  !((bit fl 3 || bit fl 4) && !tier)

/-- R213: what a SUBMIT ends with at once, if anything. -/
def submitStatus (s : State) (r : Req) (d ext : List Byte) (outOk : Bool) : Option Nat :=
  let v := getService s r.part r.sub
  let stops := match v with
    | none => true
    | some x => x.stopping.isSome
  if !submitOk d ext outOk ((v.map (fun x => x.tier != 0)).getD true) then some 0x10
  else if (match v with
      | some x => decide (x.bundle.limit < r.prompt.length + r.maxNew) ||
          decide (x.poolPages < bundlePages x.bundle (r.prompt.length + r.maxNew))
      | none => false) then some 0x11
  else if s.reqs.any (fun q => q.ring == r.ring && q.tag == r.tag) then some 0x12
  else if stops then some 0x23
  else none

/-- What a SUBMIT names, read from device memory (R211, R212): the prompt, the extension, the emitted tokens. -/
def readRequest (s : State) (w : Who) (d : List Byte) : State × List Byte × List Byte × List Byte :=
  let p := fwRead s w (fieldAt d 16 8 % 2 ^ 48) (4 * fieldAt d 4 4)
  if fieldAt d 24 8 = 0 then (p.1, p.2.1, [], []) else
  let e := fwRead p.1 w (fieldAt d 24 8 % 2 ^ 48) 32
  let x := fwRead e.1 w ((fieldAt d 24 8 + 32) % 2 ^ 48) (64 * min 8 (fieldAt e.2.1 0 1))
  if bit (fieldAt d 1 1) 4 then
    let t := fwRead x.1 w (fieldAt e.2.1 8 8 % 2 ^ 48) (4 * fieldAt e.2.1 4 4)
    (t.1, p.2.1, e.2.1 ++ x.2.1, t.2.1)
  else (x.1, p.2.1, e.2.1 ++ x.2.1, [])

/-- The ring ID that a request descriptor's OUT_RING names (R211). -/
def outRing (d : List Byte) : Nat := fieldAt d 32 4 % 2 ^ 18

/-- R211, R213: OUT_RING is an output ring of partition p's function, not disabled, that holds 64 records or more. -/
def outValid (s : State) (p : Nat) (d : List Byte) : Bool :=
  let x := getRing s (outRing d)
  decide (fieldAt d 32 4 < 2 ^ 18) && (ringPart s (outRing d)).map (funcOf s) == some (funcOf s p) &&
    x.kind == kOutput && x.state != rDisabled && decide (64 ≤ x.size)

/-- A SUBMIT with all it names at hand; `fail` is the status of a host read that failed (R405). -/
def submit (s : State) (q : Intake) (prompt ext emitted : List Byte) (fail : Option Nat) : Option State :=
  let d := q.desc
  let outOk := outValid s q.part d
  let r := reqOf s q (outRing d) prompt ext emitted
  let refused := match fail with
    | some st => some st
    | none => submitStatus s r d ext outOk
  let s := { s with nextId := s.nextId + 1 }
  match refused with
  | none => some { s with reqs := s.reqs ++ [r] }
  | some st =>
    if !outOk then some (writeRecord s q.part q.ring 0 r.tag 0 0 st 0)
    else
      let t := finish { s with reqs := s.reqs ++ [r] } r.id st 0
      if (getReq t r.id).isSome then none else some t

/-- R211: the i-th fetched request descriptor has left the intake, and its data is at hand: with HOST set, the bytes that the
host reads brought, and else those it names in device memory. -/
def submitData (s : State) (i : Nat) (q : Intake) (prompt ext emitted : List Byte) :
    State × List Byte × List Byte × List Byte :=
  let s := { s with intake := s.intake.eraseIdx i }
  if bit (fieldAt q.desc 1 1) 5 then
    (meter s q.part false mHost (lineUnits prompt.length + lineUnits ext.length + lineUnits emitted.length),
      prompt, ext, emitted)
  else readRequest s (loopWho s q.part (getRing s q.ring).sub) q.desc

/-- R213: the i-th fetched request descriptor, a SUBMIT, is validated.  With HOST set, `prompt`, `ext` and `emitted` are
what the host reads bring, and `fail` the status where one fails. -/
def execSubmit (i : Nat) (prompt ext emitted : List Byte) (fail : Option Nat) (s : State) : Out :=
  patient s (fun s => match s.intake[i]? with
  | none => .next s
  | some q =>
    if fieldAt q.desc 0 1 = 2 then .next s else
    let s0 := s
    let host := bit (fieldAt q.desc 1 1) 5
    let r := submitData s i q prompt ext emitted
    let s := match fail with
      | some st => if host then recordFault r.1 (funcOf r.1 q.part) (fieldAt q.desc 16 8) (if st = 0x43 then 1 else 2) 0
          ⟨4, 0, fieldAt q.desc 8 8, localRing r.1 q.ring⟩ else r.1
      | none => r.1
    match submit s q r.2.1 r.2.2.1 r.2.2.2 (if host then fail else none) with
    | some t => .next t
    | none => .next s0)

/-- R234: the i-th fetched request descriptor, a CANCEL: it marks the live requests with its TAG, or counts a miss, and has no
record of its own; one with a field that is not zero ends BAD_REQUEST (DESIGN CHOICE, log 73). -/
def execRequestCancel (i : Nat) (s : State) : Out :=
  match s.intake[i]? with
  | none => .next s
  | some q =>
    if fieldAt q.desc 0 1 ≠ 2 then .next s else
    let tag := fieldAt q.desc 8 8
    let s := { s with intake := s.intake.eraseIdx i }
    if !((q.desc.drop 1).take 7).all (· == 0) || !(q.desc.drop 16).all (· == 0) then
      .next (writeRecord s q.part q.ring 0 tag 0 0 0x10 0)
    else
      let hit := fun (r : Req) => r.ring == q.ring && r.tag == tag
      if s.reqs.any hit then .next { s with reqs := s.reqs.map (fun r => if hit r then { r with cancel := true } else r) }
      else .next (svcCount s q.part (getRing s q.ring).sub scMisses 1)

/-! The shared tier (R224, R227-R229, R354). -/

/-- A Chervil channel of a loop writes to a device (R372, R380; label 2 under R468). -/
def tierWrite (s : State) (v : Service) (dev a : Nat) (bs : List Byte) (peers : Peers) : State × Bool × Peers :=
  let w := loopChv s v.part v.sub
  peerWrite s w (taskClass s w 2) dev a bs peers

def tierRead (s : State) (v : Service) (dev a n : Nat) (peers : Peers) : State × Option (List Byte) × Peers :=
  let w := loopChv s v.part v.sub
  peerRead s w (taskClass s w 2) dev a n peers

/-- A page of this device, as a channel reads and writes it. -/
def pageBytes (s : State) (v : Service) (a : Nat) : State × List Byte :=
  let r := devRead s (loopChv s v.part v.sub) a 65536
  (r.1, r.2.1)
def pagePut (s : State) (v : Service) (a : Nat) (bs : List Byte) : State := devWrite s (loopChv s v.part v.sub) a bs

def loseReq (s : State) (id : Nat) : State :=
  match getReq s id with
  | some r => setReq s { r with lost := true }
  | none => s

/-- R224: copies of pages to their places on the tier; false where one is not acknowledged. -/
def copyOut (v : Service) (r : Req) : List (Slot × (Nat × Nat)) → State → Peers → State × Bool × Peers
  | [], s, ps => (s, true, ps)
  | x :: xs, s, ps =>
    let p := pteRead s r (r.pte v x.1.list x.1.plane x.1.index)
    let b := pageBytes p.1 v p.2.1
    let w := tierWrite b.1 v x.2.1 x.2.2 b.2 ps
    if w.2.1 then copyOut v r xs w.1 w.2.2 else (w.1, false, w.2.2)

/-- R146, R224: the entry of a page whose copy is done: PAGE, DEV and SPILLED, its local page free. -/
def spillSlot (v : Service) (no : Nat) (s : State) (id : Nat) (x : Slot × (Nat × Nat)) : State :=
  match getReq s id with
  | none => s
  | some r =>
    let a := r.pte v x.1.list x.1.plane x.1.index
    let p := pteRead s r a
    let s := ptePut p.1 r a x.2.2 3 x.2.1
    setReq s { r with
      slots := r.slots.map (fun e => if e = x.1 then { e with spill := some (x.2.1, x.2.2, no) } else e),
      pages := r.pages.filter (· != (p.2.1 - v.poolBase) / 65536) }

/-- R224, R229: a group spills: its local pages are free, or, where the tier did not answer, its request's state is
unreachable; a tier that has no room any more leaves it where it is. -/
def spillGroup (s : State) (v : Service) (id i : Nat) (peers : Peers) : State :=
  match getReq s id with
  | none => s
  | some r =>
    let es := groupOf r i
    let room := tierRoom s v
    if room.length < es.length then s else
    let c := copyOut v r (es.zip room) s peers
    if !c.2.1 then loseReq c.1 id else
    let s := (es.zip room).foldl (fun s x => spillSlot v s.nextId s id x) c.1
    svcCount { s with nextId := s.nextId + 1 } v.part v.sub scSpilled es.length

/-- R354: pages of a group that lie on a slice come back into free pages, as far as there are enough for it. -/
def copyBack (v : Service) (id : Nat) (order : List Nat) : List Slot → State → Peers → State × Peers
  | [], s, ps => (s, ps)
  | e :: es, s, ps =>
    match getReq s id, e.spill, freePages s v order with
    | some r, some x, n :: _ =>
      let b := tierRead s v x.1 x.2.1 65536 ps
      match b.2.1 with
      | none => (loseReq b.1 id, b.2.2)
      | some bs =>
        let page := v.poolBase + 65536 * n
        let s := ptePut (pagePut b.1 v page bs) r (r.pte v e.list e.plane e.index) page 1 0
        let s := setReq s { r with slots := r.slots.map (fun y => if y = e then { y with spill := none } else y), pages := r.pages ++ [n] }
        copyBack v id order es s b.2.2
    | _, _, _ => (s, ps)

/-- Groups, by request and index, come back in order until the free pages do not cover one (R354). -/
def bringAll (v : Service) (on : Slot → Bool) (order : List Nat) : List (Nat × Nat) → State → Peers → State × Peers
  | [], s, ps => (s, ps)
  | x :: xs, s, ps =>
    match getReq s x.1 with
    | none => bringAll v on order xs s ps
    | some r =>
      let es := (groupOf r x.2).filter on
      if freeCount s v < es.length then (s, ps) else
      let c := copyBack v x.1 order es s ps
      bringAll v on order xs c.1 c.2

/-- R353, R354: the groups on a recalled slice come back, oldest spill first; an empty slice is reported RECALLED. -/
def recallOne (p sub : Nat) (order : List Nat) (c : State × Peers) (x : Nat × Nat) : State × Peers :=
  let on := fun (e : Slot) => e.spill.any (fun y => y.1 == x.1 && y.2.1 / sliceBytes == x.2)
  let mine := fun (s : State) => (reqsOf s p sub).flatMap (fun r => (r.slots.filter on).map (fun e =>
    ((e.spill.map (·.2.2)).getD 0, r.id, e.index)))
  match getService c.1 p sub, slotOf c.1 p sub with
  | some v, some i =>
    let c := bringAll v on order ((byOrder Prod.fst (mine c.1)).map (·.2)).eraseDups c.1 c.2
    if !(mine c.1).isEmpty then c else
    let s := setService c.1 { v with recalled := v.recalled.filter (· != x) }
    (composerMsg s v i cmRecalled [BitVec.ofNat 32 x.2, BitVec.ofNat 32 x.1], c.2)
  | _, _ => c

/-- R345 step 3: a page in a slice that a REBIND removes moves to a free page. -/
def reshardSlot (v : Service) (order : List Nat) (s : State) (x : Nat × Slot) : State :=
  match getReq s x.1, freePages s v order with
  | some r, n :: _ =>
    if x.2.spill.isSome then s else
    let a := r.pte v x.2.list x.2.plane x.2.index
    let p := pteRead s r a
    if !((v.rebind.map (·.2)).getD []).contains (p.2.1 / sliceBytes) then p.1 else
    let b := pageBytes p.1 v p.2.1
    let page := v.poolBase + 65536 * n
    let s := ptePut (pagePut b.1 v page b.2) r a page p.2.2.2.1 0
    setReq s { r with pages := r.pages.filter (· != (p.2.1 - v.poolBase) / 65536) ++ [n] }
  | _, _ => s

def reshard (s : State) (v : Service) (order : List Nat) : State :=
  if v.rebind.isNone then s else
  ((reqsOf s v.part v.sub).flatMap (fun r => r.slots.map (fun e => (r.id, e)))).foldl (reshardSlot v order) s

/-! The boundary (R216). -/

/-- R229: a request's KV state is to be computed again. -/
def replayReq (s : State) (r : Req) : State :=
  if outRoom s r = 0 then s else
  let s := svcCount (outRecord s r.id 0 2 0 0x32 []) r.part r.sub scReplays 1
  match getReq s r.id, getService s r.part r.sub with
  | some r, some v =>
    let s := dropAll s v r
    let s := setService s { v with spilling := v.spilling.filter (fun e => e.1 != r.id) }
    { s with reqs := { r with st := .queued, slots := [], pages := [], heap := [], length := 0, rows := 0, nodes := 1,
                              outWait := false, lost := false, event := none, replay := true } ::
                      s.reqs.filter (fun x => x.id != r.id) }
  | _, _ => s

/-- R215, R227, R228: what the end of a transfer of a request's image does at the boundary. -/
def imageEnded (s : State) (r : Req) : State :=
  match r.event, r.st with
  | some .mismatch, .importing => finish s r.id 0x13 0
  | some .done, .importing =>
    setLength s { r with st := .decode, event := none } (r.prompt.length + r.emitted.length - 1)
  | some .done, .exporting => finish s r.id 0x04 0
  | _, _ => s

/-- R216 step 2 for one request: an open tree is cancelled (R205, R557), and what makes the request leave is acted on, in this
order (DESIGN CHOICE, log 74). -/
def leave (s : State) (v : Service) (id : Nat) : State :=
  let s := cancelTree s id
  match getReq s id with
  | none => s
  | some r =>
    if outGone s r then finish s id 0x24 0
    else if r.cancel then finish s id 0x03 0
    else if (r.lost || r.event == some .lost) && r.st != .queued && r.st != .prefill then
      if r.canReplay then replayReq s r
      else
        let t := finish s id 0x20 0
        if (getReq t id).isNone then svcCount t r.part r.sub scStateLost 1 else t
    else if r.event.isSome then imageEnded s r
    else match v.stopping with
      | some (false, _) => finish s id 0x23 0
      | some (true, _) => if (reqsOf s v.part v.sub).all (fun q => !q.live) then finish s id 0x23 0 else s
      | none => s

/-- R226: with every request that has begun in KV_WAIT, the most recently admitted one ends. -/
def deadlockBreak (s : State) (p sub : Nat) : State :=
  let live := (reqsOf s p sub).filter Req.live
  if live.isEmpty || live.any (fun r => r.st != .kvWait) then s else
  match (byOrder Req.admitted live).getLast? with
  | none => s
  | some r =>
    let t := finish s r.id 0x21 0
    if (getReq t r.id).isNone then svcCount t p sub scExhausted 1 else t

/-- The boundary ends, unless it waits for a grant: the deadlock rule and the status block (R226, R240). -/
def closeBoundary (s : State) (p sub : Nat) : State :=
  match getService s p sub with
  | some v => if v.waitGrant.isSome then s else statusBlock (deadlockBreak s p sub) p sub
  | none => s

def rereadTier (s : State) (p sub : Nat) : State :=
  match getService s p sub with
  | none => s
  | some v =>
    if !v.reread then s else
    let t := readTier s (loopWho s p sub) v.tier
    setService t.1 { v with reread := false, extents := t.2 }

/-- R345 step 7: the boundary before step COMP_SWITCH_STEP, or of a loop that has no requests and so runs no steps (DESIGN
CHOICE, log 126). -/
def switchDue (s : State) (i : Nat) (v : Service) : Bool :=
  slotState' s i == ctSwitching &&
    (decide (fget s .COMP_SWITCH_STEP_STEP i ≤ v.step + 1) || (reqsOf s v.part v.sub).isEmpty)

/-- The loop asks the composer to switch, once. -/
def askSwitch (s : State) (i : Nat) (v : Service) : State :=
  let m := composerNote v i cmSwitch []
  if s.mdSigs.contains m || s.sigs.any (fun x => x.msg == m) then s else composerMsg s v i cmSwitch []

/-- R216 step 8, R345: the step is composed and launched, but at the boundary of a switch. -/
def nextStep (s : State) (p sub : Nat) (plan : Plan) : State :=
  match slotOf s p sub, getService s p sub with
  | some i, some v => if switchDue s i v then askSwitch s i v else ladder (composeBatch s p sub) p sub plan
  | _, _ => ladder (composeBatch s p sub) p sub plan

/-- R216 steps 4 to 8, once no spill is awaited. -/
def boundaryEnd (s : State) (v : Service) (plan : Plan) : State :=
  let p := v.part
  let sub := v.sub
  let kv := byOrder Req.waitNo ((reqsOf s p sub).filter (fun r => r.st == .kvWait))
  let s := (kv.map (·.id)).foldl (wakeKv plan.pages) s
  let s := if v.stopping.isSome then s
    else admitJoins p sub plan.pages (((reqsOf s p sub).filter (fun r => r.st == .queued)).map (·.id)) plan.heap s
  let s := match getService s p sub with
    | some v => reshard (v.recalled.foldl (recallOne p sub plan.pages) (s, plan.peers)).1 v plan.pages
    | none => s
  closeBoundary (nextStep s p sub plan) p sub

/-- R216 steps 2 to 8; a boundary that must spill waits for the copies (R224). -/
def boundaryRest (s : State) (p sub : Nat) (plan : Plan) : State :=
  match getService s p sub with
  | none => s
  | some v =>
    let s := ((reqsOf s p sub).map (·.id)).foldl (fun s id => leave s v id) s
    match getService s p sub with
    | none => s
    | some v =>
      if v.stopping.isSome && (reqsOf s p sub).isEmpty then serviceEnd (statusBlock s p sub) v else
      let s := rereadTier s p sub
      let run := byOrder Req.admitted ((reqsOf s p sub).filter (fun r => r.st == .decode))
      let s := ((reqsOf s p sub).filter Req.live).foldl slideOne s
      let s := provisionAll p sub plan.pages (run.map (·.id)) s
      match getService s p sub with
      | some v => if v.spilling.isEmpty then boundaryEnd s v plan else s
      | none => s

/-- R216: what a boundary does when nothing holds it back: a step's results, with what the step drew (R531), and the rest. -/
def boundaryRun (p sub : Nat) (results : List (Nat × StepResult)) (plan : Plan) (draw : Nat) (s : State) (v : Service) :
    State :=
  let s := assignConductors s (some p)
  let s := if v.inStep then
      let s := match slotOf s p sub with
        | some i => grantRelease s i draw
        | none => s
      stepOne (setService s { v with inStep := false, launched := [] }) v results
    else s
  boundaryRest s p sub plan

/-- R216: the boundary of a loop: after a step, once its launches have ended, or, while nothing runs, on its own; none while a
grant or a spill is awaited. -/
def execStepBoundary (p : PartId) (sub : Fin 4) (results : List (Nat × StepResult)) (plan : Plan) (draw : Nat)
    (s : State) : Out :=
  patient s (fun s =>
    match getService s p sub with
    | none => .next s
    | some v =>
      if v.waitGrant.isSome || !v.spilling.isEmpty || (v.inStep && stepRuns s v) then .next s
      else .next (boundaryRun p sub results plan draw s v))

/-- R220: the loop asks again for the grant it waits for: the attempt with prefill, or the one for decode rows alone. -/
def grantRun (p sub : Nat) (plan : Plan) (n : Nat) (s : State) : State :=
  if n = 1 then
    let a := attempt s p sub 0 (plan.asks.getD 0 (0, 0))
    if a.1 then closeBoundary (launchStep a.2 p sub plan) p sub else a.2
  else closeBoundary (ladder3 s p sub plan) p sub

def execGrantRetry (p : PartId) (sub : Fin 4) (plan : Plan) (s : State) : Out :=
  patient s (fun s =>
    match (getService s p sub).bind (·.waitGrant) with
    | none => .next s
    | some n => .next (grantRun p sub plan n s))

/-- R224, R229: a group that spills is copied to the tier, whose devices answer to its accesses.  After the last the boundary
goes on by its plan. -/
def spillRun (p sub : Nat) (plan : Plan) (peers : Peers) (s : State) (v : Service) (e : Nat × Nat) : State :=
  let s := spillGroup (setService s v) v e.1 e.2 peers
  if v.spilling.isEmpty then boundaryRest s p sub plan else s

/-- The n-th group that spills. -/
def execSpillComplete (p : PartId) (sub : Fin 4) (n : Nat) (plan : Plan) (peers : Peers) (s : State) : Out :=
  patient s (fun s =>
    match getService s p sub with
    | none => .next s
    | some v =>
      match v.spilling[n]? with
      | none => .next s
      | some e => .next (spillRun p sub plan peers s { v with spilling := v.spilling.eraseIdx n } e))

/-! Export and import (R227-R229). -/

/-- The plane pages of an image of n tokens, in image order (R225, R227). -/
def imageSlots (b : Bundle) (n : Nat) : List (Nat × Nat) :=
  ((List.range (bundlePlanes b).length).zip ((bundlePlanes b).zip (perPages b))).flatMap (fun x =>
    ((List.range (pagesFor x.2.2 n)).filter (fun i => !outOfWindow x.2.1.window x.2.2 i n)).map (fun i => (x.1, i)))

/-- Header pages of an image (R227). -/
def headerPages (pages : Nat) : Nat := (256 + 4 * pages + 65535) / 65536

/-- R228: the header of an image is the one that the request and the running bundle call for. -/
def kvImageOk (b : Bundle) (len : Nat) (h : List Byte) : Bool :=
  let n := (imageSlots b len).length
  fieldAt h 0 4 == 0x4B564558 && ((h.drop 64).take 64 == b.digest) && fieldAt h 128 4 == len &&
  fieldAt h 132 2 == b.layers.length && fieldAt h 134 2 == perLayer b && fieldAt h 136 4 == n &&
  fieldAt h 140 4 == headerPages n

/-- The header pages of an image, with the SCALE and FILL of each page (R227). -/
def imageHeader (b : Bundle) (len : Nat) (es : List (Nat × Nat)) : List Byte :=
  let h := headerPages es.length
  let bs := leBytes 4 0x4B564558 ++ List.replicate 60 0 ++ (b.digest ++ List.replicate 64 0).take 64 ++ leBytes 4 len ++
    leBytes 2 b.layers.length ++ leBytes 2 (perLayer b) ++ leBytes 4 es.length ++ leBytes 4 h ++ List.replicate 112 0 ++
    es.flatMap (fun e => leBytes 1 e.1 ++ leBytes 1 0 ++ leBytes 2 e.2)
  bs ++ List.replicate (65536 * h - bs.length) 0

/-- R228: pages of an image come into a sequence's pages, each with its SCALE and FILL; none where the tier does not answer. -/
def importPages (v : Service) (r : Req) (head : List Byte) (base : Nat) : List (Nat × (Nat × Nat)) → State → Peers → State × Bool
  | [], s, _ => (s, true)
  | x :: xs, s, ps =>
    let a := r.pte v 0 x.2.1 x.2.2
    let p := pteRead s r a
    let b := tierRead p.1 v r.extDev (base + 65536 * x.1) 65536 ps
    match b.2.1 with
    | none => (b.1, false)
    | some bs =>
      let s := pagePut b.1 v p.2.1 bs
      let s := loopStore s r (a + 4) (leBytes 1 (fieldAt head (256 + 4 * x.1) 1))
      let s := loopStore s r (a + 8) (leBytes 4 (fieldAt head (258 + 4 * x.1) 2))
      importPages v r head base xs s b.2.2

/-- R228, R229: the image of a request is read and checked, and its pages are copied. -/
def importImage (s : State) (v : Service) (r : Req) (peers : Peers) : State × ImageEnd :=
  let es := imageSlots v.bundle r.prompt.length
  let h := tierRead s v r.extDev r.extAddr (256 + 4 * es.length) peers
  match h.2.1 with
  | none => (h.1, .lost)
  | some head =>
    if !kvImageOk v.bundle r.prompt.length head then (h.1, .mismatch) else
    let c := importPages v r head (r.extAddr + 65536 * headerPages es.length) ((List.range es.length).zip es) h.1 h.2.2
    (c.1, if c.2 then .done else .lost)

/-- R227: pages of a sequence go to its image. -/
def exportPages (v : Service) (r : Req) (base : Nat) : List (Nat × (Nat × Nat)) → State → Peers → State × Bool
  | [], s, _ => (s, true)
  | x :: xs, s, ps =>
    let p := pteRead s r (r.pte v 0 x.2.1 x.2.2)
    let b := pageBytes p.1 v p.2.1
    let w := tierWrite b.1 v r.extDev (base + 65536 * x.1) b.2 ps
    if w.2.1 then exportPages v r base xs w.1 w.2.2 else (w.1, false)

/-- R227, R229: the image of a request is written. -/
def exportImage (s : State) (v : Service) (r : Req) (peers : Peers) : State × ImageEnd :=
  let es := imageSlots v.bundle r.length
  let pt := es.foldl (fun (x : State × List (Nat × Nat)) e =>
    let p := pteRead x.1 r (r.pte v 0 e.1 e.2)
    (p.1, x.2 ++ [(p.2.2.1, p.2.2.2.2)])) (s, [])
  let h := tierWrite pt.1 v r.extDev r.extAddr (imageHeader v.bundle r.length pt.2) peers
  if !h.2.1 then (h.1, .lost) else
  let c := exportPages v r (r.extAddr + 65536 * headerPages es.length) ((List.range es.length).zip es) h.1 h.2.2
  (c.1, if c.2 then .done else .lost)

/-- The transfer of the i-th request's image, in state `st`, runs to its end, on which the next boundary acts (R215). -/
def imageRun (s : State) (i : Nat) (st : RState) (run : State → Service → Req → State × ImageEnd) : Out :=
  patient s (fun s =>
    match s.reqs[i]? with
    | none => .next s
    | some r =>
      match getService s r.part r.sub with
      | none => .next s
      | some v =>
        if r.st ≠ st ∨ r.event.isSome then .next s else
        let x := run s v r
        .next (setReq x.1 { r with event := some x.2 }))

/-- R228: the image of the i-th request is copied; `peers` holds what the tier's device answers, header first. -/
def execImportComplete (i : Nat) (peers : Peers) (s : State) : Out :=
  imageRun s i .importing (fun s v r => importImage s v r peers)

/-- R227: the image of the i-th request is written. -/
def execExportComplete (i : Nat) (peers : Peers) (s : State) : Out :=
  imageRun s i .exporting (fun s v r => exportImage s v r peers)

end Sys2Proof.Machine
end

