-- ==== Sys2Proof/Machine/PowerX.lean ====
section
/-! DEFINITION. The commands of the power controller (spec R517-R545).  Draws and energies are operands: the spec gives
no way to compute them from the machine's state. -/
namespace Sys2Proof.Machine

/-! Energy, estimate, measurement (R523-R525, R530). -/

def sumList (xs : List Nat) : Nat := xs.foldl (· + ·) 0

/-- The cap's stretch begins (R530). -/
def capStretch (s : State) : State :=
  fset (setPower s { s.power with capStretch := true }) .PWR_EVENTS_CAP_EXCEEDED 0 1

/-- R523: one domain's energy of an interval, in nJ. -/
def addEnergy (s : State) (d nj : Nat) : State :=
  let x := s.power
  let f := SMap.get (fun _ => 0) x.fracNj d + nj
  let s := setPower s { x with fracNj := SMap.set (fun _ => 0) x.fracNj d (f % 1000),
                               spanNj := SMap.set (fun _ => 0) x.spanNj d (SMap.get (fun _ => 0) x.spanNj d + nj) }
  finc s .PWR_DOM_ENERGY_MICROJOULES d (f / 1000)

/-- R523, R525, R567: 10 µs: the estimates of the 96 domains and of the rest (nJ), and the input's voltage (mV) and
current (10 mA). -/
def execPowerSample (est : List Nat) (rest mv ca : Nat) (s : State) : Out :=
  let est := (List.range 96).map (fun d => est.getD d 0)
  let e := sumList est + rest
  let m := mv * ca / 10
  let low := s.power.trustM && decide (10 * m < 3 * e)
  let s := (List.range 96).foldl (fun s d =>
    addEnergy s d (if low || e == 0 then est.getD d 0 else est.getD d 0 * m / e)) s
  let s := fset (fset s .MOD_INPUT_VIN_MV 0 mv) .MOD_INPUT_IIN_MA 0 ca
  let s := if 78000 < mv ∧ mv ≤ 80000 then fset s .MOD_STATUS_INPUT_HIGH 0 1 else s
  let f := SMap.get (fun _ => 0) s.power.fracNj 96 + m
  let x := s.power
  let s := setPower s { x with eSum := x.eSum + e, mSum := x.mSum + m, samples := x.samples + 1,
                               fracNj := SMap.set (fun _ => 0) x.fracNj 96 (f % 1000) }
  let s := finc s .PWR_ENERGY_MICROJOULES 0 (f / 1000)
  let c := if s.power.trustM && !low then m else e
  .next (if 3400 * 10000 < c then capStretch s else s)

/-- R524, R530: 1 ms: the averages, the control input, and the cap's stretch. -/
def execControlAverage (s : State) : Out :=
  let x := s.power
  if x.samples = 0 then .next s else
  let e := x.eSum / (x.samples * 10000)
  let m := x.mSum / (x.samples * 10000)
  let far := decide (15 * m < 100 * (if e < m then m - e else e - m))
  let bad := if far then some (x.badSince.getD s.now) else none
  let ok := if far then none else some (x.okSince.getD s.now)
  let mism := match bad with
    | some t => decide (10000000 < s.now - t)
    | none => false
  let settled := match ok with
    | some t => decide (1000000000 ≤ s.now - t)
    | none => false
  let trust := if mism then true else if settled then false else x.trustM
  let source := trust && !decide (10 * m < 3 * e)
  let c := if source then m else e
  let s := setPower s { x with eSum := 0, mSum := 0, samples := 0, badSince := bad, okSince := ok, trustM := trust }
  let s := if mism then fset s .PWR_EVENTS_MISMATCH 0 1 else s
  let s := fset (fset s .PWR_MEASURED_MEASURED 0 m) .PWR_MEASURED_ESTIMATE 0 e
  let s := fset (fset s .PWR_MEASURED_SOURCE 0 (b2n source)) .MOD_INPUT_PIN_W 0 m
  let cap := capNow s
  .next (if 105 * cap < 100 * c then capStretch s
    else if c < cap then setPower s { s.power with capStretch := false } else s)

/-! Sharing the cap (R526-R529, R534). -/

/-- R534: the draw that hints count as demand. -/
def hintDraw (s : State) : Nat :=
  sumList (s.hints.map (fun h =>
    if h.phase != 3 && decide (s.now < h.time + 1000 * h.duration) then
      match (liveSlots s).find? (fun i => fget s .COMP_CONSIST_ID_PART i == h.part) with
      | some i => scaleDraw (h.power * fget s .PWR_CAP_WATTS / 256) 0 (getCons s i).agreed
      | none => 0
    else 0))

/-- R529: one move of the two memory settings: tighter while the class draws more than its budget, else easier. -/
def memControl (s : State) (high : Bool) : State :=
  let x := s.power
  let s := setPower s
    (if high then
      (if 64 < x.hbmLimit then { x with hbmLimit := x.hbmLimit - 16 } else { x with memDiv := true })
     else if x.memDiv then { x with memDiv := false }
     else { x with hbmLimit := min 256 (x.hbmLimit + 16) })
  setAllHalves s

/-- R527: 100 µs: each class's floor and demand as estimated (LINKS, MEMORY, COMPUTE; W), and the MEMORY class's present
draw. -/
def execBudgetShare (est : List (Nat × Nat)) (memDraw : Nat) (s : State) : Out :=
  let ceil := fun c => [240, 1050, 2050].getD c 0
  let cap0 := fun c => [240, 350, 320].getD c 0
  let floorOf := fun c => min (est.getD c (0, 0)).1 (cap0 c)
  let granted := sumList (s.power.grants.map (·.draw)) + hintDraw s
  let demand := fun c => min (ceil c) ((est.getD c (0, 0)).2 + (if c = 2 then granted else 0))
  let order := [fget s .PWR_PRIO_FIRST, fget s .PWR_PRIO_SECOND, fget s .PWR_PRIO_THIRD]
  let r0 := capNow s - 25 - sumList ((List.range 3).map floorOf)
  let r := order.foldl (fun (acc : List Nat × Nat) c =>
    let take := min (demand c - floorOf c) acc.2
    (acc.1.set c (floorOf c + take), acc.2 - take)) ((List.range 3).map floorOf, r0)
  let s := fset s .PWR_BUDGET_LINKS 0 (r.1.getD 0 0)
  let s := fset s .PWR_BUDGET_MEMORY 0 (r.1.getD 1 0)
  let s := fset s .PWR_BUDGET_COMPUTE 0 (r.1.getD 2 0)
  .next (memControl s (decide (r.1.getD 1 0 < memDraw)))

/-- R525. -/
def execPwrCapWrite (w : Nat) (s : State) : Out := .next (capWrite s w)

/-! Grants (R531-R533). -/

/-- R531-R534: a request of the serving loop of slot i, or its IDLE_GAP notice, which is remembered as a hint; the answer
goes back as a POWER message. -/
def execGrantRequest (i : SlotId) (phase : Fin 4) (f dur : Nat) (s : State) : Out :=
  if fget s .COMP_CONSIST_ID_STATE i = 0 then .next s else
  let p := fget s .COMP_CONSIST_ID_PART i
  if phase.val = 3 then .next { s with hints := s.hints ++ [⟨p, 3, f % 256, dur, s.now⟩] } else
  let r := grantRequest s i phase (f % 256) dur
  .next (mdSend r.2 clsPower ((partCnds r.2 p).headD 0) p [BitVec.ofNat 32 (b2n r.1)])

/-- R532: the loop of slot i sends its step's end; the step drew so much (W). -/
def execGrantRelease (i : SlotId) (draw : Nat) (s : State) : Out := .next (grantRelease s i draw)

/-- R532: a grant lapses. -/
def execGrantExpire (i : SlotId) (s : State) : Out :=
  .next (setPower s { s.power with
    grants := s.power.grants.filter (fun g => !(g.slot == (i : Nat) && decide (g.expires ≤ s.now))) })

/-- R533: STARVE_MS of refused PREFILL_HEAVY requests. -/
def execPrefillStarve (i : SlotId) (s : State) : Out :=
  let c := getCons s i
  match c.starve with
  | some t =>
    if 1000000 * fget s .PWR_GRANT_CFG_STARVE_MS ≤ s.now - t then
      .next (setCons s i { c with limit := fitLevel c.prefill (shareOf s i) })
    else .next s
  | none => .next s

/-- R533: 100 ms without a PREFILL_HEAVY request. -/
def execStarveLift (i : SlotId) (s : State) : Out :=
  let c := getCons s i
  match c.prefillAt with
  | some t => if 100000000 ≤ s.now - t then .next (setCons s i { c with limit := 0, starve := none }) else .next s
  | none => .next s

/-! One level for a consist (R535-R538). -/

/-- The members of a consist (its current map's devices), and its lead (R536). -/
def levelLead (s : State) (i : Nat) (members : List Nat) : Nat :=
  members.foldl min (if fget s .COMP_CONSIST_ID_STATE i = 0 then 0 else devNum s)

/-- R536: this module reports a change of the level it allows to the lead, or, on the lead, another member's report
(device, level, step) arrives.  `members` are the consist's other devices. -/
def execLevelReport (i : SlotId) (members : List Nat) (dev level step : Nat) (s : State) : Out :=
  if fget s .COMP_CONSIST_ID_STATE i = 0 then .next s else
  let c := getCons s i
  let own := dev == devNum s
  let l := if own then allowedLevel s i else level
  let n := if own then consStep s i else step
  if own && l == c.mine then .next s else
  let c := if own then { c with mine := l } else c
  if levelLead s i members = devNum s then
    .next (setCons s i { c with reports := c.reports.filter (fun r => r.1 != dev) ++ [(dev, l, n)] })
  else if own then
    let s := setCons s i c
    .next (setPower s { s.power with levelOut := s.power.levelOut ++ [(levelLead s i members, (i : Nat), l, n)] })
  else .next s

/-- R536: the lead sets the lowest allowed level to take effect two steps after the last report, and tells every member;
on a member, the lead's message arrives. -/
def execLevelSet (i : SlotId) (members : List Nat) (level step : Nat) (s : State) : Out :=
  if fget s .COMP_CONSIST_ID_STATE i = 0 then .next s else
  let c := getCons s i
  if levelLead s i members = devNum s then
    let l := c.reports.foldl (fun l r => max l r.2.1) 0
    let n := c.reports.foldl (fun n r => max n r.2.2) 0
    let now := match c.next with
      | some x => x.1
      | none => c.agreed
    if c.reports.isEmpty || l == now then .next s else
    let s := setCons s i { c with next := some (l, n + 2) }
    .next (setPower s { s.power with levelOut := s.power.levelOut ++
      (members.filter (· != devNum s)).map (fun d => (d, (i : Nat), l, n + 2)) })
  else .next (setCons s i { c with next := some (level, step) })

/-- R537, R538: the boundary before the set step: the regions of the consist take their level; a droop in one of them
makes the change wait (R539). -/
def execLevelChange (i : SlotId) (s : State) : Out :=
  let c := getCons s i
  match c.next with
  | none => .next s
  | some (l, n) =>
    let rs := consRegions s i
    if consStep s i + 1 < n ∨ rs.any (fun r => SMap.get (fun _ => false) s.power.droop r) = true then .next s else
    let s := setCons s i { c with agreed := l, next := none }
    .next (rs.foldl (fun s r => fset s .PWR_DOM_STATUS_LEVEL r (regionLevel s r)) s)

/-! Droop and heat (R539-R542). -/

/-- R539: the supply of a region falls 40 mV below its level's. -/
def execDroop (d : DomId) (s : State) : Out :=
  if !isRegion d || SMap.get (fun _ => false) s.power.droop d then .next s else
  let s := setPower s { s.power with droop := SMap.set (fun _ => false) s.power.droop d true }
  .next (finc s .PWR_DROOP_COUNT_COUNT 0)

def execDroopEnd (d : DomId) (s : State) : Out :=
  .next (setPower s { s.power with droop := SMap.set (fun _ => false) s.power.droop d false })

/-- R540: what a reading makes of a region's thermal limit. -/
def thermMove (s : State) (d t : Nat) : State :=
  let hot0 := fbit s .PWR_DOM_STATUS_HOT d
  let lim := fget s .PWR_THERM_CFG_HOT
  let hot := if lim ≤ t then true else if t + 5 < lim then false else hot0
  let s := fset s .PWR_DOM_STATUS_HOT d (b2n hot)
  let x := SMap.get (fun _ => (0, 0)) s.power.therm d
  let put := fun (v : Nat × Nat) => setPower s { s.power with therm := SMap.set (fun _ => (0, 0)) s.power.therm d v }
  if hot != hot0 then put (if hot then min 7 (fget s .PWR_DOM_STATUS_LEVEL d + 1) else x.1, s.now)
  else if hot && decide (1000000 ≤ s.now - x.2) then put (min 7 (fget s .PWR_DOM_STATUS_LEVEL d + 1), s.now)
  else if !hot && decide (0 < x.1) && decide (10000000 ≤ s.now - x.2) then
    put (x.1 - 1, if x.1 = 1 then 0 else s.now)
  else s

/-- R541: the emergency of a domain begins at 105 °C and ends below 103 °C. -/
def emergMove (s : State) (d t : Nat) : State :=
  let b := SMap.get (fun _ => false) s.power.emerg d
  let b' := if 105 ≤ t then true else if t < 103 then false else b
  let s := setPower s { s.power with emerg := SMap.set (fun _ => false) s.power.emerg d b' }
  if 105 ≤ t then fset s .PWR_EVENTS_EMERGENCY 0 1 else s

/-- R540-R542: 100 µs: the readings of the 96 domains, in °C. -/
def execThermalSample (temps : List Nat) (s : State) : Out :=
  let ts := (List.range 96).map (fun d => temps.getD d 0)
  let top := (List.range 96).foldl (fun b d => if ts.getD b 0 < ts.getD d 0 then d else b) 0
  let s := (List.range 96).foldl (fun s d =>
    let t := ts.getD d 0
    let s := fset s .PWR_DOM_STATUS_TEMP d t
    emergMove (if isRegion d then thermMove s d t else s) d t) s
  let s := fset (fset s .PWR_THERM_MAX_TEMP 0 (ts.getD top 0)) .PWR_THERM_MAX_DOMAIN 0 top
  .next (if ts.any (fun t => decide (115 ≤ t)) then trip s else s)

/-! Domains (R519-R522, R529). -/

/-- A station's KV gate has a command. -/
def kvgBusy (s : State) (k : Nat) : Bool := (kvgNext s k).isSome

/-- R521: the leave condition holds: the domain gates its clocks. -/
def execDomainIdle (d : DomId) (s : State) : Out :=
  if mayIdle d && domState s d == 0 && !fbit s .PWR_DOM_CTRL_HOLD_ON d && mayLeave s (kvgBusy s) d then
    .next (afterDom (setDom s d 1) d)
  else .next s

/-- R521: a domain lowers to retention: the leave condition has held for `held` µs, or a hint lets it. -/
def execDomainNap (d : DomId) (held : Nat) (s : State) : Out :=
  let from_ := if mayIdle d then domState s d == 1 else domState s d == 0
  if mayNap d && from_ && !fbit s .PWR_DOM_CTRL_HOLD_ON d && mayLeave s (kvgBusy s) d &&
      (decide (fget s .PWR_SLEEP_CFG_NAP_DELAY ≤ held) || idleHint s d 200) then .next (afterDom (setDom s d 2) d)
  else .next s

/-- R521: a domain in NAP stops its PLL. -/
def execDomainDeep (d : DomId) (held : Nat) (s : State) : Out :=
  if mayDeep d && domState s d == 2 && !fbit s .PWR_DOM_CTRL_HOLD_ON d && mayLeave s (kvgBusy s) d &&
      (decide (10 * fget s .PWR_SLEEP_CFG_DEEP_DELAY ≤ held) || idleHint s d 2000 || fget s .COMP_ROLE_ROLE == 1) then
    .next (afterDom (setDom s d 3) d)
  else .next s

/-- R521, R529: something reaches a sleeping domain: it starts to wake, and its mesh half with it. -/
def execDomainWake (d : DomId) (s : State) : Out :=
  if domState s d = 1 ∨ domState s d = 2 ∨ domState s d = 3 then .next (afterDom (setWaking s d true) d) else .next s

/-- R112, R520: the domain is ON; the accesses held at its stations complete. -/
def execDomainWakeDone (d : DomId) (s : State) : Out :=
  if waking s d = true then
    let s := afterDom (setDom (setWaking s d false) d 0) d
    .next (if isRegion d then (regionStns d).foldl (fun s k => if stopHeld s k then s else releaseHeld s k) s else s)
  else .next s

/-- R521, R522: a region's power is removed; the accesses held at its stops are answered as an OFF region answers. -/
def regionOff (s : State) (d : Nat) : State :=
  let s := afterDom (setDom (setWaking s d false) d domOff) d
  (regionStns d).foldl (fun s k => if stopHeld s k then s else releaseHeld s k) s

def execDomainOff (d : DomId) (s : State) : Out :=
  if fbit s .PWR_DOM_CTRL_OFF_REQ d && mayOff s d && domState s d != domOff then .next (regionOff s d) else .next s

/-- R128, R521: an OFF region is powered again: its stores' valid bits are clear, its cores FREE or FENCED. -/
def regionOn (s : State) (d : Nat) : State :=
  let s := (regionStns d).foldl (fun s k =>
    let s := clearStores s k
    let s := (List.range 6).foldl (fun s c => resetCore s (6 * k + c)) s
    kvgResetAll s k) s
  afterDom (setDom s d 0) d

/-- R521: what brings an OFF region back: OFF_REQ written 0, a BIND of one of its slices, or a role other than POOL. -/
def restoreDue (s : State) (d : Nat) : Bool :=
  !fbit s .PWR_DOM_CTRL_OFF_REQ d || fget s .COMP_ROLE_ROLE != 1 ||
  (regionStns d).any (fun k => fget s .COMP_SLICE_STATUS_STATE k == slBinding)

def execDomainPowerRestore (d : DomId) (s : State) : Out :=
  if isRegion d && domState s d == domOff && s.mod.started && !fbit s .PWR_EVENTS_TRIP && restoreDue s d then
    .next (regionOn s d)
  else .next s

def execHoldOn (d : DomId) (b : Bool) (s : State) : Out := .next (holdOn s d b)

def execOffReq (d : DomId) (b : Bool) (s : State) : Out := .next (offReq s d b)

end Sys2Proof.Machine
end

