-- ==== Sys2Proof/Machine/Watch.lean ====
section
/-! DEFINITION. Since when the conditions of the hang detectors hold (spec R549), as the tick sees them (DESIGN CHOICE, log
129). -/
namespace Sys2Proof.Machine

/-- The detectors of R549 that watch a condition: a core that makes no progress, a core in LOADING, a KV gate, a station
stop, a Branch-line unit, a Chervil channel. -/
inductive Detector where
  | core | load | kvg | stop | branch | channel
deriving DecidableEq, Repr

def Detector.key (d : Detector) (i : Nat) : Nat :=
  65536 * (match d with | .core => 0 | .load => 1 | .kvg => 2 | .stop => 3 | .branch => 4 | .channel => 5) + i

/-- What a detector sees of its unit while its condition may hold, and none while it does not: as long as this stays as it is,
the unit makes no progress.  A WAITR whose own timeout has not passed does not count. -/
def sight (s : State) (d : Detector) (i : Nat) : Option (List Nat) :=
  match d with
  | .core =>
    if (coreState s i = stRunning ∨ coreState s i = stEnding) ∧ (polling s i false).isNone then
      some (fget s .SAGE_RETIRED_COUNT i :: (getCore s i).table.map (·.slot))
    else none
  | .load => if coreState s i = stLoading then some [] else none
  | .kvg => (kvgNext s i).map (fun r => [r, fget s (if r = 0 then .KVG_HEAD_HEAD0 else .KVG_HEAD_HEAD1) i])
  | .stop =>
    if stnPower s i != domOn then none else
    (s.heldAcc.find? (fun e => e.1 == i)).map (fun e => [e.2.addr, e.2.who.part, e.2.who.kind, e.2.who.index])
  | .branch => (blNext s i).map (fun r => [r, blHead s i r])
  | .channel =>
    if chState s i = chLoading ∨ chState s i = chStopping then
      some [chState s i, fget s .CHV_CH_STATUS_INDEX i, fget s .CHV_CH_COUNT_BYTES i] else none

/-- The units that each detector watches. -/
def watched : List (Detector × Nat) :=
  [.core, .load].flatMap (fun d => (List.range 1536).map (fun i => (d, i))) ++
  [.kvg, .stop].flatMap (fun d => (List.range 256).map (fun i => (d, i))) ++
  (List.range 64).map (fun i => (.branch, i)) ++ (List.range 1024).map (fun i => (.channel, i))

/-- What the detectors see now, each with since when it has been so. -/
def watchNow (s : State) : List (Nat × List Nat × Nat) :=
  watched.filterMap (fun u => (sight s u.1 u.2).map (fun v =>
    let k := u.1.key u.2
    (k, v, match s.watch.find? (fun e => e.1 == k) with
      | some e => if e.2.1 = v then e.2.2 else s.now
      | none => s.now)))

/-- How long, in ns, a detector has seen its unit stuck as it is now. -/
def stuckFor (s : State) (d : Detector) (i : Nat) : Nat :=
  match sight s d i, s.watch.find? (fun e => e.1 == d.key i) with
  | some v, some e => if e.2.1 = v then s.now - e.2.2 else 0
  | _, _ => 0

/-- The condition of a detector has held for n milliseconds. -/
def stuck (s : State) (d : Detector) (i n : Nat) : Bool := (sight s d i).isSome && decide (n * 1000000 ≤ stuckFor s d i)

end Sys2Proof.Machine
end

