-- ==== Sys2Proof/Machine/ResetX.lean ====
section
/-! DEFINITION. The commands of compute resets (spec R546-R561): what starts them, their ends, escalation, and trouble
events. -/
namespace Sys2Proof.Machine

/-! What starts a reset (R549, R550, R561). -/

def execRstCmdStation (k : Stn) (s : State) : Out := .next (stnReset s k rcOperator)
def execRstCmdPartition (p : PartId) (s : State) : Out := .next (partBegin s p rcOperator false false none)
def execRstCmdDevice (s : State) : Out := .next (devBegin s rcOperator false)

/-- R550: a request that names a station of another partition is ignored. -/
def execPartReqStation (p : PartId) (k : Stn) (s : State) : Out :=
  if boundTo s k = some (p : Nat) then .next (stnReset s k rcPartRequest) else .next s
def execPartReqPartition (p : PartId) (s : State) : Out := .next (partBegin s p rcPartRequest true false none)

def execRstKick (g : CndId) (s : State) : Out := .next (rstKick s g)

/-- R549: RUNNING or ENDING without progress for CORE_MS. -/
def execCoreHang (c : CoreId) (s : State) : Out :=
  if stuck s .core c (fget s .RST_HANG_CFG_CORE_MS 0) then .next (stnReset s ((c : Nat) / 6) rcCoreHang) else .next s

/-- R549: LOADING longer than 1 ms. -/
def execLoadHang (c : CoreId) (s : State) : Out :=
  if stuck s .load c 1 then .next (stnReset s ((c : Nat) / 6) rcLoadHang) else .next s

/-- R549: one command of a KV gate in progress for KVG_MS. -/
def execKvgHang (k : Stn) (s : State) : Out :=
  if stuck s .kvg k (fget s .RST_HANG_CFG_KVG_MS 0) then .next (stnReset s k rcKvgHang) else .next s

/-- R549: an access held at a station stop for 2 ms, its region ON. -/
def execStopHang (k : Stn) (s : State) : Out :=
  if stuck s .stop k 2 && !inReset s k then .next (stnReset s k rcStopHang) else .next s

/-- R549: no kick for CND_MS. -/
def execCndHang (g : CndId) (s : State) : Out :=
  let st := cndState s g
  let last := SMap.get (fun _ => 0) s.rst.kicks g
  if (st = cndRunning ∨ st = cndWaiting) ∧ last + fget s .RST_HANG_CFG_CND_MS 0 * 1000000 ≤ s.now then
    if fbit s .CND_STATUS_OPER g then .next (devBegin s rcCndHang true)
    else .next (partBegin s (fget s .CND_STATUS_PART g) rcCndHang true false none)
  else .next s

/-- R549: a Points unit, a Branch-line unit or a channel is stuck; a channel of the operator belongs to no partition. -/
def execUnitHang (u : StuckUnit) (s : State) : Out :=
  match u with
  | .route i =>
    match s.routes[i]? with
    | some r =>
      if s.now < r.since + 1000 * fget s .PTS_TIMEOUT_MICROSECONDS r.die + 10000000 then .next s
      else .next (partBegin s r.part rcUnitHang true false none)
    | none => .next s
  | .branch p => if stuck s .branch p 10 then .next (partBegin s p rcUnitHang true false none) else .next s
  | .channel n =>
    if stuck s .channel n 10 && fbit s .CHV_CH_OWNER_VALID n &&
        !fbit s .CHV_CH_OWNER_OPER n then .next (partBegin s (chPart s n) rcUnitHang true false none)
    else .next s

/-! Messages. -/

/-- A RESET-class message to every conductor that serves a partition: what happened, and to what. -/
def resetMsg (s : State) (p : Nat) (payload : List W32) : State :=
  (partCnds s p).foldl (fun s g => mdSend s clsReset g p payload) s

/-! The end of a station reset (R553, R554). -/

/-- R553 step 3: what a station's cores still await is given up; its answers will be late, its epochs' counts are
released. -/
def stnAbandon (s : State) (k : Nat) : State :=
  let mine := s.remotes.filter (fun r => r.core / 6 == k && !r.quarantined)
  let s := { s with remotes := s.remotes.map (fun r =>
    if r.core / 6 == k && !r.quarantined then { r with quarantined := true, epoch := none } else r) }
  mine.foldl (fun s r => epochEnd s r.epoch) s

/-- R553 steps 5 and 6 for the cores: each that was in a launch is reported with status RESET. -/
def stnCores (s : State) (k : Nat) : State :=
  (List.range 6).foldl (fun s i => resetCore (reportCore s (6 * k + i) .reset) (6 * k + i)) s

/-- R553 step 6: a station's reset is over. -/
def stnDone (s : State) (j : StnJob) (cycled : Bool) : State :=
  let cause := if j.collateral then rcCollateral else j.cause
  let s := setRst s { s.rst with stns := s.rst.stns.filter (fun x => x.stn != j.stn) }
  let s := if j.collateral then s
    else setRst s { s.rst with stnLast := SMap.set (fun _ => none) s.rst.stnLast j.stn (some s.now) }
  let s := if j.scope = 0 then rstLog s cause 0 j.stn 0 cycled j.noCapture else s
  let s := releaseHeld s j.stn
  match boundTo s j.stn with
  | some p => resetMsg s p [BitVec.ofNat 32 cause, BitVec.ofNat 32 j.stn]
  | none => s

/-- R553 steps 3 to 6.  The KV gate's command in progress is abandoned with `rows` of its rows or blocks processed, the next
one torn as `torn` says (R157). -/
def stnDrain (s : State) (j : StnJob) (rows torn : Nat) : State :=
  let s := scFlushAll (stnAbandon (kvgAbandon s j.stn rows torn []) j.stn) j.stn
  stnDone (warmCancel (kvgCompute (stnCores s j.stn) j.stn) j.stn) j false

def execStationResetDrained (x : StnDrained) (s : State) : Out := patient s (fun s =>
  match s.rst.stns.find? (fun j => j.stn == x.stn.val) with
  | none => .next s
  | some j => .next (stnDrain s j x.rows x.torn))

/-- R554: the region of a station that overruns is power-cycled; its other stations are reset with it.  A cycle that
does not complete escalates (R559). -/
def execRegionPowerCycle (k : Stn) (completes : Bool) (s : State) : Out :=
  match s.rst.stns.find? (fun j => j.stn == (k : Nat)) with
  | none => .next s
  | some j =>
    if completes then
      let d := stnDomain k
      let ks := regionStns d
      let jobs := ks.map (fun i => (s.rst.stns.find? (fun x => x.stn == i)).getD ⟨i, j.cause, 0, s.now, false, true⟩)
      let s := ks.foldl (fun s i => warmCancel (stnCores (stnAbandon s i) i) i) s
      let s := setRst s { s.rst with stns := s.rst.stns.filter (fun x => !ks.contains x.stn) }
      let s := setRst s { s.rst with parts := s.rst.parts.map (fun x =>
        if ks.any (fun i => boundTo s i == some x.part) then { x with cycled := true } else x) }
      let s := regionOn (regionOff s d) d
      .next (jobs.foldl (fun s x => stnDone s x true) s)
    else
      match boundTo s k with
      | some p => .next (partBegin (rstLog s j.cause 0 k 1 true j.noCapture) p rcEscalated true false (some (k : Nat)))
      | none => .next s

/-! The end of a partition reset (R555-R557, R559, R560). -/

/-- R556: a conductor that overruns loses its lines, dirty ones too, and starts at CND_ENTRY. -/
def cndForce (s : State) (g : Nat) : State :=
  let s := (holderLines s g).foldl (fun s l =>
    let e := dirEntry s l
    putDir (setHolder s g l none) l { e with owned := false, holders := setBits e.holders g 1 0 }) s
  let s := setHart s g { getHart s g with x := [], f := [], icache := [], l1d := [], rsv := none, defer := 0, wfs := none,
                                          pc := BitVec.ofNat 64 (fget s .CND_ENTRY_ADDR g) }
  rstKick (setCndState s g cndRunning) g

def execConductorResetOverrun (g : CndId) (s : State) : Out :=
  let p := fget s .CND_STATUS_PART g
  if cndState s g ≠ cndSwitching then .next s
  else if fbit s .CND_STATUS_OPER g then (if s.rst.dev.isSome then .next (cndForce s g) else .next s)
  else if s.rst.parts.any (fun j => j.part == p) then
    let s := fset (cndForce s g) .RST_PART_STATUS_SERVICE_LOST p 1
    .next (setRst s { s.rst with parts := s.rst.parts.map (fun j =>
      if j.part = p then { j with forced := j.forced ++ [(g : Nat)] } else j) })
  else .next s

/-- R405, R555 step 5: every fetched or started command of a partition is squashed. -/
def squash (s : State) (p : Nat) : State :=
  let quiet := silent s p
  let s := (s.cmds.filter (fun c => c.part == p)).foldl (fun s c => if quiet then dropCmd s c else endCmd s c 0x44 0 0 0) s
  let mine := s.intake.filter (fun q => q.part == p)
  let s := { s with intake := s.intake.filter (fun q => q.part != p) }
  if quiet then s else
  mine.foldl (fun s q => writeRecord s p q.ring 0 (fieldAt q.desc 8 8) 0 0 0x44 0) s

/-- Warm streams of a partition end CANCELLED (R271, R555). -/
def warmCancelPart (s : State) (p : Nat) : State :=
  let isP := fun (t : Stream) => match t.kind with
    | .warm w _ _ _ _ _ _ => !w.oper && w.part == p
    | _ => false
  let mine := s.dill.filter isP
  let s := { s with dill := s.dill.filter (fun t => !isP t) }
  mine.foldl (fun s t => match t.kind with
    | .warm w _ _ _ done row ep => epochEnd (warmWord s w done 3 row) ep
    | _ => s) s

/-- R557: the loops of a partition resume, or, with SERVICE_LOST, end every request. -/
def resumeServices (s : State) (p : Nat) : State :=
  if fbit s .RST_PART_STATUS_SERVICE_LOST p then
    let s := { s with reqs := s.reqs.map (fun (r : Req) => if r.part = p then { r with tree := false, slots := [], pages := [] } else r) }
    (s.services.filter (fun v => v.part == p)).foldl (fun s v =>
      let s := ((reqsOf s p v.sub).map (·.id)).foldl (fun s id =>
        let t := finish s id 0x23 0
        match getReq t id with
        | some r => endReq t r 0x23
        | none => t) s
      { s with services := s.services.filter (fun x => !(x.part == p && x.sub == v.sub)) }) s
  else
    { s with services := s.services.map (fun v => if v.part = p then { v with inStep := false, launched := [] } else v),
             reqs := s.reqs.map (fun r => if r.part = p then { r with rows := 0 } else r) }

/-- R560: a partition goes out of service. -/
def partOut (s : State) (p : Nat) : State :=
  (partSlots s p).foldl (fun s i => if slotState' s i = ctDissolving then s else dissolve s i false)
    (fset s .RST_PART_STATUS_OUT p 1)

/-- The device's reset is over with its last partition's (R558, R560). -/
def devDone (s : State) (overran : Bool) : State :=
  match s.rst.dev with
  | none => s
  | some (cause, counted) =>
    let s := (operCnds s).foldl (fun s g => if cndState s g = cndSwitching then cndRestart s g else s) s
    let hist := if counted then devHist s ++ [s.now] else devHist s
    let s := setRst s { s.rst with dev := none, devHist := hist }
    let s := finc (fset s .TC_MODE_RECOVERY 0 0) .RST_DEV_COUNT_TOTAL 0
    let out := overran || (counted && decide (8 ≤ hist.length))
    let s := rstLog s cause 2 0 (if out then 2 else 0) false false
    if out then (List.range 64).foldl partOut (fset s .RST_STATUS_DEV_OUT 0 1) else s

/-- R205, R555: the Branch-line unit abandons the command in progress after `done` of its effects, and its rings are reset. -/
def blReset (s : State) (p done : Nat) : State :=
  let s := clearFields (blAbandon s p done) (fun f i =>
    (f == .BL_HEAD_HEAD0 || f == .BL_HEAD_HEAD1 || f == .BL_HEAD_HEAD2 || f == .BL_HEAD_HEAD3 ||
      f == .BL_STATUS_LAST_ERROR || f == .BL_STATUS_RING) && i == p)
  { s with bls := SMap.set (fun _ => Points.reset) s.bls p Points.reset }

/-- R555 steps 3 to 6 of a partition's reset, whose stations are done; `done` counts the effects that the Branch-line unit's
abandoned command had.  `overran` where a part of the device's reset overruns its bound even so, which puts the device out of
service (R559). -/
def partDone (s : State) (j : PartJob) (overran : Bool) (done : Nat) : State :=
  let p := j.part
  let s := (partCnds s p).foldl (fun s g => if cndState s g = cndSwitching then cndRestart s g else s) s
  let s := squash (warmCancelPart (blReset s p done) p) p
  let s := setRst (fset s .RST_PART_STATUS_RESETTING p 0) { s.rst with parts := s.rst.parts.filter (fun x => x.part != p) }
  let s := finc s .RST_PART_STATUS_TOTAL p
  let hist := if j.counted then partHist s p ++ [s.now] else partHist s p
  let s := setRst s { s.rst with partHist := SMap.set (fun _ => []) s.rst.partHist p hist }
  let out := j.counted && decide (3 ≤ hist.length)
  let s := if j.device then s else rstLog s j.cause 1 p (if out then 2 else 0) j.cycled j.noCapture
  let s := resetMsg (resumeServices s p) p [BitVec.ofNat 32 j.cause, BitVec.ofNat 32 p]
  let s := if out then partOut s p else s
  if s.rst.parts.any (·.device) then s else devDone s (overran && j.device)

/-- The reset of a partition that overran becomes the device's (R559). -/
def partEscalate (s : State) (j : PartJob) : State :=
  devBegin (rstLog s j.cause 1 j.part 1 j.cycled j.noCapture) rcEscalated true

/-- R555, R559: a partition's reset ends, or overruns. -/
def execPartitionResetDone (p : PartId) (x : PartEnd) (s : State) : Out := patient s (fun s =>
  match s.rst.parts.find? (fun j => j.part == (p : Nat)) with
  | none => .next s
  | some j =>
    if x.overran && !j.device then .next (partEscalate s j)
    else if s.rst.stns.any (fun x => boundTo s x.stn == some (p : Nat)) then .next s
    else .next (partDone s j x.overran x.done))

/-- R560: RST_PART_STATUS.OUT is written 1. -/
def execPartOutClear (p : PartId) (s : State) : Out := .next (outClear s p)

/-! Trouble events (R551). -/

/-- The cause code of a trouble event; the sources to which R561 gives none get a free value (DESIGN CHOICE, log 30). -/
def troubleCode (s : State) (c : Trouble) : Nat × State :=
  match c with
  | .meshUe => (rcMeshUe, s)
  | .cndUe => (rcCndUe, s)
  | .dirUe => (rcDirUe, s)
  | _ => let d := draw s; (d.1.toNat % 32, d.2)

/-- The oldest trouble event reaches the conductors, is logged, and starts the reset that R551 names. -/
def execTroubleEvent (s : State) : Out :=
  match s.troubles with
  | [] => .next s
  | e :: rest =>
    let c := troubleCode { s with troubles := rest } e.cause
    let p := e.part.getD 0
    let s := rstLog c.2 c.1 1 p 0 false false
    match e.part with
    | none => .next s
    | some p =>
      let s := resetMsg s p [BitVec.ofNat 32 c.1]
      match e.cause with
      | .meshUe => if e.oper then .next s else .next (partBegin s p rcMeshUe true false none)
      | .cndUe | .dirUe => .next (partBegin (fset s .RST_PART_STATUS_SERVICE_LOST p 1) p c.1 true false none)
      | _ => .next s

/-! Module resets (R13, R546, R578, R580, R581). -/

/-- PERST# goes low: after power-good, a warm reset. -/
def execPerstAssert (s : State) : Out :=
  let s := setMod s { s.mod with perst := true }
  if s.mod.supply = .good ∧ fbit s .PWR_EVENTS_TRIP = false ∧ s.mod.railFault = false then .next (warmReset s) else .next s

/-- PERST# goes high: bring-up starts where power is good. -/
def execPerstDeassert (s : State) : Out := .next (bringUp (setMod s { s.mod with perst := false }))

/-- MRESET# has been low for 1 ms: every output rail goes off, a cold reset. -/
def execMreset (s : State) : Out :=
  .next (coldReset (setMod s { s.mod with mreset := true }) .mreset)

end Sys2Proof.Machine
end

