-- ==== Sys2Proof/Machine/ShutX.lean ====
section
/-! DEFINITION. Shutdowns of functions and configuration requests (spec R386, R387, R413, R414, R582), and the deadlines
and the mode of traffic classes (R470, R475). -/
namespace Sys2Proof.Machine

/-! The shutdown (R413). -/

/-- The partitions of a function (R389). -/
def funcParts (s : State) (f : Nat) : List Nat := (List.range 64).filter (fun p => funcOf s p == f)

/-- R413 step 3, R463: of the channels that some owner has, a halted one is aborted, and a running one stops at its next
descriptor boundary. -/
def chansQuiesce (s : State) (mine : Nat → Bool) : State :=
  ((List.range 1024).filter (fun n => fbit s .CHV_CH_OWNER_VALID n && mine n)).foldl (fun s n =>
    if chState s n = chHalted then chvRecord (fset s .CHV_CH_ERR_ADDR_VALID n 0) n 0 3 0 true chIdle
    else if chState s n = chRunning then setChState s n chStopping
    else s) s

/-- Steps 2 and 3 for a partition: what has not started is dropped; a halted channel is aborted and a started COPY stops
at its next descriptor. -/
def partQuiesce (s : State) (p : Nat) : State :=
  let s := (s.cmds.filter (fun c => c.part == p && !c.started)).foldl dropCmd s
  let s := { s with intake := s.intake.filter (fun q => q.part != p) }
  let s := (s.cmds.filter (fun c => c.part == p && c.op == 0x01)).foldl copyStop s
  chansQuiesce s (fun n => !fbit s .CHV_CH_OWNER_OPER n && chPart s n == p)

/-- Steps 1 to 3 for a function whose partitions are `parts`; reads and posted writes that have not left never do, and
those that have left are not waited for by anything that remains. -/
def shutBegin (s : State) (f : Nat) (parts : List Nat) (retry : Bool) : State :=
  if s.shuts.any (fun x => x.f == f) then
    { s with shuts := s.shuts.map (fun x => if x.f = f then { x with retry := x.retry || retry } else x) }
  else
    let s := fset { s with shuts := s.shuts ++ [⟨f, parts, retry, false⟩] } .QE_FUNC_STATUS_QUIESCING f 1
    let s := setPosted { s with hreads := s.hreads.filter (fun h => h.f != f) } f []
    let s := parts.foldl partQuiesce s
    if f = 0 then chansQuiesce s (fun n => fbit s .CHV_CH_OWNER_OPER n) else s

/-- A function's configuration space returns to its reset state, but for the error status, which the standard
keeps (R386; PRESUMED, log 6). -/
def configReset (s : State) (f : Nat) : State := setFunc s f { Func.reset with aer := (getFunc s f).aer }

/-- The functions of a list shut down; their partitions are those of before. -/
def shutAll (s : State) (fs : List Nat) (retry : Bool) : State :=
  let jobs := fs.map (fun f => (f, funcParts s f))
  jobs.foldl (fun s j => shutBegin s j.1 j.2 retry) s

def vfList : List Nat := (List.range 64).map (· + 1)

/-- An FLR: of the physical function, every function's (R413). -/
def flr (s : State) (f : Nat) : State :=
  if f = 0 then (0 :: vfList).foldl configReset (shutAll s (0 :: vfList) false)
  else configReset (shutAll s [f] false) f

/-- VF Enable is cleared: every VF shuts down. -/
def vfClear (s : State) : State :=
  let s := vfList.foldl configReset (shutAll s vfList false)
  setFunc s 0 { getFunc s 0 with vfOn := false }

/-- Entry to D3hot has the effect of an FLR (R386). -/
def d3hot (s : State) (f : Nat) : State :=
  let s := flr s f
  setFunc s f { getFunc s f with d3 := true }

def execFlr (f : FuncId) (s : State) : Out := .next (flr s f)
def execD3hotEntry (f : FuncId) (s : State) : Out := .next (d3hot s f)
def execVfEnableClear (s : State) : Out := .next (vfClear s)

/-- A hot reset: every function; configuration requests are retried until the last has ended. -/
def execHotReset (s : State) : Out :=
  .next ((0 :: vfList).foldl configReset (shutAll s (0 :: vfList) true))

/-- A surprise link down. -/
def execSurpriseLinkDown (s : State) : Out :=
  let s := (0 :: vfList).foldl configReset (shutAll s (0 :: vfList) true)
  .next (setMod s { s.mod with linkUp := false, linkMode := none })

/-- Step 4: the compute resets of a function's partitions. -/
def shutResets (s : State) (x : Shutdown) : State :=
  let s := { s with shuts := s.shuts.map (fun y => if y.f = x.f then { y with resets := true } else y) }
  x.parts.foldl (fun s p => partBegin s p rcFunction false false none) s

/-- Step 5: the function's translations go, and the Invalidate Completions it holds are sent. -/
def shutAtc (s : State) (f : Nat) : State :=
  let mine := s.invals.filter (fun v => v.1 == f)
  let s := { setAtc s f [] with atsOut := s.atsOut.filter (fun x => x.1 != f), invals := s.invals.filter (fun v => v.1 != f) }
  { s with tlps := s.tlps ++ mine.map (fun v => .invalidateDone f v.2.2.2) }

/-- The class F fields of the queue engine and the mailbox. -/
def isFuncField (f : F) : Bool :=
  f.spec.cls == .F && (decide (F.num .QE_RING_SEL_RING ≤ f.num) && decide (f.num ≤ F.num .QE_FAULT_LOST_COUNT) ||
    decide (F.num .FUA_MB_CMD_OP ≤ f.num) && decide (f.num ≤ F.num .FUA_MB_RESULT_VALUE))

def isBlField (f : F) : Bool := decide (F.num .BL_CTRL_ENABLE ≤ f.num) && decide (f.num ≤ F.num .BL_POOL_SIZE_PAGES)

/-- The channels that a function's partitions own, and of the physical function those with OPER. -/
def ownsChan (s : State) (x : Shutdown) (n : Nat) : Bool :=
  fbit s .CHV_CH_OWNER_VALID n && (if fbit s .CHV_CH_OWNER_OPER n then x.f == 0 else x.parts.contains (chPart s n))

/-- Step 6: the fields of class F (R13). -/
def shutFields (s : State) (x : Shutdown) : State :=
  let s0 := s
  clearFields s (fun f i =>
    isFuncField f && (if f == .FUA_MB_ARG_VALUE then i / 4 == x.f else i == x.f) ||
    f.spec.cls == .F && isBlField f && x.parts.contains (if f == .BL_CTRL_ENABLE then i else i / 4) ||
    f.spec.cls == .F && decide (F.num .CHV_CH_CQ_BASE_ADDR ≤ f.num) && decide (f.num ≤ F.num .CHV_CH_CQ_TAIL_TAIL) &&
      ownsChan s0 x i)

/-- Step 6: a partition's rings, contexts, objects and fences (R420). -/
def shutPart (s : State) (p : Nat) : State :=
  let s := { s with rings := s.rings.filter (fun e => ringPart s e.1 != some p),
                    reqs := s.reqs.map (fun q => if ringPart s q.outRing == some p then { q with outLost := true } else q) }
  let s := ((List.range 96).filter (fun i => slotState s i != csFree && fget s .QE_CTX_SLOT_PART i == p)).foldl
    ctxSlotFree s
  let s := { s with ctxs := s.ctxs.filter (fun e => e.1 / 4096 != p), objs := s.objs.filter (fun e => e.1 / 65536 != p) }
  (fencesOf s p).foldl (fun s e => fenceChange s p e.1 { e.2 with error := true, owner := none } false) s

/-- Steps 5 to 7; nothing of the function's commands is left. -/
def shutFinish (s : State) (x : Shutdown) : State :=
  let s := { s with cmds := s.cmds.filter (fun c => !x.parts.contains c.part) }
  let s := shutFields (shutAtc s x.f) x
  let s := x.parts.foldl shutPart s
  let s := setBuf s x.f []
  let s := setMod s { s.mod with unwraps := s.mod.unwraps.filter (fun u => u.f != x.f) }
  let s := { s with msix := s.msix.filter (fun e => e.1 / 2048 != x.f), faults := s.faults.filter (fun e => e.f != x.f) }
  let s := fset { s with shuts := s.shuts.filter (fun y => y.f != x.f) } .QE_FUNC_STATUS_QUIESCING x.f 0
  finc s .QE_FUNC_STATUS_RESETS x.f

/-- A function's started transfers and TLPs have ended: step 4 begins; once its resets are over, steps 5 to 7. -/
def execShutdownResume (f : FuncId) (s : State) : Out :=
  match s.shuts.find? (fun x => x.f == (f : Nat)) with
  | none => .next s
  | some x =>
    if !x.resets then .next (shutResets s x)
    else if x.parts.any (fun p => fbit s .RST_PART_STATUS_RESETTING p) then .next s
    else patient s (fun s => .next (shutFinish s x))

/-! Configuration requests (R386, R387, R413, R414, R582). -/

/-- A function exists: the physical one, and a VF that VF Enable and NumVFs give. -/
def funcExists (s : State) (f : Nat) : Bool := f == 0 || ((getFunc s 0).vfOn && decide (f ≤ (getFunc s 0).numVfs))

/-- A read of a configuration register: the identity of R387, Bus Master Enable; what the standard's other fields hold is
open (PRESUMED, log 6). -/
def configRead (s : State) (f dword : Nat) : Nat × State :=
  if dword = 0 then (0x1F7E + 65536 * (if f = 0 then 0x7A70 else 0x7A71), s) else
  let d := draw s
  let x := d.1.toNat % 2 ^ 32
  if dword = 1 then (setBits x 2 1 (b2n (getFunc s f).bme), d.2)
  else if dword = 2 then (0x12000000 + Config.deviceRev % 256, s)
  else (x, d.2)

/-- The Link Status register: the rate's and the width's codes (R5, R583; the standard's layout, PRESUMED, log 6). -/
def linkStatus (s : State) : Nat :=
  match s.mod.linkMode with
  | none => 0
  | some (w, r) =>
    (match r with | .gt64 => 6 | .gt32 => 5 | .gt16 => 4) + 16 * (match w with | .x16 => 16 | .x8 => 8 | .x4 => 4 | .x2 => 2 | .x1 => 1)

/-- What the capabilities of R386 give, and the Device Serial Number from the fuses. -/
def configFeature (s : State) (f : Nat) (k : ConfigFeature) : Nat :=
  match k with
  | .totalVfs => 64
  | .firstVfOffset | .vfStride | .pageAligned | .ari | .functionReset => 1
  | .invalidateDepth => 32
  | .msixVectors => if f = 0 then 2048 else 64
  | .maxPayload => (getFunc s f).maxPayload
  | .maxRead => (getFunc s f).maxRead
  | .serial high => Config.serialNumber / 2 ^ (if high then 32 else 0) % 2 ^ 32

/-- A write of a configuration register. -/
def configWrite (s : State) (f : Nat) (q : ConfigReq) : State :=
  let x := getFunc s f
  match q with
  | .read _ | .linkStatus | .aerStatus | .feature _ => s
  | .payload k => setFunc s f { x with maxPayload := 128 * 2 ^ (k : Nat) }
  | .readRequest k => setFunc s f { x with maxRead := 128 * 2 ^ (k : Nat) }
  | .aerClear v => setFunc s f { x with aer := Nat.land x.aer (2 ^ 32 - 1 - v % 2 ^ 32) }
  | .busMaster b => setFunc s f { x with bme := b }
  | .relaxed b => setFunc s f { x with relaxed := b }
  | .ats b => setFunc (if b then s else setAtc s f []) f { x with ats := b }
  | .msix on mask =>
    let s := setFunc s f { x with msixOn := on, msixMask := mask }
    ((s.msix.filter (fun e => e.1 / 2048 == f)).map (fun e => e.1 % 2048)).foldl (fun s v => unmaskVector s f v) s
  | .sriov on n =>
    if f ≠ 0 then s
    else if on then setFunc s 0 { x with vfOn := true, numVfs := if x.vfOn then x.numVfs else min n 64 }
    else if x.vfOn then vfClear s
    else setFunc s 0 { x with numVfs := min n 64 }
  | .power d3 =>
    if d3 && !x.d3 then d3hot s f else setFunc s f { x with d3 := d3 }

/-- R413, R582. -/
def execConfigRequest (f : FuncId) (q : ConfigReq) (s : State) : Out :=
  let answer := fun (s : State) (retry : Bool) (v : Option Nat) => { s with tlps := s.tlps ++ [Tlp.config f retry v] }
  if s.mod.linkUp = false then .next s
  else if s.mod.ready = false ∨ s.shuts.any (·.retry) = true then .next (answer s true none)
  else if funcExists s f = false then .next (answer s false none)
  else match q with
  | .read d => let r := configRead s f d; .next (answer r.2 false (some r.1))
  | .linkStatus => .next (answer s false (some (linkStatus s)))
  | .feature k => .next (answer s false (some (configFeature s f k)))
  | .aerStatus => .next (answer s false (some (getFunc s f).aer))
  | q => .next (answer (configWrite s f q) false (some 0))

/-! Traffic classes (R470, R475). -/

/-- A write of TC_MODE.MODE. -/
def execTcModeWrite (mode : Fin 4) (s : State) : Out := .next (tcModeWrite s mode)

/-- R475: a request of real-time master m (0 forwarding, 1 completion writer, 2 token writer, 3 telemetry) reaches
DEADLINE 1. -/
def execDeadlineMiss (m : Fin 4) (s : State) : Out :=
  .next (deadlineMiss s m)

end Sys2Proof.Machine
end

