-- ==== Sys2Proof/Machine/ModX.lean ====
section
/-! DEFINITION. The module (spec R562-R588): its input, its rails, bring-up, and the I3C port. -/
namespace Sys2Proof.Machine

/-! Power (R567-R570, R578, R579). -/

/-- The management die is powered: while the rails ramp or hold, and after a trip or a rail fault. -/
def mgmtUp (s : State) : Bool := s.mod.supply != .off || s.mod.off == .trip || s.mod.off == .railShort

/-- R579: the soft ramp starts where the input is in range, EN has mated and nothing holds the rails off. -/
def startRamp (s : State) : State :=
  let m := s.mod
  if m.input && m.en && !m.mreset && m.supply == .off && m.off != .trip && m.off != .railShort && m.off != .latched then
    setModState (setMod s { m with supply := .ramping }) msPowering
  else s

/-- The input rises through 64 V; after an undervoltage or overvoltage shutdown the rule is INPUT_RECOVERED's (R567). -/
def execInputApplied (s : State) : Out :=
  let s := setMod s { s.mod with input := true }
  .next (if s.mod.off = .underVolt ∨ s.mod.off = .overVolt then s else startRamp s)

/-- R567: the input is back within 66-78 V for 100 ms. -/
def execInputRecovered (s : State) : Out := .next (startRamp (setMod s { s.mod with input := true }))

/-- R568: EN mates. -/
def execEnMate (s : State) : Out :=
  let s := setMod s { s.mod with en := true }
  .next (if s.mod.off = .underVolt ∨ s.mod.off = .overVolt then s else startRamp s)

/-- R568: EN breaks; a loss of input power (R546). -/
def execEnBreak (s : State) : Out :=
  let s := setMod s { s.mod with en := false }
  .next (if mgmtUp s || s.mod.off == .latched then coldReset s .enBreak else s)

/-- R578: MRESET# is high again and the rails have been off for 20 ms. -/
def execMresetRelease (s : State) : Out := .next (startRamp (setMod s { s.mod with mreset := false }))

/-- R579: the domains that are no region are powered; power is good. -/
def execPowerGood (s : State) : Out :=
  if s.mod.supply ≠ .ramping then .next s else
  let s := (List.range 96).foldl (fun s d => if isRegion d then s else setDom s d domOn) s
  let s := setMod s { s.mod with supply := .good }
  .next (if s.mod.perst then setModState s msResetHeld else bringUp s)

/-- R567: the input falls below 60 V; the hot-swap stage's latch clears (R569). -/
def execInputUndervoltage (s : State) : Out :=
  let s := setMod s { s.mod with input := false }
  .next (if mgmtUp s then coldReset s .underVolt else if s.mod.off = .latched then coldReset s .noInput else s)

/-- R567: the input is at 60-66 V (in mV) while the module runs. -/
def execInputLow (mv : Nat) (s : State) : Out :=
  if s.mod.supply = .off ∨ mv < 60000 ∨ 66000 ≤ mv then .next s
  else .next (fset (fset s .MOD_INPUT_VIN_MV 0 mv) .MOD_STATUS_INPUT_LOW 0 1)

/-- R567: the input has been above 80 V for 1 ms: every output rail goes off, the management rail's too; ALERT# stays
(R585). -/
def execInputOvervoltage (s : State) : Out :=
  if mgmtUp s = false then .next s else
  let s := recordFailure s fcInputOv 0
  let s := coldReset (setMod s { s.mod with input := false }) .overVolt
  .next (setMod s { s.mod with alert := true, failCode := fcInputOv })

/-- R569: an output rail fails; the management rail's fault latches everything off. -/
def execRailShort (rail : Fin 113) (s : State) : Out :=
  if mgmtUp s = false then .next s
  else if rail.val = 112 then .next (coldReset s .latched)
  else if s.mod.supply = .off then .next s
  else
    let s := railsDown s
    let s := setMod s { s.mod with supply := .off, off := .railShort, railFault := true }
    .next (setModState (recordFailure s fcRailShort rail) msRailFault)

/-- R570: a rail changes to local sense. -/
def execSenseFallback (rail : Fin 112) (s : State) : Out :=
  if s.mod.supply = .off then .next s
  else if rail.val < 64 then .next (fsetBit s .MOD_SENSE0_RAILS 0 rail true)
  else .next (fsetBit s .MOD_SENSE1_RAILS 0 (rail - 64) true)

/-- R564: the coolant's temperatures, in °C. -/
def execCoolantSample (inlet outlet : Fin 256) (s : State) : Out :=
  if mgmtUp s = false then .next s else
  let s := fset (fset s .MOD_COOLANT_INLET 0 inlet) .MOD_COOLANT_OUTLET 0 outlet
  .next (if 45 < inlet.val ∨ inlet.val + 30 < outlet.val then assertAlert (fset s .MOD_STATUS_COOLANT_HOT 0 1) else s)

/-- R577. -/
def execMclkLoss (s : State) : Out := .next (if mgmtUp s then fset s .MOD_STATUS_MCLK_INTERNAL 0 1 else s)

/-! Bring-up (R499, R500, R581-R583). -/

/-- The module stays out of ready with its link in Detect (R583). -/
def bootFail (s : State) (code detail : Nat) : State :=
  setModState (recordFailure (setMod s { s.mod with linkUp := false, linkMode := none }) code detail) msBootFailed

/-- R500: a bank that did not reach ready since it was activated gives way to the other at the next reset. -/
def pickBank (s : State) : State :=
  let m := s.mod
  if m.pending && m.tried then setMod s { m with bootBank := 1 - m.bootBank, pending := false, tried := false }
  else setMod s { m with tried := m.pending }

/-- R499: the boot ROM has checked the bank, and where it fails the other. -/
def execBootCheckDone (s : State) : Out :=
  if modState s ≠ msBooting ∨ s.mod.romBank.isSome = true ∨ s.mod.romFailed = true then .next s else
  let s := pickBank s
  let b := s.mod.bootBank
  if imageValid s b then .next (fset (setMod s { s.mod with romBank := some b }) .FUA_BOOT_STATUS_FALLBACK 0 0)
  else if imageValid s (1 - b) then .next (fset (setMod s { s.mod with romBank := some (1 - b) }) .FUA_BOOT_STATUS_FALLBACK 0 1)
  else .next (bootFail (setMod s { s.mod with romFailed := true }) fcBothBanks 0)

def stackTries (s : State) (h : Nat) : Nat := SMap.get (fun _ => 0) s.mod.tries h

/-- R581, R583: a stack ends a training. -/
def execHbmTrainDone (h : Die) (ok : Bool) (s : State) : Out :=
  if modState s ≠ msBooting ∨ fbit s .HBM_STATUS_TRAINED h = true then .next s
  else if ok then .next (fset s .HBM_STATUS_TRAINED h 1)
  else
    let s := setMod s { s.mod with tries := SMap.set (fun _ => 0) s.mod.tries h (stackTries s h + 1) }
    .next (if 2 ≤ stackTries s h then bootFail s fcHbmTrain h else s)

/-- The widths and rates at which the link may train (R5). -/
def linkModes : List (LinkWidth × LinkRate) :=
  [LinkWidth.x16, .x8, .x4, .x2, .x1].flatMap (fun w => [LinkRate.gt64, .gt32, .gt16].map (fun r => (w, r)))

/-- R581, R583: the PCIe link reaches L0, at a width and rate that the other end decides too (DESIGN CHOICE, log 130). -/
def execPcieLinkUp (s : State) : Out :=
  let st := modState s
  if s.mod.supply ≠ .good ∨ s.mod.perst = true ∨ st = msBootFailed then .next s else
  let d := draw s
  let s := setMod d.2 { d.2.mod with linkUp := true, linkMode := linkModes[d.1.toNat % 15]? }
  .next (if st = msReadyNoLink then setModState s msReady else s)

/-- R133, R579, R581: the firmware starts: the regions are powered with the fence list applied, every slice is FREE, the
conductor firmware is in control memory (its bytes are the sender's), and the newest entry of the fault log is loaded
(R588). -/
def execFirmwareStart (image : List (Nat × List Byte)) (s : State) : Out :=
  if modState s ≠ msBooting ∨ s.mod.romBank = none ∨ s.mod.started = true ∨
      (List.range 16).all (fun h => fbit s .HBM_STATUS_TRAINED h) = false then .next s
  else
    let s := setMod s { s.mod with started := true }
    let s := (List.range 96).foldl (fun s d => if isRegion d then regionOn s d else s) s
    let s := (List.range 256).foldl (fun s k => setSlice s k slFree) s
    let s := image.foldl (fun s e =>
      match regionOf e.1, regionOf (e.1 + e.2.length - 1) with
      | .control j, .control k => if j = k then { s with mem := Bytes.write s.mem e.1 e.2 } else s
      | _, _ => s) s
    let s := match s.mod.faultLog.getLast? with
      | some x => fset (fset s .MOD_LAST_FAULT_CODE 0 x.1) .MOD_LAST_FAULT_DETAIL 0 x.2.1
      | none => s
    .next (setModState s msScrubbing)

/-- Some domain reads above 95 °C. -/
def anyHot (s : State) : Bool := (List.range 96).any (fun d => decide (95 < fget s .PWR_DOM_STATUS_TEMP d))

/-- R581, R583: the last step of bring-up, again while a sensor holds it. -/
def execBringupReady (s : State) : Out :=
  if modState s ≠ msScrubbing ∧ modState s ≠ msHeldHot then .next s else
  let s := tcModeWrite s 1
  if anyHot s then .next (setModState s msHeldHot) else
  let m := s.mod
  let done := m.pending && m.romBank == some m.bootBank
  let s := setMod s { m with ready := true, pending := if done then false else m.pending, tried := if done then false else m.tried }
  .next (setModState s (if m.linkUp then msReady else msReadyNoLink))

/-! The I3C port (R584-R587).  A controller's answers go to `mod.sent`. -/

/-- The I3C port, endpoint 65, answers. -/
def reply (s : State) (b : List Byte) : State := setMod s { s.mod with sent := s.mod.sent ++ [(65, b)] }

/-- The target's provisional ID, BCR and DCR: values of its own (PRESUMED, log 34). -/
def i3cBytes (first n : Nat) : List Byte := (List.range n).map (fun i => BitVec.ofNat 8 (Config.i3cId (first + i)))

/-- The static address (R584). -/
def staticAddr (s : State) : Nat := 0x30 + s.mod.straps % 4

/-- The target answers what is sent to an address. -/
def addressed (s : State) (a : Nat) : Bool := mgmtUp s && s.mod.i3cAddr == some a

/-- ENTDAA: a target without a dynamic address sends its identity and takes the one it is given. -/
def execEntdaa (addr : Fin 128) (s : State) : Out :=
  if mgmtUp s && s.mod.i3cAddr == none then
    .next (setMod (reply s (i3cBytes 0 8)) { (reply s (i3cBytes 0 8)).mod with i3cAddr := some addr })
  else .next s

/-- SETDASA: by its static address. -/
def execSetdasa (static addr : Fin 128) (s : State) : Out :=
  if mgmtUp s && s.mod.i3cAddr == none && static.val == staticAddr s then .next (setMod s { s.mod with i3cAddr := some addr })
  else .next s

def execRstdaa (s : State) : Out := .next (if mgmtUp s then setMod s { s.mod with i3cAddr := none } else s)

def execGetpid (addr : Fin 128) (s : State) : Out := .next (if addressed s addr then reply s (i3cBytes 0 6) else s)
def execGetbcr (addr : Fin 128) (s : State) : Out := .next (if addressed s addr then reply s (i3cBytes 6 1) else s)
def execGetdcr (addr : Fin 128) (s : State) : Out := .next (if addressed s addr then reply s (i3cBytes 7 1) else s)

/-- GETSTATUS: two bytes the spec does not give (PRESUMED, log 34). -/
def execGetstatus (addr : Fin 128) (s : State) : Out :=
  if addressed s addr then let d := draw s; .next (reply d.2 (leBytes 2 d.1.toNat)) else .next s

/-- ENEC and DISEC, to one target or (none) to all: bit 0 names in-band interrupts (R585). -/
def ibiSet (s : State) (target : Option (Fin 128)) (events : Nat) (on : Bool) : State :=
  let mine := match target with
    | none => mgmtUp s
    | some a => addressed s a
  if mine && bit events 0 then setMod s { s.mod with ibiOn := on } else s

def execEnec (target : Option (Fin 128)) (events : Nat) (s : State) : Out := .next (ibiSet s target events true)
def execDisec (target : Option (Fin 128)) (events : Nat) (s : State) : Out := .next (ibiSet s target events false)

/-- A management message's answer: its type, the vendor ID, the command, and the fields of R586 in order, little-endian
(PRESUMED, log 34). -/
def mgmtReply (s : State) (cmd : Nat) (body : List Byte) : State :=
  reply s ([0x7E, 0x1F, 0x7E, BitVec.ofNat 8 cmd] ++ body)

def execGetState (s : State) : Out :=
  if mgmtUp s = false then .next s else
  .next (mgmtReply s 1 (leBytes 1 (modState s) ++ leBytes 1 s.mod.failCode ++ leBytes 1 s.mod.failDetail ++
    leBytes 4 (readPf s 0x10040 4) ++ leBytes 4 (readPf s 0x10800 4)))

def execGetTelemetry (s : State) : Out :=
  if mgmtUp s = false then .next s else
  .next (mgmtReply s 2 (leBytes 8 (readPf s 0x10808 8) ++ leBytes 4 (readPf s 0x10810 4) ++ leBytes 4 (readPf s 0x500050 4) ++
    leBytes 4 (readPf s 0x500000 4) ++ leBytes 8 (readPf s 0x500010 8)))

def execSetCap (watts : Fin 65536) (s : State) : Out :=
  if mgmtUp s = false then .next s else
  let s := capWrite s watts
  .next (mgmtReply s 3 (leBytes 4 (readPf s 0x500000 4)))

/-- WARM_RESET: acknowledged; the warm reset follows, but for what PERST# already does (R583), or where the rails are off. -/
def execWarmReset (s : State) : Out :=
  if mgmtUp s = false then .next s else
  let s := mgmtReply s 4 []
  .next (if s.mod.perst || s.mod.supply != .good then s else bringUp (warmReset s))

/-- CLEAR_ALERT: a trip or a rail fault holds ALERT# (R585). -/
def execClearAlert (s : State) : Out :=
  if mgmtUp s = false then .next s else
  let held := fbit s .PWR_EVENTS_TRIP || s.mod.railFault
  let s := setMod s { s.mod with alert := s.mod.alert && held }
  .next (mgmtReply s 5 (leBytes 1 (b2n s.mod.alert)))

def execGetFaultLog (s : State) : Out :=
  if mgmtUp s = false then .next s else
  let log := s.mod.faultLog.drop (s.mod.faultLog.length - 8)
  .next (mgmtReply s 6 (log.flatMap (fun e => leBytes 1 e.1 ++ leBytes 1 e.2.1 ++ leBytes 4 e.2.2)))

end Sys2Proof.Machine
end

