-- ==== Sys2Proof/Machine/RegX.lean ====
section
/-! DEFINITION. The host's register accesses (spec R10-R12, R388, R395, R418, R589-R602). -/
namespace Sys2Proof.Machine

/-- The endpoint takes a function's memory requests: it is ready, the link is up, and the function exists in D0 (R386,
R389, R582). -/
def hostOk (s : State) (f : Nat) : Bool := s.mod.ready && s.mod.linkUp && funcExists s f && !(getFunc s f).d3

/-! MSI-X tables (R388, R391, R418). -/

/-- A 32-bit word of a function's table: address, data, mask. -/
def msixWord (s : State) (f d v : Nat) : State :=
  let e := getMsix s f (d / 4)
  match d % 4 with
  | 0 => setMsix s f (d / 4) { e with addr := e.addr / 2 ^ 32 * 2 ^ 32 + v / 4 * 4 }
  | 1 => setMsix s f (d / 4) { e with addr := e.addr % 2 ^ 32 + v * 2 ^ 32 }
  | 2 => setMsix s f (d / 4) { e with data := v }
  | _ => unmaskVector (setMsix s f (d / 4) { e with masked := bit v 0 }) f (d / 4)

/-- An aligned write of 4 or 8 bytes of the table. -/
def msixWrite (s : State) (f off n v : Nat) : State :=
  if n = 4 ∧ off % 4 = 0 then msixWord s f (off / 4) (v % 2 ^ 32)
  else if n = 8 ∧ off % 8 = 0 then msixWord (msixWord s f (off / 4) (v % 2 ^ 32)) f (off / 4 + 1) (v / 2 ^ 32 % 2 ^ 32)
  else s

/-! A virtual function's BAR0 (R388, R418, R602). -/

/-- The instance of a register of function f that a row of its control page selects. -/
def vfInstance (r : RegRow) (f i : Nat) : Nat := if r.dims = [] then f else 4 * f + i

/-- A doorbell: a write of 4 or 8 bytes at offset 0 of a 64-byte slot uses its low half (R395). -/
def slotWrite (s : State) (f ring off n v : Nat) : State :=
  if off % 64 = 0 ∧ (n = 4 ∨ n = 8) then doorbellOf s f ring (v % 2 ^ 32) else s

def writeVf (s : State) (f off n v : Nat) : State :=
  if 0x10000 ≤ off then slotWrite s f ((off - 0x10000) / 64) off n v
  else if 0x1000 ≤ off ∧ off < 0x2000 then bufWrite s f (off - 0x1000) n v
  else if 0x8000 ≤ off ∧ off < 0x8400 then msixWrite s f (off - 0x8000) n v
  else match findReg vfRows off with
    | some (r, i, k) =>
      let v := if r.fields = [.QE_RING_SEL_RING] then v % 65536 else v
      if sizeOk r off k n then regFieldsWrite s (.vf (Fin.ofNat 64 (f - 1))) r (vfInstance r f i) k n v else s
    | none => s

/-- R12: a write to a register by a host function or, through the alias of R591, by a device agent. -/
def execRegisterWrite (path : RegPath) (off bytes value : Nat) (s : State) : Out :=
  match path with
  | .pf0 =>
    if hostOk s 0 = false then .next s
    else if 0x900000 ≤ off ∧ off < 0x908000 then .next (msixWrite s 0 (off - 0x900000) bytes value)
    else patient s (fun s => .next (settle (writePf s .pf0 off bytes value)))
  | .pf2 => if hostOk s 0 then .next (slotWrite s 0 (off / 64) off bytes value) else .next s
  | .vf v => if hostOk s (v + 1) then .next (writeVf s (v + 1) off bytes value) else .next s
  | .device w => patient s (fun s => .next (settle (devWrite s w (regBase + off) (leBytes bytes value))))

/-! Reads.  The table has no row for one: a device agent's reads are part of its own commands, and a host's change
nothing but COMP_NOTICE (R593), which has its row. -/

/-- R418: a virtual function's read of its status register. -/
def vfStatus (s : State) (f : Nat) : Nat :=
  let serves := vfServes s (f - 1)
  let n := fget s .QE_PART_RINGS_COUNT (f - 1)
  (if serves then f - 1 else 0) + 64 * b2n serves + 128 * b2n (quiescing s f) + 256 * b2n (serves && n != 0) +
    65536 * (if serves then n - 1 else 0)

/-- A read of a function's MSI-X table, or, from `pba` on, of its pending bits (R388, R391). -/
def msixRead (s : State) (f vectors pba off n : Nat) : Nat :=
  if (n ≠ 4 ∧ n ≠ 8) ∨ off % n ≠ 0 then 0
  else if off < 16 * vectors then
    let word := fun (d : Nat) =>
      let e := getMsix s f (d / 4)
      match d % 4 with
      | 0 => e.addr % 2 ^ 32
      | 1 => e.addr / 2 ^ 32
      | 2 => e.data
      | _ => b2n e.masked
    word (off / 4) + (if n = 8 then 2 ^ 32 * word (off / 4 + 1) else 0)
  else if pba ≤ off then
    (List.range (8 * n)).foldl (fun v i =>
      let k := 8 * (off - pba) + i
      if k < vectors ∧ (getMsix s f k).pending = true then v + 2 ^ i else v) 0
  else 0

/-- A read of a virtual function's BAR0 (R388, R395, R418, R590, R602). -/
def readVf (s : State) (f off n : Nat) : Nat :=
  if 0x10000 ≤ off then
    let ring := (off - 0x10000) / 64
    if off % 64 = 0 ∧ (n = 4 ∨ n = 8) ∧ vfServes s (f - 1) = true ∧ ring < fget s .QE_PART_RINGS_COUNT (f - 1) then
      doorbellValue s (globalRing s (f - 1) ring) else 0
  else if 0x1000 ≤ off ∧ off < 0x2000 then
    (if (n = 4 ∨ n = 8) ∧ off % n = 0 then Bytes.le (getBuf s f) (off - 0x1000) n else 0)
  else if 0x8000 ≤ off ∧ off < 0x8408 then msixRead s f 64 0x400 (off - 0x8000) n
  else if off = 0 then (if n = 4 then vfStatus s f else 0)
  else if off = 0x10 then (if n = 4 then fget s .QE_FUNC_STATUS_DB_DROPS f else 0)
  else match findReg vfRows off with
    | some (r, i, k) => if sizeOk r off k n then regValue s r (vfInstance r f i) / 2 ^ (8 * k) % 2 ^ (8 * n) else 0
    | none => match findReg vfTroubleRows off with
      | some (r, _, k) => if vfServes s (f - 1) && sizeOk r off k n then regValue s r (f - 1) / 2 ^ (8 * k) % 2 ^ (8 * n) else 0
      | none => 0

/-- A host's read of n bytes (R388, R593). -/
def readHost (s : State) (path : RegPath) (off n : Nat) : Nat :=
  match path with
  | .pf0 =>
    if 0x900000 ≤ off ∧ off < 0x908100 then msixRead s 0 2048 0x8000 (off - 0x900000) n else readPf s off n
  | .pf2 => if off % 64 = 0 ∧ (n = 4 ∨ n = 8) then doorbellValue s (off / 64) else 0
  | .vf v => readVf s (v + 1) off n
  | .device _ => readPf s off n

end Sys2Proof.Machine
end

