-- ==== Sys2Proof/Machine/SignalX.lean ====
section
/-! DEFINITION. The delivery of signal messages, and what the composer and the serving loops do with those they get (spec
R121-R125, R330, R345, R353). -/
namespace Sys2Proof.Machine

/-- What a loop does with a message of the composer (R330, R345, R353, R356). -/
def loopTake (s : State) (m : Signal) : State :=
  let f := fun (j : Nat) => (m.payload.getD j 0).toNat
  let i := f 0 % 256
  let code := f 0 / 256
  match slotService s i with
  | none => s
  | some v =>
    if code = lmRebind then
      let ks := mapLocal s (mapEntries s (fget s .COMP_MAP_NEXT_OFF i) (fget s .COMP_MAP_NEXT_LEN i))
      setService s { v with rebind := some (slotSlices s i slStaged, (slotSlices s i slActive).filter (fun k => !ks.contains k)) }
    else if code = lmCancel then setService s { v with rebind := none }
    else if code = lmNotice then loopNotice s v (noticeOf (f 1 + 2 ^ 32 * f 2))
    else setService s { v with stopping := some (code == lmGraceful, (v.stopping.map (·.2)).getD []) }

/-- What the composer does with a message of a loop whose partition holds the slot it names: a READY is counted, a RECALLED
goes on as a notice, here and to the pool's module (R345, R353); the others it keeps until it acts on them. -/
def composerTake (s : State) (m : Signal) : State :=
  let f := fun (j : Nat) => (m.payload.getD j 0).toNat
  let i := f 0 % 256
  let code := f 0 / 256
  let mine := m.cls == clsNotify && slotState' s i != ctFree && fget s .COMP_CONSIST_ID_PART i == m.part
  if mine && code == cmReady then ownReady s i (f 1) (f 2)
  else if mine && code == cmRecalled then
    let n : Notice := ⟨3, f 1 % 256, f 2 % 1024, fget s .COMP_CONSIST_ID_ID i⟩
    sendNotice (takeNotice s n) n.dev n
  else { s with mdSigs := s.mdSigs ++ [m] }

/-- A message reaches its stop (R122, R123): a station stop, every station stop of its partition, a conductor's
receive queue (`core` names which of the four) or, where the composer sent it, the loop that runs there, the management die,
or another stop. -/
def deliverTo (s : State) (m : Signal) (composer : Bool) (core : Nat) : State :=
  if m.stop = mdStop then composerTake s m
  else if m.stop = 31 then
    let ks := (List.range 16).filter (fun i => boundTo s (16 * m.die + i) == some m.part)
    { s with stopSigs := s.stopSigs ++ ks.map (fun i => (m.die, stnJunction i, m)) }
  else if m.stop = ccStop ∧ composer = true then loopTake s m
  else if m.stop = ccStop then
    let g := 4 * m.die + core % 4
    cndWake (setRxq s g (getRxq s g ++ [m])) g
  else match stopStation m.die m.stop with
  | some k =>
    if stopDiscards s k m then fsat s .SIG_DROPPED_COUNT m.die
    else { s with stopSigs := s.stopSigs ++ [(m.die, m.stop, m)] }
  | none => { s with stopSigs := s.stopSigs ++ [(m.die, m.stop, m)] }

/-- R124: a stop has at most two messages of each class in the network; any further one waits outside it. -/
def inNetwork (s : State) (index : Nat) : Bool :=
  match s.sigs[index]? with
  | some x => decide (((s.sigs.take index).filter (fun y =>
      y.srcDie == x.srcDie && y.srcStop == x.srcStop && y.msg.cls == x.msg.cls)).length < 2)
  | none => false

/-- The composer sent a message. -/
def fromComposer (x : SigMsg) : Bool := x.msg.cls == clsCompose && x.srcDie == 16 && x.srcStop == mdStop

/-- R323: a full receive queue of 16 holds a message in the network. -/
def deliverable (s : State) (m : Signal) (composer : Bool) (core : Nat) : Bool :=
  m.stop != ccStop || composer || decide ((getRxq s (4 * m.die + core % 4)).length < 16)

/-- R121-R125: a message of the network is delivered to its stop. -/
def execSignalDeliver (index latency : Nat) (late : Bool) (core : Nat) (s : State) : Out :=
  match s.sigs[index]? with
  | some x =>
    if inNetwork s index && deliverable s x.msg (fromComposer x) core then
      let s := { s with sigs := s.sigs.eraseIdx index }
      let s := if x.msg.stop = mdStop then s else recordLatency s x.msg.die x.msg.cls latency late
      .next (deliverTo s x.msg (fromComposer x) core)
    else .next s
  | none => .next s

end Sys2Proof.Machine
end

