-- ==== Sys2Proof/Machine/Dispatch.lean ====
section
/-! DEFINITION. The dispatch: one arm per command, each one call of the command's meaning. -/
namespace Sys2Proof.Machine

/-- A command's effect on everything but the queue. -/
def exec (i : Instr) (s : State) : Host.Outcome State Fault Refusal :=
  match i with
  | .registerWrite path off bytes value => Sys2Proof.Machine.execRegisterWrite path off bytes value s
  | .sageNop c ecc => Sys2Proof.Machine.execSageNop c ecc s
  | .illegalOp c ecc => Sys2Proof.Machine.execIllegalOp c ecc s
  | .tld c ecc => Sys2Proof.Machine.execTld c ecc s
  | .tst c ecc => Sys2Proof.Machine.execTst c ecc s
  | .ald c ecc => Sys2Proof.Machine.execAld c ecc s
  | .ast c ecc => Sys2Proof.Machine.execAst c ecc s
  | .sld c ecc => Sys2Proof.Machine.execSld c ecc s
  | .sst c ecc => Sys2Proof.Machine.execSst c ecc s
  | .pref c ecc => Sys2Proof.Machine.execPref c ecc s
  | .mma c ecc => Sys2Proof.Machine.execMma c ecc s
  | .mmax c ecc => Sys2Proof.Machine.execMmax c ecc s
  | .zeroReg c ecc => Sys2Proof.Machine.execZeroReg c ecc s
  | .tmov c ecc => Sys2Proof.Machine.execTmov c ecc s
  | .cvt c ecc => Sys2Proof.Machine.execCvt c ecc s
  | .dq c ecc => Sys2Proof.Machine.execDq c ecc s
  | .vop c ecc => Sys2Proof.Machine.execVop c ecc s
  | .vfma c ecc => Sys2Proof.Machine.execVfma c ecc s
  | .vun c ecc => Sys2Proof.Machine.execVun c ecc s
  | .vact c ecc => Sys2Proof.Machine.execVact c ecc s
  | .vsel c ecc => Sys2Proof.Machine.execVsel c ecc s
  | .vrot c ecc => Sys2Proof.Machine.execVrot c ecc s
  | .red c ecc => Sys2Proof.Machine.execRed c ecc s
  | .smx c ecc => Sys2Proof.Machine.execSmx c ecc s
  | .smxf c ecc => Sys2Proof.Machine.execSmxf c ecc s
  | .flush c ecc => Sys2Proof.Machine.execFlush c ecc s
  | .sageFence c ecc => Sys2Proof.Machine.execSageFence c ecc s
  | .rel c ecc => Sys2Proof.Machine.execRel c ecc s
  | .acq c ecc => Sys2Proof.Machine.execAcq c ecc s
  | .atom c ecc => Sys2Proof.Machine.execAtom c ecc s
  | .cas c ecc => Sys2Proof.Machine.execCas c ecc s
  | .salu c ecc => Sys2Proof.Machine.execSalu c ecc s
  | .smov c ecc => Sys2Proof.Machine.execSmov c ecc s
  | .amov c ecc => Sys2Proof.Machine.execAmov c ecc s
  | .movsr c ecc => Sys2Proof.Machine.execMovsr c ecc s
  | .br c ecc => Sys2Proof.Machine.execBr c ecc s
  | .loopOp c ecc => Sys2Proof.Machine.execLoopOp c ecc s
  | .waitr c ecc => Sys2Proof.Machine.execWaitr c ecc s
  | .waitrPollRead c => Sys2Proof.Machine.execWaitrPollRead c s
  | .waitrTimeout c => Sys2Proof.Machine.execWaitrTimeout c s
  | .bar c ecc => Sys2Proof.Machine.execBar c ecc s
  | .barrierRelease c remoteArrived => Sys2Proof.Machine.execBarrierRelease c remoteArrived s
  | .endProg c ecc => Sys2Proof.Machine.execEndProg c ecc s
  | .sageAccessComplete c slot how => Sys2Proof.Machine.execSageAccessComplete c slot how s
  | .launchAssign c r => Sys2Proof.Machine.execLaunchAssign c r s
  | .loadComplete c => Sys2Proof.Machine.execLoadComplete c s
  | .coreDrained c => Sys2Proof.Machine.execCoreDrained c s
  | .coreFence c => Sys2Proof.Machine.execCoreFence c s
  | .coreRelease c => Sys2Proof.Machine.execCoreRelease c s
  | .composeBindStation k => Sys2Proof.Machine.execComposeBindStation k s
  | .bindingReply k => Sys2Proof.Machine.execBindingReply k s
  | .stationMeshAccess k a corrected => Sys2Proof.Machine.execStationMeshAccess k a corrected s
  | .meshPacketHop d junction p ecc => Sys2Proof.Machine.execMeshPacketHop d junction p ecc s
  | .signalDeliver index latency late core => Sys2Proof.Machine.execSignalDeliver index latency late core s
  | .kvgDoorbell k ring tail => Sys2Proof.Machine.execKvgDoorbell k ring tail s
  | .kvgFetch k peers => Sys2Proof.Machine.execKvgFetch k peers s
  | .kvgWrite k => Sys2Proof.Machine.execKvgWrite k s
  | .kvgMark k => Sys2Proof.Machine.execKvgMark k s
  | .kvgRseedWrite k seed => Sys2Proof.Machine.execKvgRseedWrite k seed s
  | .ptsDoorbell d r tail => Sys2Proof.Machine.execPtsDoorbell d r tail s
  | .route d sub answers lost => Sys2Proof.Machine.execRoute d sub answers lost s
  | .pointsCombine d r order peers => Sys2Proof.Machine.execPointsCombine d r order peers s
  | .partialTimeout d r order peers => Sys2Proof.Machine.execPartialTimeout d r order peers s
  | .blDoorbell u r tail => Sys2Proof.Machine.execBlDoorbell u r tail s
  | .build x => Sys2Proof.Machine.execBuild x s
  | .accept x => Sys2Proof.Machine.execAccept x s
  | .commit x => Sys2Proof.Machine.execCommit x s
  | .blCancel x => Sys2Proof.Machine.execBlCancel x s
  | .submit idx prompt ext emitted fail => Sys2Proof.Machine.execSubmit idx prompt ext emitted fail s
  | .requestCancel idx => Sys2Proof.Machine.execRequestCancel idx s
  | .stepBoundary p sub results plan draw => Sys2Proof.Machine.execStepBoundary p sub results plan draw s
  | .grantRetry p sub plan => Sys2Proof.Machine.execGrantRetry p sub plan s
  | .spillComplete p sub n plan peers => Sys2Proof.Machine.execSpillComplete p sub n plan peers s
  | .importComplete n peers => Sys2Proof.Machine.execImportComplete n peers s
  | .exportComplete n peers => Sys2Proof.Machine.execExportComplete n peers s
  | .hbmAccess a cls queues aged ecc => Sys2Proof.Machine.execHbmAccess a cls queues aged ecc s
  | .fbLevelFall home occupancy => Sys2Proof.Machine.execFbLevelFall home occupancy s
  | .patrolRead d line ecc last => Sys2Proof.Machine.execPatrolRead d line ecc last s
  | .scrubStart k => Sys2Proof.Machine.execScrubStart k s
  | .scrubComplete k => Sys2Proof.Machine.execScrubComplete k s
  | .pinWaysWrite k ways => Sys2Proof.Machine.execPinWaysWrite k ways s
  | .dillDeclare m w addr => Sys2Proof.Machine.execDillDeclare m w addr s
  | .warmStreamDone idx rows => Sys2Proof.Machine.execWarmStreamDone idx rows s
  | .prefetchIssue idx core => Sys2Proof.Machine.execPrefetchIssue idx core s
  | .prefetchFill idx => Sys2Proof.Machine.execPrefetchFill idx s
  | .laneRetire idx core => Sys2Proof.Machine.execLaneRetire idx core s
  | .riscvInstruction x ecc peer => Sys2Proof.Machine.execRiscvInstruction x ecc peer s
  | .fenceI x => Sys2Proof.Machine.execFenceI x s
  | .conductorFence x => Sys2Proof.Machine.execConductorFence x s
  | .conductorAmo x ecc => Sys2Proof.Machine.execConductorAmo x ecc s
  | .conductorLr x ecc => Sys2Proof.Machine.execConductorLr x ecc s
  | .conductorSc x ecc => Sys2Proof.Machine.execConductorSc x ecc s
  | .lrDeferExpire g => Sys2Proof.Machine.execLrDeferExpire g s
  | .sigsend x => Sys2Proof.Machine.execSigsend x s
  | .sigrecv x => Sys2Proof.Machine.execSigrecv x s
  | .wfs x => Sys2Proof.Machine.execWfs x s
  | .wfsTimeout g => Sys2Proof.Machine.execWfsTimeout g s
  | .psort x => Sys2Proof.Machine.execPsort x s
  | .sortComplete d => Sys2Proof.Machine.execSortComplete d s
  | .machineTimerInterrupt g => Sys2Proof.Machine.execMachineTimerInterrupt g s
  | .gets h l part oper rivals => Sys2Proof.Machine.execGets h l part oper rivals s
  | .getx h l part oper want => Sys2Proof.Machine.execGetx h l part oper want s
  | .upgrade h l tag want => Sys2Proof.Machine.execUpgrade h l tag want s
  | .putm h l => Sys2Proof.Machine.execPutm h l s
  | .putc h l => Sys2Proof.Machine.execPutc h l s
  | .readnc q => Sys2Proof.Machine.execReadnc q s
  | .writenc q => Sys2Proof.Machine.execWritenc q s
  | .atomicnc q => Sys2Proof.Machine.execAtomicnc q s
  | .snoopResponse h line => Sys2Proof.Machine.execSnoopResponse h line s
  | .writebackRetired line => Sys2Proof.Machine.execWritebackRetired line s
  | .dirRetry line => Sys2Proof.Machine.execDirRetry line s
  | .cndSwitch g => Sys2Proof.Machine.execCndSwitch g s
  | .cndRun g run => Sys2Proof.Machine.execCndRun g run s
  | .ctlLock d => Sys2Proof.Machine.execCtlLock d s
  | .bind => Sys2Proof.Machine.execBind  s
  | .release => Sys2Proof.Machine.execRelease  s
  | .form => Sys2Proof.Machine.execForm  s
  | .rebind => Sys2Proof.Machine.execRebind  s
  | .rebindReady idx => Sys2Proof.Machine.execRebindReady idx s
  | .memberReady idx dev crc step => Sys2Proof.Machine.execMemberReady idx dev crc step s
  | .epochSwitch idx => Sys2Proof.Machine.execEpochSwitch idx s
  | .epochDrained idx reported => Sys2Proof.Machine.execEpochDrained idx reported s
  | .drainLimitExpire idx => Sys2Proof.Machine.execDrainLimitExpire idx s
  | .dissolve => Sys2Proof.Machine.execDissolve  s
  | .dissolveLimitExpire p sub => Sys2Proof.Machine.execDissolveLimitExpire p sub s
  | .lend => Sys2Proof.Machine.execLend  s
  | .withdraw => Sys2Proof.Machine.execWithdraw  s
  | .withdrawRecallTimeout => Sys2Proof.Machine.execWithdrawRecallTimeout  s
  | .role => Sys2Proof.Machine.execRole  s
  | .noticeReceive kind slice dev consist => Sys2Proof.Machine.execNoticeReceive kind slice dev consist s
  | .compNoticeRead => Sys2Proof.Machine.execCompNoticeRead  s
  | .blyLockWrite => Sys2Proof.Machine.execBlyLockWrite  s
  | .portEnable p en => Sys2Proof.Machine.execPortEnable p en s
  | .retrain p => Sys2Proof.Machine.execRetrain p s
  | .presenceChange p low => Sys2Proof.Machine.execPresenceChange p low s
  | .trainingComplete p half dev peer => Sys2Proof.Machine.execTrainingComplete p half dev peer s
  | .trainingTimeout p => Sys2Proof.Machine.execTrainingTimeout p s
  | .flitReceive p f => Sys2Proof.Machine.execFlitReceive p f s
  | .replayTimeout p => Sys2Proof.Machine.execReplayTimeout p s
  | .lossOfSignal p => Sys2Proof.Machine.execLossOfSignal p s
  | .autoRetrain p => Sys2Proof.Machine.execAutoRetrain p s
  | .linkdown p c => Sys2Proof.Machine.execLinkdown p c s
  | .linkup p c => Sys2Proof.Machine.execLinkup p c s
  | .packetForward p k => Sys2Proof.Machine.execPacketForward p k s
  | .blyRead p k => Sys2Proof.Machine.execBlyRead p k s
  | .blyWrite p k => Sys2Proof.Machine.execBlyWrite p k s
  | .blyAtomic p k => Sys2Proof.Machine.execBlyAtomic p k s
  | .blyReadResp p k => Sys2Proof.Machine.execBlyReadResp p k s
  | .blyWriteAck p k => Sys2Proof.Machine.execBlyWriteAck p k s
  | .blyAtomicResp p k => Sys2Proof.Machine.execBlyAtomicResp p k s
  | .blySignal p k => Sys2Proof.Machine.execBlySignal p k s
  | .remoteTimeout idx => Sys2Proof.Machine.execRemoteTimeout idx s
  | .tagQuarantineEnd idx => Sys2Proof.Machine.execTagQuarantineEnd idx s
  | .doorbell f ring value => Sys2Proof.Machine.execDoorbell f ring value s
  | .ringConfigure f => Sys2Proof.Machine.execRingConfigure f s
  | .ringDisable f => Sys2Proof.Machine.execRingDisable f s
  | .ringRead f => Sys2Proof.Machine.execRingRead f s
  | .ringDrained r => Sys2Proof.Machine.execRingDrained r s
  | .descriptorFetch r => Sys2Proof.Machine.execDescriptorFetch r s
  | .descriptorArrive idx data => Sys2Proof.Machine.execDescriptorArrive idx data s
  | .qeNop idx => Sys2Proof.Machine.execQeNop idx s
  | .copy idx => Sys2Proof.Machine.execCopy idx s
  | .copyChannelAssign idx => Sys2Proof.Machine.execCopyChannelAssign idx s
  | .launch idx => Sys2Proof.Machine.execLaunch idx s
  | .serve n bundle => Sys2Proof.Machine.execServe n bundle s
  | .stop idx => Sys2Proof.Machine.execStop idx s
  | .hint idx => Sys2Proof.Machine.execHint idx s
  | .interruptModerationTimer r => Sys2Proof.Machine.execInterruptModerationTimer r s
  | .atsTranslationComplete f addr size target r w => Sys2Proof.Machine.execAtsTranslationComplete f addr size target r w s
  | .invalidateRequest f addr size tag => Sys2Proof.Machine.execInvalidateRequest f addr size tag s
  | .invalidateComplete idx => Sys2Proof.Machine.execInvalidateComplete idx s
  | .hostReadCompletion idx data => Sys2Proof.Machine.execHostReadCompletion idx data s
  | .completionTimeout idx => Sys2Proof.Machine.execCompletionTimeout idx s
  | .flr f => Sys2Proof.Machine.execFlr f s
  | .d3hotEntry f => Sys2Proof.Machine.execD3hotEntry f s
  | .vfEnableClear => Sys2Proof.Machine.execVfEnableClear  s
  | .hotReset => Sys2Proof.Machine.execHotReset  s
  | .surpriseLinkDown => Sys2Proof.Machine.execSurpriseLinkDown  s
  | .shutdownResume f => Sys2Proof.Machine.execShutdownResume f s
  | .configRequest f q => Sys2Proof.Machine.execConfigRequest f q s
  | .ctxCreate idx => Sys2Proof.Machine.execCtxCreate idx s
  | .ctxDestroy idx => Sys2Proof.Machine.execCtxDestroy idx s
  | .ctxDestroyResume idx => Sys2Proof.Machine.execCtxDestroyResume idx s
  | .objCreate idx => Sys2Proof.Machine.execObjCreate idx s
  | .objMap idx => Sys2Proof.Machine.execObjMap idx s
  | .objUnmap idx => Sys2Proof.Machine.execObjUnmap idx s
  | .objectFreed p h => Sys2Proof.Machine.execObjectFreed p h s
  | .forcedTeardownLimit p h => Sys2Proof.Machine.execForcedTeardownLimit p h s
  | .fenceCreate idx => Sys2Proof.Machine.execFenceCreate idx s
  | .fenceSignal idx => Sys2Proof.Machine.execFenceSignal idx s
  | .fenceWait idx => Sys2Proof.Machine.execFenceWait idx s
  | .fenceWaitTimeout idx => Sys2Proof.Machine.execFenceWaitTimeout idx s
  | .fenceDestroy idx => Sys2Proof.Machine.execFenceDestroy idx s
  | .ctxQuery idx => Sys2Proof.Machine.execCtxQuery idx s
  | .contextSwapIn => Sys2Proof.Machine.execContextSwapIn  s
  | .slotLoaded idx => Sys2Proof.Machine.execSlotLoaded idx s
  | .slotSaved idx => Sys2Proof.Machine.execSlotSaved idx s
  | .faultRecordFlush idx => Sys2Proof.Machine.execFaultRecordFlush idx s
  | .chvOwnerWrite n path part oper valid sub => Sys2Proof.Machine.execChvOwnerWrite n path part oper valid sub s
  | .chvStart n path => Sys2Proof.Machine.execChvStart n path s
  | .chvFetch n path => Sys2Proof.Machine.execChvFetch n path s
  | .chvStop n path => Sys2Proof.Machine.execChvStop n path s
  | .chvResume n path => Sys2Proof.Machine.execChvResume n path s
  | .chvAbort n path => Sys2Proof.Machine.execChvAbort n path s
  | .chvDescLoaded n => Sys2Proof.Machine.execChvDescLoaded n s
  | .chvDescDone n data => Sys2Proof.Machine.execChvDescDone n data s
  | .chvBusError n kind at_ write data => Sys2Proof.Machine.execChvBusError n kind at_ write data s
  | .chvCqHeadWrite n path head => Sys2Proof.Machine.execChvCqHeadWrite n path head s
  | .tcModeWrite mode => Sys2Proof.Machine.execTcModeWrite mode s
  | .deadlineMiss m => Sys2Proof.Machine.execDeadlineMiss m s
  | .winCommit p => Sys2Proof.Machine.execWinCommit p s
  | .winCommitDone p => Sys2Proof.Machine.execWinCommitDone p s
  | .meterSnap p => Sys2Proof.Machine.execMeterSnap p s
  | .energyAttribution => Sys2Proof.Machine.execEnergyAttribution  s
  | .getCert f => Sys2Proof.Machine.execGetCert f s
  | .unwrap f => Sys2Proof.Machine.execUnwrap f s
  | .unwrapComplete f => Sys2Proof.Machine.execUnwrapComplete f s
  | .fwStage f => Sys2Proof.Machine.execFwStage f s
  | .fwActivate f => Sys2Proof.Machine.execFwActivate f s
  | .fwCommit f => Sys2Proof.Machine.execFwCommit f s
  | .debugRead f => Sys2Proof.Machine.execDebugRead f s
  | .debugWrite f => Sys2Proof.Machine.execDebugWrite f s
  | .getVersion e req => Sys2Proof.Machine.execGetVersion e req s
  | .getCapabilities e req => Sys2Proof.Machine.execGetCapabilities e req s
  | .negotiateAlgorithms e req => Sys2Proof.Machine.execNegotiateAlgorithms e req s
  | .getDigests e req => Sys2Proof.Machine.execGetDigests e req s
  | .getCertificate e req => Sys2Proof.Machine.execGetCertificate e req s
  | .challenge e req => Sys2Proof.Machine.execChallenge e req s
  | .getMeasurements e req => Sys2Proof.Machine.execGetMeasurements e req s
  | .spdmUnsupported e req => Sys2Proof.Machine.execSpdmUnsupported e req s
  | .powerSample est rest mv ca => Sys2Proof.Machine.execPowerSample est rest mv ca s
  | .controlAverage => Sys2Proof.Machine.execControlAverage  s
  | .budgetShare est memDraw => Sys2Proof.Machine.execBudgetShare est memDraw s
  | .pwrCapWrite w => Sys2Proof.Machine.execPwrCapWrite w s
  | .grantRequest idx phase f dur => Sys2Proof.Machine.execGrantRequest idx phase f dur s
  | .grantRelease idx draw => Sys2Proof.Machine.execGrantRelease idx draw s
  | .grantExpire idx => Sys2Proof.Machine.execGrantExpire idx s
  | .prefillStarve idx => Sys2Proof.Machine.execPrefillStarve idx s
  | .starveLift idx => Sys2Proof.Machine.execStarveLift idx s
  | .levelReport idx members dev level step => Sys2Proof.Machine.execLevelReport idx members dev level step s
  | .levelSet idx members level step => Sys2Proof.Machine.execLevelSet idx members level step s
  | .levelChange idx => Sys2Proof.Machine.execLevelChange idx s
  | .droop d => Sys2Proof.Machine.execDroop d s
  | .droopEnd d => Sys2Proof.Machine.execDroopEnd d s
  | .thermalSample temps => Sys2Proof.Machine.execThermalSample temps s
  | .domainIdle d => Sys2Proof.Machine.execDomainIdle d s
  | .domainNap d held => Sys2Proof.Machine.execDomainNap d held s
  | .domainDeep d held => Sys2Proof.Machine.execDomainDeep d held s
  | .domainWake d => Sys2Proof.Machine.execDomainWake d s
  | .domainWakeDone d => Sys2Proof.Machine.execDomainWakeDone d s
  | .domainOff d => Sys2Proof.Machine.execDomainOff d s
  | .domainPowerRestore d => Sys2Proof.Machine.execDomainPowerRestore d s
  | .holdOn d b => Sys2Proof.Machine.execHoldOn d b s
  | .offReq d b => Sys2Proof.Machine.execOffReq d b s
  | .rstCmdStation k => Sys2Proof.Machine.execRstCmdStation k s
  | .rstCmdPartition p => Sys2Proof.Machine.execRstCmdPartition p s
  | .rstCmdDevice => Sys2Proof.Machine.execRstCmdDevice  s
  | .partReqStation p k => Sys2Proof.Machine.execPartReqStation p k s
  | .partReqPartition p => Sys2Proof.Machine.execPartReqPartition p s
  | .rstKick g => Sys2Proof.Machine.execRstKick g s
  | .coreHang c => Sys2Proof.Machine.execCoreHang c s
  | .loadHang c => Sys2Proof.Machine.execLoadHang c s
  | .kvgHang k => Sys2Proof.Machine.execKvgHang k s
  | .stopHang k => Sys2Proof.Machine.execStopHang k s
  | .cndHang g => Sys2Proof.Machine.execCndHang g s
  | .unitHang u => Sys2Proof.Machine.execUnitHang u s
  | .troubleEvent => Sys2Proof.Machine.execTroubleEvent  s
  | .stationResetDrained x => Sys2Proof.Machine.execStationResetDrained x s
  | .regionPowerCycle k completes => Sys2Proof.Machine.execRegionPowerCycle k completes s
  | .conductorResetOverrun g => Sys2Proof.Machine.execConductorResetOverrun g s
  | .partitionResetDone p x => Sys2Proof.Machine.execPartitionResetDone p x s
  | .partOutClear p => Sys2Proof.Machine.execPartOutClear p s
  | .perstAssert => Sys2Proof.Machine.execPerstAssert  s
  | .perstDeassert => Sys2Proof.Machine.execPerstDeassert  s
  | .mreset => Sys2Proof.Machine.execMreset  s
  | .inputApplied => Sys2Proof.Machine.execInputApplied  s
  | .powerGood => Sys2Proof.Machine.execPowerGood  s
  | .inputUndervoltage => Sys2Proof.Machine.execInputUndervoltage  s
  | .inputLow mv => Sys2Proof.Machine.execInputLow mv s
  | .inputOvervoltage => Sys2Proof.Machine.execInputOvervoltage  s
  | .inputRecovered => Sys2Proof.Machine.execInputRecovered  s
  | .enBreak => Sys2Proof.Machine.execEnBreak  s
  | .railShort rail => Sys2Proof.Machine.execRailShort rail s
  | .senseFallback rail => Sys2Proof.Machine.execSenseFallback rail s
  | .coolantSample inlet outlet => Sys2Proof.Machine.execCoolantSample inlet outlet s
  | .mclkLoss => Sys2Proof.Machine.execMclkLoss  s
  | .bootCheckDone => Sys2Proof.Machine.execBootCheckDone  s
  | .hbmTrainDone h ok => Sys2Proof.Machine.execHbmTrainDone h ok s
  | .pcieLinkUp => Sys2Proof.Machine.execPcieLinkUp s
  | .firmwareStart image => Sys2Proof.Machine.execFirmwareStart image s
  | .bringupReady => Sys2Proof.Machine.execBringupReady  s
  | .entdaa addr => Sys2Proof.Machine.execEntdaa addr s
  | .setdasa static addr => Sys2Proof.Machine.execSetdasa static addr s
  | .rstdaa => Sys2Proof.Machine.execRstdaa  s
  | .getpid addr => Sys2Proof.Machine.execGetpid addr s
  | .getbcr addr => Sys2Proof.Machine.execGetbcr addr s
  | .getdcr addr => Sys2Proof.Machine.execGetdcr addr s
  | .getstatus addr => Sys2Proof.Machine.execGetstatus addr s
  | .enec target events => Sys2Proof.Machine.execEnec target events s
  | .disec target events => Sys2Proof.Machine.execDisec target events s
  | .getState => Sys2Proof.Machine.execGetState  s
  | .getTelemetry => Sys2Proof.Machine.execGetTelemetry  s
  | .setCap watts => Sys2Proof.Machine.execSetCap watts s
  | .warmReset => Sys2Proof.Machine.execWarmReset  s
  | .clearAlert => Sys2Proof.Machine.execClearAlert  s
  | .getFaultLog => Sys2Proof.Machine.execGetFaultLog  s
  | .enMate => Sys2Proof.Machine.execEnMate  s
  | .mresetRelease => Sys2Proof.Machine.execMresetRelease  s
  | .composerPeerTimeout idx => Sys2Proof.Machine.execComposerPeerTimeout idx s

end Sys2Proof.Machine
end

