-- ==== Sys2Proof/Machine/Tick.lean ====
section
/-! DEFINITION. What a nanosecond does when no command waits (DESIGN CHOICE, log 4): the counters that run with time. -/
namespace Sys2Proof.Machine

/-- The residency counter of a domain's state (R523, R545). -/
def residencyF (state : Nat) : F :=
  match state with
  | 0 => .PWR_DOM_RES_ON_NS
  | 1 => .PWR_DOM_RES_IDLE_NS
  | 2 => .PWR_DOM_RES_NAP_NS
  | 3 => .PWR_DOM_RES_DEEP_NS
  | _ => .PWR_DOM_RES_OFF_NS

/-- R517: the core clock of a level, in fortieths of a cycle per nanosecond; a stretch halves it (R530, R539, R541). -/
def coreRate (s : State) (d : Nat) : Nat :=
  let r := [72, 66, 60, 52, 44, 36, 28, 20].getD (fget s .PWR_DOM_STATUS_LEVEL d) 20
  if stretched s d then r / 2 else r

/-- The command that a launch belongs to counts its core cycles in its context (R440). -/
def ctxCycles (s : State) (id n : Nat) : State :=
  match (s.launches.find? (fun l => l.id == id)).bind (·.command) with
  | none => s
  | some k =>
    match getCmd s k with
    | none => s
    | some c =>
      match getCtx s c.part c.ctx with
      | some x => setCtx s c.part c.ctx (some { x with coreCycles := (x.coreCycles + n) % 2 ^ 64 })
      | none => s

/-- One nanosecond of a core whose region is ON: its cycle count (R98; a FENCED core draws no clock, R131), and where it runs SAGE_CYCLES, the meter and the
region's share (R108, R440, R495, R496). -/
def coreTick (s : State) (c : Nat) : State :=
  let d := stnDomain (c / 6)
  let k := getCore s c
  let t := k.cycleFrac + coreRate s d
  let n := t / 40
  let st := coreState s c
  if st = stFenced then s else
  let s := setCore s c { k with cycles := k.cycles + n, cycleFrac := t % 40 }
  if st ≠ stRunning ∧ st ≠ stEnding then s else
  let s := finc s .SAGE_CYCLES_RUN c n
  match k.launch with
  | none => s
  | some l =>
    let key := 64 * d + l.part
    let s := { s with power := { s.power with
      runCycles := SMap.set (fun _ => 0) s.power.runCycles key (SMap.get (fun _ => 0) s.power.runCycles key + n) } }
    ctxCycles (meter s l.part false mCore n) l.id n

/-- One nanosecond of the core clock of a region that is ON (R269). -/
def regionTick (s : State) (d : Nat) : State :=
  let x := SMap.get (fun _ => (0, 0)) s.regionClk d
  let t := x.2 + coreRate s d
  { s with regionClk := SMap.set (fun _ => (0, 0)) s.regionClk d (x.1 + t / 40, t % 40) }

/-- R328: one nanosecond of a conductor core in RUNNING: two cycles at 2.0 GHz, divided with the west half (R529). -/
def cndTick (s : State) (g : Nat) : State :=
  if fget s .CND_STATUS_STATE g ≠ 1 then s else
  match fget s .SEAM_STATUS_WEST_DIV (g / 4) with
  | 0 => finc s .CND_CYCLES_COUNT g 2
  | 1 => finc s .CND_CYCLES_COUNT g
  | _ => if s.now % 2 = 0 then finc s .CND_CYCLES_COUNT g else s

/-- R536: a consist without a service or a running launch counts a step every 1 ms. -/
def consTick (s : State) (i : Nat) : State :=
  let p := fget s .COMP_CONSIST_ID_PART i
  let sub := fget s .COMP_CONSIST_ID_SUB i
  if s.services.any (fun v => v.part == p && v.sub == sub) ||
      s.launches.any (fun l => l.part == p && l.sub == sub && l.cores.any (fun e => e.2 == .running)) then s
  else setCons s i { getCons s i with steps := (getCons s i).steps + 1 }

/-- R473: a deadline runs down by the 2 units of a nanosecond, to 1 and no further; 0 is none. -/
def deadlineTick (d : Nat) : Nat := if d = 0 then 0 else max 1 (d - 2)

/-- A deadline reaches 1 in this nanosecond (R475). -/
def deadlineEnds (d : Nat) : Bool := decide (1 < d) && deadlineTick d == 1

/-- One nanosecond of an egress port: its link carries what it owes, the deadlines of the packets that wait run down, and
packets leave (R370, R471, R473-R475). -/
def portTick (s : State) (p : Nat) : State :=
  let a := getArb s p
  if s.portQ.any (fun e => e.port == p) = false ∧ a.debt = 0 then s else
  let s := setArb s p { a with debt := a.debt - portRate s p }
  let late := (s.portQ.filter (fun e => e.port == p && deadlineEnds e.deadline)).length
  let s := { s with portQ := s.portQ.map (fun e => if e.port = p then { e with deadline := deadlineTick e.deadline } else e) }
  let s := (List.range late).foldl (fun s _ => deadlineMiss s 0) s
  if fget s .BLY_PORT_STATUS_STATE p = 2 then portGo p portFuel s else s

/-- One nanosecond of the records in the transmit queue of a function (R474). -/
def postedTick (s : State) (f : Nat) : State :=
  let late := (getPosted s f).filterMap (fun x => match x with
    | .write _ _ _ _ (some (m, d)) => if deadlineEnds d then some m else none
    | _ => none)
  let s := setPosted s f ((getPosted s f).map (fun x => match x with
    | .write a d ro who (some (m, t)) => .write a d ro who (some (m, deadlineTick t))
    | x => x))
  late.foldl deadlineMiss s

/-- One nanosecond of the local counters. -/
def tick (s : State) : State :=
  let s := { s with watch := watchNow s, now := s.now + 1 }
  let s := (List.range 96).foldl (fun s d => finc s (residencyF (fget s .PWR_DOM_STATUS_STATE d)) d) s
  let s := (List.range 80).foldl (fun s d => if isRegion d && fget s .PWR_DOM_STATUS_STATE d == domOn then regionTick s d else s) s
  let s := (List.range 1536).foldl (fun s c => if stnPower s (c / 6) = domOn then coreTick s c else s) s
  let s := (List.range 64).foldl cndTick s
  let s := (List.range 6).foldl portTick s
  let s := (s.posted.map (·.1)).foldl postedTick s
  if s.now % 1000000 = 0 then (liveSlots s).foldl consTick s else s

end Sys2Proof.Machine
end

