-- ==== Sys2Proof/Safety.lean ====
section
/-! DEFINITION. The terms the statements use: a command completes, what it leaves unchanged, and when a Sage core
issues an instruction. -/
namespace Sys2Proof.Machine

/-- The command answers a next state, of which P holds. -/
def Completes (c : Instr) (s : State) (P : State → Prop) : Prop := ∃ t, exec c s = .next t ∧ P t

/-- The state in which an agent's command begins: none of its accesses has been held (log 120). -/
abbrev begun (s : State) : State := { s with stalled := false }

/-- No access that led to a state had to wait at a station stop or a directory (R112, R129, R311). -/
abbrev Unheld (t : State) : Prop := t.stalled = false

/-- Every register field reads as before, but for those listed with the numbers of their registers. -/
def SameRegs (ks : List (F × Nat)) (s t : State) : Prop :=
  ∀ f i, i < 65536 → (f, i) ∉ ks → fget t f i = fget s f i

/-- Every register field reads as before, but for the fields listed. -/
def SameFields (fs : List F) (s t : State) : Prop := ∀ f i, f ∉ fs → fget t f i = fget s f i

/-- Every byte of device memory reads as before. -/
def SameMem (s t : State) : Prop := ∀ a, Bytes.get t.mem a = Bytes.get s.mem a

/-- Every byte of device memory outside [lo, lo + n) reads as before. -/
def SameMemBut (lo n : Nat) (s t : State) : Prop :=
  ∀ a, (a < lo ∨ lo + n ≤ a) → Bytes.get t.mem a = Bytes.get s.mem a

/-! Sage cores. -/

/-- A Sage core issues the instruction word at its program counter (R64, R99, R105, R106, R520, R553): it is RUNNING, waits
for nothing and is not being fenced, its region is ON and no reset holds its station, no access in flight has a register
of the instruction still to write, and the word is legal. -/
abbrev Issues (s : State) (c : Nat) (w : BitVec 128) : Prop :=
  coreState s c = stRunning ∧ (getCore s c).wait = .none ∧ (getCore s c).fencing = false ∧
  stnPower s (coreStn c) = domOn ∧ inReset s (coreStn c) = false ∧
  (getCore s c).code[fget s .SAGE_PC_PC c]? = some w ∧
  hazard (getCore s c) (Insn.ofWord w) = false ∧ (Insn.ofWord w).legal = true

/-- The loops and the program counter after the instruction in sequence (R99, R100). -/
abbrev nextOf (s : State) (c : Nat) : List Loop × Nat := seqPc (getCore s c).loops (fget s .SAGE_PC_PC c + 1)

/-- The program has an instruction at the next index in sequence (R99, R107). -/
abbrev Proceeds (s : State) (c : Nat) : Prop := (nextOf s c).2 < (getCore s c).code.length

/-- The core has retired an instruction and goes on with the next in sequence, running (R99, R100, R108). -/
def WentOn (s t : State) (c : Nat) : Prop :=
  coreState t c = coreState s c ∧ fget t .SAGE_PC_PC c = (nextOf s c).2 % 2 ^ 11 ∧
  (getCore t c).loops = (nextOf s c).1 ∧
  fget t .SAGE_RETIRED_COUNT c = (fget s .SAGE_RETIRED_COUNT c + 1) % 2 ^ 64

/-- Nothing outside the core changes but its program counter and the counters of retired instructions and corrected
errors. -/
def OnlyCore (s t : State) (c : Nat) : Prop :=
  SameRegs [(.SAGE_PC_PC, c), (.SAGE_RETIRED_COUNT, c), (.SAGE_ECC_COUNT_CORRECTED, c)] s t ∧ SameMem s t ∧
  ∀ d, d ≠ c → getCore t d = getCore s d

/-! Accesses of the device's agents. -/

/-- The register fields that an access can change at its home, at a station stop or in a station cache. -/
def homeFields : List F := [
  .TRB_PART_STICKY_VIOL_READ, .TRB_PART_STICKY_VIOL_WRITE, .TRB_PART_STICKY_VIOL_ATOMIC, .TRB_PART_VIOL_COUNT_COUNT,
  .TRB_PART_STICKY_FIRST_VALID, .TRB_PART_FIRST_ADDR, .TRB_PART_FIRST_DEV, .TRB_PART_FIRST_RIGHT,
  .TRB_PART_AGENT_KIND, .TRB_PART_AGENT_DIE, .TRB_PART_AGENT_INDEX, .TRB_PART_STICKY_EVENT,
  .TRB_PART_STICKY_TAG_REFUSED, .DEP_UE_COUNT_COUNT, .HBM_UE_COUNT_COUNT, .HBM_ERR_LOG_ADDR, .HBM_ERR_LOG_KIND,
  .HBM_ERR_LOG_VALID, .DEP_FILLS_COUNT, .HBM_TAG_DROPS_COUNT, .DEP_HITS_COUNT, .DEP_MISSES_COUNT,
  .HBM_READ_BYTES_COUNT, .HBM_WRITE_BYTES_COUNT, .STN_TROUBLE_TAG_MISMATCH, .STN_TROUBLE_REGION_OFF,
  .CTL_TAG_DROPS_COUNT, .SC_HITS_COUNT, .SC_MISSES_COUNT, .SC_WRITEBACKS_COUNT]

/-- The counts of units of work under an epoch (R341). -/
def epochFields : List F := [.COMP_INFLIGHT_CUR, .COMP_INFLIGHT_OLD]

/-- The counters that packets sent over the links can change (R365-R380, R471). -/
def linkFields : List F := [
  .BLY_TIMEOUTS_COUNT, .BLY_TAG_DROPS_COUNT, .BLY_TX_BYTES_COUNT, .BLY_FWD_BYTES_COUNT, .BLY_DISCARDS_COUNT,
  .BLY_UNROUTABLE_COUNT, .TC_AGED_COUNT]

/-- The home of a 64-bit word of HBM takes an agent's write of it: the slice accepts the partition, is not being
scrubbed, and one of the partition's windows grants the write (R247, R252, R484, R488). -/
abbrev WordOpen (s : State) (w : Who) (a : Nat) : Prop :=
  a % 8 = 0 ∧ a < 0x10000000000 ∧ a % sliceBytes < ctlOff ∧ scrubbing s (a / sliceBytes) = false ∧
  homeAccepts s w (a / sliceBytes) = true ∧ (∀ e ∈ s.winsNew, e.1 ≠ w.part) ∧
  lineOk (winTable s w.part).1 (winMask s w.part w.sub) none .write (a / 64) = true

/-- An agent's read of a 64-bit word of HBM gives what stands there: as WordOpen with the right to read, and no bad check
code (R247, R249, R252, R484). -/
abbrev WordReads (s : State) (w : Who) (a : Nat) : Prop :=
  a % 8 = 0 ∧ a < 0x10000000000 ∧ a % sliceBytes < ctlOff ∧ scrubbing s (a / sliceBytes) = false ∧
  homeAccepts s w (a / sliceBytes) = true ∧ (∀ e ∈ s.winsNew, e.1 ≠ w.part) ∧ isUe s (a / 64) = false ∧
  lineOk (winTable s w.part).1 (winMask s w.part w.sub) none .read (a / 64) = true

/-- The 64-bit word at an address of device memory. -/
abbrev wordAt (s : State) (a : Nat) : Nat := leNat (Bytes.read s.mem a 8)

/-! Command rings of the units. -/

/-- The KV gate executes the command at the head of a ring next, and it is of operation op (R147). -/
abbrev KvgTakes (s : State) (k ring op : Nat) : Prop :=
  kvgNext s k = some ring ∧ inReset s k = false ∧ (kvgCmd s k ring).op = op

/-- The command that a Branch-line unit reads there, and the speculation record it names, each with the state after the
read (R179, R182, R341). -/
abbrev blCmdAt (s : State) (u r : Nat) : State × List Byte := blRead s (blWho s u r) (blSlot s u r) 64
abbrev blSpecAt (s : State) (u r : Nat) : State × List Byte :=
  blRead (epochStart (blCmdAt s u r).1 (blWho s u r).part (blWho s u r).sub).2 (blWho s u r)
    (fieldAt (blCmdAt s u r).2 8 8) 128

/-- The Branch-line unit takes the command at the head of ring r next: it is of operation op, in range, and its
speculation record is in range (R179, R181); the slot lies below the device registers. -/
abbrev BlTakes (s : State) (u r op : Nat) : Prop :=
  blNext s u = some r ∧ fieldAt (blCmdAt s u r).2 0 1 = op ∧ blCmdOk (blCmdAt s u r).2 = true ∧
  (specOf (blSpecAt s u r).2).ok = true ∧ blSlot s u r + 64 ≤ regBase

/-- Every page list of a sequence's planes lies below the device registers. -/
abbrev ListsBelow (ps : List (Nat × Nat × Nat)) : Prop := ∀ q ∈ ps, q.1 + 16 * q.2.1 + 16 ≤ regBase

/-! Conductor cores and their directory. -/

/-- A conductor core issues the 32-bit instruction x, of class cls, fetched as w of len bytes with the state f after the
fetch: it is RUNNING and no interrupt is due (R303, R306, R328); z is what the fetch meets (R305, R326). -/
def CndIssues (s : State) (g : Nat) (cls : RvClass) (z : Fetched) (f : State) (w len x : Nat) : Prop :=
  cndState s g = cndRunning ∧ pendingIrq s g = none ∧ cndFetch s g z = .ok f w len ∧
  (if len = 2 then rvc w else some w) = some x ∧ rvClass32 x = cls

/-- The state in which the instruction acts: its pc already points behind it. -/
abbrev behind (s f : State) (g len : Nat) : State := hsetPc f g (hpc s g + BitVec.ofNat 64 len)

/-- Beside the core's own registers and its count of retired instructions, nothing moves. -/
def OnlyHart (s t : State) (g : Nat) : Prop :=
  SameRegs [(.CND_INSTRET_COUNT, g)] s t ∧ SameMem s t ∧ t.holders = s.holders ∧ t.dirs = s.dirs ∧
  fget t .CND_INSTRET_COUNT g = (fget s .CND_INSTRET_COUNT g + 1) % 2 ^ 64 ∧
  ∀ h, h < 64 → h ≠ g → getHart t h = getHart s h

/-- A control-memory address whose line an atomic of a conductor may use where it stands: in the core's hands, owned
(R307, R313). -/
abbrev Owned (s : State) (g a : Nat) (l : HLine) : Prop :=
  target a = .control ∧ getHolder s g (a / 64) = some l ∧ l.st ≠ .S ∧ l.data.length = 64

/-- No request waits for an entry of a line's directory set (R308, R311). -/
abbrev SetQuiet (s : State) (line : Nat) : Prop := s.dirHeld.any (fun e => dirSet e.1 == dirSet line) = false

/-- A holder has room for one line more (R304, R309). -/
abbrev RoomFor (s : State) (h line : Nat) : Prop := (rivalLines h line (linesOut s h)).length < holderMax h

/-- A control-memory line with no entry in its directory and no request for one, no bad check code, and room for an entry,
for which no other request waits, and in the holder (R308, R309). -/
abbrev LineFresh (s : State) (h line : Nat) : Prop :=
  isControl line = true ∧ scrubbing s (line / 2 ^ 26) = false ∧ getDir s line = none ∧ isUe s line = false ∧
  getHolder s h line = none ∧ RoomFor s h line ∧ dirRoom s line = true ∧ SetQuiet s line

/-! The composer. -/

/-- A composer command has ended with a status: STATUS, BUSY 0, one more in SEQ, and no command in progress (R331). -/
def CompEnds (s t : State) (status : Nat) : Prop :=
  t.comp = none ∧ fget t .COMP_CMD_STATUS_STATUS = status ∧ fget t .COMP_CMD_STATUS_BUSY = 0 ∧
  fget t .COMP_CMD_STATUS_SEQ = (fget s .COMP_CMD_STATUS_SEQ + 1) % 2 ^ 16

/-- It has ended so and done nothing else to registers or memory. -/
def CompRefused (s t : State) (status : Nat) : Prop :=
  CompEnds s t status ∧ SameMem s t ∧
  SameFields [.COMP_CMD_STATUS_STATUS, .COMP_CMD_STATUS_BUSY, .COMP_CMD_STATUS_SEQ] s t

/-- The composer's command has begun and goes on. -/
def CompBegun (s t : State) : Prop := t.comp = (compBegin s).comp

/-- Every warm stream's completion word lies below the device registers. -/
abbrev WordsBelow (s : State) : Prop :=
  ∀ x ∈ s.dill, ∀ w b st rb done row ep, x.kind = .warm w b st rb done row ep → done + 8 ≤ regBase

/-- A slice's slot, state and partition as COMP_SLICE_STATUS has them are those of the state before. -/
abbrev SameSlice (s t : State) (k : Nat) : Prop :=
  sliceState t k = sliceState s k ∧ fget t .COMP_SLICE_STATUS_PART k = fget s .COMP_SLICE_STATUS_PART k ∧
  fget t .COMP_SLICE_STATUS_SLOT k = fget s .COMP_SLICE_STATUS_SLOT k

/-- The local slices of a slot's next map (R337, R338). -/
abbrev nextLocal (s : State) (i : Nat) : List Nat :=
  mapLocal s (mapEntries s (fget s .COMP_MAP_NEXT_OFF i) (fget s .COMP_MAP_NEXT_LEN i))

/-! Records of host rings. -/

/-- Nothing stands between a descriptor of ring r and its record: its partition is not silent, its completion ring is
enabled and raises no interrupt, and its function shuts nothing down, has no write waiting and translates none. -/
abbrev RecordClear (s : State) (p r : Nat) : Prop :=
  silent s p = false ∧ ringPart s (compRing s r) = some p ∧ (getRing s (compRing s r)).state = rEnabled ∧
  (getRing s (compRing s r)).irq = false ∧ quiescing s (funcOf s p) = false ∧ getPosted s (funcOf s p) = [] ∧
  (getFunc s (funcOf s p)).ats = false

/-- The memory writes of a completion record at its ring's tail (R404, R452). -/
def recordTlps (s : State) (p r tag count detail status prov : Nat) : List Tlp :=
  let x := getRing s (compRing s r)
  writeTlps s (funcOf s p) (x.base + x.tail % x.size * 16)
    (complRecord tag count detail (localRing s r) status prov (phaseOf x.tail x.size)) false false

/-- The record of a descriptor of ring r has been written, and nothing else has left for the host. -/
def Recorded (s t : State) (p r tag count detail status prov : Nat) : Prop :=
  t.tlps = s.tlps ++ recordTlps s p r tag count detail status prov ∧
  (getRing t (compRing s r)).tail = ((getRing s (compRing s r)).tail + 1) % 2 ^ 32

/-- A command has ended: no entry with its number is held, and where nothing stands in the way its record is written. -/
def CmdEnds (s t : State) (c : Cmd) (status detail count prov : Nat) : Prop :=
  (∀ x ∈ t.cmds, x.id ≠ c.id) ∧
  (RecordClear s c.part c.ring → Recorded s t c.part c.ring c.tag count detail status prov)

/-- The command in tracker position i has an opcode and starts (R402, R422, R425); nothing it named has gone. -/
abbrev Starts (s : State) (i op : Nat) (c : Cmd) : Prop :=
  s.cmds[i]? = some c ∧ c.op = op ∧ canStart s c = true ∧ c.gone = none

/-- The state that a queue engine command's operation reaches from the state in which it begins (R402, log 120). -/
abbrev reached (s : State) (c : Cmd) (k : State → Cmd → State) : State := k (startCmd (begun s) c) { c with started := true }

/-- A function shuts down (R413): its configuration is at reset, it is QUIESCING with no host access left, and the commands
of its partitions that had not started are gone. -/
def ShutsDown (s t : State) (g : Nat) (retry : Bool) : Prop :=
  (∃ x ∈ t.shuts, x.f = g ∧ (retry = true → x.retry = true)) ∧
  ((∀ x ∈ s.shuts, x.f ≠ g) → fget t .QE_FUNC_STATUS_QUIESCING g = 1 ∧ getPosted t g = [] ∧
    (∀ h ∈ t.hreads, h.f ≠ g) ∧
    ∀ k ∈ s.cmds, k.part ∈ funcParts s g → k.started = false → ∀ y ∈ t.cmds, y.id ≠ k.id)

/-- The steps of a service go on as R216 says: a boundary launches one step or none, and only a stopping service ends. -/
def StepsOn (v : Service) (t : State) : Prop :=
  match getService t v.part v.sub with
  | none => v.stopping.isSome = true
  | some w => (w.inStep = true → w.step = v.step + 1 ∧ w.waitGrant = none) ∧ (w.inStep = false → w.step = v.step)

/-! Belyan links. -/

/-- The packets at the ports: those that wait, and those that have left and are not acknowledged (R370, R374). -/
abbrev atPorts (s : State) : List (Nat × Packet) := s.portQ.map (fun e => (e.port, e.pkt)) ++ s.unacked

/-- A port has left UP: its packets are gone, the break is recorded, and the packets of the other ports stay
(R375, R377). -/
def PortTaken (s t : State) (p next : Nat) : Prop :=
  portState t p = next ∧ (∀ e ∈ atPorts t, e.1 ≠ p) ∧ (p / 2, linkCoord s p) ∈ t.breaks ∧ SameMem s t ∧
  (∀ b ∈ s.breaks, b ∈ t.breaks) ∧ (∀ e ∈ atPorts s, e.1 ≠ p → e ∈ atPorts t)

/-- The packet that answers a request (R365, R373). -/
abbrev answerTo (s : State) (k : Packet) (typ : Nat) (data : List Byte) (err : Bool) : Packet :=
  { k with typ := typ, dst := k.src, src := devNum s, err := err, len := data.length, hops := 0, payload := data }

/-- A packet that enters the fabric here comes to the port of its route, where that port is UP, and no other packet comes or
goes (R366, R374, R377). -/
def Sent (s t : State) (a : Packet) : Prop :=
  ∀ r, routePacket s a true = some r → portState s r.1 = pUp → (atPorts t).Perm (r :: atPorts s)

/-! Fuane. -/

/-- A mailbox command has ended: BUSY 0, its status and result, one more in SEQ (R516). -/
def MbEnds (s t : State) (f status result : Nat) : Prop :=
  fget t .FUA_MB_STATUS_BUSY f = 0 ∧ fget t .FUA_MB_STATUS_STATUS f = status ∧
  fget t .FUA_MB_RESULT_VALUE f = result % 2 ^ 64 ∧
  fget t .FUA_MB_STATUS_SEQ f = (fget s .FUA_MB_STATUS_SEQ f + 1) % 2 ^ 16

/-- An endpoint answers with a response, in a message of type SPDM, and does nothing to registers or memory (R503). -/
def SpdmSays (s t : State) (e : Nat) (b : List Byte) : Prop :=
  t.mod.sent = s.mod.sent ++ [(e, 5 :: b)] ∧ SameRegs [] s t ∧ SameMem s t

/-! Resets. -/

/-- A partition compute reset has begun (R555): RESETTING is set and the reset recorded; where no rebind of the partition is
in progress, its stations are held in reset and its conductors switch. -/
def BeginsPart (s t : State) (p cause : Nat) (counted device : Bool) : Prop :=
  fbit t .RST_PART_STATUS_RESETTING p = true ∧
  (∃ j ∈ t.rst.parts, j.part = p ∧ j.cause = cause ∧ j.counted = counted ∧ j.device = device) ∧
  ((∀ i, i < 256 → rebinding s i = true → fget s .COMP_CONSIST_ID_PART i ≠ p) →
    (∀ k, k < 256 → boundTo s k = some p → inReset t k = true) ∧ ∀ g ∈ partCnds s p, cndState t g = cndSwitching)

/-- A command begins a partition compute reset, or finds one in progress and changes nothing (R555). -/
def PartResets (s : State) (p cause : Nat) (counted : Bool) (c : Instr) : Prop :=
  (fbit s .RST_PART_STATUS_RESETTING p = false → Completes c s (fun t => BeginsPart s t p cause counted false)) ∧
  (fbit s .RST_PART_STATUS_RESETTING p = true → Completes c s (fun t => t = s))

/-- A command begins the device's compute reset, which is every partition's, or finds it in progress (R558). -/
def DevResets (s : State) (cause : Nat) (counted : Bool) (c : Instr) : Prop :=
  (s.rst.dev = none → Completes c s (fun t => t.rst.dev = some (cause, counted) ∧ fget t .TC_MODE_RECOVERY = 1 ∧
    ∀ p, p < 64 → fbit t .RST_PART_STATUS_RESETTING p = true)) ∧
  (s.rst.dev ≠ none → Completes c s (fun t => t = s))

/-- A command begins a station compute reset (R553), or its partition's where the station's last reset ended less than 1 s
ago (R559), or finds one in progress. -/
def StnResets (s : State) (k cause : Nat) (c : Instr) : Prop :=
  let soon := ∃ p t0, boundTo s k = some p ∧ SMap.get (fun _ => none) s.rst.stnLast k = some t0 ∧
    s.now < t0 + 1000000000
  (inReset s k = true → Completes c s (fun t => t = s)) ∧
  (inReset s k = false → ¬soon → Completes c s (fun t =>
    (∃ skipped, t.rst.stns = s.rst.stns ++ [⟨k, cause, 0, s.now, skipped, false⟩]) ∧
    ((∀ p, boundTo s k = some p → fbit s .RST_PART_DUMP_ENABLE p = false) → SameRegs [] s t ∧ SameMem s t))) ∧
  (inReset s k = false → soon → ∀ p, boundTo s k = some p → Completes c s (fun t =>
    fbit t .RST_PART_STATUS_RESETTING p = true ∧
    fget t .RST_LOG_HEAD_HEAD = (fget s .RST_LOG_HEAD_HEAD + 1) % 2 ^ 8))

/-! Registers. -/

/-- The registers whose fields' writes act, are refused or are taken together, by their first field (the rules of R12 apart):
a write of any other follows its fields' access types alone. -/
def actingRegs : List F := [
  .STN_CORE_FENCE_FENCE, .KVG_DOORBELL0_TAIL, .KVG_DOORBELL1_TAIL, .KVG_RSEED_SEED, .KVG_RING0_BASE_OFFSET,
  .KVG_RING1_BASE_OFFSET, .PTS_DOORBELL_TAIL, .BL_DOORBELL_TAIL, .DEP_SLICE_CFG_PIN_WAYS, .HBM_PATROL_PERIOD,
  .DILL_CTRL_AHEAD, .CND_CTRL_RUN, .CND_CTRL_SWITCH, .COMP_CMD_GO_GO, .COMP_DRAIN_LIMIT_MILLISECONDS,
  .COMP_PART_CFG_MODE, .COMP_MAP_STORE_ENTRY, .BLY_LOCK_LOCK, .BLY_REMOTE_TIMEOUT_MICROSECONDS,
  .BLY_PORT_CTRL_ENABLE, .BLY_PORT_CTRL_RETRAIN, .QE_RING_CMD_OP, .TC_MODE_MODE, .TC_RT_BUDGET_FWD,
  .TC_RT_BUDGET_COMPL, .TC_RT_BUDGET_TOKEN, .TC_RT_BUDGET_TELEM, .TC_AGE_CYCLES, .TC_PART_CFG_MAX, .PART_CTRL_CLASS,
  .PART_WIN_COMMIT_GO, .PART_METER_SNAP_GO, .PWR_CAP_WATTS, .PWR_GRANT_CFG_STARVE_MS, .PWR_THERM_CFG_HOT,
  .PWR_DOM_CTRL_HOLD_ON, .PWR_DOM_CTRL_OFF_REQ, .RST_HANG_CFG_CORE_MS, .RST_HANG_CFG_KVG_MS, .RST_HANG_CFG_CND_MS,
  .RST_KICK_KICK, .RST_PART_STATUS_OUT, .RST_PART_DUMP_SLOTS, .RST_CMD_OP, .RST_PART_REQ_OP, .FUA_MB_CMD_OP,
  .CHV_CH_OWNER_PART, .CHV_CH_GO_START, .CHV_CH_SRC_ADDR, .CHV_CH_DST_ADDR, .CHV_CH_COUNT_BYTES, .CHV_CH_CTRL_CTRL,
  .CHV_CH_TAG_TAG, .CHV_CH_NEXT_ADDR, .CHV_CH_CQ_BASE_ADDR, .CHV_CH_CQ_CFG_SIZE_LOG2, .CHV_CH_CQ_HEAD_HEAD,
  .CHV_CH_CQ_TAIL_TAIL, .CHV_CH_STATUS_STATE, .CHV_CH_ERR_ADDR_ADDR, .CHV_CH_BYTES_COUNT, .CHV_CH_IGNORED_COUNT,
  .DILL_DECLARE_ADDR, .QE_PART_RINGS_BASE, .QE_PART_CFG_VF, .QE_PF_ATC_QUOTA_ENTRIES, .QE_PART_LIMITS_CONTEXTS,
  .TC_FB_THRESH_YELLOW, .PWR_PRIO_FIRST, .HBM_PATROL_ENABLE, .QE_PART_CTX_BASE_ADDR, .QE_PART_OBJ_BASE_ADDR,
  .QE_PART_FENCE_BASE_ADDR]

/-- What a field holds after a write of a whole register whose bits at the field are x (R12). -/
def accessResult (s : State) (f : F) (i x : Nat) : Nat :=
  let old := fget s f i
  match f.spec.acc with
  | .ro | .wo => old
  | .rw | .rws => x
  | .w1c => (old - Nat.land old x) % 2 ^ f.spec.w
  | .w1s => Nat.lor old x % 2 ^ f.spec.w
  | .rwl => if fieldLocked s f i then old else x

end Sys2Proof.Machine
end

