-- ==== Sys2Proof/Certificates/Slice0/Obligations.lean ====
section
/-! DEFINITION. The statements for the provers: what each command of the LY-7 does, in the terms of Sys2Proof/Safety.lean. -/
open Sys2Proof Sys2Proof.Machine

/-- The model's own form (log 4): the queue of waiting commands, first in, first out. -/
def Obligations.StepRunsTheFrontCommand : Prop :=
  ∀ (s : State) (c : Instr) (cs : List Instr),
    step { s with pending := c :: cs } = exec c { s with pending := cs }

/-- R523, R108; that an empty queue is the clock's tick is the model's own form (log 4). -/
def Obligations.AnIdleStepIsOneTick : Prop :=
  ∀ s : State, s.pending = [] → ∃ t, step s = .next t ∧ t.now = s.now + 1 ∧ t.pending = [] ∧ SameMem s t ∧
    (∀ d v, d < 96 → v < 5 → fget t (residencyF v) d =
      if fget s .PWR_DOM_STATUS_STATE d = v then (fget s (residencyF v) d + 1) % 2 ^ 64 else fget s (residencyF v) d) ∧
    ∀ c, c < 1536 → coreState s c ≠ stRunning → coreState s c ≠ stEnding →
      fget t .SAGE_CYCLES_RUN c = fget s .SAGE_CYCLES_RUN c

/-- R66, R67, R68: the output elements of MMA and MMAX, and what they leave unchanged.  A 16-bit MMA writes 32
columns from 32 × MOD[2] of the rows from 32 × MOD[1]; every other form writes 64 columns of the rows from 0. -/
def Obligations.MatrixInstructionsAccumulate : Prop :=
  ∀ (s : State) (c : CoreId) (w : BitVec 128) (ecc : Ecc), Issues s c w → Proceeds s c → ecc ≠ .uncorrectable →
    let i := Insn.ofWord w
    let k := getCore s c
    let old := fun n r j => if bit i.mod 0 then f32dec 0 else f32dec (k.accGet n r j)
    let half := i.fmtA.width = 16
    let r0 := if half then 32 * bits i.mod 1 1 else 0
    let c0 := if half then 32 * bits i.mod 2 1 else 0
    let cols := if half then 32 else 64
    (i.opc = 0x10 → Completes (.mma c ecc) s (fun t =>
      WentOn s t c ∧ OnlyCore s t c ∧
      getCore t c = { k with acc := (getCore t c).acc, loops := (getCore t c).loops } ∧
      ∀ n r j, n < 4 → r < 64 → j < 64 → (getCore t c).accGet n r j =
        if n = opIx i.dst ∧ (r0 ≤ r ∧ r < r0 + i.rows) ∧ (c0 ≤ j ∧ j < c0 + cols) then
          f32enc (.sum (old n r j ::
            ((k.tileRow i.fmtA (opIx i.s1) (r - r0)).zip (k.tileRow i.fmtB (opIx i.s2) (j - c0))).map
              (fun p => p.1.mul p.2)))
        else k.accGet n r j)) ∧
    (i.opc = 0x11 → Completes (.mmax c ecc) s (fun t =>
      WentOn s t c ∧ OnlyCore s t c ∧
      getCore t c = { k with acc := (getCore t c).acc, loops := (getCore t c).loops } ∧
      ∀ n r j, n < 4 → r < 64 → j < 64 → (getCore t c).accGet n r j =
        if n = opIx i.dst ∧ r < i.rows then
          f32enc (.sum (old n r j ::
            ((k.tileRow i.fmtA (opIx i.s1) r ++ k.tileRow i.fmtA (opIx i.s1 + 1) r).zip
              (k.tileRow i.fmtB (opIx i.s2) j)).map (fun p => p.1.mul p.2)))
        else k.accGet n r j))

/-- R77: ZERO and TMOV, on tiles and on accumulators. -/
def Obligations.ClearsAndCopiesWriteOneRegister : Prop :=
  ∀ (s : State) (c : CoreId) (w : BitVec 128) (ecc : Ecc), Issues s c w → Proceeds s c → ecc ≠ .uncorrectable →
    let i := Insn.ofWord w
    let k := getCore s c
    let d := opIx i.dst
    (i.opc = 0x18 → Completes (.zeroReg c ecc) s (fun t =>
      let k' := getCore t c
      WentOn s t c ∧ OnlyCore s t c ∧
      k' = { k with tiles := k'.tiles, acc := k'.acc, rowMax := k'.rowMax, rowSum := k'.rowSum, loops := k'.loops } ∧
      (∀ n b, b < 4096 → k'.tileByte n b = if isT i.dst ∧ n = d then 0 else k.tileByte n b) ∧
      (∀ n r j, r < 64 → j < 64 → k'.accGet n r j = if isAcc i.dst ∧ n = d then 0 else k.accGet n r j) ∧
      (∀ n r, r < 64 → k'.maxGet n r = (if isAcc i.dst ∧ n = d then f32ninf else k.maxGet n r) ∧
        k'.sumGet n r = if isAcc i.dst ∧ n = d then 0 else k.sumGet n r))) ∧
    (i.opc = 0x19 → Completes (.tmov c ecc) s (fun t =>
      let k' := getCore t c
      let src := opIx i.s1
      WentOn s t c ∧ OnlyCore s t c ∧
      k' = { k with tiles := k'.tiles, acc := k'.acc, rowMax := k'.rowMax, rowSum := k'.rowSum, loops := k'.loops } ∧
      (∀ n b, b < 4096 → k'.tileByte n b = k.tileByte (if isT i.dst ∧ n = d then src else n) b) ∧
      (∀ n r j, r < 64 → j < 64 → k'.accGet n r j = k.accGet (if isAcc i.dst ∧ n = d then src else n) r j) ∧
      (∀ n r, r < 64 → k'.maxGet n r = k.maxGet (if isAcc i.dst ∧ n = d then src else n) r ∧
        k'.sumGet n r = k.sumGet (if isAcc i.dst ∧ n = d then src else n) r)))

/-- R70, R71, R43: the rows that CVT and DQ write, byte by byte and element by element. -/
def Obligations.ConversionsMoveValuesBetweenFiles : Prop :=
  ∀ (s : State) (c : CoreId) (w : BitVec 128) (ecc : Ecc), Issues s c w → Proceeds s c → ecc ≠ .uncorrectable →
    let i := Insn.ofWord w
    let k := getCore s c
    let d := opIx i.dst
    (i.opc = 0x20 → Completes (.cvt c ecc) s (fun t =>
      let k' := getCore t c
      let f := i.fmtA
      let g := roundings (i.rnd == 1) k.lanes (i.rows * f.cols)
      let source := fun r => withMult (if isNo i.s2 then none else some (f32dec (k.f i.s2)))
        (((k.accRow (opIx i.s1) (halfRow f i.mod + r)).drop (halfCol f i.mod)).take f.cols |>.map f32dec)
      let row := fun r => convertRow f ((g.2.drop (r * f.cols)).take f.cols) (source r)
      WentOn s t c ∧ OnlyCore s t c ∧
      k' = { k with tiles := k'.tiles, lanes := g.1, loops := k'.loops } ∧
      (∀ n b, b < 4096 → n ≠ d → k'.tileByte n b = k.tileByte n b) ∧
      ∀ r, r < i.rows →
        (∀ b v, b < f.elemRow → (f.packCodes (row r).codes)[b]? = some v →
          k'.tileByte d (f.elemRow * r + b) = v.toNat) ∧
        ∀ b, b < 3 → k'.tileByte d (2048 + 3 * r + b) = ((row r).scales.map (· % 256)).getD b 0)) ∧
    (i.opc = 0x21 → Completes (.dq c ecc) s (fun t =>
      let k' := getCore t c
      let f := i.fmtB
      let r0 := halfRow f i.mod
      let c0 := halfCol f i.mod
      WentOn s t c ∧ OnlyCore s t c ∧ k' = { k with acc := k'.acc, loops := k'.loops } ∧
      ∀ n r j, n < 4 → r < 64 → j < 64 → k'.accGet n r j =
        if n = d ∧ (r0 ≤ r ∧ r < r0 + i.rows) ∧ (c0 ≤ j ∧ j < c0 + f.cols) then
          ((k.tileRow f (opIx i.s1) (r - r0)).map f32enc).getD (j - c0) 0
        else k.accGet n r j))

/-- R72, R73, R75: every element the vector unit writes. -/
def Obligations.ElementwiseInstructionsComputeEachElement : Prop :=
  ∀ (s : State) (c : CoreId) (w : BitVec 128) (ecc : Ecc), Issues s c w → Proceeds s c → ecc ≠ .uncorrectable →
    let i := Insn.ofWord w
    let k := getCore s c
    let src := opIx i.s1
    let base := (k.ar (32 + bits i.imm 16 4)).toNat
    let sub := bits i.mod 0 6
    let opd := fun b r j => match bits i.mod 8 2 with
      | 0 => k.accGet (opIx b) r j
      | 1 => k.f b
      | 2 => k.accGet (opIx b) r (bits i.imm 8 6)
      | _ => k.spadF (base + 4 * j)
    let Elements := fun (t : State) (value : Nat → Nat → W32) =>
      WentOn s t c ∧ OnlyCore s t c ∧
      getCore t c = { k with acc := (getCore t c).acc, loops := (getCore t c).loops } ∧
      ∀ n r j, n < 4 → r < 64 → j < 64 → (getCore t c).accGet n r j =
        if n = opIx i.dst ∧ r < i.rows then value r j else k.accGet n r j
    (bits i.mod 8 2 = 3 → base + 256 ≤ spadBytes) →
    (i.opc = 0x30 → Completes (.vop c ecc) s (fun t => Elements t (fun r j =>
      let a := k.accGet src r j
      let b := opd i.s2 r j
      if sub = 0 then fadd a b else if sub = 1 then fsub a b else if sub = 2 then fmul a b
      else if sub = 3 then fmax a b else fmin a b))) ∧
    (i.opc = 0x31 → Completes (.vfma c ecc) s (fun t => Elements t (fun r j =>
      (if sub = 0 then ffma else ffnma) (k.accGet src r j) (opd i.s2 r j) (opd i.s3 r j)))) ∧
    (i.opc = 0x32 → Completes (.vun c ecc) s (fun t => Elements t (fun r j =>
      let a := k.accGet src r j
      if sub = 0 then fabs a else if sub = 1 then fneg a else if sub = 2 then fexp2 a else if sub = 3 then frcp a
      else if sub = 4 then frsqrt a else if sub = 5 then fsqrt a else flog2 a))) ∧
    (i.opc = 0x33 → Completes (.vact c ecc) s (fun t => Elements t (fun r j => fvact sub (k.accGet src r j)))) ∧
    (i.opc = 0x34 → Completes (.vsel c ecc) s (fun t => Elements t (fun r j =>
      if selCond sub (k.accGet src r j) then opd i.s2 r j else opd i.s3 r j))) ∧
    (i.opc = 0x35 → base + 256 * i.rows ≤ spadBytes → Completes (.vrot c ecc) s (fun t => Elements t (fun r j =>
      let x := k.accGet src r (j / 2 * 2)
      let y := k.accGet src r (j / 2 * 2 + 1)
      let co := k.spadF (base + 8 * (32 * r + j / 2))
      let si := k.spadF (base + 8 * (32 * r + j / 2) + 4)
      if j % 2 = 0 then f32enc (.sum [(f32dec x).mul (f32dec co), (f32dec (fmul y si)).negate])
      else ffma x si (fmul y co))))

/-- R76: where RED's results go; `reduce` is the model's reduction of a list in order. -/
def Obligations.ReductionsWriteOneRowOrColumn : Prop :=
  ∀ (s : State) (c : CoreId) (w : BitVec 128) (ecc : Ecc), Issues s c w → Proceeds s c → ecc ≠ .uncorrectable →
    let i := Insn.ofWord w
    let k := getCore s c
    let pos := bits i.imm 8 6
    let src := opIx i.s1
    i.opc = 0x40 → Completes (.red c ecc) s (fun t =>
      WentOn s t c ∧ OnlyCore s t c ∧
      getCore t c = { k with acc := (getCore t c).acc, loops := (getCore t c).loops } ∧
      ∀ n r j, n < 4 → r < 64 → j < 64 → (getCore t c).accGet n r j =
        if n = opIx i.dst ∧ bit i.mod 4 = false ∧ r < i.rows ∧ j = pos then
          reduce (bits i.mod 0 3) ((List.range 64).map (fun x => k.accGet src r x))
        else if n = opIx i.dst ∧ bit i.mod 4 = true ∧ r = pos then
          reduce (bits i.mod 0 3) ((List.range i.rows).map (fun x => k.accGet src x j))
        else k.accGet n r j)

/-- R78-R81: the running statistics and the output rows of the online softmax. -/
def Obligations.OnlineSoftmaxUpdatesStatistics : Prop :=
  ∀ (s : State) (c : CoreId) (w : BitVec 128) (ecc : Ecc), Issues s c w → Proceeds s c → ecc ≠ .uncorrectable →
    let i := Insn.ofWord w
    let k := getCore s c
    let sigma := k.f i.s3
    let o := opIx i.s2
    let allowed := fun (r j : Nat) =>
      let d := signed 64 (k.s (bits i.imm 16 5)).toNat
      let width := signed 64 (k.s (bits i.imm 24 5)).toNat
      match bits i.mod 0 2 with
      | 0 => true
      | 1 => bit (Bytes.le k.spad ((k.ar (32 + bits i.imm 8 4)).toNat + 8 * r) 8) j
      | 2 => decide ((j : Int) ≤ r + d)
      | _ => decide ((r : Int) + d - width < j) && decide ((j : Int) ≤ r + d)
    let x := fun r j => if allowed r j then fmul (k.accGet (opIx i.s1) r j) sigma else f32ninf
    let top := fun r => ((List.range 64).map (x r)).foldl fmax (k.maxGet o r)
    let corr := fun r => if top r = f32ninf then f32one else fexp2 (fsub (k.maxGet o r) (top r))
    let prob := fun r j => if top r = f32ninf then 0 else fexp2 (fsub (x r j) (top r))
    (i.opc = 0x48 → (bits i.mod 0 2 = 1 → (k.ar (32 + bits i.imm 8 4)).toNat + 8 * i.rows ≤ spadBytes) →
      Completes (.smx c ecc) s (fun t =>
        let k' := getCore t c
        WentOn s t c ∧ OnlyCore s t c ∧
        k' = { k with tiles := k'.tiles, acc := k'.acc, rowMax := k'.rowMax, rowSum := k'.rowSum, lanes := k'.lanes,
                      loops := k'.loops } ∧
        (∀ n b, b < 4096 → n ≠ opIx i.dst → n ≠ opIx i.dst + 1 → k'.tileByte n b = k.tileByte n b) ∧
        ∀ n r, n < 4 → r < 64 →
          k'.maxGet n r = (if n = o ∧ r < i.rows then top r else k.maxGet n r) ∧
          k'.sumGet n r = (if n = o ∧ r < i.rows then
            ffma (k.sumGet o r) (corr r) (treeSum 6 ((List.range 64).map (prob r))) else k.sumGet n r) ∧
          ∀ j, j < 64 → k'.accGet n r j =
            if n = o ∧ r < i.rows then fmul (k.accGet n r j) (corr r) else k.accGet n r j)) ∧
    (i.opc = 0x49 → Completes (.smxf c ecc) s (fun t =>
      let k' := getCore t c
      let d := opIx i.dst
      WentOn s t c ∧ OnlyCore s t c ∧
      k' = { k with acc := k'.acc, rowMax := k'.rowMax, rowSum := k'.rowSum, loops := k'.loops } ∧
      ∀ n r, n < 4 → r < 64 →
        k'.maxGet n r = (if n = d ∧ r < i.rows then f32ninf else k.maxGet n r) ∧
        k'.sumGet n r = (if n = d ∧ r < i.rows then 0 else k.sumGet n r) ∧
        ∀ j, j < 64 → k'.accGet n r j =
          if n = d ∧ r < i.rows then (if k.sumGet d r = 0 then 0 else fdiv (k.accGet d r j) (k.sumGet d r))
          else k.accGet n r j))

/-- R58, R65, R97, R98: the scalar results, and S0. -/
def Obligations.ScalarInstructionsWriteOneRegister : Prop :=
  ∀ (s : State) (c : CoreId) (w : BitVec 128) (ecc : Ecc), Issues s c w → Proceeds s c → ecc ≠ .uncorrectable →
    let i := Insn.ofWord w
    let k := getCore s c
    let Scalar := fun (t : State) (v : W64) =>
      let k' := getCore t c
      WentOn s t c ∧ OnlyCore s t c ∧ k' = { k with sregs := k'.sregs, loops := k'.loops } ∧
      ∀ n, n < 32 → k'.s n = if n = i.dst ∧ n ≠ 0 then v else k.s n
    (i.opc = 0x00 → Completes (.sageNop c ecc) s (fun t =>
      WentOn s t c ∧ OnlyCore s t c ∧ getCore t c = { k with loops := (getCore t c).loops })) ∧
    (i.opc = 0x60 → Completes (.salu c ecc) s (fun t => Scalar t
      (let a := k.s i.s1
       let b := if bit i.mod 6 then BitVec.ofNat 64 i.imm else k.s i.s2
       let sh := b.toNat % 64
       match bits i.mod 0 5 with
       | 0 => a + b | 1 => a - b | 2 => a * b | 3 => a &&& b | 4 => a ||| b | 5 => a ^^^ b
       | 6 => a <<< sh | 7 => a >>> sh | 8 => a.sshiftRight sh
       | 9 => if a.toInt < b.toInt then a else b
       | 10 => if a.toInt < b.toInt then b else a
       | 11 => if a.toInt < b.toInt then 1 else 0
       | 12 => if a.toNat < b.toNat then 1 else 0
       | 13 => (fadd (a.setWidth 32) (b.setWidth 32)).setWidth 64
       | 14 => (fmul (a.setWidth 32) (b.setWidth 32)).setWidth 64
       | _ => (f32enc (.ofInt a.toInt)).setWidth 64))) ∧
    (i.opc = 0x61 → Completes (.smov c ecc) s (fun t => Scalar t (BitVec.ofNat 64 i.imm))) ∧
    (i.opc = 0x62 → Completes (.amov c ecc) s (fun t =>
      let k' := getCore t c
      WentOn s t c ∧ OnlyCore s t c ∧ k' = { k with aregs := k'.aregs, loops := k'.loops } ∧
      ∀ n, n < 16 → (k'.ar (32 + n)).toNat =
        if 32 + n = i.dst then ((k.ar i.s1).toNat + (k.s i.s2).toNat + i.imm) % 2 ^ 48 else (k.ar (32 + n)).toNat)) ∧
    (i.opc = 0x63 → i.mod = 0 → Completes (.movsr c ecc) s (fun t => Scalar t
      (match i.imm with
       | 0 => BitVec.ofNat 64 c
       | 1 => BitVec.ofNat 64 (c.val / 6)
       | 2 => BitVec.ofNat 64 k.cycles
       | 3 => k.seed
       | 4 => BitVec.ofNat 64 ((k.launch.map (·.rank)).getD 0)
       | 5 => BitVec.ofNat 64 ((k.launch.map (·.size)).getD 0)
       | _ => BitVec.ofNat 64 ((k.loops.head?.map (·.index)).getD 0)))) ∧
    (i.opc = 0x63 → i.mod = 1 → Completes (.movsr c ecc) s (fun t =>
      WentOn s t c ∧ OnlyCore s t c ∧
      getCore t c = { k with seed := k.s i.s1, lanes := genSeed (k.s i.s1), loops := (getCore t c).loops }))

/-- R92 (and R82, R83, R88, R89, R90 for what each captures): the entry that an access makes as it issues; that it leaves
the table as it completes is stated apart (CompletedAccessesLeaveTheTable). -/
def Obligations.AccessesEnterTheRangeTable : Prop :=
  ∀ (s : State) (c : CoreId) (w : BitVec 128) (ecc : Ecc), Issues s c w → Proceeds s c → ecc ≠ .uncorrectable →
    let i := Insn.ofWord w
    let k := getCore s c
    let rows := (rowAddrs k i).map (placeAddr i c)
    let word := placeAddr i c (memBase k i)
    let Gains := fun (t : State) (P : Entry → Prop) =>
      WentOn s t c ∧ OnlyCore s t c ∧ ∃ e : Entry, P e ∧
        getCore t c = { k with table := k.table ++ [e], loops := (getCore t c).loops }
    let Covers := fun (e : Entry) (as : List Nat) (n : Nat) =>
      e.space = accessSpace i ∧ ∀ a ∈ as, 64 * e.lo ≤ a ∧ a + n ≤ 64 * e.hi
    let RowsFit := fun n => rangeFault i.space n (rowAddrs k i) = none
    let WordFits := fun n => memBase k i % n = 0 ∧ rangeFault i.space n [(memBase k i : Int)] = none
    let bytes := leBytes i.wordBytes (k.s i.s3).toNat
    let dst := if isNo i.dst then none else some i.dst
    tableRoom (devNum s) k.table = true →
    (i.opc = 0x01 → RowsFit i.rowLen → Completes (.tld c ecc) s (fun t => Gains t (fun e => Covers e rows i.rowLen ∧
      e.reads = true ∧ e.writes = false ∧ e.payload = .tileLoad (opIx i.dst) i.fmtA i.trans rows))) ∧
    (i.opc = 0x02 → RowsFit i.rowLen → Completes (.tst c ecc) s (fun t => Gains t (fun e => Covers e rows i.rowLen ∧
      e.reads = false ∧ e.writes = true ∧ e.payload = .store (rows.zip ((List.range i.rows).map (fun r =>
        if i.trans then k.memCol i.fmtA (opIx i.s3) r else k.memRow i.fmtA (opIx i.s3) r)))))) ∧
    (i.opc = 0x03 → RowsFit 256 → Completes (.ald c ecc) s (fun t => Gains t (fun e => Covers e rows 256 ∧
      e.reads = true ∧ e.writes = false ∧ e.payload = .accLoad (opIx i.dst) rows))) ∧
    (i.opc = 0x04 → RowsFit 256 → Completes (.ast c ecc) s (fun t => Gains t (fun e => Covers e rows 256 ∧
      e.reads = false ∧ e.writes = true ∧
      e.payload = .store (rows.zip ((List.range i.rows).map (k.accMemRow (opIx i.s3))))))) ∧
    (i.opc = 0x05 → WordFits i.wordBytes → Completes (.sld c ecc) s (fun t => Gains t (fun e =>
      Covers e [word] i.wordBytes ∧ e.reads = true ∧ e.writes = false ∧ e.release = false ∧ e.acquire = false ∧
      e.payload = .scalarLoad i.dst word i.wordBytes))) ∧
    (i.opc = 0x06 → WordFits i.wordBytes → Completes (.sst c ecc) s (fun t => Gains t (fun e =>
      Covers e [word] i.wordBytes ∧ e.reads = false ∧ e.writes = true ∧ e.release = false ∧ e.acquire = false ∧
      e.payload = .store [(word, bytes)]))) ∧
    (i.opc = 0x52 → WordFits i.wordBytes → Completes (.rel c ecc) s (fun t => Gains t (fun e =>
      Covers e [word] i.wordBytes ∧ e.reads = false ∧ e.writes = true ∧ (e.release = true ↔ i.scope ≠ 0) ∧
      e.scope = i.scope ∧ e.payload = .store [(word, bytes)]))) ∧
    (i.opc = 0x53 → WordFits i.wordBytes → Completes (.acq c ecc) s (fun t => Gains t (fun e =>
      Covers e [word] i.wordBytes ∧ e.reads = true ∧ e.writes = false ∧ e.acquire = true ∧
      e.scope = i.scope ∧ e.payload = .scalarLoad i.dst word i.wordBytes))) ∧
    (i.opc = 0x58 → WordFits (atomBytes (bits i.mod 0 4)) → Completes (.atom c ecc) s (fun t => Gains t (fun e =>
      Covers e [word] (atomBytes (bits i.mod 0 4)) ∧ e.reads = true ∧ e.writes = true ∧
      e.scope = i.scope ∧ e.payload = .atomic (bits i.mod 0 4) word (k.s i.s3) dst))) ∧
    (i.opc = 0x59 → WordFits 8 → Completes (.cas c ecc) s (fun t => Gains t (fun e =>
      Covers e [word] 8 ∧ e.reads = true ∧ e.writes = true ∧
      e.scope = i.scope ∧ e.payload = .cas word (k.s i.s3) (k.s (bits i.imm 32 8)) dst))) ∧
    (i.opc = 0x50 → Completes (.flush c ecc) s (fun t => Gains t (fun e =>
      e.lo = (k.ar i.s1).toNat / 64 ∧ e.hi = ((k.ar i.s1).toNat + (k.s i.s2).toNat + 63) / 64 ∧
      e.space = .device ∧ e.reads = true ∧ e.writes = true ∧ e.payload = .flush i.mod)))

/-- R82, R88, R92, R93, R287: what completing an access does, in the scratchpad and in the core's own station memory. -/
def Obligations.CompletedAccessesLeaveTheTable : Prop :=
  ∀ (s : State) (c : CoreId) (e : Entry),
    let k := getCore s c
    let Own := boundTo s (coreStn c) = k.launch.map (·.part) ∧ boundTo s (coreStn c) ≠ none
    let Local := e.space = .spad ∨ (e.space = .device ∧ (e.ownStn = true ∨ accessHeld s e.payload.pieces = false))
    let Far := ∃ dev, e.space = .remote dev ∧
      ((dev = devNum s ∧ accessHeld s e.payload.pieces = false) ∨ (dev ≠ devNum s ∧ fabricSize s ≤ dev))
    k.table.find? (fun f => f.slot == e.slot) = some e → e.sent = false →
    (earlier k.table e.slot).any (fun f => blocks (devNum s) f e) = false → stnPower s (coreStn c) = domOn →
    (Local ∨ Far →
      Completes (.sageAccessComplete c e.slot ⟨0, []⟩) s (fun t => ∀ f ∈ (getCore t c).table, f.slot ≠ e.slot)) ∧
    (∀ n, Local → 0 < n → n < e.left.length → Completes (.sageAccessComplete c e.slot ⟨n, []⟩) s (fun t =>
      ∃ f ∈ (getCore t c).table, f.slot = e.slot ∧ f.payload = e.payload ∧ f.done = e.done + n)) ∧
    (Local → e.done = 0 → Completes (.sageAccessComplete c e.slot ⟨0, []⟩) s (fun t =>
      (∀ chunks a bs, e.space = .spad → e.payload = .store (chunks ++ [(a, bs)]) →
        Bytes.read (getCore t c).spad a bs.length = bs ∧ SameMem s t ∧
        ∀ b, (∀ x ∈ chunks ++ [(a, bs)], b < x.1 ∨ x.1 + x.2.length ≤ b) →
          Bytes.get (getCore t c).spad b = Bytes.get k.spad b) ∧
      (∀ r a n, e.space = .spad → e.payload = .scalarLoad r a n → r < 32 → r ≠ 0 →
        (getCore t c).s r = BitVec.ofNat 64 (Bytes.le k.spad a n) ∧ SameMem s t) ∧
      (∀ r off n, e.space = .device → e.ownStn = true → e.payload = .scalarLoad r (stnAddr (coreStn c) off) n →
        off + n ≤ 0x800000 → n = 4 ∨ n = 8 → off % n = 0 → r < 32 → r ≠ 0 → Own →
        (getCore t c).s r = BitVec.ofNat 64 (Bytes.le s.mem (stnAddr (coreStn c) off) n) ∧ SameMem s t) ∧
      (∀ off bs, e.space = .device → e.ownStn = true → e.payload = .store [(stnAddr (coreStn c) off, bs)] →
        off + bs.length ≤ 0x800000 → bs ≠ [] → off % 64 + bs.length ≤ 64 → Own →
        Bytes.read t.mem (stnAddr (coreStn c) off) bs.length = bs ∧
        SameMemBut (stnAddr (coreStn c) off) bs.length s t)))

/-- R95, R96, R99, R100, R101: the forms of the control instructions that complete at once. -/
def Obligations.ControlInstructionsMoveTheProgram : Prop :=
  ∀ (s : State) (c : CoreId) (w : BitVec 128) (ecc : Ecc), Issues s c w → ecc ≠ .uncorrectable →
    let i := Insn.ofWord w
    let k := getCore s c
    let pc := fget s .SAGE_PC_PC c
    let target : Int := (pc : Int) + signed 16 i.imm
    let a := k.s i.s1
    let b := k.s i.s2
    let holds := match bits i.mod 0 3 with
      | 0 => True
      | 1 => a = b
      | 2 => a ≠ b
      | 3 => a.toInt < b.toInt
      | 4 => b.toInt ≤ a.toInt
      | 5 => a.toNat < b.toNat
      | _ => b.toNat ≤ a.toNat
    let body := bits i.imm 32 12
    let count := if isNo i.s1 then bits i.imm 0 32 else a.toNat
    let Goes := fun (t : State) (next : Nat) (ls : List Loop) =>
      fget t .SAGE_PC_PC c = next % 2 ^ 11 ∧ getCore t c = { k with loops := ls } ∧ coreState t c = stRunning ∧
      OnlyCore s t c
    (i.opc = 0x70 → holds → 0 ≤ target → target.toNat < k.code.length → Completes (.br c ecc) s (fun t =>
      Goes t target.toNat (k.loops.reverse.takeWhile
        (fun l => decide (l.first ≤ target.toNat ∧ target.toNat < l.first + l.len))).reverse)) ∧
    (i.opc = 0x70 → ¬holds → Proceeds s c → Completes (.br c ecc) s (fun t =>
      WentOn s t c ∧ Goes t (nextOf s c).2 (nextOf s c).1)) ∧
    (i.opc = 0x71 → count ≠ 0 → k.loops.length < 4 → pc + 1 < k.code.length →
      Completes (.loopOp c ecc) s (fun t => Goes t (pc + 1) (⟨pc + 1, body, count, 0⟩ :: k.loops))) ∧
    (i.opc = 0x71 → count = 0 → (seqPc k.loops (pc + 1 + body)).2 < k.code.length →
      Completes (.loopOp c ecc) s (fun t =>
        Goes t (seqPc k.loops (pc + 1 + body)).2 (seqPc k.loops (pc + 1 + body)).1)) ∧
    (i.opc = 0xFF → Completes (.endProg c ecc) s (fun t =>
      coreState t c = stEnding ∧ fget t .SAGE_PC_PC c = pc ∧ getCore t c = k ∧ SameMem s t)) ∧
    (i.opc = 0x79 → (i.scope = 0 ∨ k.table.any (releaseWaits i.scope) = false) →
      Completes (.bar c ecc) s (fun t => SameMem s t ∧ coreState t c = stRunning ∧
        (Proceeds s c → getCore t c = { k with wait := .bar i.scope (bits i.imm 0 4) pc false, loops := (nextOf s c).1 } ∧
          fget t .SAGE_PC_PC c = (nextOf s c).2 % 2 ^ 11) ∧
        (¬Proceeds s c → getCore t c = { k with wait := .bar i.scope (bits i.imm 0 4) pc true } ∧
          fget t .SAGE_PC_PC c = pc))) ∧
    (i.opc = 0x78 → bit i.mod 0 = false → Proceeds s c →
      (∀ e ∈ k.table, e.space.at (devNum s) ≠ (accessSpace i).at (devNum s) ∨
        placeAddr i c (k.ar i.s1).toNat + b.toNat ≤ 64 * e.lo ∨ 64 * e.hi ≤ placeAddr i c (k.ar i.s1).toNat) →
      Completes (.waitr c ecc) s (fun t => WentOn s t c ∧ Goes t (nextOf s c).2 (nextOf s c).1))

/-- R95, R107, R108, R291: polling a word of the core's own station memory. -/
def Obligations.PollingWaitsForTheWord : Prop :=
  ∀ (s : State) (c : CoreId) (w : BitVec 128) (ecc : Ecc),
    let i := Insn.ofWord w
    let k := getCore s c
    let a := (k.ar i.s1).toNat
    let word := Bytes.le s.mem (stnAddr (coreStn c) a) 8
    let b := (k.s i.s2).toNat
    let met := match bits i.mod 1 3 with
      | 0 => word = b
      | 1 => word ≠ b
      | 2 => b ≤ word
      | _ => signed 64 b ≤ signed 64 word
    let Ends := fun (t : State) (v : W64) (past : Bool) => (getCore t c).wait = .none ∧
      (∀ n, n < 32 → (getCore t c).s n = if n = i.dst ∧ n ≠ 0 then v else k.s n) ∧
      (past = false → coreState t c = stRunning) ∧
      (past = true → coreState t c = stFaulted ∧ fget t .SAGE_FAULT_CODE c = 5)
    let Word := i.space = 1 ∧ i.remote = false ∧ a % 8 = 0 ∧ a + 8 ≤ 0x800000 ∧
      boundTo s (coreStn c) = k.launch.map (·.part) ∧ boundTo s (coreStn c) ≠ none ∧
      ∀ f ∈ k.table, blocks (devNum s) f (pollEntry i k c) = false
    (Issues s c w → ecc ≠ .uncorrectable → Proceeds s c → i.opc = 0x78 → bit i.mod 0 = true → Word →
      Completes (.waitr c ecc) s (fun t => SameMem s t ∧ fget t .SAGE_PC_PC c = (nextOf s c).2 % 2 ^ 11 ∧
        (getCore t c).loops = (nextOf s c).1 ∧
        (met → Ends t 0 false) ∧
        (¬met → getCore t c =
          { k with wait := .poll k.cycles k.cycles (fget s .SAGE_PC_PC c) false, loops := (nextOf s c).1 }))) ∧
    (∀ start last pc past, coreState s c = stRunning → k.fencing = false → inReset s (coreStn c) = false →
      k.wait = .poll start last pc past → k.code[pc]? = some w →
      (stnPower s (coreStn c) = domOn → last + 64 ≤ k.cycles → k.cycles < start + bits i.imm 32 32 → Word →
        Completes (.waitrPollRead c) s (fun t => SameMem s t ∧ fget t .SAGE_PC_PC c = fget s .SAGE_PC_PC c ∧
          (met → Ends t 0 past) ∧ (¬met → getCore t c = { k with wait := .poll start k.cycles pc past }))) ∧
      (start + bits i.imm 32 32 ≤ k.cycles → Completes (.waitrTimeout c) s (fun t =>
        SameMem s t ∧ fget t .SAGE_PC_PC c = fget s .SAGE_PC_PC c ∧ Ends t 1 past)))

/-- R96, R126, R264, R290: fences and barriers. -/
def Obligations.FencesAndBarriersOrderACore : Prop :=
  ∀ (s : State) (c : CoreId),
    let k := getCore s c
    (∀ (w : BitVec 128) (ecc : Ecc), Issues s c w → ecc ≠ .uncorrectable →
      let i := Insn.ofWord w
      i.opc = 0x51 →
      ((∀ e ∈ k.table, i.scope ≠ 4 ∧ e.isRemote = true) → Proceeds s c → Completes (.sageFence c ecc) s (fun t =>
        WentOn s t c ∧ OnlyCore s t c ∧
        (2 ≤ i.scope → ∀ set way l, scGet t (coreStn c) set way = some l → set < 2048 → way < 8 → l.dirty ≠ 0) ∧
        ∀ l, (∃ key, (key, some l) ∈ s.scache ∧ l.dirty ≠ 0) → ∃ key, (key, some l) ∈ t.scache)) ∧
      ((∃ e ∈ k.table, i.scope = 4 ∨ e.isRemote = false) → Completes (.sageFence c ecc) s (fun t =>
        getCore t c = k ∧ fget t .SAGE_PC_PC c = fget s .SAGE_PC_PC c ∧ SameMem s t))) ∧
    (∀ scope id pc past cl l far, k.wait = .bar scope id pc past → k.launch = some cl → getLaunch s cl.id = some l →
      let group := l.cores.filter (fun p => inScope scope c p.1)
      let here := (∀ p ∈ group, p.2 ≠ .running ∨ coreState s p.1 = stFaulted ∨ (getCore s p.1).wait.barId id = true) ∧
        (scope = 0 ∨ l.cores.length = l.here)
      (here → (scope ≤ 2 ∨ l.here = l.size ∨ far = true) → Completes (.barrierRelease c far) s (fun t =>
        (∀ p ∈ group, ∀ n b, (getCore t p.1).wait ≠ .bar scope id n b) ∧ SameMem s t)) ∧
      (here → 2 < scope → l.here ≠ l.size → far = false → Completes (.barrierRelease c far) s (fun t =>
        SameMem s t ∧ ∀ d, getCore t d = getCore s d)) ∧
      (¬here → Completes (.barrierRelease c far) s (fun t => t = s)))

/-- R604, R273: PREF. -/
def Obligations.PrefetchesEnterNoTable : Prop :=
  ∀ (s : State) (c : CoreId) (w : BitVec 128) (ecc : Ecc), Issues s c w → Proceeds s c → ecc ≠ .uncorrectable →
    let i := Insn.ofWord w
    let k := getCore s c
    let line := memBase k i / 64
    i.opc = 0x07 → Completes (.pref c ecc) s (fun t =>
      WentOn s t c ∧ getCore t c = { k with loops := (getCore t c).loops } ∧ (∀ d, d ≠ c → getCore t d = getCore s d) ∧
      (i.rows = 1 → i.stream = false → memBase k i % 64 + i.rowLen ≤ 64 → cacheable (64 * line) = true →
        scFind s (coreStn c) line = none → prefetchPasses s (coreWho k c) line = true →
        (readAt s (coreWho k c) ⟨64 * line, 64⟩ false true).2.2 = false →
        ∃ way l, scFind t (coreStn c) line = some (way, l) ∧ l.dirty = 0 ∧ l.prefetched = true))

/-- R64, R107, R108: the fault an illegal instruction takes. -/
def Obligations.SageFaultsAreRecorded : Prop :=
  ∀ (s : State) (c : CoreId) (w : BitVec 128) (ecc : Ecc),
    let k := getCore s c
    coreState s c = stRunning → k.wait = .none → k.fencing = false → stnPower s (coreStn c) = domOn →
    inReset s (coreStn c) = false → k.code[fget s .SAGE_PC_PC c]? = some w → hazard k (Insn.ofWord w) = false →
    (Insn.ofWord w).legal = false → ecc ≠ .uncorrectable →
    Completes (.illegalOp c ecc) s (fun t =>
      coreState t c = stFaulted ∧ fget t .SAGE_FAULT_CODE c = 1 ∧
      fget t .SAGE_FAULT_FAULT_PC c = fget s .SAGE_PC_PC c % 2 ^ 11 ∧
      fget t .SAGE_FAULT_DETAIL c = (Insn.ofWord w).opc ∧ fget t .SAGE_PC_PC c = fget s .SAGE_PC_PC c ∧
      (∀ d, getCore t d = getCore s d) ∧ SameMem s t)

/-- R101, R102, R104, R106: from FREE through LOADING and RUNNING to FREE. -/
def Obligations.LaunchesTakeACoreThroughItsStates : Prop :=
  ∀ (s : State) (c : CoreId),
    let k := getCore s c
    (∀ r : LaunchReq,
      let head := devRead (begun s) (launchWho r) r.image 64
      let count := imageField head.2.1 12 4
      let code := devRead head.1 (launchWho r) (r.image + imageField head.2.1 8 4) (16 * count)
      coreState s c = stFree → boundTo s (coreStn c) = some r.part → stnPower s (coreStn c) = domOn →
      inReset s (coreStn c) = false → getLaunch s r.id = none → imageOk head.2.1 code.2.1 r.args.length = true →
      Unheld (assignCore (begun s) c r) →
      Completes (.launchAssign c r) s (fun t =>
        coreState t c = stLoading ∧ fget t .SAGE_FAULT_CODE c = 0 ∧
        (getCore t c).code = codeWords count code.2.1 ∧
        (∃ cl, (getCore t c).launch = some cl ∧ cl.id = r.id ∧ cl.part = r.part ∧ cl.sub = r.sub ∧ cl.rank = r.rank ∧
          cl.size = r.size ∧ cl.args = r.args ∧ cl.entry = imageField head.2.1 16 4) ∧
        ∃ l ∈ t.launches, l.id = r.id ∧ (c.val, CoreEnd.running) ∈ l.cores)) ∧
    (∀ cl, k.launch = some cl → coreState s c = stLoading → inReset s (coreStn c) = false →
      Completes (.loadComplete c) s (fun t =>
        let k' := getCore t c
        coreState t c = stRunning ∧ fget t .SAGE_PC_PC c = cl.entry % 2 ^ 11 ∧
        k'.tiles = [] ∧ k'.acc = [] ∧ k'.aregs = [] ∧ k'.loops = [] ∧ k'.table = [] ∧
        k'.s 1 = BitVec.ofNat 64 cl.argDest ∧ k'.s 2 = BitVec.ofNat 64 cl.rank ∧ k'.s 3 = BitVec.ofNat 64 cl.size ∧
        (∀ n, 3 < n → k'.s n = 0) ∧ k'.spad = Bytes.write (Bytes.write k.spad cl.initDest cl.init) cl.argDest cl.args ∧
        SameMem s t)) ∧
    (k.launch ≠ none → k.table = [] → coreState s c = stEnding →
      bit (fget s .STN_CORE_FENCE_FENCE (coreStn c)) (c.val % 6) = false →
      Completes (.coreDrained c) s (fun t => coreState t c = stFree ∧ (getCore t c).launch = none))

/-- R130, R132: STN_CORE_FENCE.FENCE. -/
def Obligations.FencedCoresAreHeldAndReleasedClear : Prop :=
  ∀ (s : State) (c : CoreId),
    let stn := coreStn c
    (bit (fget s .STN_CORE_FENCE_FENCE stn) (c.val % 6) = false → coreState s c ≠ stLoading →
      Completes (.coreFence c) s (fun t =>
        bit (fget t .STN_CORE_FENCE_FENCE stn) (c.val % 6) = true ∧ SameMem s t ∧
        (coreState s c = stFree ∨ coreState s c = stFaulted → coreState t c = stFenced ∧ getCore t c = getCore s c) ∧
        (coreState s c = stRunning ∨ coreState s c = stEnding →
          coreState t c = coreState s c ∧ getCore t c = { getCore s c with fencing := true }))) ∧
    (bit (fget s .STN_CORE_FENCE_FENCE stn) (c.val % 6) = false → coreState s c = stLoading →
      Completes (.coreFence c) s (fun t => coreState t c = stFenced ∧ (getCore t c).launch = none)) ∧
    (bit (fget s .STN_CORE_FENCE_FENCE stn) (c.val % 6) = true → coreState s c = stFenced →
      Completes (.coreRelease c) s (fun t =>
        bit (fget t .STN_CORE_FENCE_FENCE stn) (c.val % 6) = false ∧ bit (fget t .STN_CORE_FENCE_FW stn) (c.val % 6) = false ∧
        coreState t c = stFree ∧ (getCore t c).tiles = [] ∧ (getCore t c).acc = [] ∧ (getCore t c).sregs = [] ∧
        (getCore t c).aregs = [] ∧ (getCore t c).spad = [] ∧ SameMem s t))

/-- R127, R128, R129, R334. -/
def Obligations.BindingClearsAStation : Prop :=
  ∀ (s : State) (st : Stn), let k := st.val
    (sliceState s k = slBinding → fbit s .STN_STATUS_CLEARING k = false → stnPower s k ≠ domOff →
      ∀ u, composeTake s (k / 16) (stnJunction (k % 16)) = some u →
      (stnPower s k ≠ domOn → Completes (.composeBindStation st) s (fun t =>
        waking t (stnDomain k) = true ∧ t.stopSigs = s.stopSigs ∧ SameMem s t ∧
        fget t .STN_STATUS_CLEARING k = fget s .STN_STATUS_CLEARING k)) ∧
      (stnPower s k = domOn → Completes (.composeBindStation st) s (fun t =>
        t.stopSigs.length + 1 = s.stopSigs.length ∧
        fbit t .STN_STATUS_CLEARING k = true ∧ fbit t .STN_STATUS_BOUND k = true ∧
        fget t .STN_STATUS_PART k = fget t .COMP_SLICE_STATUS_PART k % 64 ∧ stnPower t k = domOn ∧
        (∀ a, stnAddr k 0 ≤ a → a < stnAddr (k + 1) 0 → Bytes.get t.mem a = 0) ∧
        (∀ a, pinBase + k * 0x2000000 ≤ a → a < pinBase + (k + 1) * 0x2000000 → Bytes.get t.mem a = 0) ∧
        (∀ set way, set < 2048 → way < 8 → scGet t k set way = none) ∧
        (∀ set way, set < 16384 → way < 16 → depotGet t k set way = none) ∧
        ∀ c, c < 6 → (getCore t (6 * k + c)).spad = []))) ∧
    (fbit s .STN_STATUS_CLEARING k = true → (∀ e ∈ s.heldAcc, e.1 ≠ k) →
      Completes (.composeBindStation st) s (fun t =>
        fbit t .STN_STATUS_CLEARING k = false ∧
        fget t .STN_CLEARS_COUNT k = (fget s .STN_CLEARS_COUNT k + 1) % 2 ^ 32 ∧ SameMem s t ∧
        ∃ m : SigMsg, t.sigs = s.sigs ++ [m] ∧ m.msg.cls = clsCompose ∧ m.msg.stop = mdStop ∧
          m.msg.payload = [BitVec.ofNat 32 k])) ∧
    (sliceState s k = slBinding → fbit s .STN_STATUS_CLEARING k = false → ∀ u, replyTake s k = some u →
      Completes (.bindingReply st) s (fun t => sliceState t k = slIdle ∧ t.mdSigs = u.mdSigs ∧ SameMem s t))

/-- R110, R111, R112, R119, R129. -/
def Obligations.StationStopsCheckAndServe : Prop :=
  ∀ (s : State) (st : Stn) (a : Access) (off : Nat), let k := st.val
    a.addr = stnAddr k off → off < 0x800000 →
    let Answered := fun (t : State) (data : List Byte) => t.answers = s.answers ++ [⟨a, data, false⟩]
    let served := stopHeld s k = false ∧ stnPower s k ≠ domOff
    let mine := a.who.oper = true ∨ boundTo s k = some a.who.part
    (stopHeld s k = true → Completes (.stationMeshAccess st a false) s (fun t =>
      t.heldAcc = s.heldAcc ++ [(k, a)] ∧ SameRegs [] s t ∧ SameMem s t ∧ t.answers = s.answers)) ∧
    (∀ n, a.op = .read n → 1 ≤ n → off % 64 + n ≤ 64 →
      (served → mine → Completes (.stationMeshAccess st a false) s (fun t =>
        Answered t (Bytes.read s.mem a.addr n) ∧ SameRegs [] s t ∧ SameMem s t)) ∧
      (served → ¬mine → Completes (.stationMeshAccess st a false) s (fun t =>
        Answered t (List.replicate n 0) ∧ SameMem s t ∧ fget t .STN_TROUBLE_TAG_MISMATCH k = 1 ∧
        SameRegs [(.STN_TROUBLE_TAG_MISMATCH, k)] s t)) ∧
      (stopHeld s k = false → stnPower s k = domOff → Completes (.stationMeshAccess st a false) s (fun t =>
        Answered t (List.replicate n 0) ∧ SameMem s t ∧ fget t .STN_TROUBLE_REGION_OFF k = 1))) ∧
    (∀ bs, a.op = .write bs → bs ≠ [] → off % 64 + bs.length ≤ 64 →
      (served → mine → Completes (.stationMeshAccess st a false) s (fun t =>
        Answered t [] ∧ Bytes.read t.mem a.addr bs.length = bs ∧ SameMemBut a.addr bs.length s t ∧
        SameRegs [] s t)) ∧
      (served → ¬mine → Completes (.stationMeshAccess st a false) s (fun t =>
        SameMem s t ∧ fget t .STN_TROUBLE_TAG_MISMATCH k = 1)))

/-- R117, R118, R122, R123, R134, R137, R274, R471, R473. -/
def Obligations.PacketsHopAndSignalsArrive : Prop :=
  (∀ (s : State) (die : Die) (j : Nat) (p : MeshPacket) (ecc : Ecc), let d := die.val
    let Leaves := fun (u : State) (e : InMesh) (t : State) =>
      let goal := if e.pkt.dstDie = d then e.pkt.dst else (nextDie d e.pkt.dstDie).2.1
      let next := if j % 6 < goal % 6 then j + 1 else if goal % 6 < j % 6 then j - 1
        else if j / 6 < goal / 6 then j + 6 else j - 6
      let data := if ecc = .uncorrectable then e.pkt.data.map (fun _ => 0) else e.pkt.data
      let way := (meshStep u d j e.pkt).2
      let q := { e.pkt with data := data, deadline := runDown e.pkt.deadline (2 * (u.now - e.since) + way) }
      (j = goal → e.pkt.dstDie = d → t.ejected = u.ejected ++ [(d, q)] ∧ t.mesh = u.mesh.erase e) ∧
      (j = goal → e.pkt.dstDie ≠ d → t.ejected = u.ejected ∧ t.mesh = u.mesh.erase e ++
        [⟨(nextDie d e.pkt.dstDie).1, (nextDie d e.pkt.dstDie).2.2, u.now + (way + 1) / 2, q⟩]) ∧
      (j ≠ goal → t.ejected = u.ejected ∧ t.mesh = u.mesh.erase e ++ [⟨d, next, u.now + (way + 1) / 2, q⟩]) ∧
      fget t .JCT_FLITS_COUNT (30 * d + j) =
        (fget s .JCT_FLITS_COUNT (30 * d + j) + lineUnits e.pkt.data.length) % 2 ^ 64 ∧
      (ecc = .uncorrectable → fget t .JCT_STATUS_UNCORR (30 * d + j) = 1 ∧
        t.troubles = s.troubles ++ [⟨some e.pkt.part, e.pkt.oper, .meshUe⟩]) ∧ SameMem s t
    (∀ e u, s.mesh.find? (fun e => e.die == d && e.at_ == j && e.pkt == p) = some e →
      meshNext s (meshOut e) = some (e, u) → Completes (.meshPacketHop die j p ecc) s (Leaves s e)) ∧
    (s.mesh.find? (fun e => e.die == d && e.at_ == j && e.pkt == p) = none →
      d = p.srcDie → p.dstDie < 16 → j = p.src → p.src < 30 → p.dst < 30 → p.cls < 8 →
      let u := meshEnter s d p
      let e : InMesh := ⟨d, j, s.now, { p with deadline := runDown p.deadline (stopUnits s d j) }⟩
      (∀ v, meshNext u (meshOut e) = some (e, v) → Completes (.meshPacketHop die j p ecc) s (Leaves u e)) ∧
      ((∀ v, meshNext u (meshOut e) ≠ some (e, v)) → Completes (.meshPacketHop die j p ecc) s (fun t =>
        t = u ∧ e ∈ t.mesh)))) ∧
  (∀ (s : State) (x : SigMsg) (rest : List SigMsg) (latency core : Nat),
    s.sigs = x :: rest → x.msg.die < 16 → core < 4 →
    let g := 4 * x.msg.die + core
    (x.msg.stop = mdStop → x.msg.cls ≠ clsNotify → Completes (.signalDeliver 0 latency false core) s (fun t =>
      t.sigs = rest ∧ t.mdSigs = s.mdSigs ++ [x.msg] ∧ SameMem s t ∧ SameRegs [] s t)) ∧
    (x.msg.stop = ccStop → fromComposer x = false → (getRxq s g).length < 16 → cndState s g ≠ cndWaiting →
      Completes (.signalDeliver 0 latency false core) s (fun t =>
        t.sigs = rest ∧ getRxq t g = getRxq s g ++ [x.msg] ∧ SameMem s t ∧
        (x.msg.cls = clsBarrier → fget t .SIG_MAX_LAT_A_BARRIER x.msg.die =
          max (fget s .SIG_MAX_LAT_A_BARRIER x.msg.die) (min latency 65535) % 2 ^ 16))) ∧
    (∀ i, i < 16 → x.msg.stop = stnJunction i → x.msg.oper = false →
      boundTo s (16 * x.msg.die + i) ≠ some x.msg.part → Completes (.signalDeliver 0 latency false core) s (fun t =>
        t.sigs = rest ∧ t.stopSigs = s.stopSigs ∧ SameMem s t ∧
        fget t .SIG_DROPPED_COUNT x.msg.die = min (fget s .SIG_DROPPED_COUNT x.msg.die + 1) (2 ^ 32 - 1))))

/-- R147-R152, R155, R156. -/
def Obligations.KvGateCommandsEndWithAWord : Prop :=
  ∀ (s : State) (st : Stn) (peers : Peers) (ring : Nat), let k := st.val
    let c := kvgCmd s k ring
    let off := kvgSlotOff s k ring
    let w := kvgWho s k
    let p := kvgPlane (epochStart (begun s) w.part w.sub).2 k c
    let fetched := kvgExec (begun s) k (· == 1) (fun s c => kvgRun s k c peers)
    let written := kvgExec (begun s) k (· == 2) (fun s c => kvgRun s k c [])
    let Word := fun (t : State) (status count : Nat) => wordAt t (stnAddr k off) = 2 ^ 63 + status * 2 ^ 32 + count
    let head := if ring = 0 then F.KVG_HEAD_HEAD0 else F.KVG_HEAD_HEAD1
    let Moved := fun (t : State) (status : Nat) => fget t head k = (fget s head k + 1) % 256 ∧
      (status ≠ 0 → fget t .KVG_LAST_STATUS_STATUS k = status ∧ fget t .KVG_LAST_STATUS_SLOT k = kvgHead s k ring % 256) ∧
      SameFields (homeFields ++ epochFields ++ linkFields ++ [head, .KVG_LAST_STATUS_STATUS, .KVG_LAST_STATUS_RING,
        .KVG_LAST_STATUS_SLOT, .KVG_BYTES_COUNT]) s t
    (KvgTakes s k ring 1 → c.formOk = false →
      Completes (.kvgFetch st peers) s (fun t => Word t 4 0 ∧ Moved t 4 ∧ SameMemBut (stnAddr k off) 8 s t)) ∧
    (KvgTakes s k ring 1 → ¬Unheld fetched → Completes (.kvgFetch st peers) s (fun t => t = s)) ∧
    (KvgTakes s k ring 1 → c.formOk = true → Unheld fetched → ∀ pl len, p.2 = some (pl, len) →
      Completes (.kvgFetch st peers) s (fun t => ∃ status count,
        (status = 0 ∨ status = 1 ∨ status = 3) ∧ Word t status count ∧ Moved t status ∧
        (status = 0 → count = fetchEnd c len) ∧
        (off + 8 ≤ c.buf ∨ c.buf + 8 ≤ off →
          leNat (Bytes.read t.mem (stnAddr k c.buf) 4) = c.first ∧
          leNat (Bytes.read t.mem (stnAddr k (c.buf + 4)) 4) = count))) ∧
    (KvgTakes s k ring 2 → c.formOk = false →
      Completes (.kvgWrite st) s (fun t => Word t 4 0 ∧ Moved t 4 ∧ SameMemBut (stnAddr k off) 8 s t)) ∧
    (KvgTakes s k ring 2 → ¬Unheld written → Completes (.kvgWrite st) s (fun t => t = s)) ∧
    (KvgTakes s k ring 2 → c.formOk = true → Unheld written → ∀ pl len, p.2 = some (pl, len) →
      Completes (.kvgWrite st) s (fun t => ∃ status count,
        Word t status count ∧
        ((status = 0 ∧ count = c.count) ∨ ((status = 1 ∨ status = 2) ∧ count < c.count)) ∧
        ((kvgPte p.1 k pl (c.first / pl.perPage)).2 = none → status = 1 ∧ count = 0))) ∧
    (KvgTakes s k ring 3 →
      let ok := c.flags = 0 ∧ c.zero5 = 0
      Completes (.kvgMark st) s (fun t => Word t (if ok then 0 else 4) 0 ∧ Moved t (if ok then 0 else 4) ∧
        SameMemBut (stnAddr k off) 8 s t)) ∧
    (∀ tail, ring < 2 → Completes (.kvgDoorbell st ring tail) s (fun t => SameMem s t ∧ SameRegs [] s t ∧
      (boundTo s k = none → t = s) ∧
      (boundTo s k ≠ none →
        (ring = 0 → getKvg t k = { getKvg s k with tail0 := tail % 256 }) ∧
        (ring = 1 → getKvg t k = { getKvg s k with tail1 := tail % 256 })))) ∧
    (∀ seed, Completes (.kvgRseedWrite st seed) s (fun t => fget t .KVG_RSEED_SEED k = seed.toNat ∧
      getKvgLanes t k = genSeed seed ∧ SameRegs [(.KVG_RSEED_SEED, k)] s t ∧ SameMem s t))

/-- R165, R168, R172-R175, R380. -/
def Obligations.RoutesAreDispatchedAndCombined : Prop :=
  (∀ (s : State) (die : Die) (sub : Nat) (answers : List (List Byte)) (lost : List Nat) (r : Nat), let d := die.val
    let peers := peersOf answers lost
    let w := ptsWho s d r (sub % 4)
    let word := 64 * fget s .PTS_RING_BASE_ADDR (4 * d + r) + 64 * ptsHead s d r
    let cr := devRead (begun s) w word 64
    let c := routeCmdOf cr.2.1
    let s1 := setPoints (fset cr.1 (ptsHeadF r) d (ptsHead s d r + 1)) d { getPoints s d with last := r }
    let e := epochStart s1 w.part w.sub
    let x := routeCtx e.2 w d c e.1
    ptsNext s d = some r → Unheld (routeRun die sub peers (begun s)) →
    (x.2 = none → word + 64 ≤ regBase → Completes (.route die sub answers lost) s (fun t =>
      t.routes = s.routes ∧ fget t .PTS_STATUS_LAST_ERROR d = 1 ∧ ptsHead t d r = (ptsHead s d r + 1) % 64 ∧
      (getPoints t d).last = r ∧
      SameFields (homeFields ++ epochFields ++ [ptsHeadF r, .PTS_STATUS_LAST_ERROR]) s t)) ∧
    (∀ x', x.2 = some x' →
      let Joins := fun (t : State) => ∃ q, t.routes.getLast? = some q ∧ q.die = d ∧ q.ring = r ∧ q.word = word ∧
        q.part = w.part ∧ q.tokens = c.tokens ∧ q.hidden = c.hidden ∧ q.outRows = c.outRows ∧
        q.assigns.length ≤ c.tokens * x'.desc.topk ∧ ∀ a ∈ q.assigns, a.token < c.tokens
      Completes (.route die sub answers lost) s (fun t => (fget t .PTS_STATUS_LAST_ERROR d = 3 ∨ Joins t) ∧
        ((∀ shs ∈ x'.shards, ∀ sh ∈ shs, sh.1 = devNum s) → Joins t)))) ∧
  (∀ (s : State) (die : Die) (r : Fin 4) (i : Nat) (x : Route) (order : List Nat) (peers : List Peers),
    s.routes.findIdx? (fun y => y.die == die.val && y.ring == r.val) = some i → s.routes[i]? = some x →
    let w : Who := ⟨x.part, x.sub, false, 3, x.die, 0, false⟩
    let xs := (List.range x.contribs.length).filterMap (fun j => (x.contribs[j]?).map (fun c => (c, peers.getD j [])))
    let full := (readyOnes w xs (begun s)).2.length = x.contribs.length
    x.outRows + x.tokens * (4 * x.hidden) ≤ regBase → (∀ a ∈ x.assigns, a.token < x.tokens) → x.word + 8 ≤ regBase →
    let Ended := fun (t : State) => t.routes = s.routes.eraseIdx i ∧
      SameFields (homeFields ++ epochFields ++ linkFields ++ [.PTS_STATUS_LAST_ERROR]) s t
    let due := x.since + 1000 * fget s .PTS_TIMEOUT_MICROSECONDS die ≤ s.now
    (full → Unheld (combine (begun s) i x order peers false) → Completes (.pointsCombine die r order peers) s (fun t =>
      Ended t ∧
      (fget t .PTS_STATUS_LAST_ERROR die.val = fget s .PTS_STATUS_LAST_ERROR die.val ∨
        fget t .PTS_STATUS_LAST_ERROR die.val = 3) ∧
      ((∀ c ∈ x.contribs, c.shard.1 = devNum s) →
        fget t .PTS_STATUS_LAST_ERROR die.val = fget s .PTS_STATUS_LAST_ERROR die.val))) ∧
    (¬full → Completes (.pointsCombine die r order peers) s (fun t => t = begun s)) ∧
    (¬full → due → Unheld (combine (begun s) i x order peers true) →
      Completes (.partialTimeout die r order peers) s (fun t => Ended t ∧ fget t .PTS_STATUS_LAST_ERROR x.die = 2)) ∧
    (¬due → Completes (.partialTimeout die r order peers) s (fun t => t = s))) ∧
  (∀ (s : State) (die : Die) (r : Fin 4) (tail : Nat), let d := die.val
    Completes (.ptsDoorbell die r tail) s (fun t => SameMem s t ∧ SameRegs [] s t ∧
      (getPoints t d).last = (getPoints s d).last ∧
      (getPoints t d).tails = setAt (getPoints s d).tails r (tail % 64)))

/-- R179, R181, R188, R193, R195, R199, R202. -/
def Obligations.BranchLineCommandsEndInRingOrder : Prop :=
  ∀ (s : State) (pid : PartId) (r : Nat), let u := pid.val
    let w := blWho s u r
    let s0 := begun s
    let cmd := (blCmdAt s0 u r).2
    let s1 := (blSpecAt s0 u r).1
    let p := specOf (blSpecAt s0 u r).2
    let Free := fun (op : Nat) (late : Bool) => Unheld (blExec s0 u (· == op) late)
    let spec := fieldAt cmd 8 8
    let tree := blRead s1 w (fieldAt cmd 16 8) 1088
    let tr := treeOf tree.2
    let Ended := fun (t : State) (status value : Nat) (fs : List F) =>
      blHead t u r = (blHead s u r + 1) % 64 ∧ (getBl t u).last = r ∧
      (status ≠ 0 → fget t .BL_STATUS_LAST_ERROR u = status ∧ fget t .BL_STATUS_RING u = r) ∧
      (WordOpen s w (blSlot s u r) → wordAt t (blSlot s u r) = 2 ^ 63 + status * 2 ^ 32 + value) ∧
      SameFields (homeFields ++ epochFields ++ [.CTL_DIR_EVICTS_COUNT, blHeadF r, .BL_STATUS_LAST_ERROR, .BL_STATUS_RING] ++ fs) s t
    (BlTakes s0 u r 1 → Free 1 false → p.isOpen = false → p.histLen ≠ 0 → bit (fieldAt cmd 1 1) 0 = false →
      fieldAt cmd 16 8 + 0x20000 ≤ regBase → Completes (.build ⟨pid, false⟩) s (fun t => ∃ n, 1 ≤ n ∧ n ≤ fieldAt cmd 52 1 ∧
        Ended t 0 n [.BL_OPEN_COUNT, .BL_TREES_COUNT, .BL_DRAFTED_COUNT] ∧
        fget t .BL_OPEN_COUNT u = (fget s .BL_OPEN_COUNT u + 1) % 2 ^ 16 ∧
        fget t .BL_TREES_COUNT u = (fget s .BL_TREES_COUNT u + 1) % 2 ^ 64 ∧
        fget t .BL_DRAFTED_COUNT u = (fget s .BL_DRAFTED_COUNT u + (n - 1)) % 2 ^ 64)) ∧
    (BlTakes s0 u r 1 → Free 1 false → p.isOpen = true → bit (fieldAt cmd 1 1) 0 = false →
      Completes (.build ⟨pid, false⟩) s (fun t => Ended t 2 0 [])) ∧
    (BlTakes s0 u r 2 → Free 2 false → tr.ok = true → p.isOpen = true →
      (targetLists w (fieldAt cmd 24 8) (fieldAt cmd 48 4) tr.n 0 tree.1).2 ≠ none →
      fieldAt cmd 32 8 + 64 ≤ regBase → Completes (.accept ⟨pid, false⟩) s (fun t => ∃ n, n ≤ 16 ∧ Ended t 0 n [])) ∧
    (BlTakes s0 u r 2 → Free 2 false → tr.ok = true → p.isOpen = false →
      Completes (.accept ⟨pid, false⟩) s (fun t => Ended t 2 0 [])) ∧
    (BlTakes s0 u r 3 → Free 3 false → tr.ok = true → p.isOpen = true →
      let ra := fieldAt cmd 32 8
      let rec_ := blRead tree.1 w ra 64
      let k := fieldAt cmd 48 4
      let acc := fieldAt rec_.2 0 1
      let path := (List.range (min acc 16)).map (fun i => fieldAt rec_.2 (8 + i) 1)
      let way := lowestWay (tr.mask (if k = 0 then 0 else path.getD (k - 1) 0))
      let l0 := rootPlanes rec_.1 w p.live
      let lw := rootPlanes l0.1 w (p.wayRoots.getD (way - 1) 0)
      k ≤ acc → acc ≤ 16 → (∀ x ∈ path, x < tr.n) → ListsBelow l0.2 →
      (way ≠ 0 → ∀ x ∈ l0.2.zip lw.2, x.2.1 + 16 * x.1.2.1 + 16 ≤ regBase) →
      ra + 64 ≤ regBase → spec + 128 ≤ regBase → p.hist + 4 * p.histCap ≤ regBase →
      (p.ngN ≠ 0 → p.ng + 0x2000000 ≤ regBase) →
      Completes (.commit ⟨pid, false⟩) s (fun t => ∃ n, n ≤ k + 1 ∧ Ended t 0 n [.BL_OPEN_COUNT, .BL_ACCEPTED_COUNT] ∧
        fget t .BL_OPEN_COUNT u = (fget s .BL_OPEN_COUNT u - 1) % 2 ^ 16 ∧
        fget t .BL_ACCEPTED_COUNT u = (fget s .BL_ACCEPTED_COUNT u + k) % 2 ^ 64)) ∧
    (BlTakes s0 u r 3 → Free 3 false → tr.ok = true → p.isOpen = false →
      let acc := fieldAt (blRead tree.1 w (fieldAt cmd 32 8) 64).2 0 1
      (acc ≤ 16 ∧ fieldAt cmd 48 4 ≤ acc ∧ ∀ i, i < acc →
        fieldAt (blRead tree.1 w (fieldAt cmd 32 8) 64).2 (8 + i) 1 < tr.n) →
      Completes (.commit ⟨pid, false⟩) s (fun t => Ended t 2 0 [])) ∧
    (BlTakes s0 u r 4 → Free 4 false → tr.ok = true → p.isOpen = true → Completes (.blCancel ⟨pid, false⟩) s (fun t =>
      Ended t 0 0 [.BL_OPEN_COUNT] ∧ fget t .BL_OPEN_COUNT u = (fget s .BL_OPEN_COUNT u - 1) % 2 ^ 16)) ∧
    (BlTakes s0 u r 4 → Free 4 false → tr.ok = true → p.isOpen = false →
      Completes (.blCancel ⟨pid, false⟩) s (fun t => Ended t 2 0 [])) ∧
    (∀ op, BlTakes s0 u r op → Free op true →
      (blPlan (epochStart (blCmdAt s0 u r).1 w.part w.sub).2 w cmd).2.status = 0 →
      Completes (if op = 1 then .build ⟨pid, true⟩ else if op = 2 then .accept ⟨pid, true⟩ else if op = 3 then .commit ⟨pid, true⟩
        else .blCancel ⟨pid, true⟩) s (fun t => Ended t 5 0 [.BLY_TIMEOUTS_COUNT])) ∧
    (∀ (q : Fin 4) (tail : Nat), Completes (.blDoorbell pid q tail) s (fun t => SameMem s t ∧ SameRegs [] s t ∧
      (getBl t u).last = (getBl s u).last ∧ (getBl t u).tails = setAt (getBl s u).tails q (tail % 64)))

/-- R211-R213, R215, R227-R229, R234. -/
def Obligations.RequestsJoinCancelImportAndExport : Prop :=
  ∀ (s : State) (i : Nat),
    (∀ (q : Intake) (prompt ext emitted : List Byte), s.intake[i]? = some q → fieldAt q.desc 0 1 ≠ 2 →
      let x := submitData (begun s) i q prompt ext emitted
      let outOk := outValid x.1 q.part q.desc
      let r := reqOf x.1 q (outRing q.desc) x.2.1 x.2.2.1 x.2.2.2
      Unheld x.1 →
      (submitStatus x.1 r q.desc x.2.2.1 outOk = none → Completes (.submit i prompt ext emitted none) s (fun t =>
        t.reqs = s.reqs ++ [r] ∧ r.st = .queued ∧ t.intake = s.intake.eraseIdx i ∧ t.services = s.services)) ∧
      (outOk = false → Completes (.submit i prompt ext emitted none) s (fun t =>
        t.reqs = s.reqs ∧ t.intake = s.intake.eraseIdx i ∧
        (RecordClear s q.part q.ring → Recorded s t q.part q.ring (fieldAt q.desc 8 8) 0 0 0x10 0)))) ∧
    (∀ q : Intake, s.intake[i]? = some q → fieldAt q.desc 0 1 = 2 →
      let hit := fun (r : Req) => r.ring == q.ring && r.tag == fieldAt q.desc 8 8
      let formed := (q.desc.drop 1).take 7 = List.replicate 7 0 ∧ ∀ b ∈ q.desc.drop 16, b = 0
      (formed → Completes (.requestCancel i) s (fun t => t.intake = s.intake.eraseIdx i ∧ t.tlps = s.tlps ∧
        t.reqs = s.reqs.map (fun r => if hit r then { r with cancel := true } else r) ∧ SameRegs [] s t ∧ SameMem s t ∧
        ∀ v, getService s q.part (getRing s q.ring).sub = some v →
          getService t q.part (getRing s q.ring).sub =
            some (if s.reqs.any hit then v else v.count scMisses 1))) ∧
      (¬formed → (q.desc.drop 1).length = 63 → Completes (.requestCancel i) s (fun t =>
        t.intake = s.intake.eraseIdx i ∧ t.reqs = s.reqs ∧
        (RecordClear s q.part q.ring → Recorded s t q.part q.ring (fieldAt q.desc 8 8) 0 0 0x10 0)))) ∧
    (∀ (r : Req) (v : Service) (peers : Peers), s.reqs[i]? = some r → getService s r.part r.sub = some v →
      let ended := fun (t : State) (e : ImageEnd) =>
        t.reqs = s.reqs.map (fun x => if x.id == r.id then { r with event := some e } else x) ∧ t.services = s.services
      (r.st = .importing → r.event = none → Unheld (importImage (begun s) v r peers).1 →
        Completes (.importComplete i peers) s (fun t => ended t (importImage (begun s) v r peers).2 ∧
          ((tierRead (begun s) v r.extDev r.extAddr (256 + 4 * (imageSlots v.bundle r.prompt.length).length) peers).2.1 = none →
            ended t .lost) ∧
          ∀ h, (tierRead (begun s) v r.extDev r.extAddr
              (256 + 4 * (imageSlots v.bundle r.prompt.length).length) peers).2.1 = some h →
            kvImageOk v.bundle r.prompt.length h = false → ended t .mismatch)) ∧
      (r.st = .exporting → r.event = none → Unheld (exportImage (begun s) v r peers).1 →
        Completes (.exportComplete i peers) s (fun t => ended t (exportImage (begun s) v r peers).2 ∧
          (exportImage (begun s) v r peers).2 ≠ .mismatch)) ∧
      ((r.st ≠ .importing ∨ r.event ≠ none) → Completes (.importComplete i peers) s (fun t => t = begun s)) ∧
      ((r.st ≠ .exporting ∨ r.event ≠ none) → Completes (.exportComplete i peers) s (fun t => t = begun s)))

/-- R208, R210, R216, R220, R224, R229, R400, R401; the loop's status block lies below the device registers. -/
def Obligations.ServicesStartStepAndStop : Prop :=
  (∀ (s : State) (i : Nat) (c : Cmd) (b : Bundle), Starts s i 0x03 c →
    let sub := c.arg 2 % 4
    let s0 := startCmd (begun s) c
    let cfg := (fwRead s0 (loopWho s0 c.part sub) (c.arg 1) 64).2.1
    let good := c.arg 1 % 64 = 0 ∧ configOk cfg = true
    Unheld (serveCmd s0 { c with started := true } b) → ∀ j, slotOf s c.part sub = some j → slotState' s j ≠ ctDissolving →
    (getService s c.part sub = none → good → bundleOk b = true → fieldAt cfg 32 8 + 128 ≤ regBase →
      Completes (.serve i b) s (fun t => CmdEnds s t c 0 0 0 0 ∧ ∃ v, t.services = s.services ++ [v] ∧
        v.part = c.part ∧ v.sub = sub ∧ v.bundle = b ∧ v.cfg = cfg ∧ v.inStep = false ∧ v.step = 0 ∧ v.stopping = none)) ∧
    (getService s c.part sub = none → ¬good →
      Completes (.serve i b) s (fun t => CmdEnds s t c 0 1 0 0 ∧ t.services = s.services)) ∧
    (getService s c.part sub = none → good → bundleOk b = false →
      Completes (.serve i b) s (fun t => CmdEnds s t c 0 2 0 0 ∧ t.services = s.services)) ∧
    (getService s c.part sub ≠ none →
      Completes (.serve i b) s (fun t => CmdEnds s t c 0 3 0 0 ∧ t.services = s.services))) ∧
  (∀ (s : State) (i : Nat) (c : Cmd), Starts s i 0x04 c →
    (getService s c.part (c.arg 0 % 4) = none → Completes (.stop i) s (fun t => CmdEnds s t c 0 1 0 0)) ∧
    (∀ v, getService s c.part (c.arg 0 % 4) = some v → Completes (.stop i) s (fun t =>
      ∃ g ids, getService t c.part (c.arg 0 % 4) = some { v with stopping := some (g, ids) } ∧ c.id ∈ ids ∧
        (g = true → bit (c.arg 0) 8 = true) ∧ SameMem s t))) ∧
  (∀ (s : State) (pid : PartId) (sub : Fin 4) (v : Service) (plan : Plan), getService s pid sub = some v →
    (∀ results draw,
      let waits := v.waitGrant ≠ none ∨ v.spilling ≠ [] ∨ (v.inStep = true ∧ stepRuns s v = true)
      (waits → Completes (.stepBoundary pid sub results plan draw) s (fun t => t = begun s)) ∧
      (¬waits → Unheld (boundaryRun pid sub results plan draw (begun s) v) →
        Completes (.stepBoundary pid sub results plan draw) s (fun t => StepsOn v t ∧
          (reqsOf s pid sub = [] → v.stopping ≠ none → getService t pid sub = none) ∧
          (reqsOf s pid sub = [] → v.stopping = none → v.inStep = false → v.u 32 8 + 128 ≤ regBase →
            (∀ j, slotOf s pid sub = some j → slotState' s j ≠ ctSwitching) →
            ∃ h, t.hints = s.hints ++ [h] ∧ h.part = pid.val)))) ∧
    (∀ n, v.waitGrant = some n → v.inStep = false → Unheld (grantRun pid sub plan n (begun s)) →
      let a := if n = 1 then attempt s pid sub 0 (plan.asks.getD 0 (0, 0)) else attempt s pid sub 1 (plan.asks.getD 2 (0, 0))
      Completes (.grantRetry pid sub plan) s (fun t => StepsOn v t ∧
        ∃ w, getService t pid sub = some w ∧ w.inStep = a.1 ∧ (a.1 = false → w.waitGrant ≠ none))) ∧
    (∀ n e (peers : Peers), v.spilling[n]? = some e → v.inStep = false → v.waitGrant = none →
      let v' := { v with spilling := v.spilling.eraseIdx n }
      Unheld (spillRun pid sub plan peers (begun s) v' e) → Completes (.spillComplete pid sub n plan peers) s (fun t =>
        (v.spilling.length = 1 → StepsOn v t) ∧
        (v.spilling.length ≠ 1 →
          (∃ w, getService t pid sub = some w ∧ w.spilling = v.spilling.eraseIdx n ∧ w.step = v.step) ∧
          (∀ r, getReq s r.id = some r → r.id ≠ e.1 → getReq t r.id = some r) ∧
          ∀ r, getReq s e.1 = some r → ∃ r', getReq t e.1 = some r' ∧
            r'.slots.map (fun x => (x.list, x.plane, x.index)) = r.slots.map (fun x => (x.list, x.plane, x.index)) ∧
            ∀ x ∈ r'.slots, x ∉ r.slots → ∃ y ∈ tierRoom s v, ∃ k, x.spill = some (y.1, y.2, k)))))

/-- R246, R247, R249-R252, R259, R476, R477. -/
def Obligations.HomesServePatrolAndScrub : Prop :=
  (∀ (s : State) (a : Access) (k cls n : Nat) (queues : List Nat) (aged : Bool) (bs : List Byte), let line := a.addr / 64
    regionOf a.addr = .hbm k → 1 ≤ n → a.addr % 64 + n ≤ 64 →
    let h := homeOf k
    let lvl := max (getLevel s h) (fbLevel s (homeOccupancy h queues))
    let held := heldAt lvl (accessClass s a.who cls) (ownExtent a.who k) = true ∧ aged = false
    let Answered := fun (t : State) (data : List Byte) (bad : Bool) => t.answers = s.answers ++ [⟨a, data, bad⟩]
    (held → Completes (.hbmAccess a cls queues aged .clean) s (fun t => t.answers = s.answers ∧ getLevel t h = lvl ∧
      SameRegs [(.TC_FB_LEVEL_LEVEL, h / 32)] s t ∧ SameMem s t)) ∧
    (¬held → scrubbing s k = false → homeAccepts s a.who k = true → isUe s line = false →
      (a.op = .read n → Completes (.hbmAccess a cls queues aged .clean) s (fun t => getLevel t h = lvl ∧
        Answered t (Bytes.read s.mem a.addr n) false ∧ SameMem s t)) ∧
      (a.op = .write bs → bs.length = n → Completes (.hbmAccess a cls queues aged .clean) s (fun t =>
        Answered t [] false ∧ Bytes.read t.mem a.addr n = bs ∧ SameMemBut a.addr n s t)) ∧
      (a.op = .read n → depotWay s k a.addr = none → Completes (.hbmAccess a cls queues aged .bad) s (fun t =>
        Answered t (List.replicate n 0) true ∧ fget t .HBM_ERR_LOG_VALID (k / 16) = 1 ∧ SameMem s t))) ∧
    (¬held → scrubbing s k = false → homeAccepts s a.who k = false → a.op = .read n →
      Completes (.hbmAccess a cls queues aged .clean) s (fun t => Answered t (List.replicate n 0) false ∧ SameMem s t ∧
        fget t .HBM_TAG_DROPS_COUNT (k / 16) = min (fget s .HBM_TAG_DROPS_COUNT (k / 16) + 1) (2 ^ 32 - 1)))) ∧
  (∀ (s : State) (home : Fin 64) (occ : Nat), let l := getLevel s home
    Completes (.fbLevelFall home occ) s (fun t => SameMem s t ∧ SameRegs [(.TC_FB_LEVEL_LEVEL, home.val / 32)] s t ∧
      getLevel t home = if l ≠ 0 ∧ occ < fbThresh s l then l - 1 else l)) ∧
  (∀ (s : State) (die : Die) (line : Nat) (last : Bool), let d := die.val; let k := 64 * line / sliceBytes
    fget s .HBM_PATROL_ENABLE d = 1 → k / 16 = d → fget s .HBM_STATUS_TRAINED d ≠ 0 → scrubbing s k = false →
    Completes (.patrolRead die line .uncorrectable last) s (fun t => isUe t line = true ∧ SameMem s t ∧
      fget t .HBM_ERR_LOG_VALID d = 1 ∧
      (fget s .HBM_ERR_LOG_VALID d ≠ 1 → fget t .HBM_ERR_LOG_ADDR d = 64 * line % 2 ^ 40 ∧ fget t .HBM_ERR_LOG_KIND d = 1)) ∧
    (isUe s line = false → Completes (.patrolRead die line .corrected last) s (fun t => SameMem s t ∧
      fget t .HBM_CE_COUNT_CORRECTED d = min (fget s .HBM_CE_COUNT_CORRECTED d + 1) (2 ^ 32 - 1)))) ∧
  (∀ (s : State) (st : Stn), let k := st.val
    (scrubTake s k = none → Completes (.scrubStart st) s (fun t => t = s)) ∧
    (sliceState s k = slScrubbing → scrubbing s k = false → scrubTake s k ≠ none → Completes (.scrubStart st) s (fun t =>
      t.stopSigs.length + 1 = s.stopSigs.length ∧
      scrubbing t k = true ∧ fget t .DEP_SLICE_CFG_PIN_WAYS k = 0 ∧ fget t .DEP_SLICE_CFG_DEMAND k = 0 ∧
      (∀ a, (k * sliceBytes ≤ a ∧ a < (k + 1) * sliceBytes) ∨
        (pinBase + k * 0x2000000 ≤ a ∧ a < pinBase + (k + 1) * 0x2000000) → Bytes.get t.mem a = 0) ∧
      (∀ a, ¬((k * sliceBytes ≤ a ∧ a < (k + 1) * sliceBytes) ∨
        (pinBase + k * 0x2000000 ≤ a ∧ a < pinBase + (k + 1) * 0x2000000)) → Bytes.get t.mem a = Bytes.get s.mem a) ∧
      ∀ set way, set < 16384 → way < 16 → depotGet t k set way = none))) ∧
  (∀ (s : State) (st : Stn) (ways : Nat), let k := st.val; let v := ways % 32; let old := pinWays s k
    let base := pinBase + k * 0x2000000
    (16 < v → Completes (.pinWaysWrite st ways) s (fun t => t = s)) ∧
    (v ≤ 16 → Completes (.pinWaysWrite st ways) s (fun t => pinWays t k = v ∧
      SameRegs [(.DEP_SLICE_CFG_PIN_WAYS, k)] s t ∧
      ∀ a, Bytes.get t.mem a = if base + min v old * 0x200000 ≤ a ∧ a < base + max v old * 0x200000 then 0
        else Bytes.get s.mem a)))

/-- R267, R268, R270, R271, R273. -/
def Obligations.DillStreamsPrefetchAndWarm : Prop :=
  (∀ (s : State) (m : Fin 8) (w : Who) (addr : Addr), s.declares = [] →
    let at_ := alignDown addr 32 % 2 ^ 48
    let x := devRead (begun s) w at_ 32
    let r := warmRecOf x.2.1
    let slice := r.base / sliceBytes
    let may := w.oper = true ∨ w.kind = 6
    (¬may → Completes (.dillDeclare m w addr) s (fun t => t = begun s)) ∧
    (may → Unheld (warmDeclare (begun s) m w at_) →
      (warmOk x.1 m w r = true → (sliceStreams x.1 slice).length < 2 →
        Completes (.dillDeclare m w addr) s (fun t => ∃ ep, t.dill = x.1.dill ++
          [⟨slice, .warm w r.base r.stride r.rowBytes r.done 0 ep, r.rows, r.stride, w.part, w.sub, []⟩] ∧ t.mem = x.1.mem)) ∧
      (warmOk x.1 m w r = false → r.done = 0 →
        Completes (.dillDeclare m w addr) s (fun t => t.dill = x.1.dill ∧ t.mem = x.1.mem ∧
          fget t .DILL_REFUSED_COUNT m = min (fget s .DILL_REFUSED_COUNT m + 1) (2 ^ 32 - 1))))) ∧
  (∀ (s : State) (i rows : Nat) (x : Stream) (w : Who) (base rowBytes done row : Nat) (stride : Int)
    (ep : Option EpochRef), s.dill[i]? = some x → x.kind = .warm w base stride rowBytes done row ep →
    (row + rows < x.rows → Completes (.warmStreamDone i rows) s (fun t => SameMem s t ∧
      t.dill = s.dill.set i { x with kind := .warm w base stride rowBytes done (row + rows) ep })) ∧
    (x.rows ≤ row + rows → done = 0 → Completes (.warmStreamDone i rows) s (fun t => SameMem s t ∧
      t.dill = s.dill.eraseIdx i))) ∧
  (∀ (s : State) (i core : Nat) (x : Stream) (l : Lane) (step : Int), s.dill[i]? = some x →
    x.lanes.find? (fun m => m.core == core) = some l → l.step = some step → aheadBytes s l.station < 512 * 1024 →
    let due := fun (r : Nat) => laneDue s x l step r
    Completes (.prefetchIssue i core) s (fun t => SameMem s t ∧ SameRegs [] s t ∧
      (∃ ps, t.prefetches = s.prefetches ++ ps ∧ ps.length ≤ x.rows ∧
        (∀ p ∈ ps, p.1 = l.station ∧ p.2.1 = laneWho x l ∧ cacheable (64 * p.2.2) = true ∧
          ∃ r, r < x.rows ∧ due r = true ∧ laneLine x l step r = p.2.2) ∧
        ∀ r, r < x.rows → due r = true → 0 ≤ laneLine x l step r → cacheable (64 * (laneLine x l step r).toNat) = true →
          (l.station, laneWho x l, (laneLine x l step r).toNat) ∈ ps) ∧
      ∃ y l', t.dill = s.dill.set i y ∧ y.lanes.find? (fun m => m.core == core) = some l' ∧ l'.base = l.base ∧
        ∀ r, r < x.rows → l'.ahead[r]? = some (laneLine x l step r +
          (if due r = true then (if step < 0 then -1 else 1) else 0)))) ∧
  (∀ (s : State) (i : Nat) (p : Nat × Who × Nat), s.prefetches[i]? = some p →
    let s0 := { s with prefetches := s.prefetches.eraseIdx i }
    Completes (.prefetchFill i) s (fun t => t.prefetches = s.prefetches.eraseIdx i ∧
      (cacheable (64 * p.2.2) = true → prefetchPasses s0 p.2.1 p.2.2 = true →
        (readAt s0 p.2.1 ⟨64 * p.2.2, 64⟩ false true).2.2 = false → (scFind t p.1 p.2.2).isSome = true))) ∧
  (∀ (s : State) (i core : Nat) (x : Stream), s.dill[i]? = some x → x.isWarm = false →
    Completes (.laneRetire i core) s (fun t => SameMem s t ∧ SameRegs [] s t ∧
      t.dill = if x.lanes.all (fun l => l.core == core) then s.dill.eraseIdx i
        else s.dill.set i { x with lanes := x.lanes.filter (fun l => l.core != core) }))

/-- R303, R304, R306, R307, R313; the standard's own results are the model's choice of source (log 5). -/
def Obligations.ConductorsRunRiscVInstructions : Prop :=
  (∀ (s : State) (c : CndId) (z : Fetched) (f : State) (w len x : Nat) (peer : Option (List Byte)), let g := c.val
    let u := behind s f g len
    let next := hpc s g + BitVec.ofNat 64 len
    let a := hx u g (iRs1 x)
    let b := hx u g (iRs2 x)
    let Puts := fun (t : State) (v pc : W64) => OnlyHart f t g ∧ hpc t g = pc ∧
      ∀ r, r < 32 → hx t g r = if r = 0 then 0 else if r = iRd x then v else hx f g r
    f.declares = [] →
    (CndIssues s g .ordinary z f w len x →
      let Does := fun (v pc : W64) => Completes (.riscvInstruction ⟨c, z⟩ .clean peer) s (fun t => Puts t v pc)
      (bits x 0 7 = 0x37 → Does (immU x) next) ∧
      (bits x 0 7 = 0x17 → Does (hpc s g + immU x) next) ∧
      (bits x 0 7 = 0x6F → Does next (hpc s g + immJ x)) ∧
      (bits x 0 7 = 0x67 → iF3 x = 0 → Does next (((a + immI x) >>> 1) <<< 1)) ∧
      (bits x 0 7 = 0x13 → iF3 x ≠ 1 → iF3 x ≠ 5 → Does (alu (iF3 x) false a (immI x)) next) ∧
      (bits x 0 7 = 0x33 → iF7 x = 0 → Does (alu (iF3 x) false a b) next) ∧
      (bits x 0 7 = 0x33 → iF7 x = 1 → Does (mulDiv (iF3 x) a b) next) ∧
      (bits x 0 7 = 0x63 → ∀ taken, rvCond (iF3 x) a b = some taken →
        Completes (.riscvInstruction ⟨c, z⟩ .clean peer) s (fun t => OnlyHart f t g ∧
          hpc t g = (if taken then hpc s g + immB x else next) ∧ ∀ r, hx t g r = hx f g r)) ∧
      (bits x 0 7 = 0x03 → iF3 x = 3 → ∀ l, Owned f g (a + immI x).toNat l → (a + immI x).toNat % 8 = 0 →
        pmpOk (getHart u g) (dataMode (getHart u g)) 0 (a + immI x).toNat 8 = true →
        Does (BitVec.ofNat 64 (leNat ((l.data.drop ((a + immI x).toNat % 64)).take 8))) next) ∧
      (bits x 0 7 = 0x23 → iF3 x = 3 → ∀ l, Owned f g (a + immS x).toNat l → (a + immS x).toNat % 8 = 0 →
        pmpOk (getHart u g) (dataMode (getHart u g)) 1 (a + immS x).toNat 8 = true →
        Completes (.riscvInstruction ⟨c, z⟩ .clean peer) s (fun t => SameMem f t ∧ hpc t g = next ∧
          ∃ m, getHolder t g ((a + immS x).toNat / 64) = some m ∧ m.st = .M ∧
            ∀ i, i < 64 → m.data.getD i 0 = if (a + immS x).toNat % 64 ≤ i ∧ i < (a + immS x).toNat % 64 + 8
              then (leBytes 8 b.toNat).getD (i - (a + immS x).toNat % 64) 0 else l.data.getD i 0)) ∧
      (x = 0x73 → Completes (.riscvInstruction ⟨c, z⟩ .clean peer) s (fun t => SameRegs [] f t ∧ SameMem f t ∧
        (getHart t g).mepc = (hpc s g).toNat ∧ (getHart t g).machine = true ∧
        (getHart t g).mcause = (if (getHart f g).machine then 11 else 8) ∧
        hpc t g = BitVec.ofNat 64 ((getHart f g).mtvec / 4 * 4) ∧ (getHart t g).x = (getHart f g).x))) ∧
    (CndIssues s g .fenceI z f w len x → Completes (.fenceI ⟨c, z⟩) s (fun t =>
      OnlyHart f t g ∧ getHart t g = { getHart u g with icache := [], defer := 0 })) ∧
    (CndIssues s g .fence z f w len x → Completes (.conductorFence ⟨c, z⟩) s (fun t =>
      OnlyHart f t g ∧ getHart t g = { getHart u g with defer := 0 })) ∧
    (∀ l, Owned f g a.toNat l →
      let n := amoBytes x
      let old := leNat ((l.data.drop (a.toNat % 64)).take n)
      let sized := fun (reads writes : Bool) => (iF3 x = 2 ∨ iF3 x = 3) ∧ amoCheck u g a.toNat n reads writes = none
      let Line := fun (t : State) (v : Nat) => ∃ m, getHolder t g (a.toNat / 64) = some m ∧ m.st = .M ∧
        ∀ i, i < 64 → m.data.getD i 0 = if a.toNat % 64 ≤ i ∧ i < a.toNat % 64 + n
          then (leBytes n v).getD (i - a.toNat % 64) 0 else l.data.getD i 0
      (CndIssues s g .amo z f w len x → sized true true → ∀ v, amoResult (iRs3 x) n old (b.toNat % 2 ^ (8 * n)) = some v →
        Completes (.conductorAmo ⟨c, z⟩ .clean) s (fun t => SameMem f t ∧ Line t v ∧
          (iRd x ≠ 0 → hx t g (iRd x) = w64i (signed (8 * n) old)) ∧ hpc t g = next)) ∧
      (CndIssues s g .lr z f w len x → sized true false → iRs2 x = 0 → Completes (.conductorLr ⟨c, z⟩ .clean) s (fun t =>
        OnlyHart f t g ∧ (getHart t g).rsv = some (a.toNat / 64) ∧ (getHart t g).defer = lrSpan ∧
        (iRd x ≠ 0 → hx t g (iRd x) = w64i (signed (8 * n) old)))) ∧
      (CndIssues s g .sc z f w len x → sized false true → (getHart f g).rsv = some (a.toNat / 64) →
        Completes (.conductorSc ⟨c, z⟩ .clean) s (fun t => SameMem f t ∧ Line t (b.toNat % 2 ^ (8 * n)) ∧
          (getHart t g).rsv = none ∧ (getHart t g).defer = 0 ∧ (iRd x ≠ 0 → hx t g (iRd x) = 0))) ∧
      (CndIssues s g .sc z f w len x → sized false true → (getHart f g).rsv ≠ some (a.toNat / 64) →
        Completes (.conductorSc ⟨c, z⟩ .clean) s (fun t => OnlyHart f t g ∧
          (getHart t g).rsv = none ∧ (getHart t g).defer = 0 ∧ (iRd x ≠ 0 → hx t g (iRd x) = 1))))) ∧
  (∀ (s : State) (c : CndId), Completes (.lrDeferExpire c) s (fun t => SameRegs [] s t ∧ SameMem s t ∧
    getHart t c = { getHart s c with defer := 0 }))

/-- R303, R306, R321-R323, R325, R328, R329. -/
def Obligations.ConductorsSignalSortAndSwitch : Prop :=
  (∀ (s : State) (c : CndId) (z : Fetched) (f : State) (w len x : Nat), let g := c.val
    let u := behind s f g len
    let head := (hx u g (iRs1 x)).toNat
    let cls := bits head 0 4
    let oper := fbit u .CND_STATUS_OPER g
    let mine := u.sigs.filter (fun m => m.srcDie == g / 4 && m.srcStop == ccStop && m.msg.cls == cls)
    let Returns := fun (t : State) (v : W64) => OnlyHart f t g ∧ hpc t g = hpc u g ∧
      ∀ r, r < 32 → hx t g r = if r = 0 then 0 else if r = iRd x then v else hx f g r
    (CndIssues s g .sigsend z f w len x →
      let barred := oper = false ∧ (cls = clsReset ∨ cls = clsCompose)
      (barred → Completes (.sigsend ⟨c, z⟩) s (fun t => Returns t 2 ∧ t.sigs = f.sigs)) ∧
      (¬barred → 2 ≤ mine.length → Completes (.sigsend ⟨c, z⟩) s (fun t => Returns t 1 ∧ t.sigs = f.sigs)) ∧
      (¬barred → mine.length < 2 → Completes (.sigsend ⟨c, z⟩) s (fun t => Returns t 0 ∧ ∃ m : SigMsg,
        t.sigs = f.sigs ++ [m] ∧ m.srcDie = g / 4 ∧ m.msg.cls = cls ∧ m.msg.die = bits head 4 4 ∧
        m.msg.stop = bits head 8 5 ∧ m.msg.part = fget f .CND_STATUS_PART g ∧ m.msg.oper = oper ∧
        m.msg.payload.length = bits head 13 2))) ∧
    (CndIssues s g .sigrecv z f w len x →
      (getRxq f g = [] → Completes (.sigrecv ⟨c, z⟩) s (fun t => Returns t 0)) ∧
      (∀ m ms, getRxq f g = m :: ms → Completes (.sigrecv ⟨c, z⟩) s (fun t =>
        Returns t (BitVec.ofNat 64 (sigHeader m + 2 ^ 63)) ∧ getRxq t g = ms ∧
        (getHart t g).sigrxe = (m.payload.getD 2 0).toNat))) ∧
    (CndIssues s g .wfs z f w len x →
      (getRxq f g ≠ [] → Completes (.wfs ⟨c, z⟩) s (fun t => Returns t 0)) ∧
      (getRxq f g = [] → Completes (.wfs ⟨c, z⟩) s (fun t => cndState t g = cndWaiting ∧ hpc t g = hpc s g ∧ SameMem f t ∧
        (getHart t g).wfs = some (iRd x, f.now + head)))) ∧
    (CndIssues s g .psort z f w len x → let d := g / 4
      (8 ≤ (getSorts f d).length → Completes (.psort ⟨c, z⟩) s (fun t => Returns t 1 ∧ getSorts t d = getSorts f d)) ∧
      ((getSorts f d).length < 8 → Completes (.psort ⟨c, z⟩) s (fun t => Returns t 0 ∧ getSorts t d = getSorts f d ++
        [⟨g, fget f .CND_STATUS_PART g, fbit f .CND_STATUS_OPER g, head⟩])))) ∧
  (∀ (s : State) (c : CndId) (rd limit : Nat), let g := c.val
    (getHart s g).wfs = some (rd, limit) → cndState s g = cndWaiting → limit ≤ s.now → rd < 32 →
    Completes (.wfsTimeout c) s (fun t => cndState t g = cndRunning ∧ (getHart t g).wfs = none ∧
      hpc t g = hpc s g + 4 ∧ SameMem s t ∧ ∀ r, r < 32 → hx t g r = if r = 0 then 0 else if r = rd then 1 else hx s g r)) ∧
  (∀ (s : State) (die : Die) (j : SortJob) (js : List SortJob), let d := die.val
    getSorts s d = j :: js → s.declares = [] → Unheld (sortRun (setSorts (begun s) d js) d j) →
    let w : Who := ⟨j.part, 4, j.oper, 6, d, j.cnd % 4, false⟩
    let r := devRead (setSorts (begun s) d js) w j.addr 32
    let v := fieldAt r.2.1 16 4
    let n := fieldAt r.2.1 20 2
    1 ≤ v → v ≤ 262144 → 1 ≤ n → n ≤ 1024 → fieldAt r.2.1 22 2 = 0 → target (fieldAt r.2.1 24 8) = .control →
    fieldAt r.2.1 8 8 + 8 * n ≤ regBase → Completes (.sortComplete die) s (fun t => getSorts t d = js ∧
      fget t .PSE_SORTS_COUNT d = (fget s .PSE_SORTS_COUNT d + 1) % 2 ^ 64 ∧
      SameFields (homeFields ++ [.PSE_SORTS_COUNT]) s t)) ∧
  (∀ (s : State) (c : CndId), let g := c.val
    Completes (.machineTimerInterrupt c) s (fun t => SameMem s t ∧
      (cndState s g ≠ cndWaiting → getHart t g = { getHart s g with mtip := true } ∧ cndState t g = cndState s g) ∧
      (cndState s g = cndWaiting → (getHart s g).wfs = none → bit (getHart s g).mie 7 = true →
        getHart t g = { getHart s g with mtip := true } ∧ cndState t g = cndRunning)) ∧
    (cndOutstanding (cndSwitchStart s g) g = true → Completes (.cndSwitch c) s (fun t => t = cndSwitchStart s g ∧
      cndState t g = cndSwitching)) ∧
    (cndOutstanding (cndSwitchStart s g) g = false → Completes (.cndSwitch c) s (fun t => cndState t g = cndRunning ∧
      hpc t g = BitVec.ofNat 64 (fget s .CND_ENTRY_ADDR g) ∧ (∀ r, hx t g r = 0 ∧ hf t g r = 0) ∧
      (getHart t g).rsv = none ∧ (getHart t g).icache = [] ∧ (getHart t g).l1d = [] ∧
      fget t .CND_STATUS_PART g = fget s .CND_NEXT_PART_PART g % 64 ∧
      fget t .CND_STATUS_OPER g = fget s .CND_NEXT_PART_OPER g % 2)) ∧
    ∀ run, Completes (.cndRun c run) s (fun t => SameMem s t ∧ fget t .CND_CTRL_RUN g = b2n run ∧
      (run = true → cndState s g = cndHalted → cndState t g = cndRunning) ∧
      (run = true → cndState s g ≠ cndHalted → cndState t g = cndState s g) ∧
      (run = false → cndState s g ≠ cndSwitching → cndState t g = cndHalted))) ∧
  (∀ (s : State) (die : Die), Completes (.ctlLock die) s (fun t => fget t .CTL_LOCK_LOCK die = 1 ∧
    SameRegs [(.CTL_LOCK_LOCK, die.val)] s t ∧ SameMem s t))

/-- R308, R310-R315, R318, R319. -/
def Obligations.DirectoriesServeTheirHolders : Prop :=
  (∀ (s : State) (h : Fin 72) (line part : Nat) (oper : Bool) (store : Option (Nat × List Byte)), LineFresh s h line →
    let tag := if h.val < 64 then (fget s .CND_STATUS_PART h, fbit s .CND_STATUS_OPER h) else (part, oper)
    let mem := Bytes.read s.mem (64 * line) 64
    let owned := fun (d : List Byte) => match store with
      | none => (⟨.E, d⟩ : HLine)
      | some x => ⟨.M, putBytes d x⟩
    let Refused := fun (t : State) => getHolder t h line = none ∧ SameMem s t ∧
      fget t .CTL_TAG_DROPS_COUNT (dirDie line) = min (fget s .CTL_TAG_DROPS_COUNT (dirDie line) + 1) (2 ^ 32 - 1) ∧
      fget t .TRB_PART_STICKY_TAG_REFUSED tag.1 = 1
    (holderAllowed s h tag.1 tag.2 false line = true → Completes (.gets h ⟨line, .clean⟩ part oper []) s (fun t =>
      SameMem s t ∧ ∃ st, getHolder t h line = some ⟨st, mem⟩ ∧
        st = (if holderAllowed s h tag.1 tag.2 true line then .E else .S) ∧
        (dirEntry t line).holders = 2 ^ h.val ∧ (dirEntry t line).owned = (st == .E))) ∧
    (holderAllowed s h tag.1 tag.2 false line = false → Completes (.gets h ⟨line, .clean⟩ part oper []) s Refused) ∧
    (holderAllowed s h tag.1 tag.2 true line = true →
      Completes (.getx h ⟨line, .clean⟩ part oper ⟨store, []⟩) s (fun t => SameMem s t ∧ getHolder t h line = some (owned mem) ∧
        (dirEntry t line).holders = 2 ^ h.val ∧ (dirEntry t line).owned = true)) ∧
    (holderAllowed s h tag.1 tag.2 true line = false → Completes (.getx h ⟨line, .clean⟩ part oper ⟨store, []⟩) s Refused)) ∧
  (∀ (s : State) (h q : Fin 72) (line part : Nat) (oper : Bool) (store : Option (Nat × List Byte)) (e : DirEntry)
    (l : HLine), h ≠ q → SetQuiet s line →
    isControl line = true → scrubbing s (line / 2 ^ 26) = false → getDir s line = some e → e.active = false →
    e.holders = 2 ^ q.val → getHolder s q line = some l → getHolder s h line = none →
    let tag := if h.val < 64 then (fget s .CND_STATUS_PART h, fbit s .CND_STATUS_OPER h) else (part, oper)
    (holderAllowed s h tag.1 tag.2 true line = true → RoomFor s h line →
      Completes (.getx h ⟨line, .clean⟩ part oper ⟨store, []⟩) s (fun t => SameMem s t ∧
      getHolder t q line = some l ∧ ∃ w, (dirEntry t line).busy = some (w, 2 ^ q.val) ∧ w.holder = h.val ∧ w.store = store)) ∧
    (l.st = .S → holderAllowed s q (if q.val < 64 then fget s .CND_STATUS_PART q else part)
        (if q.val < 64 then fbit s .CND_STATUS_OPER q else oper) true line = true →
      Completes (.upgrade q ⟨line, .clean⟩ ⟨part, oper⟩ ⟨store, []⟩) s (fun t => SameMem s t ∧
        getHolder t q line = some (match store with
          | none => ⟨.E, l.data⟩
          | some x => ⟨.M, putBytes l.data x⟩) ∧
        (dirEntry t line).owned = true ∧ (dirEntry t line).holders = 2 ^ q.val)) ∧
    (l.st = .M → l.data.length = 64 → isUe s line = false → Completes (.putm q ⟨line, .clean⟩) s (fun t =>
      getHolder t q line = none ∧ (dirEntry t line).wbOut = true ∧ (dirEntry t line).holders = 0 ∧
      Bytes.read t.mem (64 * line) 64 = l.data ∧ SameMemBut (64 * line) 64 s t)) ∧
    (l.st ≠ .M → Completes (.putc q ⟨line, .clean⟩) s (fun t => getHolder t q line = none ∧
      (dirEntry t line).holders = 0 ∧ SameMem s t))) ∧
  (∀ (s : State) (q : Fin 72) (line : Nat) (e : DirEntry) (w : DirWait) (d : List Byte), SetQuiet s line →
    getDir s line = some e → e.owned = true → e.wbOut = false → e.busy = some (w, 2 ^ q.val) → e.holders = 2 ^ q.val →
    w.req = .getX → w.holder < 72 → w.holder ≠ q.val → getHolder s q line = some ⟨.M, d⟩ → line < 2 ^ 34 →
    let defers := (getHart s q).defer ≠ 0 ∧ (getHart s q).rsv = some line
    (defers → Completes (.snoopResponse q line) s (fun t => t = s)) ∧
    (¬defers → Completes (.snoopResponse q line) s (fun t => getHolder t q line = none ∧ SameMem s t ∧
      getHolder t w.holder line = some ⟨.M, match w.store with
        | none => d
        | some x => putBytes d x⟩ ∧
      (dirEntry t line).owned = true ∧ (dirEntry t line).holders = 2 ^ w.holder ∧ (dirEntry t line).busy = none))) ∧
  (∀ (s : State) (line : Nat) (e : DirEntry), SetQuiet s line → getDir s line = some e → e.busy = none →
    (e.wbOut = true → e.waiters = [] → Completes (.writebackRetired line) s (fun t =>
      (dirEntry t line).wbOut = false ∧ SameMem s t ∧ SameRegs [] s t)) ∧
    (∀ w, e.waiters = [w] → e.holders = 0 → w.req = .getX → w.holder < 72 → getHolder s w.holder line = none →
      line < 2 ^ 34 →
      let Served := fun (t : State) => SameMem s t ∧ (dirEntry t line).waiters = [] ∧
        getHolder t w.holder line = some (match w.store with
          | none => ⟨.E, Bytes.read s.mem (64 * line) 64⟩
          | some x => ⟨.M, putBytes (Bytes.read s.mem (64 * line) 64) x⟩)
      (e.wbOut = true → Completes (.writebackRetired line) s Served) ∧
      (e.wbOut = false → isUe s line = false → Completes (.dirRetry line) s Served))) ∧
  (∀ (s : State) (a : Access) (n : Nat) (bs : List Byte), let line := a.addr / 64
    isControl line = true → scrubbing s (a.addr / sliceBytes) = false → isUe s line = false → dirBusy s line = false →
    SetQuiet s line → 1 ≤ n → a.addr % 64 + n ≤ 64 →
    let Answered := fun (t : State) (data : List Byte) => t.answers = s.answers ++ [⟨a, data, false⟩]
    (a.op = .read n → dirAllows s a.who.part a.who.oper false line = true →
      (getDir s line = none → Completes (.readnc ⟨a, .clean, []⟩) s (fun t => Answered t (Bytes.read s.mem a.addr n) ∧ SameMem s t)) ∧
      (∀ (q : Fin 72) e d, getDir s line = some e → e.owned = true → e.holders = 2 ^ q.val →
        getHolder s q line = some ⟨.M, d⟩ → d.length = 64 → Completes (.readnc ⟨a, .clean, []⟩) s (fun t =>
          Answered t ((d.drop (a.addr % 64)).take n) ∧ getHolder t q line = some ⟨.S, d⟩ ∧
          Bytes.read t.mem (64 * line) 64 = d ∧ SameMemBut (64 * line) 64 s t))) ∧
    (getDir s line = none → dirAllows s a.who.part a.who.oper true line = true →
      (a.op = .write bs → bs.length = n → Completes (.writenc ⟨a, .clean, []⟩) s (fun t => Answered t [] ∧
        Bytes.read t.mem a.addr n = bs ∧ SameMemBut a.addr n s t)) ∧
      (∀ (op : Nat) (b : W64), a.op = .atomic op b false → n = atomBytes op → Completes (.atomicnc ⟨a, .clean, []⟩) s (fun t =>
        Answered t (leBytes n (Bytes.le s.mem a.addr n)) ∧ SameMemBut a.addr n s t ∧
        Bytes.le t.mem a.addr n = atomResult op (Bytes.le s.mem a.addr n) (b.toNat % 2 ^ (8 * n)) % 2 ^ (8 * n))) ∧
      (∀ (x y : W64), a.op = .cas x y false → n = 8 → Completes (.atomicnc ⟨a, .clean, []⟩) s (fun t =>
        Answered t (leBytes 8 (Bytes.le s.mem a.addr 8)) ∧ SameMemBut a.addr 8 s t ∧
        Bytes.le t.mem a.addr 8 = if Bytes.le s.mem a.addr 8 = x.toNat then y.toNat else Bytes.le s.mem a.addr 8))))

/-- R331, R334, R350, R351, R353, R355, R357, R251, R593. -/
def Obligations.ComposerBindsReleasesAndLends : Prop :=
  (∀ (s : State) (c : List Byte), let ks := cSlices c
    (compNext s 1 = some c →
      (role s = 1 → Completes .bind s (fun t => CompRefused s t 7)) ∧
      (role s ≠ 1 → (∃ k ∈ ks, sliceState s k ≠ slFree) → Completes .bind s (fun t => CompRefused s t 2)) ∧
      (role s ≠ 1 → (∀ k ∈ ks, sliceState s k = slFree) → Completes .bind s (fun t => CompBegun s t ∧ SameMem s t ∧
        SameFields [.COMP_SLICE_STATUS_STATE, .COMP_SLICE_STATUS_PART] s t ∧
        (∀ k ∈ ks, sliceState t k = slBinding ∧ fget t .COMP_SLICE_STATUS_PART k = cPart c % 64) ∧
        ∀ k, k < 256 → k ∉ ks → SameSlice s t k))) ∧
    (compNext s 2 = some c →
      ((∃ k ∈ ks, 1 ≤ sliceState s k ∧ sliceState s k ≤ 5 ∧ fget s .COMP_SLICE_STATUS_PART k ≠ cPart c) →
        Completes .release s (fun t => CompRefused s t 3)) ∧
      ((∀ k ∈ ks, sliceState s k = slIdle ∧ fget s .COMP_SLICE_STATUS_PART k = cPart c) → WordsBelow s →
        Completes .release s (fun t => CompBegun s t ∧
          (∀ k ∈ ks, sliceState t k = slScrubbing ∧ boundTo t k = none ∧ fget t .COMP_SLICE_STATUS_PART k = 0) ∧
          ∀ k, k < 256 → k ∉ ks → SameSlice s t k))) ∧
    (compNext s 6 = some c →
      (role s = 0 → Completes .lend s (fun t => CompRefused s t 7)) ∧
      (role s ≠ 0 → (∀ k ∈ ks, sliceState s k = slFree) → Completes .lend s (fun t => CompEnds s t 0 ∧ SameMem s t ∧
        (∀ k ∈ ks, sliceState t k = slLent ∧ fget t .COMP_LEND_VALID k = 1 ∧
          fget t .COMP_LEND_DEV k = fieldAt c 48 2 % 2 ^ 10 ∧ fget t .COMP_LEND_PART k = fieldAt c 50 1 % 2 ^ 6 ∧
          fget t .COMP_LEND_CONSIST k = fieldAt c 52 2) ∧ ∀ k, k < 256 → k ∉ ks → SameSlice s t k))) ∧
    (compNext s 7 = some c →
      ((∃ k ∈ ks, sliceState s k ≠ slLent) → Completes .withdraw s (fun t => CompRefused s t 2)) ∧
      ((∀ k ∈ ks, sliceState s k = slLent) → cGraceful c = false → Completes .withdraw s (fun t => CompBegun s t ∧
        SameMem s t ∧ (∀ k ∈ ks, sliceState t k = slScrubbing ∧ fget t .COMP_LEND_VALID k = 0) ∧
        ∀ k, k < 256 → k ∉ ks → SameSlice s t k)) ∧
      ((∀ k ∈ ks, sliceState s k = slLent) → cGraceful c = true → Completes .withdraw s (fun t => CompBegun s t ∧
        SameMem s t ∧ ∀ k, k < 256 → SameSlice s t k))) ∧
    (compNext s 8 = some c →
      ((∃ k, k < 256 ∧ roleAllows (cRole c) (sliceState s k) = false) → Completes .role s (fun t => CompRefused s t 7)) ∧
      ((∀ k, k < 256 → roleAllows (cRole c) (sliceState s k) = true) → Completes .role s (fun t => CompEnds s t 0 ∧
        fget t .COMP_ROLE_ROLE = cRole c % 4 ∧ SameMem s t ∧ ∀ k, k < 256 → SameSlice s t k)))) ∧
  (∀ (s : State) (st : Stn), let k := st.val
    sliceState s k = slScrubbing →
      (scrubbing s k = true → Completes (.scrubComplete st) s (fun t => scrubbing t k = false ∧ SameMem s t ∧
        sliceState t k = slScrubbing ∧ (∃ m, t.sigs = s.sigs ++ [m] ∧ m.srcDie = k / 16 ∧ m.msg.cls = clsCompose ∧
          m.msg.stop = mdStop ∧ m.msg.payload = [BitVec.ofNat 32 k]) ∧
        fget t .HBM_SCRUBS_COUNT (k / 16) = (fget s .HBM_SCRUBS_COUNT (k / 16) + 1) % 2 ^ 32)) ∧
      (scrubbing s k = false → replyTake s k = none → Completes (.scrubComplete st) s (fun t => t = s)) ∧
      (scrubbing s k = false → replyTake s k ≠ none → Completes (.scrubComplete st) s (fun t => sliceState t k = slFree ∧
        SameMem s t ∧ t.mdSigs.length + 1 = s.mdSigs.length))) ∧
  (∀ (s : State) (j : CompJob), withdrawWaits s = some j → Completes .withdrawRecallTimeout s (fun t =>
    fget t .COMP_TROUBLE_PEER_TIMEOUT = 1 ∧ SameMem s t ∧
    (∀ k ∈ cSlices j.cmd, sliceState t k = slScrubbing ∧ fget t .COMP_LEND_VALID k = 0) ∧
    ∀ k, k < 256 → k ∉ cSlices j.cmd → SameSlice s t k)) ∧
  (∀ (s : State) (kind slice dev consist : Nat),
    (withdrawWaits s = none ∨ kind ≠ 3) → Completes (.noticeReceive kind slice dev consist) s (fun t => SameMem s t ∧
      t.notices = (if s.notices.length < 64 then s.notices else s.notices.drop 1) ++ [⟨kind, slice, dev, consist⟩] ∧
      (64 ≤ s.notices.length → fget t .COMP_TROUBLE_NOTICE_LOST = 1))) ∧
  (∀ (s : State) (j : CompJob) (slice dev consist : Nat), withdrawWaits s = some j → slice ∈ cSlices j.cmd →
    (∀ k ∈ cSlices j.cmd, k = slice ∨ k ∈ j.recalled) → Completes (.noticeReceive 3 slice dev consist) s (fun t =>
      ∀ k ∈ cSlices j.cmd, sliceState t k = slScrubbing ∧ fget t .COMP_LEND_VALID k = 0)) ∧
  (∀ s : State, Completes .compNoticeRead s (fun t => SameRegs [] s t ∧ SameMem s t ∧
    (s.notices = [] → t.reads = s.reads ++ [0]) ∧
    ∀ n rest, s.notices = n :: rest → t.notices = rest ∧ t.reads = s.reads ++ [noticeValue n + 2 ^ 63]))

/-- R338, R340, R343, R345, R346, R356, R359. -/
def Obligations.ConsistsFormRebindAndDissolve : Prop :=
  (∀ (s : State) (c : List Byte), let i := cSlot c
    (compNext s 3 = some c →
      (formStatus s c ≠ 0 → Completes .form s (fun t => CompRefused s t (formStatus s c))) ∧
      (formStatus s c = 0 → Completes .form s (fun t => CompEnds s t 0 ∧ SameMem s t ∧ slotState' t i = ctActive ∧
        fget t .COMP_CONSIST_ID_ID i = cId c ∧ fget t .COMP_CONSIST_ID_PART i = cPart c % 64 ∧
        fget t .COMP_MAP_EPOCH_CUR i = 1 ∧ fget t .COMP_INFLIGHT_CUR i = 0 ∧
        fget t .COMP_MAP_CUR_OFF i = fget s .COMP_MAP_NEXT_OFF i % 2 ^ 15 ∧
        (∀ k ∈ nextLocal s i, sliceState t k = slActive ∧ fget t .COMP_SLICE_STATUS_SLOT k = i) ∧
        ∀ k, k < 256 → k ∉ nextLocal s i → SameSlice s t k))) ∧
    (compNext s 4 = some c →
      (rebindStatus s c ≠ 0 → Completes .rebind s (fun t => CompRefused s t (rebindStatus s c))) ∧
      (rebindStatus s c = 0 → Completes .rebind s (fun t => CompBegun s t ∧ SameMem s t ∧ slotState' t i = ctStaging ∧
        (∀ k ∈ nextLocal s i, sliceState s k = slIdle → sliceState t k = slStaged ∧ fget t .COMP_SLICE_STATUS_SLOT k = i) ∧
        ∀ k, k < 256 → ¬(k ∈ nextLocal s i ∧ sliceState s k = slIdle) → SameSlice s t k))) ∧
    (compNext s 5 = some c →
      (slotState' s i = ctFree ∨ fget s .COMP_CONSIST_ID_PART i ≠ cPart c →
        Completes .dissolve s (fun t => CompRefused s t 1)) ∧
      (slotState' s i = ctActive ∨ slotState' s i = ctDraining → fget s .COMP_CONSIST_ID_PART i = cPart c →
        Completes .dissolve s (fun t => CompBegun s t ∧ SameMem s t ∧ slotState' t i = ctDissolving ∧
          (∀ k ∈ slotSlices s i slActive, sliceState t k = slLeaving) ∧
          ∀ k, k < 256 → k ∉ slotSlices s i slActive → SameSlice s t k)))) ∧
  (∀ (s : State) (slot : SlotId) (j : CompJob), let i := slot.val
    rebindJob s i = some j →
    let crc := mapCrc (mapEntries s (fget s .COMP_MAP_NEXT_OFF i) (fget s .COMP_MAP_NEXT_LEN i))
    let mine := devNum s
    let Cancelled := fun (t : State) (status : Nat) => CompEnds s t status ∧ slotState' t i = ctActive ∧ SameMem s t ∧
      ∀ k ∈ slotSlices s i slStaged, sliceState t k = slIdle
    (∀ v, slotService s i = some v →
      let tells := (∀ r ∈ j.ready, r.1 ≠ mine) ∧ v.rebind ≠ none ∧ resharded s v = true
      (tells → Completes (.rebindReady slot) s (fun t => SameRegs [] s t ∧ SameMem s t ∧ ∃ m, t.sigs = s.sigs ++ [m] ∧
        m.msg = composerNote v i cmReady [BitVec.ofNat 32 crc, BitVec.ofNat 32 v.step])) ∧
      (¬tells → Completes (.rebindReady slot) s (fun t => t = s))) ∧
    (∀ dev step, dev ≠ mine → dev ∈ nextDevs s i →
      (leadOf s i = mine → (∀ r ∈ j.ready, r.1 ≠ dev) → (nextDevs s i).length = j.ready.length + 1 →
        ((∀ r ∈ j.ready, r.2 = crc) → Completes (.memberReady slot dev crc step) s (fun t =>
          slotState' t i = ctSwitching ∧ fget t .COMP_SWITCH_STEP_STEP i = (step + 2) % 2 ^ 64)) ∧
        ((∃ r ∈ j.ready, r.2 ≠ crc) → Completes (.memberReady slot dev crc step) s (fun t =>
          Cancelled t 8 ∧ fget t .COMP_TROUBLE_MAP_MISMATCH = 1))) ∧
      (leadOf s i ≠ mine → dev = leadOf s i → j.ready ≠ [] → (∀ r ∈ j.ready, r.2 = crc) →
        Completes (.memberReady slot dev crc step) s (fun t => slotState' t i = ctSwitching ∧
          fget t .COMP_SWITCH_STEP_STEP i = step % 2 ^ 64))) ∧
    (j.ready ≠ [] → Completes (.composerPeerTimeout slot) s (fun t =>
      Cancelled t 10 ∧ fget t .COMP_TROUBLE_PEER_TIMEOUT = 1))) ∧
  (∀ (s : State) (slot : SlotId), let i := slot.val
    (∀ j, s.comp = some j → slotState' s i = ctSwitching → cSlot j.cmd = i →
      (∀ v, slotService s i = some v → v.inStep = false) → switchAsked s i ≠ none →
      fget s .COMP_MAP_NEXT_OFF i < 2 ^ 15 → fget s .COMP_MAP_NEXT_LEN i < 2 ^ 12 →
      Completes (.epochSwitch slot) s (fun t => CompEnds s t 0 ∧ SameMem s t ∧ slotState' t i = ctDraining ∧
        fget t .COMP_MAP_EPOCH_OLD i = fget s .COMP_MAP_EPOCH_CUR i % 2 ^ 16 ∧
        fget t .COMP_MAP_EPOCH_CUR i = nextEpoch (fget s .COMP_MAP_EPOCH_CUR i) ∧
        fget t .COMP_INFLIGHT_OLD i = fget s .COMP_INFLIGHT_CUR i % 2 ^ 32 ∧ fget t .COMP_INFLIGHT_CUR i = 0 ∧
        ∀ k ∈ slotSlices s i slStaged, k ∈ nextLocal s i → sliceState t k = slActive)) ∧
    (switchAsked s i = none → Completes (.epochSwitch slot) s (fun t => t = s)) ∧
    (∀ reported, reported ≠ fget s .COMP_CONSIST_ID_MEMBERS i → Completes (.epochDrained slot reported) s (fun t => t = s)) ∧
    (slotState' s i = ctDraining → WordsBelow s →
      let Over := fun (t : State) => slotState' t i = ctActive ∧ fget t .COMP_INFLIGHT_OLD i = 0 ∧
        fget t .COMP_MAP_EPOCH_OLD i = fget s .COMP_MAP_EPOCH_CUR i % 2 ^ 16 ∧
        ∀ k ∈ slotSlices s i slLeaving, sliceState t k = slIdle
      (fget s .COMP_INFLIGHT_OLD i = 0 → Completes (.epochDrained slot (fget s .COMP_CONSIST_ID_MEMBERS i)) s Over) ∧
      Completes (.drainLimitExpire slot) s (fun t => Over t ∧ fget t .COMP_TROUBLE_DRAIN_FORCED = 1)) ∧
    (slotState' s i = ctDissolving → WordsBelow s → slotService s i = none →
      let Gone := fun (t : State) => slotState' t i = ctFree ∧ ∀ k ∈ slotSlices s i slLeaving, sliceState t k = slIdle
      (fget s .COMP_INFLIGHT_OLD i = 0 → fget s .COMP_INFLIGHT_CUR i = 0 →
        Completes (.epochDrained slot (fget s .COMP_CONSIST_ID_MEMBERS i)) s Gone) ∧
      Completes (.drainLimitExpire slot) s (fun t => Gone t ∧ fget t .COMP_TROUBLE_DRAIN_FORCED = 1))) ∧
  (∀ (s : State) (pid : PartId) (sub : Fin 4) (v : Service) (ids : List Nat), getService s pid sub = some v →
    v.stopping = some (true, ids) → Completes (.dissolveLimitExpire pid sub) s (fun t =>
      getService t pid sub = some { v with stopping := some (false, ids) } ∧ SameRegs [] s t ∧ SameMem s t))

/-- R362, R364, R374, R375, R376, R377, R378, R575. -/
def Obligations.PortsLockTrainAndBreak : Prop :=
  (∀ s : State,
    let ok := (∀ d, d < 3 → 1 ≤ dimSize s d) ∧ fabricSize s ≤ 1024 ∧ devNum s < fabricSize s
    fbit s .BLY_LOCK_LOCK = false →
    (ok → Completes .blyLockWrite s (fun t => fget t .BLY_LOCK_LOCK = 1 ∧ fget t .BLY_LOCK_BAD_CONFIG = 0 ∧
      SameMem s t ∧ ∀ q, q < 6 → portState t q =
        (if portState s q = pDisabled ∧ fbit s .BLY_PORT_CTRL_ENABLE q = true ∧ 2 ≤ dimSize s (q / 2) ∧
          cabled s q = true then pTraining else portState s q))) ∧
    (¬ok → Completes .blyLockWrite s (fun t => fget t .BLY_LOCK_BAD_CONFIG = 1 ∧ SameMem s t ∧
      SameFields [.BLY_LOCK_BAD_CONFIG] s t))) ∧
  (∀ (s : State) (port : PortId), let p := port.val
    let l := getLink s p
    let others := s.unacked.filter (fun e => e.1 != p)
    let mine := s.unacked.filter (fun e => e.1 == p)
    let Told := fun (t : State) (up : Bool) (c : Nat) => portState s (otherPort p) = pUp →
      ∃ k : Packet, k.typ = 9 ∧ k.payload = leBytes 2 (b2n up) ++ leBytes 2 c ∧ (atPorts t).Perm ((otherPort p, k) :: atPorts s)
    Completes (.portEnable port true) s (fun t => fget t .BLY_PORT_CTRL_ENABLE p = 1 ∧ SameMem s t ∧
      portState t p = (if portState s p = pDisabled ∧ fbit s .BLY_LOCK_LOCK = true ∧ 2 ≤ dimSize s (p / 2) ∧
        cabled s p = true then pTraining else portState s p)) ∧
    Completes (.portEnable port false) s (fun t => fget t .BLY_PORT_CTRL_ENABLE p = 0 ∧ portState t p = pDisabled ∧
      (portState s p = pUp → PortTaken s t p pDisabled)) ∧
    (portState s p = pDown ∨ portState s p = pMiscabled → cabled s p = true → Completes (.retrain port) s (fun t =>
      portState t p = pTraining ∧ SameFields [.BLY_PORT_STATUS_STATE] s t ∧ SameMem s t)) ∧
    (∀ low, Completes (.presenceChange port low) s (fun t => cabled t p = low ∧ SameMem s t ∧
      portState t p = (if portState s p = pDisabled ∧ fbit s .BLY_LOCK_LOCK = true ∧
        fbit s .BLY_PORT_CTRL_ENABLE p = true ∧ 2 ≤ dimSize s (p / 2) ∧ low = true then pTraining else portState s p))) ∧
    (portState s p = pTraining →
      (∀ (half : Option Bool) (dev peer : Nat), (half.isSome = true → fbit s .BLY_PORT_CTRL_ALLOW_HALF p = true) →
        dev < 1024 → peer < 8 →
        (predicted s p = (dev, peer) → Completes (.trainingComplete port half dev peer) s (fun t =>
          portState t p = pUp ∧ fget t .BLY_PORT_STATUS_PEER_DEV p = dev ∧ fget t .BLY_PORT_STATUS_PEER_PORT p = peer ∧
          fget t .BLY_PORT_STATUS_HALF_WIDTH p = b2n half.isSome ∧ getLink t p = Link.reset ∧ SameMem s t ∧
          (p / 2, linkCoord s p) ∉ t.breaks ∧ Told t true (linkCoord s p) ∧
          (half.isSome = true → fget t .BLY_PORT_EVENTS_DEGRADED p = 1))) ∧
        (predicted s p ≠ (dev, peer) → Completes (.trainingComplete port half dev peer) s (fun t =>
          portState t p = pMiscabled ∧ fget t .BLY_PORT_EVENTS_MISCABLED p = 1 ∧ atPorts t = atPorts s ∧
          t.breaks = s.breaks ∧ SameMem s t))) ∧
      Completes (.trainingTimeout port) s (fun t => portState t p = pDown ∧ SameMem s t ∧
        SameFields [.BLY_PORT_STATUS_STATE] s t)) ∧
    (portState s p = pUp →
      (l.rxSeq < 65536 → Completes (.flitReceive port (.data l.rxSeq true true [])) s (fun t => SameMem s t ∧ SameRegs [] s t ∧
        getLink t p = { l with rxSeq := (l.rxSeq + 1) % 65536 } ∧ t.flitOut = s.flitOut ++ [(p, false, l.rxSeq)])) ∧
      (∀ seq, Completes (.flitReceive port (.data seq false true [])) s (fun t => SameMem s t ∧ SameRegs [] s t ∧
        t.links = s.links ∧ t.flitOut = s.flitOut ++ [(p, true, l.rxSeq)])) ∧
      (∀ n, Completes (.flitReceive port (.ack n)) s (fun t => SameMem s t ∧ SameFields linkFields s t ∧
        (atPorts t).Perm (s.portQ.map (fun e => (e.port, e.pkt)) ++ (mine.drop n ++ others)) ∧ (getLink t p).replays = 0)) ∧
      Completes (.flitReceive port .replay) s (fun t => SameMem s t ∧ SameRegs [(.BLY_REPLAYS_COUNT, p)] s t ∧
        fget t .BLY_REPLAYS_COUNT p = min (fget s .BLY_REPLAYS_COUNT p + 1) (2 ^ 32 - 1)) ∧
      (mine ≠ [] → l.replays < 8 → Completes (.replayTimeout port) s (fun t => atPorts t = atPorts s ∧ SameMem s t ∧
        fget t .BLY_REPLAYS_COUNT p = min (fget s .BLY_REPLAYS_COUNT p + 1) (2 ^ 32 - 1) ∧
        SameRegs [(.BLY_REPLAYS_COUNT, p)] s t ∧ getLink t p = { l with replays := l.replays + 1 })) ∧
      (mine ≠ [] → 8 ≤ l.replays → Completes (.replayTimeout port) s (fun t => PortTaken s t p pDown ∧
        fget t .BLY_PORT_EVENTS_DOWN_REPLAY p = 1)) ∧
      Completes (.lossOfSignal port) s (fun t => PortTaken s t p pDown ∧ fget t .BLY_PORT_EVENTS_DOWN_LOS p = 1) ∧
      (∀ c, (p / 2, c) ∉ s.breaks → Completes (.linkdown port c) s (fun t => SameMem s t ∧
        t.breaks = s.breaks ++ [(p / 2, c)] ∧ Told t false c)) ∧
      (∀ c, (p / 2, c) ∈ s.breaks → Completes (.linkup port c) s (fun t => SameMem s t ∧
        t.breaks = s.breaks.filter (· != (p / 2, c)) ∧ Told t true c)) ∧
      (∀ c, (p / 2, c) ∈ s.breaks → Completes (.linkdown port c) s (fun t => t.breaks = s.breaks ∧ atPorts t = atPorts s))) ∧
    (portState s p = pDown → fbit s .BLY_PORT_CTRL_AUTO_RETRAIN p = true → cabled s p = true →
      l.downSince + 100000000 ≤ s.now → Completes (.autoRetrain port) s (fun t =>
        portState t p = pTraining ∧ SameFields [.BLY_PORT_STATUS_STATE] s t ∧ SameMem s t)))

/-- R365, R366, R369, R371, R373, R377, R379, R380, R382, R297, R341. -/
def Obligations.PacketsAreForwardedServedAndAnswered : Prop :=
  (∀ (s : State) (port : PortId) (k : Packet), let p := port.val
    portState s p = pUp →
    (k.dst ≠ devNum s →
      (∀ r, routePacket s { k with hops := k.hops + 1 } false = some r → portState s r.1 = pUp →
        Completes (.packetForward port k) s (fun t => (atPorts t).Perm (r :: atPorts s) ∧ SameMem s t ∧
          fget t .BLY_RX_BYTES_COUNT p = (fget s .BLY_RX_BYTES_COUNT p + lineUnits k.payload.length) % 2 ^ 64 ∧
          SameFields (.BLY_RX_BYTES_COUNT :: linkFields) s t)) ∧
      (routePacket s { k with hops := k.hops + 1 } false = none → Completes (.packetForward port k) s (fun t =>
        atPorts t = atPorts s ∧ SameMem s t ∧
        fget t .BLY_UNROUTABLE_COUNT = min (fget s .BLY_UNROUTABLE_COUNT + 1) (2 ^ 32 - 1)))) ∧
    (let Dropped := fun (t : State) => SameMem s t ∧
       fget t .BLY_TAG_DROPS_COUNT = min (fget s .BLY_TAG_DROPS_COUNT + 1) (2 ^ 32 - 1)
     localTag s k = none →
     (serves s p k 1 = true → Completes (.blyRead port k) s (fun t => Dropped t ∧
       Sent s t (answerTo s k 4 (List.replicate k.len 0) false))) ∧
     (serves s p k 2 = true → Completes (.blyWrite port k) s (fun t => Dropped t ∧ Sent s t (answerTo s k 5 [] false))) ∧
     (serves s p k 3 = true → Completes (.blyAtomic port k) s (fun t => Dropped t ∧
       Sent s t (answerTo s k 6 (List.replicate (if k.aop = 9 then 8 else k.payload.length) 0) false))) ∧
     (k.dst = devNum s → k.typ = 7 → 4 ≤ k.payload.length → Completes (.blySignal port k) s (fun t =>
       Dropped t ∧ t.sigs = s.sigs))) ∧
    (∀ w, localTag s k = some w →
      (serves s p k 1 = true →
        let r := agentRead (received (begun s) p k) w none false false false k.addr k.len
        Unheld r.1 → Completes (.blyRead port k) s (fun t => Sent s t (answerTo s k 4 r.2.1 r.2.2))) ∧
      (serves s p k 2 = true → s.declares = [] → k.payload.length = 8 → WordOpen s w k.addr →
        isUe s (k.addr / 64) = false →
        Completes (.blyWrite port k) s (fun t => Sent s t (answerTo s k 5 [] false) ∧
          wordAt t k.addr = leNat k.payload ∧ SameMemBut k.addr 8 s t)) ∧
      (serves s p k 3 = true →
        let x : AtomDo := if k.aop = 9 then .cas (fieldAt k.payload 0 8) (fieldAt k.payload 8 8)
          else .op k.aop (leNat k.payload)
        let r := agentAtomic (accepted (received (begun s) p k) w k.payload.length) w none k.addr x
        Unheld r.1 → Completes (.blyAtomic port k) s (fun t =>
          Sent s t (answerTo s k 6 (leBytes (if k.aop = 9 then 8 else k.payload.length) r.2) false) ∧
          ∀ a, Bytes.get t.mem a = Bytes.get r.1.mem a)) ∧
      (k.dst = devNum s → k.typ = 7 → 4 ≤ k.payload.length →
        let h := fieldAt k.payload 0 4
        Completes (.blySignal port k) s (fun t => SameMem s t ∧ t.sigs = s.sigs ++ [⟨17 + p, 30,
          ⟨h % 16, bits h 4 4, bits h 8 5, w.part, w.oper,
            (List.range (bits h 13 2)).map (fun i => BitVec.ofNat 32 (fieldAt k.payload (4 + 4 * i) 4))⟩⟩]))) ∧
    (k.dst = devNum s →
      let find := s.remotes.find? (fun r => r.die == k.srcDie && r.tag == k.tag && !r.quarantined)
      let Late := fun (t : State) => t.remotes = s.remotes ∧ t.cores = s.cores ∧ SameMem s t ∧
        fget t .BLY_LATE_COUNT = min (fget s .BLY_LATE_COUNT + 1) (2 ^ 32 - 1)
      (find = none →
        (k.typ = 4 → Completes (.blyReadResp port k) s Late) ∧ (k.typ = 5 → Completes (.blyWriteAck port k) s Late) ∧
        (k.typ = 6 → Completes (.blyAtomicResp port k) s Late)) ∧
      (∀ r e, find = some r → r.slot ≠ pollSlot →
        (getCore s r.core).table.find? (fun e => e.slot == r.slot) = some e →
        let Done := fun (t : State) => (∀ x ∈ t.remotes, ¬(x.die = r.die ∧ x.tag = r.tag)) ∧
          (2 ≤ e.await → SameMem s t ∧ (getCore t r.core).table = (getCore s r.core).table.map (fun f =>
            if f.slot = e.slot then { e with await := e.await - 1, got := e.got ++ lineData r.addr k.payload } else f)) ∧
          (e.await ≤ 1 → (∀ f ∈ (getCore t r.core).table, f.slot ≠ e.slot) ∧
            ∀ d, e.payload = .scalarLoad d r.addr 8 → r.addr % 8 = 0 → k.payload.length = 8 → e.got = [] → d < 32 → d ≠ 0 →
              (getCore t r.core).s d = BitVec.ofNat 64 (leNat k.payload))
        (k.typ = 4 → Completes (.blyReadResp port k) s Done) ∧ (k.typ = 5 → Completes (.blyWriteAck port k) s Done) ∧
        (k.typ = 6 → Completes (.blyAtomicResp port k) s Done)))) ∧
  (∀ (s : State) (i : Nat) (r : RemoteReq), s.remotes[i]? = some r →
    (r.quarantined = false → Completes (.remoteTimeout i) s (fun t =>
      t.remotes = s.remotes.set i { r with quarantined := true, epoch := none } ∧ SameMem s t ∧
      fget t .BLY_TIMEOUTS_COUNT = min (fget s .BLY_TIMEOUTS_COUNT + 1) (2 ^ 32 - 1) ∧
      (r.write = true → r.slot ≠ pollSlot →
        t.troubles = s.troubles ++ [⟨(getCore s r.core).launch.map (·.part), false, .remoteWrite⟩]))) ∧
    (r.quarantined = true → Completes (.tagQuarantineEnd i) s (fun t =>
      t.remotes = s.remotes.eraseIdx i ∧ SameRegs [] s t ∧ SameMem s t)))

/-- R391 to R396, R406, R414. -/
def Obligations.RingsAreConfiguredRungAndDisabled : Prop :=
  (∀ (s : State) (fn : FuncId), let f := fn.val
    let Says := fun (t : State) (code : Nat) => fget t .QE_RING_STATUS_RESULT f = code ∧
      SameFields [.QE_RING_STATUS_RESULT] s t ∧ SameMem s t
    let Refused := fun (code : Nat) (t : State) => Says t code ∧ t.rings = s.rings
    (quiescing s f = true → Completes (.ringConfigure fn) s (Refused 4) ∧ Completes (.ringDisable fn) s (Refused 4) ∧
      Completes (.ringRead fn) s (Refused 4)) ∧
    (quiescing s f = false → selRing s f = none → Completes (.ringConfigure fn) s (Refused 3) ∧
      Completes (.ringDisable fn) s (Refused 3) ∧ Completes (.ringRead fn) s (Refused 3)) ∧
    ∀ r, quiescing s f = false → selRing s f = some r →
      let x := getRing s r
      let p := (ringPart s r).getD 0
      let named := x.kind = kCompletion ∧ ringNamed s p r = true
      let Becomes := fun (t : State) (y : Ring) => Says t 0 ∧ getRing t r = y ∧ ∀ q, q ≠ r → getRing t q = getRing s q
      (x.state ≠ rDisabled → Completes (.ringConfigure fn) s (Refused 2)) ∧
      (x.state = rDisabled → ringOk s f p (setupRing s f) = false → Completes (.ringConfigure fn) s (Refused 1)) ∧
      (x.state = rDisabled → ringOk s f p (setupRing s f) = true →
        Completes (.ringConfigure fn) s (fun t => Becomes t (setupRing s f))) ∧
      (x.state ≠ rDisabled → named → Completes (.ringDisable fn) s (Refused 2)) ∧
      (x.state = rDisabled → Completes (.ringDisable fn) s (Refused 0)) ∧
      (x.state ≠ rDisabled → ¬named → Completes (.ringDisable fn) s (fun t =>
        Becomes t { x with state := if ringDone s f r then rDisabled else rDraining })) ∧
      Completes (.ringRead fn) s (fun t => t.rings = s.rings ∧ SameMem s t ∧ fget t .QE_RING_STATUS_RESULT f = 0 ∧
        fget t .QE_RING_BASE_ADDR f = x.base / 4096 % 2 ^ 52 ∧ fget t .QE_RING_CFG_KIND f = x.kind % 2 ^ 3 ∧
        fget t .QE_RING_CFG_FORMAT f = x.format % 2 ^ 2 ∧ fget t .QE_RING_CFG_SIZE_LOG2 f = x.sizeLog2 % 2 ^ 5 ∧
        fget t .QE_RING_CFG_COMPLETION f = x.comp % 2 ^ 16 ∧ fget t .QE_RING_CFG2_VECTOR f = x.vector % 2 ^ 11 ∧
        fget t .QE_RING_CFG2_IRQ f = b2n x.irq ∧ fget t .QE_RING_CFG2_CONTEXT f = x.ctx % 2 ^ 12)) ∧
  (∀ (s : State) (fn : FuncId) (ring : Nat) (v : W32), let f := fn.val
    let r := if f = 0 then ring else globalRing s (f - 1) ring
    (if f = 0 then ring < 262144 else vfServes s (f - 1) = true ∧ ring < fget s .QE_PART_RINGS_COUNT (f - 1)) →
    ∀ p, ringPart s r = some p → quiescing s (funcOf s p) = false → fbit s .RST_PART_STATUS_OUT p = false →
      let x := getRing s r
      let work := x.kind = kCommand ∨ x.kind = kRequest
      let live := x.state ≠ rDisabled ∧ x.state ≠ rError
      let Others := fun (t : State) => SameMem s t ∧ ∀ q, q ≠ r → getRing t q = getRing s q
      let Failed := fun (t : State) => Others t ∧ getRing t r = { x with state := rError } ∧
        fget t .QE_FUNC_EVENTS_RING_ERROR (funcOf s p) = 1
      (x.state = rDisabled → Completes (.doorbell fn ring v) s (fun t => Others t ∧ getRing t r = x ∧
        fget t .QE_FUNC_STATUS_DB_DROPS (funcOf s p) = min (fget s .QE_FUNC_STATUS_DB_DROPS (funcOf s p) + 1) (2 ^ 32 - 1))) ∧
      (x.state = rError → Completes (.doorbell fn ring v) s (fun t => Others t ∧ getRing t r = x ∧ SameRegs [] s t)) ∧
      (live → work → ringGap v.toNat x.head ≤ x.size → Completes (.doorbell fn ring v) s (fun t =>
        Others t ∧ getRing t r = { x with tail := v.toNat } ∧ SameRegs [] s t)) ∧
      (live → work → x.tail ≠ v.toNat → x.size < ringGap v.toNat x.head → Completes (.doorbell fn ring v) s Failed) ∧
      (live → ¬work → ringGap x.tail v.toNat ≤ x.size → Completes (.doorbell fn ring v) s (fun t =>
        Others t ∧ getRing t r = { x with head := v.toNat } ∧ SameRegs [] s t)) ∧
      (live → ¬work → x.head ≠ v.toNat → x.size < ringGap x.tail v.toNat → Completes (.doorbell fn ring v) s Failed)) ∧
  (∀ (s : State) (rn : RingId), let r := rn.val
    let x := getRing s r
    let f := ((ringPart s r).map (funcOf s)).getD 0
    (x.state = rDraining → ringDone s f r = true → Completes (.ringDrained rn) s (fun t => SameMem s t ∧
      SameRegs [] s t ∧ getRing t r = { x with state := rDisabled } ∧ ∀ q, q ≠ r → getRing t q = getRing s q)) ∧
    ((ringPart s r).isSome = true → x.irq = true → 0 < x.uncovered → quiescing s f = false → getPosted s f = [] →
      (getFunc s f).msixOn = true → (getFunc s f).msixMask = false → (getMsix s f x.vector).masked = false →
      Completes (.interruptModerationTimer rn) s (fun t => SameMem s t ∧ getRing t r = { x with uncovered := 0 } ∧
        t.tlps = s.tlps ++ [.memWrite f (getMsix s f x.vector).addr (leBytes 4 (getMsix s f x.vector).data) false false])))

/-- R397, R398, R399, R400, R404, R405, R422, R429. -/
def Obligations.DescriptorsAndArgumentsAreFetched : Prop :=
  (∀ (s : State) (rn : RingId) (p : Nat), let r := rn.val
    let x := getRing s r
    let f := funcOf s p
    let goesOn := s.turn.left ≠ 0 ∧ fetchable s s.turn.ring ≠ 0
    let left := if s.turn.left ≠ 0 ∧ s.turn.ring = r then s.turn.left else 8
    let n := min left (fetchable s r)
    let a := x.base + x.issued % x.size * descBytes x
    ringPart s r = some p →
    (nextRing s ≠ some r → Completes (.descriptorFetch rn) s (fun t => t = s)) ∧
    (nextRing s = some r → (getFunc s f).ats = false →
      Completes (.descriptorFetch rn) s (fun t => SameRegs [] s t ∧ SameMem s t ∧ 0 < n ∧ n ≤ 8 ∧
        x.state = rEnabled ∧ (x.kind = kCommand ∨ x.kind = kRequest ∧ n ≤ joinRoom s p x.sub) ∧ (getFunc s f).bme = true ∧
        fbit s .RST_PART_STATUS_OUT p = false ∧ t.turn.ring = r ∧ t.turn.part = p ∧ t.turn.left = left - n ∧
        (goesOn → r = s.turn.ring) ∧
        (¬goesOn → ∀ e ∈ s.rings, ∀ q, fetchable s e.1 ≠ 0 → ringPart s e.1 = some q →
          roundBehind 64 s.turn.part p ≤ roundBehind 64 s.turn.part q) ∧
        getRing t r = { x with issued := (x.issued + n) % 2 ^ 32 } ∧
        t.hreads = s.hreads ++ [⟨f, .descs r (x.issued % 2 ^ 32) n, a, n * descBytes x, true, false⟩] ∧
        t.tlps = s.tlps ++ readTlps s f a (n * descBytes x) false))) ∧
  (∀ (s : State) (i : Nat) (h : HRead) (r first n p : Nat), s.hreads[i]? = some h → h.why = .descs r first n →
    h.sent = true → ringPart s r = some p →
    let x := getRing s r
    (∀ data : List (List Byte), data.length = n → (∀ d ∈ data, d.length = descBytes x) → x.kind = kRequest →
      Completes (.descriptorArrive i data) s (fun t => SameRegs [] s t ∧ SameMem s t ∧
        t.intake = s.intake ++ data.map (fun d => ⟨r, p, d⟩) ∧ t.hreads = s.hreads.eraseIdx i ∧
        getRing t r = { x with head := (first + n) % 2 ^ 32 })) ∧
    (∀ d : List Byte, n = 1 → d.length = 64 → x.kind = kCommand → x.format = 3 → (∀ c ∈ s.cmds, c.id ≠ s.nextId) →
      let op := fieldAt d 0 1
      let fl := fieldAt d 1 1
      let ctx := fieldAt d 2 2
      let zeros := fl < 4 ∧ ctx < 4096 ∧ fieldAt d 4 4 = 0 ∧ fieldAt d 56 1 < 4 ∧ fieldAt d 58 2 = 0
      let hint := if bit fl 1 = true ∨ op = 7 then some (fieldAt d 56 1 % 4, fieldAt d 57 1, fieldAt d 60 4) else none
      let c : Cmd := ⟨s.nextId, r, p, op, 3, ctx % 4096, fieldAt d 8 8, bit fl 0, hint,
        (List.range 5).map (fun k => fieldAt d (16 + 8 * k) 8), false, [], none, none, none, [], 0⟩
      let Held := fun (t : State) => t.cmds = s.cmds ++ [{ c with refs := (cmdObjs s c).map (·.1) }] ∧
        (getRing t r).head = (first + 1) % 2 ^ 32
      (opKnown op 3 = true → zeros → cmdRefused s c = none → Completes (.descriptorArrive i [d]) s Held) ∧
      (opKnown op 3 = false → Completes (.descriptorArrive i [d]) s (fun t => CmdEnds s t c 0x41 0 0 0)) ∧
      (opKnown op 3 = true → ¬zeros → Completes (.descriptorArrive i [d]) s (fun t => CmdEnds s t c 0x40 0 0 0))) ∧
    Completes (.hostReadCompletion i none) s (fun t => (getRing t r).head = (first + n) % 2 ^ 32) ∧
    Completes (.completionTimeout i) s (fun t => (getRing t r).head = (first + n) % 2 ^ 32)) ∧
  (∀ (s : State) (i : Nat) (h : HRead) (c : Cmd), s.hreads[i]? = some h → h.why = .args c.id → h.sent = true →
    getCmd s c.id = some c →
    (∀ d : List Byte,
      let c' := { c with args := (List.range 5).map (fun k => fieldAt d (8 * k) 8) }
      cmdRefused s c' = none → Completes (.hostReadCompletion i (some d)) s (fun t => SameRegs [] s t ∧ SameMem s t ∧
        t.hreads = s.hreads.eraseIdx i ∧ t.cmds = s.cmds.map (fun k =>
          if k.id = c.id then { c' with refs := (cmdObjs s c').map (·.1) } else k))) ∧
    (s.faults.length < 32 →
      Completes (.hostReadCompletion i none) s (fun t => CmdEnds s t c 0x42 0 0 0 ∧ t.faults ≠ []) ∧
      Completes (.completionTimeout i) s (fun t => CmdEnds s t c 0x42 0 0 0 ∧ t.faults ≠ [])))

/-- R409, R410, R411, R412, R437, R438, R439. -/
def Obligations.TranslationsAndFaultRecords : Prop :=
  (∀ (s : State) (fn : FuncId) (addr size target : Nat) (r w : Bool), let f := fn.val
    let e : AtcEntry := ⟨addr / size * size, size, target, r, w⟩
    s.atsOut.contains (f, addr / 4096) = true → 4096 ≤ size → size % 4096 = 0 → getPosted s f = [] →
    (r = true ∨ w = true → (∀ h ∈ s.hreads, h.f ≠ f ∨ h.sent = true) →
      Completes (.atsTranslationComplete fn addr size target r w) s (fun t => SameRegs [] s t ∧ SameMem s t ∧
        getAtc t f = (e :: getAtc s f).take (atcQuota s f) ∧ (f, addr / 4096) ∉ t.atsOut ∧ t.tlps = s.tlps)) ∧
    (∀ h : HRead, s.hreads = [h] → h.f = f → h.sent = false → e.covers h.addr = true → r = true → 0 < atcQuota s f →
      (getFunc s f).ats = true →
      Completes (.atsTranslationComplete fn addr size target r w) s (fun t => SameRegs [] s t ∧ SameMem s t ∧
        t.hreads = [{ h with sent := true, stale := false }] ∧
        t.tlps = s.tlps ++ readTlps s f (target + (h.addr - addr / size * size)) h.n true)) ∧
    (∀ (h : HRead) (c : Cmd), s.hreads = [h] → h.f = f → h.sent = false → e.covers h.addr = true → r = false →
      h.why = .args c.id → getCmd s c.id = some c →
      Completes (.atsTranslationComplete fn addr size target r w) s (fun t =>
        t.hreads = [] ∧ ∀ x ∈ t.cmds, x.id ≠ c.id))) ∧
  (∀ (s : State) (fn : FuncId) (addr size tag : Nat), let f := fn.val
    Completes (.invalidateRequest fn addr size tag) s (fun t => SameRegs [] s t ∧ SameMem s t ∧
      (∀ e ∈ getAtc s f, e ∈ getAtc t f ↔ overlaps e.base e.size addr size = false) ∧
      (∀ g, g ≠ f → getAtc t g = getAtc s g) ∧ t.invals = s.invals ++ [(f, addr, size, tag)] ∧
      ∀ h ∈ t.hreads, h.f = f → h.sent = true → overlaps h.addr h.n addr size = true → h.stale = true)) ∧
  (∀ (s : State) (i f addr size tag : Nat), s.invals[i]? = some (f, addr, size, tag) →
    ((∀ h ∈ s.hreads, ¬(h.f = f ∧ h.stale = true ∧ overlaps h.addr h.n addr size = true)) →
      Completes (.invalidateComplete i) s (fun t => SameRegs [] s t ∧ SameMem s t ∧
        t.invals = s.invals.eraseIdx i ∧ t.tlps = s.tlps ++ [.invalidateDone f tag])) ∧
    ((∃ h ∈ s.hreads, h.f = f ∧ h.stale = true ∧ overlaps h.addr h.n addr size = true) →
      Completes (.invalidateComplete i) s (fun t => t = s))) ∧
  (∀ (s : State) (i : Nat) (x : HFault), s.faults[i]? = some x →
    let size := 2 ^ fget s .QE_FAULT_CFG_SIZE_LOG2 x.f
    let tail := fget s .QE_FAULT_TAIL_TAIL x.f
    let full := size ≤ ringGap tail (fget s .QE_FAULT_HEAD_HEAD x.f)
    (fbit s .QE_FAULT_CFG_ENABLE x.f = false ∨ full → Completes (.faultRecordFlush i) s (fun t =>
      t.faults = s.faults.eraseIdx i ∧ t.tlps = s.tlps ∧ SameMem s t ∧
      fget t .QE_FAULT_LOST_COUNT x.f = min (fget s .QE_FAULT_LOST_COUNT x.f + 1) (2 ^ 32 - 1))) ∧
    (fbit s .QE_FAULT_CFG_ENABLE x.f = true → ¬full → quiescing s x.f = false → getPosted s x.f = [] →
      (getFunc s x.f).ats = false → fbit s .QE_FAULT_CFG_IRQ x.f = false → Completes (.faultRecordFlush i) s (fun t =>
        t.faults = s.faults.eraseIdx i ∧ SameMem s t ∧ fget t .QE_FAULT_TAIL_TAIL x.f = (tail + 1) % 2 ^ 32 ∧
        t.tlps = s.tlps ++ writeTlps s x.f (fget s .QE_FAULT_BASE_ADDR x.f * 4096 + tail % size * 32)
          (leBytes 8 x.addr ++ leBytes 2 x.ctx ++ leBytes 1 x.kind ++ leBytes 1 x.access ++ leBytes 2 x.engines ++
            leBytes 2 x.count ++ leBytes 8 x.tag ++ leBytes 2 x.ring ++
            leBytes 1 (b2n x.multi + 128 * phaseOf tail size) ++ List.replicate 5 0) false false)))

/-- R400, R401, R402, R403, R404, R424, R425, R447, R219. -/
def Obligations.CommandsStartInTheirContexts : Prop :=
  (∀ (s : State) (i : Nat) (c : Cmd), Starts s i 0x00 c →
    Completes (.qeNop i) s (fun t => CmdEnds s t c 0 0 0 0 ∧ SameMem s t)) ∧
  (∀ (s : State) (i : Nat) (c : Cmd) (h : Nat × Nat × Nat), s.cmds[i]? = some c → c.op = 0x07 → c.gone = none →
    c.hint = some h → Completes (.hint i) s (fun t => CmdEnds s t c 0 0 0 0 ∧ SameMem s t ∧
      t.hints = s.hints ++ [⟨c.part, h.1, h.2.1, h.2.2, s.now⟩])) ∧
  (∀ (s : State) (i : Nat) (c : Cmd), s.cmds[i]? = some c → c.op = 0x01 → (∀ x ∈ s.cmds, x.id = c.id → x = c) →
    let n? := copyPick s c.part (bits (c.arg 2) 28 2) (copySide c.args)
    let len := c.arg 2 % 2 ^ 24
    let Takes := fun (n : Nat) (t : State) => SameMem s t ∧ chState t n = chRunning ∧ (getChan t n).copy = some c.id ∧
      fget t .CHV_CH_SRC_ADDR n = c.arg 0 % 2 ^ 48 ∧ fget t .CHV_CH_DST_ADDR n = c.arg 1 % 2 ^ 48 ∧
      fget t .CHV_CH_COUNT_BYTES n = min len 262144 ∧ ∃ x ∈ t.cmds, x.id = c.id ∧ x.chan = some n ∧ x.started = true
    (canStart s c = true → n? = none → Completes (.copy i) s (fun t => SameMem s t ∧
      ∃ x ∈ t.cmds, x.id = c.id ∧ x.chan = c.chan ∧ x.started = true)) ∧
    (∀ n, n? = some n → len ≠ 0 →
      (canStart s c = true → Completes (.copy i) s (Takes n)) ∧
      (c.started = true → c.chan = none → startsOpen s c.part = true → Completes (.copyChannelAssign i) s (Takes n)))) ∧
  (∀ (s : State) (i : Nat) (c : Cmd), Starts s i 0x02 c → (∀ x ∈ s.cmds, x.id = c.id → x = c) →
    (∀ l ∈ s.launches, l.id ≠ s.nextId) →
    let n := bits (c.arg 2) 16 11
    let cores := consistCores s c.part (bits (c.arg 2) 28 2)
    let usable := (cores.filter (fun k => !coreFenced s k)).length
    let free := (cores.filter (coreFree s)).length
    (usable < n → Completes (.launch i) s (fun t => CmdEnds s t c 0 3 0 0 ∧ SameMem s t)) ∧
    (n ≤ usable → free < n → Completes (.launch i) s (fun t => SameMem s t ∧ t.launches = s.launches ∧
      ∃ x ∈ t.cmds, x.id = c.id ∧ x.started = true ∧ x.launch = c.launch)) ∧
    (n ≤ usable → n ≤ free → Unheld (launchCmd (startCmd (begun s) c) { c with started := true }) →
      Completes (.launch i) s (fun t =>
      (∀ x ∈ t.cmds, x.id ≠ c.id) ∨
      (∃ x ∈ t.cmds, x.id = c.id ∧ x.started = true ∧ x.launch = some s.nextId) ∧
        ∃ l ∈ t.launches, l.id = s.nextId ∧ l.part = c.part ∧ l.size = n ∧ l.command = some c.id ∧ l.refused = false))) ∧
  (∀ (s : State) (w : Nat × Nat) (rest : List (Nat × Nat)) (i : Nat) (x : Ctx), wanting s = w :: rest →
    (List.range 96).find? (fun k => slotState s k == csFree) = some i → getCtx s w.1 w.2 = some x →
    Completes .contextSwapIn s (fun t => SameMem s t ∧ slotState t i = csLoading ∧ fget t .QE_CTX_SLOT_VALID i = 1 ∧
      fget t .QE_CTX_SLOT_PART i = w.1 % 2 ^ 6 ∧ fget t .QE_CTX_SLOT_CONTEXT i = w.2 % 2 ^ 12 ∧
      getCtx t w.1 w.2 = some { x with loads := (x.loads + 1) % 2 ^ 32, fresh := true, since := hostNs s } ∧
      ∀ k, k < 96 → k ≠ i → slotState t k = slotState s k)) ∧
  (∀ (s : State) (slot : Fin 96), let i := slot.val
    (slotState s i = csLoading → Completes (.slotLoaded slot) s (fun t => SameMem s t ∧ t.cmds = s.cmds ∧
      (slotState t i = csIdle ∨ slotState t i = csRunning ∨ slotState t i = csBlocked))) ∧
    (slotState s i = csSaving →
      Unheld (ctxEntryPut (begun s) (fget s .QE_CTX_SLOT_PART i) (fget s .QE_CTX_SLOT_CONTEXT i)) →
      Completes (.slotSaved slot) s (fun t => slotState t i = csFree ∧
      fget t .QE_CTX_SLOT_VALID i = 0 ∧ ∀ k, k < 96 → k ≠ i → slotState t k = slotState s k)))

/-- R420, R421, R422, R427, R428, R429, R431, R432, R440. -/
def Obligations.ContextsAndObjectsLiveAndGo : Prop :=
  (∀ (s : State) (i : Nat) (c : Cmd), Starts s i 0x10 c →
    ((getCtx s c.part c.ctx).isSome = true → Completes (.ctxCreate i) s (fun t => CmdEnds s t c 0x63 0 0 0)) ∧
    (getCtx s c.part c.ctx = none → Unheld (reached s c ctxCreate) → Completes (.ctxCreate i) s (fun t => CmdEnds s t c 0 0 0 0 ∧
      ∃ x, getCtx t c.part c.ctx = some x ∧ x.forced = bit (c.arg 0) 0 ∧ x.confine = bit (c.arg 0) 1 ∧ x.maps = [] ∧
        x.destroying = false))) ∧
  (∀ (s : State) (i : Nat) (c : Cmd) (x : Ctx), let p := c.part
    let h := c.arg 2 % 65536
    let rights := bits (c.arg 2) 16 3
    let o : Obj := ⟨c.arg 0, c.arg 1, rights, false, false⟩
    let Fails := fun (status : Nat) (t : State) => CmdEnds s t c status 0 0 0 ∧ t.objs = s.objs ∧ SameMem s t
    let Maps := fun (t : State) (ms : List (Nat × Nat)) => ∃ y, getCtx t p c.ctx = some y ∧ y.maps = ms
    getCtx s p c.ctx = some x →
    (Starts s i 0x12 c →
      let taken := fget s .QE_PART_LIMITS_OBJECTS p ≤ h ∨ (getObj s p h).isSome = true
      let clash := (objsOf s p).any (fun e => overlaps o.base o.size e.2.base e.2.size)
      (taken → Completes (.objCreate i) s (Fails 0x64)) ∧
      (¬taken → rangeGranted s p o.base o.pages rights = false → Completes (.objCreate i) s (Fails 0x65)) ∧
      (¬taken → rangeGranted s p o.base o.pages rights = true → clash = true →
        Completes (.objCreate i) s (Fails 0x66)) ∧
      (¬taken → rangeGranted s p o.base o.pages rights = true → clash = false → 240 ≤ x.maps.length →
        Completes (.objCreate i) s (Fails 0x67)) ∧
      (¬taken → rangeGranted s p o.base o.pages rights = true → clash = false → x.maps.length < 240 →
        Unheld (reached s c objCreate) → Completes (.objCreate i) s (fun t => CmdEnds s t c 0 0 1 0 ∧ getObj t p h = some o ∧
          Maps t (x.maps ++ [(h, rights)])))) ∧
    (Starts s i 0x13 c →
      let mapped := x.maps.any (fun m => m.1 == h)
      (getObj s p h = none → Completes (.objMap i) s (Fails 0x64)) ∧
      ∀ q, getObj s p h = some q →
        (q.freeing = true → Completes (.objMap i) s (Fails 0x60)) ∧
        (q.freeing = false → mapped = true → Completes (.objMap i) s (Fails 0x64)) ∧
        (q.freeing = false → mapped = false → Nat.land rights q.rights ≠ rights → Completes (.objMap i) s (Fails 0x40)) ∧
        (q.freeing = false → mapped = false → Nat.land rights q.rights = rights → 240 ≤ x.maps.length →
          Completes (.objMap i) s (Fails 0x67)) ∧
        (q.freeing = false → mapped = false → Nat.land rights q.rights = rights → x.maps.length < 240 →
          Completes (.objMap i) s (fun t => CmdEnds s t c 0 0 (mapCount t p h) 0 ∧ Maps t (x.maps ++ [(h, rights)]) ∧
            t.objs = s.objs))) ∧
    (Starts s i 0x14 c → c.ctx < 4096 →
      let left := x.maps.filter (fun m => m.1 != h)
      let others := ∃ k y, k < 4096 ∧ k ≠ c.ctx ∧ getCtx s p k = some y ∧ ∃ m ∈ y.maps, m.1 = h
      (x.maps.any (fun m => m.1 == h) = false → Completes (.objUnmap i) s (Fails 0x64)) ∧
      (x.maps.any (fun m => m.1 == h) = true →
        (others → Completes (.objUnmap i) s (fun t => CmdEnds s t c 0 0 (mapCount t p h) 0 ∧ Maps t left ∧
          t.objs = s.objs)) ∧
        (¬others → objHeld s p h = false → Unheld (reached s c objUnmap) → Completes (.objUnmap i) s (fun t => CmdEnds s t c 0 1 0 0 ∧ Maps t left ∧
          getObj t p h = none)) ∧
        (¬others → objHeld s p h = true → x.forced = false → Unheld (reached s c objUnmap) →
          ∀ q, getObj s p h = some q → Completes (.objUnmap i) s (fun t => Maps t left ∧ t.tlps = s.tlps ∧
            getObj t p h = some { q with freeing := true, forced := false } ∧
            ∃ y ∈ t.cmds, y.id = c.id ∧ y.started = true ∧ y.waits = [h]))))) ∧
  (∀ (s : State) (pt : PartId) (hw : BitVec 16) (o : Obj), let p := pt.val
    let h := hw.toNat
    let Free := fun (t : State) => getObj t p h = none ∧
      ∀ k ∈ s.cmds, k.part = p → k.waits = [h] → ∀ y ∈ t.cmds, y.id ≠ k.id
    getObj s p h = some o → o.freeing = true →
    (objHeld s p h = false → Unheld (objFree (begun s) p h) → Completes (.objectFreed pt hw) s Free) ∧
    (o.forced = true → Unheld (objFree (begun s) p h) → Completes (.forcedTeardownLimit pt hw) s Free) ∧
    (objHeld s p h = true → Completes (.objectFreed pt hw) s (fun t => t = s)) ∧
    (o.forced = false → Completes (.forcedTeardownLimit pt hw) s (fun t => t = s))) ∧
  (∀ (s : State) (i : Nat) (c : Cmd), let p := c.part
    Starts s i 0x11 c →
    (getCtx s p c.ctx = none → Completes (.ctxDestroy i) s (fun t => CmdEnds s t c 0x62 0 0 0)) ∧
    (∀ x, getCtx s p c.ctx = some x → (∀ y ∈ s.cmds, y.id = c.id → y = c) → SMap.wf (fun _ => none) s.fences →
      Unheld (reached s c ctxDestroy) → Completes (.ctxDestroy i) s (fun t =>
        (∃ y, getCtx t p c.ctx = some y ∧ y.destroying = true ∧ y.maps = x.maps) ∧
        (∃ y ∈ t.cmds, y.id = c.id ∧ y.started = true) ∧
        (∀ k ∈ s.cmds, k.part = p → k.ctx = c.ctx → k.id ≠ c.id → k.started = false ∨ isWait k = true →
          ∀ y ∈ t.cmds, y.id ≠ k.id) ∧
        ∀ h f, h < 65536 → getFence s p h = some f → f.owner = some c.ctx →
          getFence t p h = some { f with error := true, owner := none }))) ∧
  (∀ (s : State) (i : Nat) (c : Cmd) (x : Ctx), let p := c.part
    s.cmds[i]? = some c → c.op = 0x11 → c.started = true → c.gone = none → c.ctx < 4096 → getCtx s p c.ctx = some x →
    x.forced = false → c.waits = [] →
    (∀ k ∈ s.cmds, k.part = p → k.ctx = c.ctx → k.id ≠ c.id → k.started = false) →
    (∀ m ∈ x.maps, objHeld s p m.1 = false) → Unheld (ctxDestroyResume (begun s) c) →
    Completes (.ctxDestroyResume i) s (fun t => CmdEnds s t c 0 0 c.count 0 ∧ getCtx t p c.ctx = none ∧
      (∀ m ∈ x.maps, (∀ k y, k < 4096 → k ≠ c.ctx → getCtx s p k = some y → ∀ q ∈ y.maps, q.1 ≠ m.1) →
        getObj t p m.1 = none) ∧
      ∀ k, ctxSlot s p c.ctx = some k → slotState t k = csFree)) ∧
  (∀ (s : State) (i : Nat) (c : Cmd), let p := c.part
    Starts s i 0x19 c → RecordClear s p c.ring →
    Completes (.ctxQuery i) s (fun t => SameMem s t ∧ (∀ x ∈ t.cmds, x.id ≠ c.id) ∧
      ∃ data : List Byte, data.length = 128 ∧ fieldAt data 0 2 = c.arg 1 % 2 ^ 16 ∧
        t.tlps = s.tlps ++ writeTlps s (funcOf s p) (c.arg 0) data false false ++ recordTlps s p c.ring c.tag 0 0 0 0 ∧
        (getCtx s p (c.arg 1) = none → ∀ k, 2 ≤ k → k < 128 → data.getD k 0 = 0) ∧
        ∀ x, getCtx s p (c.arg 1) = some x → fieldAt data 4 4 = x.maps.length % 2 ^ 32 ∧
          fieldAt data 2 1 = (if x.destroying then 3 else if (ctxSlot s p (c.arg 1)).isSome then 1 else 2)))

/-- R421, R433, R434, R435, R436. -/
def Obligations.FencesSignalWaitAndGo : Prop :=
  ∀ (s : State) (i : Nat) (c : Cmd), s.cmds[i]? = some c → c.gone = none →
    let p := c.part
    let h := c.arg 0
    let Ends := fun (status detail : Nat) (t : State) => CmdEnds s t c status detail 0 0 ∧ t.fences = s.fences ∧ SameMem s t
    let Waits := fun (k : Cmd) => k ∈ s.cmds ∧ k.part = p ∧ k.started = true ∧ k.op = 0x17 ∧ k.arg 0 = h
    (Starts s i 0x15 c →
      let taken := fget s .QE_PART_LIMITS_FENCES p ≤ h ∨ (getFence s p h).isSome = true
      let x : Fence := ⟨c.arg 3, false, c.arg 1, c.arg 2 % 2 ^ 11, bit (c.arg 2) 11, some c.ctx⟩
      let a := fget s .QE_PART_FENCE_BASE_ADDR p * 4096 + 32 * h
      (taken → Completes (.fenceCreate i) s (Ends 0x64 0)) ∧
      (¬taken → Unheld (reached s c fenceCreate) → Completes (.fenceCreate i) s (fun t => CmdEnds s t c 0 0 0 0 ∧
        getFence t p h = some x ∧
        (isCtl ⟨a, 8⟩ = true → LineFresh s (hQe p) (a / 64) → holderAllowed s (hQe p) p true true (a / 64) = true →
          ∃ l, getHolder t (hQe p) (a / 64) = some l ∧ leNat ((l.data.drop (a % 64)).take 8) = c.arg 3 % 2 ^ 63)))) ∧
    (getFence s p h = none →
      (Starts s i 0x16 c → Completes (.fenceSignal i) s (Ends 0x64 0)) ∧
      (Starts s i 0x17 c → Completes (.fenceWait i) s (Ends 0x64 0)) ∧
      (Starts s i 0x18 c → Completes (.fenceDestroy i) s (Ends 0x64 0))) ∧
    (∀ x, getFence s p h = some x →
      (Starts s i 0x16 c →
        (x.error = true ∨ c.arg 1 ≤ x.value → Completes (.fenceSignal i) s (Ends 0 1)) ∧
        (x.error = false → x.value < c.arg 1 → c.arg 1 < 2 ^ 63 → Unheld (reached s c fenceSignal) →
          Completes (.fenceSignal i) s (fun t =>
          getFence t p h = some { x with value := c.arg 1 } ∧ (∀ y ∈ t.cmds, y.id ≠ c.id) ∧
          (∀ k, Waits k → k.arg 1 ≤ c.arg 1 → ∀ y ∈ t.cmds, y.id ≠ k.id) ∧
          (x.mirror = 0 → (∀ k, ¬Waits k) → CmdEnds s t c 0 0 0 0) ∧
          (x.mirror ≠ 0 → x.irq = false → quiescing s (funcOf s p) = false → getPosted s (funcOf s p) = [] →
            (getFunc s (funcOf s p)).ats = false →
            ∃ rest, t.tlps =
              s.tlps ++ writeTlps s (funcOf s p) x.mirror (leBytes 8 (c.arg 1)) false false ++ rest)))) ∧
      (Starts s i 0x17 c →
        (c.arg 1 ≤ x.value → Completes (.fenceWait i) s (Ends 0 0)) ∧
        (x.value < c.arg 1 → x.error = true → Completes (.fenceWait i) s (Ends 0x69 0)) ∧
        (x.value < c.arg 1 → x.error = false → Completes (.fenceWait i) s (fun t => t.tlps = s.tlps ∧
          t.fences = s.fences ∧ SameMem s t ∧ ∃ y ∈ t.cmds, y.id = c.id ∧ y.op = 0x17 ∧ y.started = true))) ∧
      (Starts s i 0x18 c → Completes (.fenceDestroy i) s (fun t => getFence t p h = none ∧ SameMem s t ∧
        (∀ k, Waits k → ∀ y ∈ t.cmds, y.id ≠ k.id) ∧ (∀ y ∈ t.cmds, y.id ≠ c.id) ∧
        ((∀ k, ¬Waits k) → CmdEnds s t c 0 0 0 0)))) ∧
    (c.op = 0x17 → c.started = true → c.arg 2 ≠ 0 → Completes (.fenceWaitTimeout i) s (Ends 0 1))

/-- R445, R446, R449, R450, R459, R461, R462. -/
def Obligations.ChannelsFollowTheirGoCommands : Prop :=
  ∀ (s : State) (ch : ChanId) (path : RegPath), let n := ch.val
    let Ignored := fun (t : State) => SameFields [.CHV_CH_IGNORED_COUNT] s t ∧ SameMem s t ∧ t.chans = s.chans ∧
      fget t .CHV_CH_IGNORED_COUNT n = min (fget s .CHV_CH_IGNORED_COUNT n + 1) (2 ^ 32 - 1)
    let d := regDesc s n
    let x := getChan s n
    let tail := fget s .CHV_CH_CQ_TAIL_TAIL n
    let Written := fun (t : State) => fget t .CHV_CH_CQ_TAIL_TAIL n = (tail + 1) % 2 ^ 32
    (∀ (p : PartId) (oper valid : Bool) (sub : Fin 4),
      (path ≠ .pf0 ∨ chState s n ≠ chIdle → Completes (.chvOwnerWrite ch path p oper valid sub) s Ignored) ∧
      (path = .pf0 → chState s n = chIdle → Completes (.chvOwnerWrite ch path p oper valid sub) s (fun t =>
        fget t .CHV_CH_OWNER_PART n = p ∧ fget t .CHV_CH_OWNER_OPER n = b2n oper ∧ SameMem s t ∧
        fget t .CHV_CH_OWNER_VALID n = b2n valid ∧ fget t .CHV_CH_OWNER_SUB n = sub ∧
        SameFields [.CHV_CH_OWNER_PART, .CHV_CH_OWNER_OPER, .CHV_CH_OWNER_VALID, .CHV_CH_OWNER_SUB] s t))) ∧
    (goOk s n path [chIdle] = false → Completes (.chvStart ch path) s Ignored ∧ Completes (.chvFetch ch path) s Ignored) ∧
    (goOk s n path [chRunning] = false → Completes (.chvStop ch path) s Ignored) ∧
    (goOk s n path [chHalted] = false → Completes (.chvResume ch path) s Ignored ∧ Completes (.chvAbort ch path) s Ignored) ∧
    (goOk s n path [chIdle] = true →
      let Fresh := fun (t : State) => SameMem s t ∧ fget t .CHV_CH_STATUS_PROVISIONAL n = 0 ∧
        fget t .CHV_CH_STATUS_INDEX n = 0 ∧ fget t .CHV_CH_ERR_ADDR_VALID n = 0
      let Ended := fun (t : State) => (cqFull s n = true → chState t n = chCqWait ∧ SameMem s t) ∧
        (cqFull s n = false → chState t n = chIdle ∧ Written t)
      (d.ok = true → Completes (.chvStart ch path) s (fun t => Fresh t ∧ chState t n = chRunning ∧
        (getChan t n).count0 = d.count ∧ (getChan t n).copy = none ∧
        regDesc t n = { d with tag := d.tag % 2 ^ 32 })) ∧
      (d.ok = false → Unheld (chvStart (begun s) n path) → Completes (.chvStart ch path) s Ended) ∧
      (inControl d.next = true → Completes (.chvFetch ch path) s (fun t => Fresh t ∧ chState t n = chLoading)) ∧
      (inControl d.next = false → Unheld (chvFetch (begun s) n path) → Completes (.chvFetch ch path) s Ended)) ∧
    (goOk s n path [chRunning] = true → Completes (.chvStop ch path) s (fun t => chState t n = chStopping ∧
      SameRegs [(.CHV_CH_STATUS_STATE, n)] s t ∧ SameMem s t ∧ t.chans = s.chans)) ∧
    (goOk s n path [chHalted] = true →
      Completes (.chvResume ch path) s (fun t => fget t .CHV_CH_ERR_ADDR_VALID n = 0 ∧ SameMem s t ∧
        chState t n = (if fget s .CHV_CH_ERR_ADDR_KIND n = 5 then chLoading else chRunning) ∧
        SameFields [.CHV_CH_ERR_ADDR_VALID, .CHV_CH_STATUS_STATE] s t) ∧
      (x.copy = none → x.dirty = true → Completes (.chvAbort ch path) s (fun t => fget t .CHV_CH_ERR_ADDR_VALID n = 0 ∧
        (getChan t n).due.isSome = true ∧ SameMem s t)) ∧
      (x.copy = none → x.dirty = false → Unheld (chvAbort (begun s) n path) →
        Completes (.chvAbort ch path) s (fun t => fget t .CHV_CH_ERR_ADDR_VALID n = 0 ∧
        (cqFull s n = true → chState t n = chCqWait ∧ SameMem s t) ∧
        (cqFull s n = false → chState t n = chIdle ∧ Written t ∧ getChan t n = Chan.reset)))) ∧
    (chState s n = chLoading →
      let r := chainRead (begun s) n
      let e := (descOf r.2.1).1
      Unheld (loadNext (begun s) n) →
      (r.2.2 = false → e.ok = true → (descOf r.2.1).2 = true → Completes (.chvDescLoaded ch) s (fun t =>
        chState t n = chRunning ∧ regDesc t n = e ∧ (getChan t n).count0 = e.count)) ∧
      (r.2.2 = true → x.copy = none → x.dirty = false → cqFull s n = false → Completes (.chvDescLoaded ch) s (fun t =>
        chState t n = chHalted ∧ fget t .CHV_CH_ERR_ADDR_KIND n = 5 ∧ fget t .CHV_CH_ERR_ADDR_ADDR n = d.next % 2 ^ 48))) ∧
    (∀ head : W32,
      let u := fset s .CHV_CH_CQ_HEAD_HEAD n head.toNat
      (chAccepts s n path = false → Completes (.chvCqHeadWrite ch path head) s Ignored) ∧
      (chAccepts s n path = true → chState s n ≠ chCqWait → Completes (.chvCqHeadWrite ch path head) s (fun t =>
        fget t .CHV_CH_CQ_HEAD_HEAD n = head.toNat ∧ SameFields [.CHV_CH_CQ_HEAD_HEAD] s t ∧ SameMem s t)) ∧
      (chAccepts s n path = true → chState s n = chCqWait → cqFull u n = false → Unheld (cqRoom (begun u) n) →
        ∀ rec next last, x.held = some (rec, next, last) → Completes (.chvCqHeadWrite ch path head) s (fun t =>
          Written t ∧ chState t n = (if last then chIdle else next % 2 ^ 3) ∧ (getChan t n).held = none)))

/-- R451, R452, R457, R458, R459, R460, R462, R380. -/
def Obligations.DescriptorsMoveTheirBytes : Prop :=
  ∀ (s : State) (ch : ChanId) (data : List Byte), let n := ch.val
    let d := regDesc s n
    let x := getChan s n
    let w := chvWho s n
    let tail := fget s .CHV_CH_CQ_TAIL_TAIL n
    let slot := fget s .CHV_CH_CQ_BASE_ADDR n * 64 + tail % 2 ^ fget s .CHV_CH_CQ_CFG_SIZE_LOG2 n * 16
    let active := chState s n = chRunning ∨ chState s n = chStopping
    x.copy = none → x.due = none → x.dirty = false → active →
    (d.count = 8 → d.next = 0 → d.ctrl % 16 = 0 → bits d.ctrl 22 2 = 0 → chvClash s n = false → x.kill = false →
      WordReads s w d.src → WordOpen s w d.dst → isUe s (d.dst / 64) = false →
      let Moved := fun (t : State) => wordAt t d.dst = wordAt s d.src ∧
        fget t .CHV_CH_COUNT_BYTES n = 0 ∧ fget t .CHV_CH_SRC_ADDR n = (d.src + 8) % 2 ^ 48 ∧
        fget t .CHV_CH_DST_ADDR n = (d.dst + 8) % 2 ^ 48 ∧
        fget t .CHV_CH_BYTES_COUNT n = (fget s .CHV_CH_BYTES_COUNT n + 8) % 2 ^ 64
      (cqFull s n = true → Completes (.chvDescDone ch data) s (fun t => Moved t ∧ SameMemBut d.dst 8 s t ∧
        chState t n = chCqWait)) ∧
      (cqFull s n = false → slot + 16 ≤ d.dst / 64 * 64 ∨ d.dst / 64 * 64 + 64 ≤ slot → slot + 16 ≤ regBase →
        Unheld (chvOutcome n (chvRun (begun s) n (2 ^ 24) data)) → Completes (.chvDescDone ch data) s (fun t => Moved t ∧ chState t n = chIdle ∧
          fget t .CHV_CH_CQ_TAIL_TAIL n = (tail + 1) % 2 ^ 32))) ∧
    (∀ (kind : Nat) (write : Bool),
      let host := bit d.ctrl (if write then 1 else 0)
      let remote := bit d.ctrl (if write then 3 else 2)
      (kind = 2 ∧ host = true ∧ write = false ∨ kind = 3 ∧ host = true ∨ kind = 4 ∧ remote = true → d.count ≠ 0 →
        Unheld (burstFails (begun s) n kind 0 write data) → Completes (.chvBusError ch kind 0 write data) s (fun t =>
          fget t .CHV_CH_ERR_ADDR_ADDR n = (if write then d.dst else d.src) % 2 ^ 48 ∧
          fget t .CHV_CH_ERR_ADDR_HOST n = b2n host ∧ fget t .CHV_CH_ERR_ADDR_DIR n = b2n write ∧
          fget t .CHV_CH_ERR_ADDR_KIND n = kind ∧ fget t .CHV_CH_ERR_ADDR_VALID n = 1 ∧
          fget t .CHV_CH_ERR_ADDR_DEV n = (if remote then bits d.ctrl 4 10 else 0) ∧
          (kind = 4 → fget t .BLY_TIMEOUTS_COUNT = min (fget s .BLY_TIMEOUTS_COUNT + 1) (2 ^ 32 - 1)) ∧
          (cqFull s n = true → chState t n = chCqWait ∧ (kind ≠ 4 → SameMem s t)) ∧
          (cqFull s n = false → chState t n = chHalted))) ∧
      (∀ at_, 1 < kind → kind ≠ 5 → host = false → remote = false →
        Completes (.chvBusError ch kind at_ write data) s (fun t => t = begun s)))

/-- R386, R387, R389, R412, R413, R414, R420, R582. -/
def Obligations.FunctionsShutDownAndAnswer : Prop :=
  (∀ (s : State) (fn : FuncId), let f := fn.val
    let hit := fun (g : Nat) => if f = 0 then g ≤ 64 else g = f
    let Fresh := fun (g : Nat) => { Func.reset with aer := (getFunc s g).aer }
    Completes (.flr fn) s (fun t => (∀ g, hit g → ShutsDown s t g false ∧ getFunc t g = Fresh g) ∧
      ∀ g, ¬hit g → getFunc t g = getFunc s g) ∧
    Completes (.d3hotEntry fn) s (fun t => (∀ g, hit g → ShutsDown s t g false) ∧
      getFunc t f = { Fresh f with d3 := true })) ∧
  (∀ s : State, let Fresh := fun (g : Nat) => { Func.reset with aer := (getFunc s g).aer }
    Completes .vfEnableClear s (fun t => (getFunc t 0).vfOn = false ∧
      ∀ g, 1 ≤ g → g ≤ 64 → ShutsDown s t g false ∧ getFunc t g = Fresh g) ∧
    Completes .hotReset s (fun t => ∀ g, g ≤ 64 → ShutsDown s t g true ∧ getFunc t g = Fresh g) ∧
    Completes .surpriseLinkDown s (fun t => t.mod.linkUp = false ∧ t.mod.linkMode = none ∧
      ∀ g, g ≤ 64 → ShutsDown s t g true ∧ getFunc t g = Fresh g)) ∧
  (∀ (s : State) (fn : FuncId) (x : Shutdown), let f := fn.val
    s.shuts.find? (fun y => y.f == f) = some x →
    (x.resets = false → Completes (.shutdownResume fn) s (fun t =>
      (∀ y ∈ t.shuts, y.f = f → y.resets = true) ∧
      ∀ p ∈ x.parts, p < 64 → fbit t .RST_PART_STATUS_RESETTING p = true)) ∧
    (x.resets = true → (∃ p ∈ x.parts, fbit s .RST_PART_STATUS_RESETTING p = true) →
      Completes (.shutdownResume fn) s (fun t => t = s)) ∧
    (x.resets = true → (∀ p ∈ x.parts, fbit s .RST_PART_STATUS_RESETTING p = false) →
      Unheld (shutFinish (begun s) x) → Completes (.shutdownResume fn) s (fun t => (∀ y ∈ t.shuts, y.f ≠ f) ∧ getAtc t f = [] ∧
        (∀ v ∈ t.invals, v.1 ≠ f) ∧ (∀ e ∈ t.faults, e.f ≠ f) ∧ fget t .QE_FUNC_STATUS_QUIESCING f = 0 ∧
        fget t .QE_FUNC_STATUS_RESETS f = (fget s .QE_FUNC_STATUS_RESETS f + 1) % 2 ^ 16 ∧
        t.tlps = s.tlps ++ (s.invals.filter (fun v => v.1 == f)).map (fun v => .invalidateDone f v.2.2.2) ∧
        fget t .QE_RING_BASE_ADDR f = 0 ∧ fget t .QE_FAULT_CFG_ENABLE f = 0 ∧
        (∀ r p, p ∈ x.parts → ringPart s r = some p → getRing t r = Ring.reset) ∧
        ∀ p ∈ x.parts, (∀ h, h < 65536 → getObj t p h = none) ∧ ∀ c, 0 < c → c < 4096 → getCtx t p c = none))) ∧
  (∀ (s : State) (fn : FuncId), let f := fn.val
    let Answers := fun (t : State) (retry : Bool) (v : Option Nat) => t.tlps = s.tlps ++ [.config f retry v] ∧ SameMem s t
    (∀ q, s.mod.linkUp = false → Completes (.configRequest fn q) s (fun t => t = s)) ∧
    (∀ q, s.mod.linkUp = true → s.mod.ready = false ∨ s.shuts.any (·.retry) = true →
      Completes (.configRequest fn q) s (fun t => Answers t true none ∧ SameRegs [] s t)) ∧
    (s.mod.linkUp = true → s.mod.ready = true → s.shuts.any (·.retry) = false →
      (∀ q, funcExists s f = false → Completes (.configRequest fn q) s (fun t => Answers t false none ∧ SameRegs [] s t)) ∧
      (funcExists s f = true →
        Completes (.configRequest fn (.read 0)) s (fun t => SameRegs [] s t ∧ t.funcs = s.funcs ∧
          Answers t false (some (0x1F7E + 65536 * (if f = 0 then 0x7A70 else 0x7A71)))) ∧
        (∀ b, Completes (.configRequest fn (.busMaster b)) s (fun t => SameRegs [] s t ∧ Answers t false (some 0) ∧
          getFunc t f = { getFunc s f with bme := b })) ∧
        (∀ k, Completes (.configRequest fn (.payload k)) s (fun t => SameRegs [] s t ∧ Answers t false (some 0) ∧
          getFunc t f = { getFunc s f with maxPayload := 128 * 2 ^ k.val })) ∧
        (∀ k, Completes (.configRequest fn (.readRequest k)) s (fun t => SameRegs [] s t ∧ Answers t false (some 0) ∧
          getFunc t f = { getFunc s f with maxRead := 128 * 2 ^ k.val })) ∧
        (∀ q v, q = .linkStatus ∧ v = linkStatus s ∨ q = .aerStatus ∧ v = (getFunc s f).aer →
          Completes (.configRequest fn q) s (fun t => SameRegs [] s t ∧ t.funcs = s.funcs ∧ Answers t false (some v))) ∧
        (∀ v, Completes (.configRequest fn (.aerClear v)) s (fun t => SameRegs [] s t ∧ Answers t false (some 0) ∧
          ∀ j, j < 32 → bit (getFunc t f).aer j = (bit (getFunc s f).aer j && !bit v j))) ∧
        (∀ b, Completes (.configRequest fn (.relaxed b)) s (fun t => SameRegs [] s t ∧ Answers t false (some 0) ∧
          getFunc t f = { getFunc s f with relaxed := b })) ∧
        (∀ b, Completes (.configRequest fn (.ats b)) s (fun t => SameRegs [] s t ∧ Answers t false (some 0) ∧
          getFunc t f = { getFunc s f with ats := b } ∧ (b = false → getAtc t f = [])))))) ∧
  (∀ (s : State) (mode : Fin 4), let v := mode.val
    (v = 1 ∨ v = 2 → Completes (.tcModeWrite mode) s (fun t => fget t .TC_MODE_MODE = v ∧
      SameFields [.TC_MODE_MODE] s t ∧ SameMem s t)) ∧
    (v = 0 ∨ v = 3 → Completes (.tcModeWrite mode) s (fun t => t = s))) ∧
  (∀ (s : State) (master : Fin 4), let m := master.val
    Completes (.deadlineMiss master) s (fun t => fget t (missF m) = 1 ∧ SameMem s t ∧
      fget t .TC_MISS_COUNT_COUNT m = (fget s .TC_MISS_COUNT_COUNT m + 1) % 2 ^ 64 ∧
      SameFields [missF m, .TC_MISS_COUNT_COUNT] s t ∧
      (fget s (missF m) = 1 ∨ fbit s .TC_IRQ_ENABLE = false → t.tlps = s.tlps)))

/-- R10, R12, R386, R395, R582, R590. -/
def Obligations.RegisterWritesFollowTheirAccessTypes : Prop :=
  (∀ (s : State) (off n v i : Nat) (r : RegRow), hostOk s 0 = true → s.declares = [] → off < 0x900000 →
    findReg pfRows off = some (r, i, 0) → n = r.bytes → off % n = 0 → n = 4 ∨ n = 8 → i < 65536 →
    (off < 0x11000 ∨ 0x12000 ≤ off) → (∀ f ∈ r.fields, f ∉ actingRegs) → v < 2 ^ (8 * n) →
    Completes (.registerWrite .pf0 off n v) s (fun t => SameMem s t ∧ SameRegs (r.fields.map (fun f => (f, i))) s t ∧
      ∀ f ∈ r.fields, fget t f i = accessResult s f i (bits v f.spec.lo f.spec.w))) ∧
  (∀ (s : State) (ring v : Nat), hostOk s 0 = true → ring < 262144 → v < 2 ^ 32 →
    ∃ t, Sys2Proof.Machine.exec (.registerWrite .pf2 (64 * ring) 4 v) s = .next t ∧
      Sys2Proof.Machine.exec (.doorbell 0 ring (BitVec.ofNat 32 v)) s = .next t) ∧
  (∀ (s : State) (off n v : Nat),
    (hostOk s 0 = false → Completes (.registerWrite .pf0 off n v) s (fun t => t = s) ∧
      Completes (.registerWrite .pf2 off n v) s (fun t => t = s)) ∧
    ∀ p : PartId, hostOk s (p.val + 1) = false → Completes (.registerWrite (.vf p) off n v) s (fun t => t = s))

/-- R482, R483, R488, R495, R496, R497. -/
def Obligations.WindowsCommitAndMetersLatch : Prop :=
  (∀ (s : State) (pt : PartId), let p := pt.val
    (winPending s p = false → Completes (.winCommit pt) s (fun t => t.wins = s.wins ∧ SameRegs [] s t ∧ SameMem s t ∧
      t.winsNew = s.winsNew ++ [(p, (List.range 32).map (winRegs s p))])) ∧
    (winPending s p = true → Completes (.winCommit pt) s (fun t => t = s)) ∧
    (∀ ws : List Win, s.winsNew.find? (fun e => e.1 == p) = some (p, ws) → ws.length = 32 →
      Completes (.winCommitDone pt) s (fun t => SameRegs [] s t ∧ SameMem s t ∧ winPending t p = false ∧
        (∀ w, w < 32 → getWin t p w = ws.getD w Win.none) ∧ ∀ q w, q ≠ p → w < 32 → getWin t q w = getWin s q w)) ∧
    Completes (.meterSnap pt) s (fun t => t.meters = s.meters ∧ SameMem s t ∧
      fget t .PART_M_TIME_NS p = s.now % 2 ^ 64 ∧ fget t .PART_M_CORE_CYCLES_COUNT p = getMeter s p mCore % 2 ^ 64 ∧
      fget t .PART_M_HBM_BYTES_COUNT p = getMeter s p mHbm % 2 ^ 64 ∧
      fget t .PART_M_DEPOT_BYTES_COUNT p = getMeter s p mDepot % 2 ^ 64 ∧
      fget t .PART_M_LINK_BYTES_COUNT p = getMeter s p mLink % 2 ^ 64 ∧
      fget t .PART_M_HOST_BYTES_COUNT p = getMeter s p mHost % 2 ^ 64 ∧
      fget t .PART_M_ENERGY_MJ_COUNT p = getMeter s p mEnergy % 2 ^ 64 ∧
      fget t .PART_M_JOBS_COUNT p = getMeter s p mJobs % 2 ^ 64 ∧
      SameRegs (([.PART_M_TIME_NS, .PART_M_CORE_CYCLES_COUNT, .PART_M_HBM_BYTES_COUNT, .PART_M_DEPOT_BYTES_COUNT,
        .PART_M_LINK_BYTES_COUNT, .PART_M_HOST_BYTES_COUNT, .PART_M_ENERGY_MJ_COUNT,
        .PART_M_JOBS_COUNT] : List F).map (fun f => (f, p))) s t)) ∧
  (∀ (s : State) (d p nj : Nat), isRegion d = true → p < 64 → fbit s .PART_CTRL_CLASS p = false →
    SMap.get (fun _ => 0) s.power.spanNj d = nj → (∀ e, e ≠ d → SMap.get (fun _ => 0) s.power.spanNj e = 0) →
    0 < SMap.get (fun _ => 0) s.power.runCycles (64 * d + p) →
    (∀ q, q < 64 → q ≠ p → SMap.get (fun _ => 0) s.power.runCycles (64 * d + q) = 0) →
    (∀ q, SMap.get (fun _ => 0) s.power.partNj q < 1000000) →
    let f := SMap.get (fun _ => 0) s.power.partNj p + nj
    Completes .energyAttribution s (fun t => SameRegs [] s t ∧ SameMem s t ∧
      getMeter t p mEnergy = (getMeter s p mEnergy + f / 1000000) % 2 ^ 64 ∧
      SMap.get (fun _ => 0) t.power.partNj p = f % 1000000 ∧ t.power.spanNj = [] ∧ t.power.runCycles = []))

/-- R499, R500, R501, R508, R510, R511, R512, R516. -/
def Obligations.MailboxCommandsEndWithTheirStatus : Prop :=
  (∀ (s : State) (fn : FuncId), let f := fn.val
    let a := mbArg s f 0
    let n := mbArg s f 1
    let bank := 1 - runBank s
    let line := a / 64
    let plain := a % 8 = 0 ∧ a < 0x10000000000 ∧ a % sliceBytes < ctlOff ∧ scrubbing s (a / sliceBytes) = false ∧
      isUe s line = false
    let Counted := fun (t : State) => ∀ p, boundTo s (a / sliceBytes) = some p →
      fget t .TRB_PART_OPER_ACCESSES_COUNT p = min (fget s .TRB_PART_OPER_ACCESSES_COUNT p + 1) (2 ^ 32 - 1)
    (mbRuns s f 0x01 = true →
      (mbLenOk n = false ∨ Config.certChain.length ≤ a → Completes (.getCert fn) s (fun t => MbEnds s t f 1 0)) ∧
      (mbLenOk n = true → a < Config.certChain.length →
        let b := (Config.certChain.drop a).take n
        Completes (.getCert fn) s (fun t => MbEnds s t f 0 b.length ∧ Bytes.read (getBuf t f) 0 b.length = b ∧
          SameMem s t))) ∧
    (mbRuns s f 0x10 = true →
      (mbLenOk n = false ∨ 2048 + 33554432 < a + n → Completes (.fwStage fn) s (fun t => MbEnds s t f 1 0 ∧
        t.mod.banks = s.mod.banks)) ∧
      (mbLenOk n = true → a + n ≤ 2048 + 33554432 → Completes (.fwStage fn) s (fun t => MbEnds s t f 0 0 ∧
        Bytes.read (bankBytes t bank) a n = Bytes.read (getBuf s f) 0 n ∧
        bankBytes t (runBank s) = bankBytes s (runBank s) ∧ SameMem s t))) ∧
    (mbRuns s f 0x11 = true → s.mod.unwraps.any (·.begun) = false →
      (imageValid s bank = false → Completes (.fwActivate fn) s (fun t => MbEnds s t f 7 0 ∧ t.mod = s.mod)) ∧
      (imageValid s bank = true → Completes (.fwActivate fn) s (fun t => MbEnds s t f 0 (bankSvn s bank) ∧
        t.mod = { s.mod with bootBank := bank, pending := true, tried := false }))) ∧
    (mbRuns s f 0x12 = true → let v := max s.mod.fuses (min (bankSvn s (runBank s)) 64)
      (s.mod.fuses + 1 < v → Completes (.fwCommit fn) s (fun t => mbRuns t f 0x12 = true ∧ SameMem s t ∧
        t.mod = { s.mod with fuses := s.mod.fuses + 1 })) ∧
      (v ≤ s.mod.fuses + 1 → Completes (.fwCommit fn) s (fun t => MbEnds s t f 0 v ∧
        t.mod = { s.mod with fuses := v }))) ∧
    (mbRuns s f 0x20 = true →
      (mbLenOk n = false ∨ 2 ^ 48 < a + n → Completes (.debugRead fn) s (fun t => MbEnds s t f 1 0 ∧ SameMem s t)) ∧
      (n = 8 → plain → Completes (.debugRead fn) s (fun t => MbEnds s t f 0 8 ∧ Counted t ∧ SameMem s t ∧
        Bytes.read (getBuf t f) 0 8 = Bytes.read s.mem a 8))) ∧
    (mbRuns s f 0x21 = true →
      (mbLenOk n = false ∨ 2 ^ 48 < a + n → Completes (.debugWrite fn) s (fun t => MbEnds s t f 1 0 ∧ SameMem s t)) ∧
      (n = 8 → plain → s.declares = [] → Completes (.debugWrite fn) s (fun t => MbEnds s t f 0 8 ∧ Counted t ∧
        Bytes.read t.mem a 8 = Bytes.read (getBuf s f) 0 8 ∧ SameMemBut a 8 s t)))) ∧
  (∀ (s : State) (fn : FuncId) (u : Unwrap) (rest : List Unwrap), let f := fn.val
    s.mod.unwraps = u :: rest → u.f = f →
    let w := fuaneWho u.part false
    let h := heldRead (begun s) w hFuane u.src 128
    let table := 128 + 576 * fieldAt h.2.1 6 2
    let k := heldRead h.1 w hFuane u.src table
    let n := fieldAt h.2.1 8 8
    let c := heldRead k.1 w hFuane (u.src + alignDown (table + 4095) 4096) n
    let iv := (h.2.1.drop 80).take 12
    let Popped := fun (status : Nat) (t : State) => MbEnds s t f status 0 ∧ t.mod.unwraps = rest
    (u.begun = false →
      (2 ^ 48 ≤ u.src ∨ 2 ^ 48 ≤ u.dst → Completes (.unwrap fn) s (Popped 1)) ∧
      (u.src < 2 ^ 48 → u.dst < 2 ^ 48 →
        (headerOk h.2.1 = false → Unheld h.1 → Completes (.unwrap fn) s (Popped 4)) ∧
        (headerOk h.2.1 = true → memberKey k.2.1 = none → Unheld k.1 → Completes (.unwrap fn) s (Popped 3)) ∧
        (∀ wrapped, headerOk h.2.1 = true → memberKey k.2.1 = some wrapped →
          (Config.oaepOpen wrapped = none → Unheld k.1 → Completes (.unwrap fn) s (Popped 4)) ∧
          (∀ key, Config.oaepOpen wrapped = some key →
            let plain := (Config.aesGcmBytes key iv c.2.1).take n
            Unheld (heldWrite c.1 w hFuane u.dst plain) → Completes (.unwrap fn) s (fun t =>
            ∃ v, t.mod.unwraps = v :: rest ∧ v.f = f ∧ v.part = u.part ∧ v.begun = true ∧ v.bytes = n ∧
              v.tagOk = Config.aesGcmTagOk key iv (h.2.1.take 80) c.2.1 ((h.2.1.drop 96).take 16) ∧
              v.digestOk = (modelDigest n plain == v.model) ∧ v.model = (h.2.1.drop 16).take 64))))) ∧
    (u.begun = true → u.dst + u.bytes ≤ regBase →
      let wiped := heldWrite (unwrapPop (begun s)) w hFuane u.dst (List.replicate u.bytes 0)
      (u.tagOk = false → Unheld wiped → Completes (.unwrapComplete fn) s (Popped 5)) ∧
      (u.tagOk = true → u.digestOk = false → Unheld wiped → Completes (.unwrapComplete fn) s (Popped 6)) ∧
      (u.tagOk = true → u.digestOk = true → Completes (.unwrapComplete fn) s (fun t => MbEnds s t f 0 u.bytes ∧
        t.mod.unwraps = rest ∧ SameMem s t ∧
        measureOf t u.part = Config.sha512 (measureOf s u.part ++ u.model)))))

/-- R503 to R507; the layouts of DSP0274 are the model's (log 34). -/
def Obligations.EndpointsAnswerAttestationRequests : Prop :=
  ∀ (s : State) (ep : Endpoint) (req : List Byte), let e := ep.val
    (endpointOn s e = false → ∀ c ∈ ([.getVersion ep req, .getCapabilities ep req, .negotiateAlgorithms ep req,
      .getDigests ep req, .getCertificate ep req, .challenge ep req, .getMeasurements ep req,
      .spdmUnsupported ep req] : List Instr), Completes c s (fun t => t = s)) ∧
    (endpointOn s e = true →
      let Errs := fun (code data : Nat) (t : State) => SpdmSays s t e (spdmHead 0x7F code data) ∧ spdmSt t e = spdmSt s e
      let off := fieldAt req 4 2
      let signed := bit (fieldAt req 2 1) 0
      let op := fieldAt req 3 1
      (4 ≤ req.length → fieldAt req 0 2 = 0x8410 → Completes (.getVersion ep req) s (fun t =>
        SpdmSays s t e [0x10, 0x04, 0, 0, 0, 1, 0x00, 0x13] ∧ spdmSt t e = 1)) ∧
      (req.length < 4 ∨ fieldAt req 0 2 ≠ 0x8410 → Completes (.getVersion ep req) s (Errs 1 0)) ∧
      (∀ c, spdmCheck s e req 0xE1 4 1 = some c → Completes (.getCapabilities ep req) s (Errs c 0)) ∧
      (∀ c, spdmCheck s e req 0xE3 32 2 = some c → Completes (.negotiateAlgorithms ep req) s (Errs c 0)) ∧
      (∀ c, spdmCheck s e req 0x81 4 3 = some c → Completes (.getDigests ep req) s (Errs c 0)) ∧
      (∀ c, spdmCheck s e req 0x82 8 3 = some c → Completes (.getCertificate ep req) s (Errs c 0)) ∧
      (∀ c, spdmCheck s e req 0x83 44 3 = some c → Completes (.challenge ep req) s (Errs c 0)) ∧
      (∀ c, spdmCheck s e req 0xE0 (if signed then 45 else 12) 3 = some c →
        Completes (.getMeasurements ep req) s (Errs c 0)) ∧
      (spdmCheck s e req 0xE1 4 1 = none → Completes (.getCapabilities ep req) s (fun t => spdmSt t e = 2 ∧
        ∃ b, SpdmSays s t e b ∧ b.take 4 = spdmHead 0x61 0 0)) ∧
      (spdmCheck s e req 0xE3 32 2 = none → Completes (.negotiateAlgorithms ep req) s (fun t => spdmSt t e = 3 ∧
        ∃ b, SpdmSays s t e b ∧ b.take 4 = spdmHead 0x63 0 0 ∧ b.length = 36)) ∧
      (spdmCheck s e req 0x81 4 3 = none → Completes (.getDigests ep req) s (fun t => spdmSt t e = spdmSt s e ∧
        SpdmSays s t e (spdmHead 0x01 1 1 ++ Config.sha512 Config.certChain))) ∧
      (spdmCheck s e req 0x82 8 3 = none → fieldAt req 2 1 % 16 = 0 → off < Config.certChain.length →
        Completes (.getCertificate ep req) s (fun t => ∃ b, SpdmSays s t e b ∧ b.take 4 = spdmHead 0x02 0 0 ∧
          b.drop 8 = (Config.certChain.drop off).take (fieldAt req 6 2))) ∧
      (spdmCheck s e req 0x83 44 3 = none → fieldAt req 2 1 = 0 → op = 0 ∨ op = 1 ∨ op = 0xFF →
        Completes (.challenge ep req) s (fun t => ∃ b rest, SpdmSays s t e b ∧
          b = spdmHead 0x03 0 1 ++ Config.sha512 Config.certChain ++ rest)) ∧
      (spdmCheck s e req 0xE0 (if signed then 45 else 12) 3 = none → signed = true → fieldAt req 36 1 % 16 = 0 →
        op = 0xFF → Completes (.getMeasurements ep req) s (fun t => ∃ b rest, SpdmSays s t e b ∧
          b = spdmHead 0x60 0 0 ++ leBytes 1 (visible e).length ++
            leBytes 3 ((visible e).flatMap (measureBlock s)).length ++ (visible e).flatMap (measureBlock s) ++ rest)) ∧
      (spdmCheck s e req 0xE0 (if signed then 45 else 12) 3 = none → signed = false → op ∈ visible e → op ≠ 0xFF →
        op ≠ 0 → Completes (.getMeasurements ep req) s (fun t => ∃ b rest, SpdmSays s t e b ∧
          b = spdmHead 0x60 0 0 ++ leBytes 1 1 ++ leBytes 3 (measureBlock s op).length ++ measureBlock s op ++ rest)) ∧
      Completes (.spdmUnsupported ep req) s (Errs 7 (fieldAt req 1 1)))

/-- R523 to R527, R529, R530, R567. -/
def Obligations.PowerIsMeasuredAndShared : Prop :=
  (∀ (s : State) (est : List Nat) (rest mv ca : Nat), est.length = 96 →
    let x := s.power
    let e := sumList est + rest
    let m := mv * ca / 10
    Completes (.powerSample est rest mv ca) s (fun t => SameMem s t ∧
      t.power.eSum = x.eSum + e ∧ t.power.mSum = x.mSum + m ∧ t.power.samples = x.samples + 1 ∧
      fget t .MOD_INPUT_VIN_MV = mv % 2 ^ 17 ∧ fget t .MOD_INPUT_IIN_MA = ca % 2 ^ 16 ∧
      fget t .PWR_ENERGY_MICROJOULES =
        (fget s .PWR_ENERGY_MICROJOULES + (SMap.get (fun _ => 0) x.fracNj 96 + m) / 1000) % 2 ^ 64 ∧
      (78000 < mv → mv ≤ 80000 → fget t .MOD_STATUS_INPUT_HIGH = 1) ∧
      (x.trustM = false → 34000000 < e → t.power.capStretch = true ∧ fget t .PWR_EVENTS_CAP_EXCEEDED = 1) ∧
      (x.trustM = false → e ≤ 34000000 → t.power.capStretch = x.capStretch))) ∧
  (∀ s : State,
    let x := s.power
    let e := x.eSum / (x.samples * 10000)
    let m := x.mSum / (x.samples * 10000)
    let gap := if e < m then m - e else e - m
    (x.samples = 0 → Completes .controlAverage s (fun t => t = s)) ∧
    (x.samples ≠ 0 → Completes .controlAverage s (fun t => SameMem s t ∧ t.power.eSum = 0 ∧ t.power.mSum = 0 ∧
      t.power.samples = 0 ∧ fget t .PWR_MEASURED_MEASURED = m % 2 ^ 12 ∧ fget t .PWR_MEASURED_ESTIMATE = e % 2 ^ 12 ∧
      fget t .MOD_INPUT_PIN_W = m % 2 ^ 12 ∧
      (x.trustM = false → 100 * gap ≤ 15 * m → t.power.trustM = false ∧ fget t .PWR_MEASURED_SOURCE = 0 ∧
        (105 * capNow s < 100 * e → t.power.capStretch = true ∧ fget t .PWR_EVENTS_CAP_EXCEEDED = 1) ∧
        (e < capNow s → t.power.capStretch = false) ∧
        (capNow s ≤ e → 100 * e ≤ 105 * capNow s → t.power.capStretch = x.capStretch)) ∧
      (∀ since, x.badSince = some since → 15 * m < 100 * gap → 10000000 < s.now - since →
        t.power.trustM = true ∧ fget t .PWR_EVENTS_MISMATCH = 1)))) ∧
  (∀ (s : State) (est : List (Nat × Nat)) (memDraw : Nat),
    let floorOf := fun c => min (est.getD c (0, 0)).1 ([240, 350, 320].getD c 0)
    let floors := floorOf 0 + floorOf 1 + floorOf 2
    Completes (.budgetShare est memDraw) s (fun t => SameMem s t ∧
      floorOf 0 ≤ fget t .PWR_BUDGET_LINKS ∧ fget t .PWR_BUDGET_LINKS ≤ 240 ∧
      floorOf 1 ≤ fget t .PWR_BUDGET_MEMORY ∧ fget t .PWR_BUDGET_MEMORY ≤ 1050 ∧
      floorOf 2 ≤ fget t .PWR_BUDGET_COMPUTE ∧ fget t .PWR_BUDGET_COMPUTE ≤ 2050 ∧
      fget t .PWR_BUDGET_LINKS + fget t .PWR_BUDGET_MEMORY + fget t .PWR_BUDGET_COMPUTE ≤ max (capNow s - 25) floors ∧
      (fget t .PWR_BUDGET_MEMORY < memDraw → 64 < s.power.hbmLimit → t.power.hbmLimit = s.power.hbmLimit - 16) ∧
      (fget t .PWR_BUDGET_MEMORY < memDraw → s.power.hbmLimit ≤ 64 → t.power.memDiv = true) ∧
      (memDraw ≤ fget t .PWR_BUDGET_MEMORY → s.power.memDiv = true → t.power.memDiv = false) ∧
      (memDraw ≤ fget t .PWR_BUDGET_MEMORY → s.power.memDiv = false →
        t.power.hbmLimit = min 256 (s.power.hbmLimit + 16)))) ∧
  (∀ (s : State) (w : Nat),
    (1200 ≤ w → w ≤ 3400 → Completes (.pwrCapWrite w) s (fun t => fget t .PWR_CAP_WATTS = w ∧
      SameFields [.PWR_CAP_WATTS] s t ∧ SameMem s t)) ∧
    (w < 1200 ∨ 3400 < w → Completes (.pwrCapWrite w) s (fun t => t = s)))

/-- R531, R532, R533, R534. -/
def Obligations.GrantsFitWhatAConsistMayDraw : Prop :=
  ∀ (s : State) (slot : SlotId), let i := slot.val
    let c := getCons s i
    (∀ (phase : Fin 4) (f dur : Nat), let ph := phase.val
      let p := fget s .COMP_CONSIST_ID_PART i
      let draw := expectedDraw s i ph (f % 256) (stepLevel s i)
      let Told := fun (t : State) (ok : Bool) =>
        let g := (partCnds s p).headD 0
        t.sigs = s.sigs ++ [⟨16, 30, ⟨1, g / 4, 13, p, true, [BitVec.ofNat 32 (b2n ok)]⟩⟩]
      (fget s .COMP_CONSIST_ID_STATE i = 0 → Completes (.grantRequest slot phase f dur) s (fun t => t = s)) ∧
      (fget s .COMP_CONSIST_ID_STATE i ≠ 0 →
        (ph = 3 → Completes (.grantRequest slot phase f dur) s (fun t => t.sigs = s.sigs ∧ SameRegs [] s t ∧ SameMem s t ∧
          t.hints = s.hints ++ [⟨p, 3, f % 256, dur, s.now⟩])) ∧
        (ph ≠ 3 → draw ≤ availableTo s i → Completes (.grantRequest slot phase f dur) s (fun t => SameMem s t ∧
          SameRegs [(.PWR_GRANTS_COUNT, 0)] s t ∧ Told t true ∧
          fget t .PWR_GRANTS_COUNT = (fget s .PWR_GRANTS_COUNT + 1) % 2 ^ 64 ∧
          t.power.grants = s.power.grants.filter (fun g => g.slot != i) ++
            [⟨i, ph, draw, stepLevel s i, s.now + 2 * (if dur = 0 then 10000 else dur) * 1000⟩])) ∧
        (ph ≠ 3 → availableTo s i < draw → Completes (.grantRequest slot phase f dur) s (fun t => SameMem s t ∧
          SameRegs [(.PWR_REFUSED_COUNT, 0)] s t ∧ Told t false ∧ t.power.grants = s.power.grants ∧
          fget t .PWR_REFUSED_COUNT = (fget s .PWR_REFUSED_COUNT + 1) % 2 ^ 64 ∧
          (ph = 0 → (getCons t i).starve = some (c.starve.getD s.now)))))) ∧
    (∀ (draw : Nat),
      (∀ g, s.power.grants.find? (fun g => g.slot == i) = some g → Completes (.grantRelease slot draw) s (fun t =>
        SameRegs [] s t ∧ SameMem s t ∧ t.power.grants = s.power.grants.filter (fun x => x.slot != i) ∧
        (getCons t i).hist.head? = some (g.phase, draw, g.level))) ∧
      (s.power.grants.find? (fun g => g.slot == i) = none → Completes (.grantRelease slot draw) s (fun t => t = s))) ∧
    Completes (.grantExpire slot) s (fun t => SameRegs [] s t ∧ SameMem s t ∧ t.power.cons = s.power.cons ∧
      ∀ g, g ∈ t.power.grants ↔ g ∈ s.power.grants ∧ ¬(g.slot = i ∧ g.expires ≤ s.now)) ∧
    (∀ since, c.starve = some since → 1000000 * fget s .PWR_GRANT_CFG_STARVE_MS ≤ s.now - since →
      Completes (.prefillStarve slot) s (fun t => SameRegs [] s t ∧ SameMem s t ∧
        getCons t i = { c with limit := fitLevel c.prefill (shareOf s i) })) ∧
    (∀ at_, c.prefillAt = some at_ → 100000000 ≤ s.now - at_ → Completes (.starveLift slot) s (fun t =>
      SameRegs [] s t ∧ SameMem s t ∧ getCons t i = { c with limit := 0, starve := none }))

/-- R535 to R542. -/
def Obligations.LevelsAreAgreedAndHeatActs : Prop :=
  (∀ (s : State) (slot : SlotId) (members : List Nat), let i := slot.val
    let c := getCons s i
    let lead := levelLead s i members
    let me := devNum s
    fget s .COMP_CONSIST_ID_STATE i ≠ 0 →
    (∀ level step,
      (allowedLevel s i = c.mine → Completes (.levelReport slot members me level step) s (fun t => t = s)) ∧
      (allowedLevel s i ≠ c.mine → lead ≠ me → Completes (.levelReport slot members me level step) s (fun t =>
        SameRegs [] s t ∧ SameMem s t ∧ (getCons t i).mine = allowedLevel s i ∧
        t.power.levelOut = s.power.levelOut ++ [(lead, i, allowedLevel s i, consStep s i)])) ∧
      (∀ dev, dev ≠ me → lead = me → Completes (.levelReport slot members dev level step) s (fun t =>
        SameRegs [] s t ∧ SameMem s t ∧ t.power.levelOut = s.power.levelOut ∧
        getCons t i = { c with reports := c.reports.filter (fun r => r.1 != dev) ++ [(dev, level, step)] })) ∧
      (lead ≠ me → Completes (.levelSet slot members level step) s (fun t => SameRegs [] s t ∧ SameMem s t ∧
        getCons t i = { c with next := some (level, step) })) ∧
      (lead = me → c.reports ≠ [] →
        let l := c.reports.foldl (fun l r => max l r.2.1) 0
        let n := c.reports.foldl (fun n r => max n r.2.2) 0
        (match c.next with | some x => x.1 | none => c.agreed) ≠ l →
        Completes (.levelSet slot members level step) s (fun t => SameRegs [] s t ∧ SameMem s t ∧
          getCons t i = { c with next := some (l, n + 2) } ∧
          ∀ d ∈ members, d ≠ me → (d, i, l, n + 2) ∈ t.power.levelOut))) ∧
    (∀ l n, c.next = some (l, n) →
      let rs := consRegions s i
      (consStep s i + 1 < n ∨ (∃ r ∈ rs, SMap.get (fun _ => false) s.power.droop r = true) →
        Completes (.levelChange slot) s (fun t => t = s)) ∧
      (n ≤ consStep s i + 1 → (∀ r ∈ rs, SMap.get (fun _ => false) s.power.droop r = false) →
        Completes (.levelChange slot) s (fun t => SameFields [.PWR_DOM_STATUS_LEVEL] s t ∧ SameMem s t ∧
          getCons t i = { c with agreed := l, next := none } ∧
          ∀ r ∈ rs, fget t .PWR_DOM_STATUS_LEVEL r = regionLevel t r % 2 ^ 3)))) ∧
  (∀ (s : State) (dom : DomId), let d := dom.val
    let drooping := fun (u : State) => SMap.get (fun _ => false) u.power.droop d
    (isRegion d = true → drooping s = false → Completes (.droop dom) s (fun t => drooping t = true ∧ SameMem s t ∧
      fget t .PWR_DROOP_COUNT_COUNT = (fget s .PWR_DROOP_COUNT_COUNT + 1) % 2 ^ 64 ∧
      SameFields [.PWR_DROOP_COUNT_COUNT] s t)) ∧
    (isRegion d = false ∨ drooping s = true → Completes (.droop dom) s (fun t => t = s)) ∧
    Completes (.droopEnd dom) s (fun t => drooping t = false ∧ SameRegs [] s t ∧ SameMem s t)) ∧
  (∀ (s : State) (temps : List Nat), temps.length = 96 → (∀ t ∈ temps, t < 256) →
    let emergency := fun (u : State) (d : Nat) => SMap.get (fun _ => false) u.power.emerg d
    let lim := fget s .PWR_THERM_CFG_HOT
    ((∀ t ∈ temps, t < 115) → Completes (.thermalSample temps) s (fun t => SameMem s t ∧
      (∀ d, d < 96 → fget t .PWR_DOM_STATUS_TEMP d = temps.getD d 0 ∧ temps.getD d 0 ≤ fget t .PWR_THERM_MAX_TEMP ∧
        (105 ≤ temps.getD d 0 → emergency t d = true ∧ fget t .PWR_EVENTS_EMERGENCY = 1) ∧
        (temps.getD d 0 < 103 → emergency t d = false) ∧
        (103 ≤ temps.getD d 0 → temps.getD d 0 < 105 → emergency t d = emergency s d) ∧
        (isRegion d = true → lim ≤ temps.getD d 0 → fbit t .PWR_DOM_STATUS_HOT d = true) ∧
        (isRegion d = true → temps.getD d 0 + 5 < lim → fbit t .PWR_DOM_STATUS_HOT d = false)) ∧
      fget t .PWR_THERM_MAX_TEMP = temps.getD (fget t .PWR_THERM_MAX_DOMAIN) 0)) ∧
    ((∃ t ∈ temps, 115 ≤ t) → fbit s .PWR_EVENTS_TRIP = false → Completes (.thermalSample temps) s (fun t =>
      fget t .PWR_EVENTS_TRIP = 1 ∧ modState t = msTripped ∧ t.mod.supply = .off ∧ t.mod.off = .trip ∧ t.mod.alert = true ∧
      (∀ d, d < 96 → domState t d = domOff) ∧ ∀ h, h < 16 → fget t .HBM_STATUS_TRAINED h = 0)))

/-- R519, R520, R521, R522, R128, R112. -/
def Obligations.DomainsSleepWakeAndLosePower : Prop :=
  ∀ (s : State) (dom : DomId), let d := dom.val
    let held := fbit s .PWR_DOM_CTRL_HOLD_ON d
    let leaves := mayLeave s (kvgBusy s) d
    let Goes := fun (v : Nat) (t : State) => domState t d = v ∧ SameMem s t ∧
      SameFields [.PWR_DOM_STATUS_STATE, .SEAM_STATUS_EAST_DIV, .SEAM_STATUS_WEST_DIV] s t ∧
      ∀ e, e < 96 → e ≠ d → domState t e = domState s e
    let Stays := fun (t : State) => t = s
    let asleep := domState s d = 1 ∨ domState s d = 2 ∨ domState s d = 3
    (mayIdle d = true → domState s d = 0 → held = false → leaves = true → Completes (.domainIdle dom) s (Goes 1)) ∧
    (mayIdle d = false ∨ domState s d ≠ 0 ∨ held = true ∨ leaves = false → Completes (.domainIdle dom) s Stays) ∧
    (∀ us, let due := fget s .PWR_SLEEP_CFG_NAP_DELAY ≤ us ∨ idleHint s d 200 = true
      let from_ := domState s d = (if mayIdle d then 1 else 0)
      (mayNap d = true → from_ → held = false → leaves = true → due → Completes (.domainNap dom us) s (Goes 2)) ∧
      (mayNap d = false ∨ ¬from_ ∨ held = true ∨ leaves = false ∨ ¬due → Completes (.domainNap dom us) s Stays)) ∧
    (∀ us, let due := 10 * fget s .PWR_SLEEP_CFG_DEEP_DELAY ≤ us ∨ idleHint s d 2000 = true ∨ fget s .COMP_ROLE_ROLE = 1
      (mayDeep d = true → domState s d = 2 → held = false → leaves = true → due →
        Completes (.domainDeep dom us) s (Goes 3)) ∧
      (mayDeep d = false ∨ domState s d ≠ 2 ∨ held = true ∨ leaves = false ∨ ¬due →
        Completes (.domainDeep dom us) s Stays)) ∧
    (asleep → Completes (.domainWake dom) s (fun t => waking t d = true ∧ domState t d = domState s d ∧ SameMem s t)) ∧
    (¬asleep → Completes (.domainWake dom) s Stays) ∧
    (waking s d = true → s.heldAcc = [] → Completes (.domainWakeDone dom) s (fun t => Goes 0 t ∧ waking t d = false)) ∧
    (waking s d = false → Completes (.domainWakeDone dom) s Stays) ∧
    (fbit s .PWR_DOM_CTRL_OFF_REQ d = true → mayOff s d = true → domState s d ≠ domOff → s.heldAcc = [] →
      Completes (.domainOff dom) s (Goes domOff)) ∧
    (fbit s .PWR_DOM_CTRL_OFF_REQ d = false ∨ mayOff s d = false ∨ domState s d = domOff →
      Completes (.domainOff dom) s Stays) ∧
    (isRegion d = true → domState s d = domOff → s.mod.started = true → fbit s .PWR_EVENTS_TRIP = false → restoreDue s d = true →
      Completes (.domainPowerRestore dom) s (fun t => domState t d = domOn ∧
        (∀ k ∈ regionStns d, ∀ off, off < 0x1000000 → Bytes.get t.mem (stnAddr k off) = 0) ∧
        (∀ k ∈ regionStns d, ∀ c, c < 6 → coreState t (6 * k + c) = stFree ∨ coreState t (6 * k + c) = stFenced) ∧
        ∀ a, a < stnBase ∨ stnBase + 0x100000000 ≤ a → Bytes.get t.mem a = Bytes.get s.mem a)) ∧
    (isRegion d = false ∨ domState s d ≠ domOff ∨ s.mod.started = false ∨ fbit s .PWR_EVENTS_TRIP = true ∨
      restoreDue s d = false → Completes (.domainPowerRestore dom) s Stays) ∧
    (∀ b, Completes (.holdOn dom b) s (fun t => fget t .PWR_DOM_CTRL_HOLD_ON d = b2n b ∧ SameMem s t ∧
      domState t d = domState s d ∧ (b = true → asleep → waking t d = true))) ∧
    (∀ b, (isRegion d = true → Completes (.offReq dom b) s (fun t => fget t .PWR_DOM_CTRL_OFF_REQ d = b2n b ∧
        SameRegs [(.PWR_DOM_CTRL_OFF_REQ, d)] s t ∧ SameMem s t)) ∧
      (isRegion d = false → Completes (.offReq dom b) s Stays))

/-- R549, R550, R551, R553, R555, R558, R559, R561. -/
def Obligations.ResetsBeginForTheirCauses : Prop :=
  (∀ (s : State) (st : Stn), let k := st.val
    StnResets s k 11 (.rstCmdStation st) ∧
    (∀ pt : PartId, (boundTo s k = some pt.val → StnResets s k 12 (.partReqStation pt st)) ∧
      (boundTo s k ≠ some pt.val → Completes (.partReqStation pt st) s (fun t => t = s))) ∧
    (stuck s .kvg k (fget s .RST_HANG_CFG_KVG_MS) = true → StnResets s k 3 (.kvgHang st)) ∧
    (stuck s .kvg k (fget s .RST_HANG_CFG_KVG_MS) = false → Completes (.kvgHang st) s (fun t => t = s)) ∧
    (stuck s .stop k 2 = true → StnResets s k 4 (.stopHang st)) ∧
    (stuck s .stop k 2 = false → Completes (.stopHang st) s (fun t => t = s))) ∧
  (∀ (s : State) (pt : PartId), PartResets s pt.val 11 false (.rstCmdPartition pt) ∧
    PartResets s pt.val 12 true (.partReqPartition pt)) ∧
  (∀ s : State, DevResets s 11 false .rstCmdDevice) ∧
  (∀ (s : State) (core : CoreId), let c := core.val
    (stuck s .core c (fget s .RST_HANG_CFG_CORE_MS) = true → StnResets s (c / 6) 1 (.coreHang core)) ∧
    (stuck s .core c (fget s .RST_HANG_CFG_CORE_MS) = false → Completes (.coreHang core) s (fun t => t = s)) ∧
    (stuck s .load c 1 = true → coreState s c = stLoading ∧ StnResets s (c / 6) 2 (.loadHang core)) ∧
    (stuck s .load c 1 = false → Completes (.loadHang core) s (fun t => t = s))) ∧
  (∀ (s : State) (cnd : CndId), let g := cnd.val
    let late := (cndState s g = cndRunning ∨ cndState s g = cndWaiting) ∧
      SMap.get (fun _ => 0) s.rst.kicks g + fget s .RST_HANG_CFG_CND_MS * 1000000 ≤ s.now
    Completes (.rstKick cnd) s (fun t => SMap.get (fun _ => 0) t.rst.kicks g = s.now ∧ SameRegs [] s t ∧ SameMem s t) ∧
    (late → fbit s .CND_STATUS_OPER g = true → DevResets s 5 true (.cndHang cnd)) ∧
    (late → fbit s .CND_STATUS_OPER g = false → PartResets s (fget s .CND_STATUS_PART g) 5 true (.cndHang cnd)) ∧
    (¬late → Completes (.cndHang cnd) s (fun t => t = s))) ∧
  (∀ s : State,
    (∀ i r, s.routes[i]? = some r →
      let due := r.since + 1000 * fget s .PTS_TIMEOUT_MICROSECONDS r.die + 10000000
      (due ≤ s.now → PartResets s r.part 6 true (.unitHang (.route i))) ∧
      (s.now < due → Completes (.unitHang (.route i)) s (fun t => t = s))) ∧
    (∀ pt : PartId, (stuck s .branch pt.val 10 = true → PartResets s pt.val 6 true (.unitHang (.branch pt))) ∧
      (stuck s .branch pt.val 10 = false → Completes (.unitHang (.branch pt)) s (fun t => t = s))) ∧
    (∀ ch : ChanId, let n := ch.val
      (stuck s .channel n 10 = true → fbit s .CHV_CH_OWNER_VALID n = true → fbit s .CHV_CH_OWNER_OPER n = false →
        PartResets s (chPart s n) 6 true (.unitHang (.channel ch))) ∧
      (stuck s .channel n 10 = false ∨ fbit s .CHV_CH_OWNER_VALID n = false ∨ fbit s .CHV_CH_OWNER_OPER n = true →
        Completes (.unitHang (.channel ch)) s (fun t => t = s)))) ∧
  (∀ s : State, (s.troubles = [] → Completes .troubleEvent s (fun t => t = s)) ∧
    ∀ e rest, s.troubles = e :: rest → Completes .troubleEvent s (fun t => t.troubles = rest ∧
      fget t .RST_LOG_HEAD_HEAD = (fget s .RST_LOG_HEAD_HEAD + 1) % 2 ^ 8 ∧
      ∀ p, e.part = some p →
        (e.cause = .meshUe → e.oper = false → fbit t .RST_PART_STATUS_RESETTING p = true) ∧
        (e.cause = .cndUe ∨ e.cause = .dirUe → fbit t .RST_PART_STATUS_RESETTING p = true ∧
          fget t .RST_PART_STATUS_SERVICE_LOST p = 1)))

/-- R553, R554, R555, R556, R559, R560, R561, R106, R128. -/
def Obligations.ResetsEndAndEscalate : Prop :=
  (∀ (s : State) (st : Stn), let k := st.val
    let d := stnDomain k
    let Idle := fun (t : State) (i : Nat) => ∀ c, c < 6 →
      (coreState t (6 * i + c) = stFree ∨ coreState t (6 * i + c) = stFenced) ∧
      (coreState s (6 * i + c) ≠ stFenced → fget t .SAGE_PC_PC (6 * i + c) = 0)
    let Logged := fun (t : State) => fget t .RST_LOG_HEAD_HEAD = (fget s .RST_LOG_HEAD_HEAD + 1) % 2 ^ 8
    (inReset s k = false → (∀ rows torn, Completes (.stationResetDrained ⟨st, rows, torn⟩) s (fun t => t = begun s)) ∧
      ∀ b, Completes (.regionPowerCycle st b) s (fun t => t = s)) ∧
    (∀ j, s.rst.stns.find? (fun j => j.stn == k) = some j →
      (∀ rows torn, Unheld (stnDrain (begun s) j rows torn) →
        Completes (.stationResetDrained ⟨st, rows, torn⟩) s (fun t => inReset t k = false ∧ Idle t k ∧
        (∀ r ∈ t.remotes, r.core / 6 = k → r.quarantined = true) ∧ (j.scope = 0 → Logged t) ∧
        (j.collateral = false → SMap.get (fun _ => none) t.rst.stnLast k = some s.now))) ∧
      Completes (.regionPowerCycle st true) s (fun t => domState t d = domOn ∧
        ∀ i ∈ regionStns d, inReset t i = false ∧
          (∀ c, c < 6 → coreState t (6 * i + c) = stFree ∨ coreState t (6 * i + c) = stFenced) ∧
          (s.heldAcc = [] → ∀ off, off < 0x1000000 → Bytes.get t.mem (stnAddr i off) = 0)) ∧
      (∀ p, boundTo s k = some p → Completes (.regionPowerCycle st false) s (fun t => Logged t ∧
        fbit t .RST_PART_STATUS_RESETTING p = true)))) ∧
  (∀ (s : State) (cnd : CndId), let g := cnd.val
    let p := fget s .CND_STATUS_PART g
    (cndState s g ≠ cndSwitching → Completes (.conductorResetOverrun cnd) s (fun t => t = s)) ∧
    (cndState s g = cndSwitching → fbit s .CND_STATUS_OPER g = false → s.rst.parts.any (fun j => j.part == p) = true →
      Completes (.conductorResetOverrun cnd) s (fun t => fget t .RST_PART_STATUS_SERVICE_LOST p = 1 ∧
        cndState t g = cndRunning ∧ hpc t g = BitVec.ofNat 64 (fget s .CND_ENTRY_ADDR g) ∧ holderLines t g = [] ∧
        SameMem s t))) ∧
  (∀ (s : State) (pt : PartId), let p := pt.val
    (∀ b done, (∀ j ∈ s.rst.parts, j.part ≠ p) → Completes (.partitionResetDone pt ⟨b, done⟩) s (fun t => t = begun s)) ∧
    (∀ j done, s.rst.parts.find? (fun j => j.part == p) = some j →
      (j.device = false → s.rst.dev = none → Unheld (partEscalate (begun s) j) → Completes (.partitionResetDone pt ⟨true, done⟩) s (fun t =>
        t.rst.dev = some (10, true) ∧ fget t .TC_MODE_RECOVERY = 1)) ∧
      (s.rst.stns.any (fun x => boundTo s x.stn == some p) = true →
        Completes (.partitionResetDone pt ⟨false, done⟩) s (fun t => t = begun s)) ∧
      (s.rst.stns.any (fun x => boundTo s x.stn == some p) = false →
        Unheld (partDone (begun s) j false done) → Completes (.partitionResetDone pt ⟨false, done⟩) s (fun t => fbit t .RST_PART_STATUS_RESETTING p = false ∧
          (∀ x ∈ t.rst.parts, x.part ≠ p) ∧ (∀ c ∈ t.cmds, c.part ≠ p) ∧ (∀ q ∈ t.intake, q.part ≠ p) ∧
          fget t .RST_PART_STATUS_TOTAL p = (fget s .RST_PART_STATUS_TOTAL p + 1) % 2 ^ 16 ∧
          (j.counted = true → 2 ≤ (partHist s p).length → fget t .RST_PART_STATUS_OUT p = 1)))) ∧
    (fbit s .RST_STATUS_DEV_OUT = false → Completes (.partOutClear pt) s (fun t => fget t .RST_PART_STATUS_OUT p = 0 ∧
      partHist t p = [] ∧ SameRegs [(.RST_PART_STATUS_OUT, p)] s t ∧ SameMem s t)) ∧
    (fbit s .RST_STATUS_DEV_OUT = true → Completes (.partOutClear pt) s (fun t => t = s)))

/-- R564, R567, R568, R569, R570, R577, R578, R579, R581, R585, R546. -/
def Obligations.ModuleInputsRailsAndResetsAct : Prop :=
  (∀ s : State, let m := s.mod
    let Kept := fun (t : State) => t.mod.banks = m.banks ∧ t.mod.fuses = m.fuses
    let Cold := fun (t : State) (why : OffCause) => Kept t ∧ t.mod.supply = .off ∧ t.mod.off = why ∧ t.mod.romBank = none ∧
      t.cmds = [] ∧ t.cores = [] ∧ (∀ a, Bytes.get t.mem a = 0) ∧
      ∀ f i, isFenceField f = false → fget t f i = fdefault (fkey f i)
    let Ramps := fun (t : State) => t.mod.supply = .ramping ∧ modState t = msPowering ∧ SameMem s t
    let free := m.supply = .off ∧ m.off ≠ .trip ∧ m.off ≠ .railShort ∧ m.off ≠ .latched
    let dropped := m.off = .underVolt ∨ m.off = .overVolt
    (free → ¬dropped → m.en = true → m.mreset = false → Completes .inputApplied s (fun t => Ramps t ∧ t.mod.input = true)) ∧
    (free → m.en = true → m.mreset = false → Completes .inputRecovered s (fun t => Ramps t ∧ t.mod.input = true)) ∧
    (free → ¬dropped → m.input = true → m.mreset = false → Completes .enMate s (fun t => Ramps t ∧ t.mod.en = true)) ∧
    (free → m.input = true → m.en = true → Completes .mresetRelease s (fun t => Ramps t ∧ t.mod.mreset = false)) ∧
    (m.supply = .ramping → Completes .powerGood s (fun t => t.mod.supply = .good ∧ SameMem s t ∧
      (∀ d, d < 96 → isRegion d = false → domState t d = domOn) ∧ (m.perst = true → modState t = msResetHeld) ∧
      (m.perst = false → m.railFault = false → fbit s .PWR_EVENTS_TRIP = false → modState t = msBooting))) ∧
    (mgmtUp s = true → Completes .inputUndervoltage s (fun t => Cold t .underVolt ∧ t.mod.input = false) ∧
      Completes .enBreak s (fun t => Cold t .enBreak ∧ t.mod.en = false) ∧
      Completes .inputOvervoltage s (fun t => Cold t .overVolt ∧ t.mod.alert = true ∧ t.mod.failCode = 5 ∧
        t.mod.faultLog = m.faultLog ++ [(5, 0, s.now / 1000000000)])) ∧
    Completes .mreset s (fun t => Cold t .mreset ∧ t.mod.mreset = true) ∧
    (∀ mv, m.supply ≠ .off → 60000 ≤ mv → mv < 66000 → Completes (.inputLow mv) s (fun t => SameMem s t ∧
      fget t .MOD_INPUT_VIN_MV = mv ∧ fget t .MOD_STATUS_INPUT_LOW = 1)) ∧
    (∀ rail : Fin 113, mgmtUp s = true →
      (rail.val = 112 → Completes (.railShort rail) s (fun t => Cold t .latched)) ∧
      (rail.val ≠ 112 → m.supply ≠ .off → Completes (.railShort rail) s (fun t => Kept t ∧ t.mod.supply = .off ∧
        t.mod.railFault = true ∧ t.mod.alert = true ∧ t.mod.failCode = 3 ∧ t.mod.failDetail = rail.val ∧
        modState t = msRailFault ∧ ∀ d, d < 96 → domState t d = domOff))) ∧
    (∀ rail : Fin 112, m.supply ≠ .off → Completes (.senseFallback rail) s (fun t => SameMem s t ∧
      (rail.val < 64 → bit (fget t .MOD_SENSE0_RAILS) rail = true) ∧
      (64 ≤ rail.val → bit (fget t .MOD_SENSE1_RAILS) (rail.val - 64) = true))) ∧
    (∀ inlet outlet : Fin 256, mgmtUp s = true → Completes (.coolantSample inlet outlet) s (fun t => SameMem s t ∧
      fget t .MOD_COOLANT_INLET = inlet ∧ fget t .MOD_COOLANT_OUTLET = outlet ∧
      (45 < inlet.val ∨ inlet.val + 30 < outlet.val → t.mod.alert = true ∧ fget t .MOD_STATUS_COOLANT_HOT = 1) ∧
      (inlet.val ≤ 45 → outlet.val ≤ inlet.val + 30 → t.mod = m))) ∧
    (mgmtUp s = true → Completes .mclkLoss s (fun t => fget t .MOD_STATUS_MCLK_INTERNAL = 1 ∧ SameMem s t ∧
      SameFields [.MOD_STATUS_MCLK_INTERNAL] s t)) ∧
    (m.supply = .good → fbit s .PWR_EVENTS_TRIP = false → m.railFault = false →
      Completes .perstAssert s (fun t => Kept t ∧ t.mod.supply = .good ∧ t.mod.perst = true ∧ modState t = msResetHeld ∧
        t.mod.ready = false ∧ t.mod.linkUp = false ∧ t.cmds = [] ∧ (∀ a, Bytes.get t.mem a = 0) ∧
        (∀ d, d < 96 → isRegion d = false → domState t d = domOn) ∧
        ∀ f i, f.spec.cls = .P → fget t f i = fget s f i) ∧
      Completes .perstDeassert s (fun t => t.mod.perst = false ∧ modState t = msBooting ∧ t.mod.romBank = none ∧
        t.mod.started = false ∧ SameMem s t)))

/-- R499, R500, R579, R581, R583, R585, R587, R588, R470. -/
def Obligations.BringUpReachesReady : Prop :=
  ∀ s : State, let m := s.mod
    let Failed := fun (t : State) (code detail : Nat) => modState t = msBootFailed ∧ t.mod.failCode = code ∧
      t.mod.failDetail = detail ∧ t.mod.alert = true ∧ t.mod.linkUp = false ∧
      t.mod.faultLog = m.faultLog ++ [(code, detail, s.now / 1000000000)] ∧ SameMem s t
    let b := (pickBank s).mod.bootBank
    (modState s = msBooting → m.romBank = none → m.romFailed = false →
      (imageValid s b = true → Completes .bootCheckDone s (fun t => t.mod.romBank = some b ∧
        fget t .FUA_BOOT_STATUS_FALLBACK = 0 ∧ SameMem s t)) ∧
      (imageValid s b = false → imageValid s (1 - b) = true → Completes .bootCheckDone s (fun t =>
        t.mod.romBank = some (1 - b) ∧ fget t .FUA_BOOT_STATUS_FALLBACK = 1 ∧ SameMem s t)) ∧
      (imageValid s b = false → imageValid s (1 - b) = false → Completes .bootCheckDone s (fun t => Failed t 1 0))) ∧
    (∀ h : Die, modState s = msBooting → fbit s .HBM_STATUS_TRAINED h = false →
      Completes (.hbmTrainDone h true) s (fun t => fget t .HBM_STATUS_TRAINED h = 1 ∧
        SameFields [.HBM_STATUS_TRAINED] s t ∧ SameMem s t) ∧
      (stackTries s h = 0 → Completes (.hbmTrainDone h false) s (fun t => stackTries t h = stackTries s h + 1 ∧
        SameRegs [] s t ∧ SameMem s t)) ∧
      (1 ≤ stackTries s h → Completes (.hbmTrainDone h false) s (fun t => Failed t 2 h.val))) ∧
    (m.supply = .good → m.perst = false → modState s ≠ msBootFailed → Completes .pcieLinkUp s (fun t =>
      t.mod.linkUp = true ∧ (∃ w r, t.mod.linkMode = some (w, r)) ∧ modState t = (if modState s = msReadyNoLink then msReady else modState s) ∧ SameMem s t)) ∧
    (∀ image : List (Nat × List Byte),
      let go := modState s = msBooting ∧ m.romBank ≠ none ∧ m.started = false ∧
        ∀ h, h < 16 → fbit s .HBM_STATUS_TRAINED h = true
      (go → Completes (.firmwareStart image) s (fun t => t.mod.started = true ∧ modState t = msScrubbing ∧
        (∀ d, d < 96 → isRegion d = true → domState t d = domOn) ∧ (∀ k, k < 256 → sliceState t k = slFree) ∧
        (∀ a bs k, image = [(a, bs)] → bs ≠ [] → regionOf a = .control k → regionOf (a + bs.length - 1) = .control k →
          Bytes.read t.mem a bs.length = bs) ∧
        ∀ x, m.faultLog.getLast? = some x → fget t .MOD_LAST_FAULT_CODE = x.1 % 2 ^ 4 ∧
          fget t .MOD_LAST_FAULT_DETAIL = x.2.1 % 2 ^ 7)) ∧
      (¬go → Completes (.firmwareStart image) s (fun t => t = s))) ∧
    (modState s = msScrubbing ∨ modState s = msHeldHot →
      (anyHot s = true → Completes .bringupReady s (fun t => modState t = msHeldHot ∧ t.mod = m ∧ SameMem s t)) ∧
      (anyHot s = false → Completes .bringupReady s (fun t => t.mod.ready = true ∧ fget t .TC_MODE_MODE = 1 ∧
        modState t = (if m.linkUp then msReady else msReadyNoLink) ∧ SameMem s t ∧
        SameFields [.TC_MODE_MODE, .MOD_STATUS_STATE] s t)))

/-- R584, R585, R586, R583, R525, R546; the answers' byte layouts are the model's (log 34). -/
def Obligations.TheManagementPortAnswers : Prop :=
  ∀ s : State, let m := s.mod
    let Silent := fun (c : Instr) => Completes c s (fun t => t = s)
    let Says := fun (c : Instr) (b : List Byte) => Completes c s (fun t => t.mod.sent = m.sent ++ [(65, b)] ∧ SameRegs [] s t ∧
      SameMem s t)
    let Answers := fun (t : State) (code : Nat) => ∃ body, 
      t.mod.sent = m.sent ++ [(65, [0x7E, 0x1F, 0x7E, BitVec.ofNat 8 code] ++ body)]
    (mgmtUp s = false → ∀ c ∈ ([.getState, .getTelemetry, .setCap 2000, .warmReset, .clearAlert, .getFaultLog, .rstdaa,
      .entdaa 8, .setdasa 8 9, .getpid 8, .getbcr 8, .getdcr 8, .getstatus 8, .enec none 1, .disec none 1] : List Instr),
      Silent c) ∧
    (∀ a : Fin 128,
      (mgmtUp s = true → m.i3cAddr = none → Completes (.entdaa a) s (fun t => t.mod.i3cAddr = some a.val ∧
        t.mod.sent = m.sent ++ [(65, i3cBytes 0 8)] ∧ SameRegs [] s t ∧ SameMem s t)) ∧
      (m.i3cAddr ≠ none → Silent (.entdaa a)) ∧
      (∀ st : Fin 128, mgmtUp s = true → m.i3cAddr = none →
        (st.val = 0x30 + m.straps % 4 → Completes (.setdasa st a) s (fun t => t.mod = { m with i3cAddr := some a.val } ∧
          SameRegs [] s t ∧ SameMem s t)) ∧
        (st.val ≠ 0x30 + m.straps % 4 → Silent (.setdasa st a))) ∧
      (m.i3cAddr ≠ some a.val → Silent (.getpid a) ∧ Silent (.getbcr a) ∧ Silent (.getdcr a) ∧ Silent (.getstatus a)) ∧
      (mgmtUp s = true → m.i3cAddr = some a.val → Says (.getpid a) (i3cBytes 0 6) ∧ Says (.getbcr a) (i3cBytes 6 1) ∧
        Says (.getdcr a) (i3cBytes 7 1) ∧ Completes (.getstatus a) s (fun t => ∃ b : List Byte, b.length = 2 ∧
          t.mod.sent = m.sent ++ [(65, b)] ∧ SameRegs [] s t ∧ SameMem s t)) ∧
      (∀ target : Option (Fin 128), ∀ ev, mgmtUp s = true → target = none ∨ target = some a ∧ m.i3cAddr = some a.val →
        bit ev 0 = true → Completes (.enec target ev) s (fun t => t.mod = { m with ibiOn := true }) ∧
        Completes (.disec target ev) s (fun t => t.mod = { m with ibiOn := false }))) ∧
    (mgmtUp s = true →
      Completes .rstdaa s (fun t => t.mod = { m with i3cAddr := none } ∧ SameRegs [] s t ∧ SameMem s t) ∧
      Completes .getState s (fun t => Answers t 1 ∧ SameRegs [] s t ∧ SameMem s t) ∧
      Completes .getTelemetry s (fun t => Answers t 2 ∧ SameRegs [] s t ∧ SameMem s t) ∧
      (∀ w : Fin 65536, Completes (.setCap w) s (fun t => Answers t 3 ∧ SameFields [.PWR_CAP_WATTS] s t ∧ SameMem s t ∧
        fget t .PWR_CAP_WATTS = (if 1200 ≤ w.val ∧ w.val ≤ 3400 then w.val else fget s .PWR_CAP_WATTS))) ∧
      (m.perst = true → Completes .warmReset s (fun t => Answers t 4 ∧ SameRegs [] s t ∧ SameMem s t)) ∧
      (m.perst = false → m.supply = .good → m.railFault = false → fbit s .PWR_EVENTS_TRIP = false →
        Completes .warmReset s (fun t => Answers t 4 ∧ modState t = msBooting ∧ t.cmds = [] ∧ t.mod.ready = false ∧
          (∀ a, Bytes.get t.mem a = 0) ∧ ∀ f i, f.spec.cls = .P → fget t f i = fget s f i)) ∧
      Completes .clearAlert s (fun t => Answers t 5 ∧ SameRegs [] s t ∧ SameMem s t ∧
        (t.mod.alert = true ↔ m.alert = true ∧ (fbit s .PWR_EVENTS_TRIP = true ∨ m.railFault = true))) ∧
      Completes .getFaultLog s (fun t => SameRegs [] s t ∧ SameMem s t ∧ t.mod.sent = m.sent ++
        [(65, [0x7E, 0x1F, 0x7E, 6] ++ (m.faultLog.drop (m.faultLog.length - 8)).flatMap (fun e =>
          leBytes 1 e.1 ++ leBytes 1 e.2.1 ++ leBytes 4 e.2.2))]))

/-- R61, R102: no bit of an instruction is dropped. -/
def Obligations.TileInstructionsEncodeAndLoad : Prop :=
  (∀ i : Insn, i.fits = true → Insn.ofWord i.toWord = i) ∧
  (∀ w : BitVec 128, (Insn.ofWord w).toWord = w ∧ (Insn.ofWord w).fits = true) ∧
  (∀ (prog : List Insn) (m : Bytes) (a : Nat), (∀ i ∈ prog, i.fits = true) →
    let bs := prog.flatMap (fun i => leBytes 16 i.toWord.toNat)
    (codeWords prog.length bs).map Insn.ofWord = prog ∧ Bytes.read (Bytes.write m a bs) a (16 * prog.length) = bs)

/-- R501. -/
def Obligations.FusesNeverFall : Prop :=
  ∀ s t : State, step s = .next t → s.mod.fuses ≤ t.mod.fuses ∧ (s.mod.fuses ≤ 64 → t.mod.fuses ≤ 64)

/-- The reset values of the register tables, R360, R376, R384, R385, R416, R417, R420, R480, R501, R544, R561; reset as a
cold reset, memory that reads zero and an unblown fuse counter are the model's own (log 2, log 8). -/
def Obligations.ResetLeavesTheSpecsValues : Prop :=
  let s := State.reset
  s.pending = [] ∧ s.mod.fuses ≤ 64 ∧ (∀ a, Bytes.get s.mem a = 0) ∧ s.portQ = [] ∧ s.breaks = [] ∧ s.faults = [] ∧
  (∀ r, (getRing s r).state = 0) ∧ (∀ k, k < 256 → sliceState s k = slFree) ∧
  (∀ p c, p < 64 → c < 4096 → ((getCtx s p c).isSome = true ↔ c = 0)) ∧
  (∀ i, i < 8 → fget s .TC_CLASS_CFG_WEIGHT i = [1, 2, 8, 8, 16, 32, 32, 32].getD i 0) ∧
  ∀ e ∈ ([(.PTS_TIMEOUT_MICROSECONDS, 1000), (.HBM_STATUS_TRAINED, 0), (.HBM_PATROL_ENABLE, 1), (.HBM_PATROL_PERIOD, 24),
    (.DILL_CTRL_DETECT, 1), (.DILL_CTRL_AHEAD, 16), (.COMP_ROLE_ROLE, 0), (.COMP_DRAIN_LIMIT_MILLISECONDS, 100),
    (.COMP_CONSIST_ID_STATE, 0), (.COMP_MAP_STORE_ENTRY, 0), (.BLY_TOPO_SX, 1), (.BLY_TOPO_SY, 1), (.BLY_TOPO_SZ, 1),
    (.BLY_LOCK_LOCK, 0), (.BLY_LOCK_BAD_CONFIG, 0), (.BLY_REMOTE_TIMEOUT_MICROSECONDS, 250), (.BLY_FWD_SHARE_SHARE, 192),
    (.BLY_PORT_STATUS_STATE, 4), (.BLY_PORT_CTRL_ENABLE, 1), (.BLY_PORT_CTRL_AUTO_RETRAIN, 1),
    (.BLY_PORT_CTRL_ALLOW_HALF, 1), (.DEV_ID_VENDOR, 0x1F7E), (.DEV_ID_DEVICE, 0x7A70), (.QE_PF_ATC_QUOTA_ENTRIES, 252),
    (.QE_PART_CFG_TRACKERS, 128), (.QE_PART_CFG_ATC_QUOTA, 252), (.QE_PART_LIMITS_CONTEXTS, 1), (.TC_MODE_MODE, 0),
    (.TC_RT_CFG_SHARE, 32), (.TC_RT_BUDGET_FWD, 400), (.TC_RT_BUDGET_COMPL, 2000), (.TC_RT_BUDGET_TOKEN, 2000),
    (.TC_RT_BUDGET_TELEM, 20000), (.TC_FB_THRESH_YELLOW, 24), (.TC_FB_THRESH_ORANGE, 40), (.TC_FB_THRESH_RED, 56),
    (.TC_AGE_CYCLES, 4096), (.TC_CLASS_CFG_HBM_LIMIT, 64), (.TC_PART_CFG_DEFAULT, 3), (.TC_PART_CFG_MAX, 6),
    (.PWR_CAP_WATTS, 3000), (.PWR_PRIO_FIRST, 0), (.PWR_PRIO_SECOND, 1), (.PWR_PRIO_THIRD, 2),
    (.PWR_GRANT_CFG_STARVE_MS, 20), (.PWR_THERM_CFG_HOT, 100), (.PWR_THERM_CFG_EMERG, 105), (.PWR_THERM_CFG_TRIP, 115),
    (.PWR_SLEEP_CFG_NAP_DELAY, 100), (.PWR_SLEEP_CFG_DEEP_DELAY, 100), (.PWR_LEVEL_MAX_LEVEL, 0),
    (.RST_HANG_CFG_CORE_MS, 10), (.RST_HANG_CFG_KVG_MS, 10), (.RST_HANG_CFG_CND_MS, 50)] : List (F × Nat)),
    ∀ i, fget s e.1 i = e.2
end

