-- ==== Sys2Proof/Laws/Maps.lean ====
section
/-! SUPPORT. The laws of sparse maps and byte memories: reading what was written, leaving the rest, and the canonical
form that every operation keeps. -/
namespace Sys2Proof.Machine

variable {α : Type}

@[simp] theorem SMap.get_nil (d : Nat → α) (k : Nat) : SMap.get d [] k = d k := rfl

theorem SMap.get_erase_same (d : Nat → α) (m : SMap α) (k : Nat) : SMap.get d (SMap.erase k m) k = d k := by
  induction m with
  | nil => rfl
  | cons p m ih =>
    unfold SMap.erase at *
    by_cases h : p.1 = k
    · simp [h, ih]
    · have h' : k ≠ p.1 := fun e => h e.symm
      simp [h, h', SMap.get, ih]

theorem SMap.get_erase_other (d : Nat → α) (m : SMap α) {k j : Nat} (h : j ≠ k) :
    SMap.get d (SMap.erase k m) j = SMap.get d m j := by
  induction m with
  | nil => rfl
  | cons p m ih =>
    unfold SMap.erase at *
    by_cases hp : p.1 = k
    · have hj : j ≠ p.1 := fun e => h (e.trans hp)
      simp [hp, SMap.get, ih, h]
    · simp [hp, SMap.get, ih]

theorem SMap.get_insert_same (d : Nat → α) (m : SMap α) (k : Nat) (v : α) (h : ∀ p ∈ m, p.1 ≠ k) :
    SMap.get d (SMap.insert k v m) k = v := by
  induction m with
  | nil => simp [SMap.insert, SMap.get]
  | cons p m ih =>
    unfold SMap.insert
    split
    · simp [SMap.get]
    · have hp : k ≠ p.1 := fun e => h p (by simp) e.symm
      simp [SMap.get, hp, ih (fun q hq => h q (by simp [hq]))]

theorem SMap.get_insert_other (d : Nat → α) (m : SMap α) {k j : Nat} (v : α) (h : j ≠ k) :
    SMap.get d (SMap.insert k v m) j = SMap.get d m j := by
  induction m with
  | nil => simp [SMap.insert, SMap.get, h]
  | cons p m ih =>
    unfold SMap.insert
    split
    · simp [SMap.get, h]
    · simp [SMap.get, ih]

theorem SMap.erase_key (m : SMap α) (k : Nat) : ∀ p ∈ SMap.erase k m, p.1 ≠ k := by
  intro p hp
  simpa [SMap.erase] using (List.mem_filter.mp hp).2

/-- Reading a key after writing it gives the value written. -/
@[simp] theorem SMap.get_set_same [DecidableEq α] (d : Nat → α) (m : SMap α) (k : Nat) (v : α) :
    SMap.get d (SMap.set d m k v) k = v := by
  unfold SMap.set
  split
  · next h => rw [SMap.get_erase_same, h]
  · exact SMap.get_insert_same d _ k v (SMap.erase_key m k)

/-- Writing one key leaves every other key alone. -/
theorem SMap.get_set_other [DecidableEq α] (d : Nat → α) (m : SMap α) {k j : Nat} (v : α) (h : j ≠ k) :
    SMap.get d (SMap.set d m k v) j = SMap.get d m j := by
  unfold SMap.set
  split
  · exact SMap.get_erase_other d m h
  · rw [SMap.get_insert_other d _ v h, SMap.get_erase_other d m h]

theorem SMap.get_set [DecidableEq α] (d : Nat → α) (m : SMap α) (k j : Nat) (v : α) :
    SMap.get d (SMap.set d m k v) j = if j = k then v else SMap.get d m j := by
  split
  · next h => rw [h, SMap.get_set_same]
  · next h => exact SMap.get_set_other d m v h

theorem SMap.get_clear (d : Nat → α) (p : Nat → Bool) (m : SMap α) (k : Nat) :
    SMap.get d (SMap.clear p m) k = if p k then d k else SMap.get d m k := by
  induction m with
  | nil => simp [SMap.clear, SMap.get]
  | cons e m ih =>
    unfold SMap.clear at *
    by_cases he : p e.1
    · by_cases hk : k = e.1
      · subst hk; simp [he, ih]
      · simp [he, ih, SMap.get, hk]
    · by_cases hk : k = e.1
      · subst hk; simp [he, SMap.get]
      · simp [he, ih, SMap.get, hk]

/-! The canonical form. -/

theorem SMap.wf_filter (d : Nat → α) (m : SMap α) (q : Nat × α → Bool) (h : SMap.wf d m) :
    SMap.wf d (m.filter q) :=
  ⟨h.1.filter q, fun p hp => h.2 p (List.mem_filter.mp hp).1⟩

theorem SMap.wf_erase (d : Nat → α) (m : SMap α) (k : Nat) (h : SMap.wf d m) : SMap.wf d (SMap.erase k m) :=
  SMap.wf_filter d m _ h

theorem SMap.wf_clear (d : Nat → α) (m : SMap α) (p : Nat → Bool) (h : SMap.wf d m) : SMap.wf d (SMap.clear p m) :=
  SMap.wf_filter d m _ h

theorem SMap.mem_insert (k : Nat) (v : α) (m : SMap α) (q : Nat × α) :
    q ∈ SMap.insert k v m ↔ q = (k, v) ∨ q ∈ m := by
  induction m with
  | nil => simp [SMap.insert]
  | cons p m ih =>
    unfold SMap.insert
    split
    · simp
    · simp only [List.mem_cons, ih]; tauto

theorem SMap.wf_insert (d : Nat → α) (m : SMap α) (k : Nat) (v : α) (hv : v ≠ d k) (hk : ∀ p ∈ m, p.1 ≠ k)
    (h : SMap.wf d m) : SMap.wf d (SMap.insert k v m) := by
  refine ⟨?_, fun p hp => ?_⟩
  · induction m with
    | nil => simp [SMap.insert]
    | cons p m ih =>
      have hp := List.pairwise_cons.mp h.1
      have hpk : p.1 ≠ k := hk p (by simp)
      unfold SMap.insert
      split
      · next hlt =>
        refine List.pairwise_cons.mpr ⟨fun q hq => ?_, h.1⟩
        rcases List.mem_cons.mp hq with rfl | hq
        · exact hlt
        · exact lt_trans hlt (hp.1 q hq)
      · next hge =>
        have hgt : p.1 < k := lt_of_le_of_ne (not_lt.mp hge) hpk
        refine List.pairwise_cons.mpr ⟨fun q hq => ?_, ih (fun q hq => hk q (by simp [hq]))
          ⟨hp.2, fun q hq => h.2 q (by simp [hq])⟩⟩
        rcases (SMap.mem_insert k v m q).mp hq with rfl | hq
        · exact hgt
        · exact hp.1 q hq
  · rcases (SMap.mem_insert k v m p).mp hp with rfl | hp
    · exact hv
    · exact h.2 p hp

/-- Every write keeps the canonical form. -/
theorem SMap.wf_set [DecidableEq α] (d : Nat → α) (m : SMap α) (k : Nat) (v : α) (h : SMap.wf d m) :
    SMap.wf d (SMap.set d m k v) := by
  unfold SMap.set
  split
  · exact SMap.wf_erase d m k h
  · next hv => exact SMap.wf_insert d _ k v hv (SMap.erase_key m k) (SMap.wf_erase d m k h)

/-! Byte memories. -/

theorem Bytes.get_set (m : Bytes) (a b : Nat) (v : Byte) :
    Bytes.get (Bytes.set m a v) b = if b = a then v else Bytes.get m b := SMap.get_set _ m a b v

/-- Writing a byte string leaves every byte outside it alone. -/
theorem Bytes.get_write_other (m : Bytes) (a : Nat) (bs : List Byte) (b : Nat) (h : b < a ∨ a + bs.length ≤ b) :
    Bytes.get (Bytes.write m a bs) b = Bytes.get m b := by
  induction bs generalizing m a with
  | nil => rfl
  | cons v bs ih =>
    simp only [List.length_cons] at h
    rw [Bytes.write, ih _ _ (by omega), Bytes.get_set, if_neg (by omega)]

/-- A byte of a string just written reads as the string has it. -/
theorem Bytes.get_write_same (m : Bytes) (a : Nat) (bs : List Byte) (i : Nat) (h : i < bs.length) :
    Bytes.get (Bytes.write m a bs) (a + i) = bs[i] := by
  induction bs generalizing m a i with
  | nil => simp at h
  | cons v bs ih =>
    rw [Bytes.write]
    cases i with
    | zero => rw [Bytes.get_write_other _ _ _ _ (by omega), Nat.add_zero, Bytes.get_set, if_pos rfl]; rfl
    | succ i =>
      have := ih (Bytes.set m a v) (a + 1) i (by simpa using h)
      rw [show a + (i + 1) = a + 1 + i by omega, this]; rfl

/-- Reading back a byte string just written gives the string. -/
theorem Bytes.read_write (m : Bytes) (a : Nat) (bs : List Byte) :
    Bytes.read (Bytes.write m a bs) a bs.length = bs := by
  apply List.ext_getElem
  · simp [Bytes.read]
  · intro i h1 h2
    simp only [Bytes.read, List.getElem_map, List.getElem_range]
    exact Bytes.get_write_same m a bs i h2

theorem Memory.wf_set (m : Bytes) (a : Nat) (b : Byte) (h : Memory.wf m) : Memory.wf (Bytes.set m a b) :=
  SMap.wf_set _ m a b h

theorem Memory.wf_write (m : Bytes) (a : Nat) (bs : List Byte) (h : Memory.wf m) : Memory.wf (Bytes.write m a bs) := by
  induction bs generalizing m a with
  | nil => exact h
  | cons v bs ih => exact ih _ _ (SMap.wf_set _ m a v h)

theorem leBytes_length (n x : Nat) : (leBytes n x).length = n := by
  induction n generalizing x with
  | zero => rfl
  | succ n ih => simp [leBytes, ih]

/-- The number of n little-endian bytes of x is x modulo 256^n. -/
theorem leNat_leBytes (n x : Nat) : leNat (leBytes n x) = x % 256 ^ n := by
  induction n generalizing x with
  | zero => simp [leBytes, leNat, Nat.mod_one]
  | succ n ih =>
    rw [leBytes, leNat, ih, pow_succ, mul_comm (256 ^ n) 256, Nat.mod_mul]
    simp

end Sys2Proof.Machine
end

