-- ==== Sys2Proof/Laws/State.lean ====
section
/-! SUPPORT. The laws of the state's plain updates: what each leaves unchanged, one lemma a field, and what a read after
it gives. -/
namespace Sys2Proof.Machine

variable (s : State)

@[simp] theorem fset_pending (f : F) (i v : Nat) : (fset s f i v).pending = s.pending := rfl
@[simp] theorem fset_freeCtr (f : F) (i v : Nat) : (fset s f i v).freeCtr = s.freeCtr := rfl
@[simp] theorem fset_stalled (f : F) (i v : Nat) : (fset s f i v).stalled = s.stalled := rfl
@[simp] theorem fset_now (f : F) (i v : Nat) : (fset s f i v).now = s.now := rfl
@[simp] theorem fset_mem (f : F) (i v : Nat) : (fset s f i v).mem = s.mem := rfl
@[simp] theorem fset_ueLines (f : F) (i v : Nat) : (fset s f i v).ueLines = s.ueLines := rfl
@[simp] theorem fset_cores (f : F) (i v : Nat) : (fset s f i v).cores = s.cores := rfl
@[simp] theorem fset_launches (f : F) (i v : Nat) : (fset s f i v).launches = s.launches := rfl
@[simp] theorem fset_heldAcc (f : F) (i v : Nat) : (fset s f i v).heldAcc = s.heldAcc := rfl
@[simp] theorem fset_answers (f : F) (i v : Nat) : (fset s f i v).answers = s.answers := rfl
@[simp] theorem fset_scache (f : F) (i v : Nat) : (fset s f i v).scache = s.scache := rfl
@[simp] theorem fset_scPlru (f : F) (i v : Nat) : (fset s f i v).scPlru = s.scPlru := rfl
@[simp] theorem fset_depot (f : F) (i v : Nat) : (fset s f i v).depot = s.depot := rfl
@[simp] theorem fset_depotPlru (f : F) (i v : Nat) : (fset s f i v).depotPlru = s.depotPlru := rfl
@[simp] theorem fset_mesh (f : F) (i v : Nat) : (fset s f i v).mesh = s.mesh := rfl
@[simp] theorem fset_watch (f : F) (i v : Nat) : (fset s f i v).watch = s.watch := rfl
@[simp] theorem fset_meshArb (f : F) (i v : Nat) : (fset s f i v).meshArb = s.meshArb := rfl
@[simp] theorem fset_ejected (f : F) (i v : Nat) : (fset s f i v).ejected = s.ejected := rfl
@[simp] theorem fset_sigs (f : F) (i v : Nat) : (fset s f i v).sigs = s.sigs := rfl
@[simp] theorem fset_mdSigs (f : F) (i v : Nat) : (fset s f i v).mdSigs = s.mdSigs := rfl
@[simp] theorem fset_stopSigs (f : F) (i v : Nat) : (fset s f i v).stopSigs = s.stopSigs := rfl
@[simp] theorem fset_rxq (f : F) (i v : Nat) : (fset s f i v).rxq = s.rxq := rfl
@[simp] theorem fset_kvgLanes (f : F) (i v : Nat) : (fset s f i v).kvgLanes = s.kvgLanes := rfl
@[simp] theorem fset_kvg (f : F) (i v : Nat) : (fset s f i v).kvg = s.kvg := rfl
@[simp] theorem fset_points (f : F) (i v : Nat) : (fset s f i v).points = s.points := rfl
@[simp] theorem fset_bls (f : F) (i v : Nat) : (fset s f i v).bls = s.bls := rfl
@[simp] theorem fset_routes (f : F) (i v : Nat) : (fset s f i v).routes = s.routes := rfl
@[simp] theorem fset_oldMaps (f : F) (i v : Nat) : (fset s f i v).oldMaps = s.oldMaps := rfl
@[simp] theorem fset_dill (f : F) (i v : Nat) : (fset s f i v).dill = s.dill := rfl
@[simp] theorem fset_declares (f : F) (i v : Nat) : (fset s f i v).declares = s.declares := rfl
@[simp] theorem fset_prefetches (f : F) (i v : Nat) : (fset s f i v).prefetches = s.prefetches := rfl
@[simp] theorem fset_scrubOf (f : F) (i v : Nat) : (fset s f i v).scrubOf = s.scrubOf := rfl
@[simp] theorem fset_missHist (f : F) (i v : Nat) : (fset s f i v).missHist = s.missHist := rfl
@[simp] theorem fset_regionClk (f : F) (i v : Nat) : (fset s f i v).regionClk = s.regionClk := rfl
@[simp] theorem fset_wins (f : F) (i v : Nat) : (fset s f i v).wins = s.wins := rfl
@[simp] theorem fset_winsNew (f : F) (i v : Nat) : (fset s f i v).winsNew = s.winsNew := rfl
@[simp] theorem fset_meters (f : F) (i v : Nat) : (fset s f i v).meters = s.meters := rfl
@[simp] theorem fset_troubles (f : F) (i v : Nat) : (fset s f i v).troubles = s.troubles := rfl
@[simp] theorem fset_portQ (f : F) (i v : Nat) : (fset s f i v).portQ = s.portQ := rfl
@[simp] theorem fset_portArb (f : F) (i v : Nat) : (fset s f i v).portArb = s.portArb := rfl
@[simp] theorem fset_unacked (f : F) (i v : Nat) : (fset s f i v).unacked = s.unacked := rfl
@[simp] theorem fset_remotes (f : F) (i v : Nat) : (fset s f i v).remotes = s.remotes := rfl
@[simp] theorem fset_links (f : F) (i v : Nat) : (fset s f i v).links = s.links := rfl
@[simp] theorem fset_flitOut (f : F) (i v : Nat) : (fset s f i v).flitOut = s.flitOut := rfl
@[simp] theorem fset_breaks (f : F) (i v : Nat) : (fset s f i v).breaks = s.breaks := rfl
@[simp] theorem fset_dirs (f : F) (i v : Nat) : (fset s f i v).dirs = s.dirs := rfl
@[simp] theorem fset_holders (f : F) (i v : Nat) : (fset s f i v).holders = s.holders := rfl
@[simp] theorem fset_nextId (f : F) (i v : Nat) : (fset s f i v).nextId = s.nextId := rfl
@[simp] theorem fset_funcs (f : F) (i v : Nat) : (fset s f i v).funcs = s.funcs := rfl
@[simp] theorem fset_msix (f : F) (i v : Nat) : (fset s f i v).msix = s.msix := rfl
@[simp] theorem fset_tlps (f : F) (i v : Nat) : (fset s f i v).tlps = s.tlps := rfl
@[simp] theorem fset_posted (f : F) (i v : Nat) : (fset s f i v).posted = s.posted := rfl
@[simp] theorem fset_atc (f : F) (i v : Nat) : (fset s f i v).atc = s.atc := rfl
@[simp] theorem fset_atsOut (f : F) (i v : Nat) : (fset s f i v).atsOut = s.atsOut := rfl
@[simp] theorem fset_hreads (f : F) (i v : Nat) : (fset s f i v).hreads = s.hreads := rfl
@[simp] theorem fset_invals (f : F) (i v : Nat) : (fset s f i v).invals = s.invals := rfl
@[simp] theorem fset_rings (f : F) (i v : Nat) : (fset s f i v).rings = s.rings := rfl
@[simp] theorem fset_cmds (f : F) (i v : Nat) : (fset s f i v).cmds = s.cmds := rfl
@[simp] theorem fset_intake (f : F) (i v : Nat) : (fset s f i v).intake = s.intake := rfl
@[simp] theorem fset_turn (f : F) (i v : Nat) : (fset s f i v).turn = s.turn := rfl
@[simp] theorem fset_ctxs (f : F) (i v : Nat) : (fset s f i v).ctxs = s.ctxs := rfl
@[simp] theorem fset_objs (f : F) (i v : Nat) : (fset s f i v).objs = s.objs := rfl
@[simp] theorem fset_fences (f : F) (i v : Nat) : (fset s f i v).fences = s.fences := rfl
@[simp] theorem fset_faults (f : F) (i v : Nat) : (fset s f i v).faults = s.faults := rfl
@[simp] theorem fset_hints (f : F) (i v : Nat) : (fset s f i v).hints = s.hints := rfl
@[simp] theorem fset_reqs (f : F) (i v : Nat) : (fset s f i v).reqs = s.reqs := rfl
@[simp] theorem fset_services (f : F) (i v : Nat) : (fset s f i v).services = s.services := rfl
@[simp] theorem fset_lentExt (f : F) (i v : Nat) : (fset s f i v).lentExt = s.lentExt := rfl
@[simp] theorem fset_chans (f : F) (i v : Nat) : (fset s f i v).chans = s.chans := rfl
@[simp] theorem fset_comp (f : F) (i v : Nat) : (fset s f i v).comp = s.comp := rfl
@[simp] theorem fset_notices (f : F) (i v : Nat) : (fset s f i v).notices = s.notices := rfl
@[simp] theorem fset_compOut (f : F) (i v : Nat) : (fset s f i v).compOut = s.compOut := rfl
@[simp] theorem fset_reads (f : F) (i v : Nat) : (fset s f i v).reads = s.reads := rfl
@[simp] theorem fset_measures (f : F) (i v : Nat) : (fset s f i v).measures = s.measures := rfl
@[simp] theorem fset_harts (f : F) (i v : Nat) : (fset s f i v).harts = s.harts := rfl
@[simp] theorem fset_sorts (f : F) (i v : Nat) : (fset s f i v).sorts = s.sorts := rfl
@[simp] theorem fset_dirPtr (f : F) (i v : Nat) : (fset s f i v).dirPtr = s.dirPtr := rfl
@[simp] theorem fset_dirPlru (f : F) (i v : Nat) : (fset s f i v).dirPlru = s.dirPlru := rfl
@[simp] theorem fset_dirHeld (f : F) (i v : Nat) : (fset s f i v).dirHeld = s.dirHeld := rfl
@[simp] theorem fset_power (f : F) (i v : Nat) : (fset s f i v).power = s.power := rfl
@[simp] theorem fset_rst (f : F) (i v : Nat) : (fset s f i v).rst = s.rst := rfl
@[simp] theorem fset_shuts (f : F) (i v : Nat) : (fset s f i v).shuts = s.shuts := rfl
@[simp] theorem fset_mod (f : F) (i v : Nat) : (fset s f i v).mod = s.mod := rfl

@[simp] theorem finc_pending (f : F) (i n : Nat) : (finc s f i n).pending = s.pending := rfl
@[simp] theorem finc_freeCtr (f : F) (i n : Nat) : (finc s f i n).freeCtr = s.freeCtr := rfl
@[simp] theorem finc_stalled (f : F) (i n : Nat) : (finc s f i n).stalled = s.stalled := rfl
@[simp] theorem finc_now (f : F) (i n : Nat) : (finc s f i n).now = s.now := rfl
@[simp] theorem finc_mem (f : F) (i n : Nat) : (finc s f i n).mem = s.mem := rfl
@[simp] theorem finc_ueLines (f : F) (i n : Nat) : (finc s f i n).ueLines = s.ueLines := rfl
@[simp] theorem finc_cores (f : F) (i n : Nat) : (finc s f i n).cores = s.cores := rfl
@[simp] theorem finc_launches (f : F) (i n : Nat) : (finc s f i n).launches = s.launches := rfl
@[simp] theorem finc_heldAcc (f : F) (i n : Nat) : (finc s f i n).heldAcc = s.heldAcc := rfl
@[simp] theorem finc_answers (f : F) (i n : Nat) : (finc s f i n).answers = s.answers := rfl
@[simp] theorem finc_scache (f : F) (i n : Nat) : (finc s f i n).scache = s.scache := rfl
@[simp] theorem finc_scPlru (f : F) (i n : Nat) : (finc s f i n).scPlru = s.scPlru := rfl
@[simp] theorem finc_depot (f : F) (i n : Nat) : (finc s f i n).depot = s.depot := rfl
@[simp] theorem finc_depotPlru (f : F) (i n : Nat) : (finc s f i n).depotPlru = s.depotPlru := rfl
@[simp] theorem finc_mesh (f : F) (i n : Nat) : (finc s f i n).mesh = s.mesh := rfl
@[simp] theorem finc_watch (f : F) (i n : Nat) : (finc s f i n).watch = s.watch := rfl
@[simp] theorem finc_meshArb (f : F) (i n : Nat) : (finc s f i n).meshArb = s.meshArb := rfl
@[simp] theorem finc_ejected (f : F) (i n : Nat) : (finc s f i n).ejected = s.ejected := rfl
@[simp] theorem finc_sigs (f : F) (i n : Nat) : (finc s f i n).sigs = s.sigs := rfl
@[simp] theorem finc_mdSigs (f : F) (i n : Nat) : (finc s f i n).mdSigs = s.mdSigs := rfl
@[simp] theorem finc_stopSigs (f : F) (i n : Nat) : (finc s f i n).stopSigs = s.stopSigs := rfl
@[simp] theorem finc_rxq (f : F) (i n : Nat) : (finc s f i n).rxq = s.rxq := rfl
@[simp] theorem finc_kvgLanes (f : F) (i n : Nat) : (finc s f i n).kvgLanes = s.kvgLanes := rfl
@[simp] theorem finc_kvg (f : F) (i n : Nat) : (finc s f i n).kvg = s.kvg := rfl
@[simp] theorem finc_points (f : F) (i n : Nat) : (finc s f i n).points = s.points := rfl
@[simp] theorem finc_bls (f : F) (i n : Nat) : (finc s f i n).bls = s.bls := rfl
@[simp] theorem finc_routes (f : F) (i n : Nat) : (finc s f i n).routes = s.routes := rfl
@[simp] theorem finc_oldMaps (f : F) (i n : Nat) : (finc s f i n).oldMaps = s.oldMaps := rfl
@[simp] theorem finc_dill (f : F) (i n : Nat) : (finc s f i n).dill = s.dill := rfl
@[simp] theorem finc_declares (f : F) (i n : Nat) : (finc s f i n).declares = s.declares := rfl
@[simp] theorem finc_prefetches (f : F) (i n : Nat) : (finc s f i n).prefetches = s.prefetches := rfl
@[simp] theorem finc_scrubOf (f : F) (i n : Nat) : (finc s f i n).scrubOf = s.scrubOf := rfl
@[simp] theorem finc_missHist (f : F) (i n : Nat) : (finc s f i n).missHist = s.missHist := rfl
@[simp] theorem finc_regionClk (f : F) (i n : Nat) : (finc s f i n).regionClk = s.regionClk := rfl
@[simp] theorem finc_wins (f : F) (i n : Nat) : (finc s f i n).wins = s.wins := rfl
@[simp] theorem finc_winsNew (f : F) (i n : Nat) : (finc s f i n).winsNew = s.winsNew := rfl
@[simp] theorem finc_meters (f : F) (i n : Nat) : (finc s f i n).meters = s.meters := rfl
@[simp] theorem finc_troubles (f : F) (i n : Nat) : (finc s f i n).troubles = s.troubles := rfl
@[simp] theorem finc_portQ (f : F) (i n : Nat) : (finc s f i n).portQ = s.portQ := rfl
@[simp] theorem finc_portArb (f : F) (i n : Nat) : (finc s f i n).portArb = s.portArb := rfl
@[simp] theorem finc_unacked (f : F) (i n : Nat) : (finc s f i n).unacked = s.unacked := rfl
@[simp] theorem finc_remotes (f : F) (i n : Nat) : (finc s f i n).remotes = s.remotes := rfl
@[simp] theorem finc_links (f : F) (i n : Nat) : (finc s f i n).links = s.links := rfl
@[simp] theorem finc_flitOut (f : F) (i n : Nat) : (finc s f i n).flitOut = s.flitOut := rfl
@[simp] theorem finc_breaks (f : F) (i n : Nat) : (finc s f i n).breaks = s.breaks := rfl
@[simp] theorem finc_dirs (f : F) (i n : Nat) : (finc s f i n).dirs = s.dirs := rfl
@[simp] theorem finc_holders (f : F) (i n : Nat) : (finc s f i n).holders = s.holders := rfl
@[simp] theorem finc_nextId (f : F) (i n : Nat) : (finc s f i n).nextId = s.nextId := rfl
@[simp] theorem finc_funcs (f : F) (i n : Nat) : (finc s f i n).funcs = s.funcs := rfl
@[simp] theorem finc_msix (f : F) (i n : Nat) : (finc s f i n).msix = s.msix := rfl
@[simp] theorem finc_tlps (f : F) (i n : Nat) : (finc s f i n).tlps = s.tlps := rfl
@[simp] theorem finc_posted (f : F) (i n : Nat) : (finc s f i n).posted = s.posted := rfl
@[simp] theorem finc_atc (f : F) (i n : Nat) : (finc s f i n).atc = s.atc := rfl
@[simp] theorem finc_atsOut (f : F) (i n : Nat) : (finc s f i n).atsOut = s.atsOut := rfl
@[simp] theorem finc_hreads (f : F) (i n : Nat) : (finc s f i n).hreads = s.hreads := rfl
@[simp] theorem finc_invals (f : F) (i n : Nat) : (finc s f i n).invals = s.invals := rfl
@[simp] theorem finc_rings (f : F) (i n : Nat) : (finc s f i n).rings = s.rings := rfl
@[simp] theorem finc_cmds (f : F) (i n : Nat) : (finc s f i n).cmds = s.cmds := rfl
@[simp] theorem finc_intake (f : F) (i n : Nat) : (finc s f i n).intake = s.intake := rfl
@[simp] theorem finc_turn (f : F) (i n : Nat) : (finc s f i n).turn = s.turn := rfl
@[simp] theorem finc_ctxs (f : F) (i n : Nat) : (finc s f i n).ctxs = s.ctxs := rfl
@[simp] theorem finc_objs (f : F) (i n : Nat) : (finc s f i n).objs = s.objs := rfl
@[simp] theorem finc_fences (f : F) (i n : Nat) : (finc s f i n).fences = s.fences := rfl
@[simp] theorem finc_faults (f : F) (i n : Nat) : (finc s f i n).faults = s.faults := rfl
@[simp] theorem finc_hints (f : F) (i n : Nat) : (finc s f i n).hints = s.hints := rfl
@[simp] theorem finc_reqs (f : F) (i n : Nat) : (finc s f i n).reqs = s.reqs := rfl
@[simp] theorem finc_services (f : F) (i n : Nat) : (finc s f i n).services = s.services := rfl
@[simp] theorem finc_lentExt (f : F) (i n : Nat) : (finc s f i n).lentExt = s.lentExt := rfl
@[simp] theorem finc_chans (f : F) (i n : Nat) : (finc s f i n).chans = s.chans := rfl
@[simp] theorem finc_comp (f : F) (i n : Nat) : (finc s f i n).comp = s.comp := rfl
@[simp] theorem finc_notices (f : F) (i n : Nat) : (finc s f i n).notices = s.notices := rfl
@[simp] theorem finc_compOut (f : F) (i n : Nat) : (finc s f i n).compOut = s.compOut := rfl
@[simp] theorem finc_reads (f : F) (i n : Nat) : (finc s f i n).reads = s.reads := rfl
@[simp] theorem finc_measures (f : F) (i n : Nat) : (finc s f i n).measures = s.measures := rfl
@[simp] theorem finc_harts (f : F) (i n : Nat) : (finc s f i n).harts = s.harts := rfl
@[simp] theorem finc_sorts (f : F) (i n : Nat) : (finc s f i n).sorts = s.sorts := rfl
@[simp] theorem finc_dirPtr (f : F) (i n : Nat) : (finc s f i n).dirPtr = s.dirPtr := rfl
@[simp] theorem finc_dirPlru (f : F) (i n : Nat) : (finc s f i n).dirPlru = s.dirPlru := rfl
@[simp] theorem finc_dirHeld (f : F) (i n : Nat) : (finc s f i n).dirHeld = s.dirHeld := rfl
@[simp] theorem finc_power (f : F) (i n : Nat) : (finc s f i n).power = s.power := rfl
@[simp] theorem finc_rst (f : F) (i n : Nat) : (finc s f i n).rst = s.rst := rfl
@[simp] theorem finc_shuts (f : F) (i n : Nat) : (finc s f i n).shuts = s.shuts := rfl
@[simp] theorem finc_mod (f : F) (i n : Nat) : (finc s f i n).mod = s.mod := rfl

@[simp] theorem fsat_pending (f : F) (i n : Nat) : (fsat s f i n).pending = s.pending := rfl
@[simp] theorem fsat_freeCtr (f : F) (i n : Nat) : (fsat s f i n).freeCtr = s.freeCtr := rfl
@[simp] theorem fsat_stalled (f : F) (i n : Nat) : (fsat s f i n).stalled = s.stalled := rfl
@[simp] theorem fsat_now (f : F) (i n : Nat) : (fsat s f i n).now = s.now := rfl
@[simp] theorem fsat_mem (f : F) (i n : Nat) : (fsat s f i n).mem = s.mem := rfl
@[simp] theorem fsat_ueLines (f : F) (i n : Nat) : (fsat s f i n).ueLines = s.ueLines := rfl
@[simp] theorem fsat_cores (f : F) (i n : Nat) : (fsat s f i n).cores = s.cores := rfl
@[simp] theorem fsat_launches (f : F) (i n : Nat) : (fsat s f i n).launches = s.launches := rfl
@[simp] theorem fsat_heldAcc (f : F) (i n : Nat) : (fsat s f i n).heldAcc = s.heldAcc := rfl
@[simp] theorem fsat_answers (f : F) (i n : Nat) : (fsat s f i n).answers = s.answers := rfl
@[simp] theorem fsat_scache (f : F) (i n : Nat) : (fsat s f i n).scache = s.scache := rfl
@[simp] theorem fsat_scPlru (f : F) (i n : Nat) : (fsat s f i n).scPlru = s.scPlru := rfl
@[simp] theorem fsat_depot (f : F) (i n : Nat) : (fsat s f i n).depot = s.depot := rfl
@[simp] theorem fsat_depotPlru (f : F) (i n : Nat) : (fsat s f i n).depotPlru = s.depotPlru := rfl
@[simp] theorem fsat_mesh (f : F) (i n : Nat) : (fsat s f i n).mesh = s.mesh := rfl
@[simp] theorem fsat_watch (f : F) (i n : Nat) : (fsat s f i n).watch = s.watch := rfl
@[simp] theorem fsat_meshArb (f : F) (i n : Nat) : (fsat s f i n).meshArb = s.meshArb := rfl
@[simp] theorem fsat_ejected (f : F) (i n : Nat) : (fsat s f i n).ejected = s.ejected := rfl
@[simp] theorem fsat_sigs (f : F) (i n : Nat) : (fsat s f i n).sigs = s.sigs := rfl
@[simp] theorem fsat_mdSigs (f : F) (i n : Nat) : (fsat s f i n).mdSigs = s.mdSigs := rfl
@[simp] theorem fsat_stopSigs (f : F) (i n : Nat) : (fsat s f i n).stopSigs = s.stopSigs := rfl
@[simp] theorem fsat_rxq (f : F) (i n : Nat) : (fsat s f i n).rxq = s.rxq := rfl
@[simp] theorem fsat_kvgLanes (f : F) (i n : Nat) : (fsat s f i n).kvgLanes = s.kvgLanes := rfl
@[simp] theorem fsat_kvg (f : F) (i n : Nat) : (fsat s f i n).kvg = s.kvg := rfl
@[simp] theorem fsat_points (f : F) (i n : Nat) : (fsat s f i n).points = s.points := rfl
@[simp] theorem fsat_bls (f : F) (i n : Nat) : (fsat s f i n).bls = s.bls := rfl
@[simp] theorem fsat_routes (f : F) (i n : Nat) : (fsat s f i n).routes = s.routes := rfl
@[simp] theorem fsat_oldMaps (f : F) (i n : Nat) : (fsat s f i n).oldMaps = s.oldMaps := rfl
@[simp] theorem fsat_dill (f : F) (i n : Nat) : (fsat s f i n).dill = s.dill := rfl
@[simp] theorem fsat_declares (f : F) (i n : Nat) : (fsat s f i n).declares = s.declares := rfl
@[simp] theorem fsat_prefetches (f : F) (i n : Nat) : (fsat s f i n).prefetches = s.prefetches := rfl
@[simp] theorem fsat_scrubOf (f : F) (i n : Nat) : (fsat s f i n).scrubOf = s.scrubOf := rfl
@[simp] theorem fsat_missHist (f : F) (i n : Nat) : (fsat s f i n).missHist = s.missHist := rfl
@[simp] theorem fsat_regionClk (f : F) (i n : Nat) : (fsat s f i n).regionClk = s.regionClk := rfl
@[simp] theorem fsat_wins (f : F) (i n : Nat) : (fsat s f i n).wins = s.wins := rfl
@[simp] theorem fsat_winsNew (f : F) (i n : Nat) : (fsat s f i n).winsNew = s.winsNew := rfl
@[simp] theorem fsat_meters (f : F) (i n : Nat) : (fsat s f i n).meters = s.meters := rfl
@[simp] theorem fsat_troubles (f : F) (i n : Nat) : (fsat s f i n).troubles = s.troubles := rfl
@[simp] theorem fsat_portQ (f : F) (i n : Nat) : (fsat s f i n).portQ = s.portQ := rfl
@[simp] theorem fsat_portArb (f : F) (i n : Nat) : (fsat s f i n).portArb = s.portArb := rfl
@[simp] theorem fsat_unacked (f : F) (i n : Nat) : (fsat s f i n).unacked = s.unacked := rfl
@[simp] theorem fsat_remotes (f : F) (i n : Nat) : (fsat s f i n).remotes = s.remotes := rfl
@[simp] theorem fsat_links (f : F) (i n : Nat) : (fsat s f i n).links = s.links := rfl
@[simp] theorem fsat_flitOut (f : F) (i n : Nat) : (fsat s f i n).flitOut = s.flitOut := rfl
@[simp] theorem fsat_breaks (f : F) (i n : Nat) : (fsat s f i n).breaks = s.breaks := rfl
@[simp] theorem fsat_dirs (f : F) (i n : Nat) : (fsat s f i n).dirs = s.dirs := rfl
@[simp] theorem fsat_holders (f : F) (i n : Nat) : (fsat s f i n).holders = s.holders := rfl
@[simp] theorem fsat_nextId (f : F) (i n : Nat) : (fsat s f i n).nextId = s.nextId := rfl
@[simp] theorem fsat_funcs (f : F) (i n : Nat) : (fsat s f i n).funcs = s.funcs := rfl
@[simp] theorem fsat_msix (f : F) (i n : Nat) : (fsat s f i n).msix = s.msix := rfl
@[simp] theorem fsat_tlps (f : F) (i n : Nat) : (fsat s f i n).tlps = s.tlps := rfl
@[simp] theorem fsat_posted (f : F) (i n : Nat) : (fsat s f i n).posted = s.posted := rfl
@[simp] theorem fsat_atc (f : F) (i n : Nat) : (fsat s f i n).atc = s.atc := rfl
@[simp] theorem fsat_atsOut (f : F) (i n : Nat) : (fsat s f i n).atsOut = s.atsOut := rfl
@[simp] theorem fsat_hreads (f : F) (i n : Nat) : (fsat s f i n).hreads = s.hreads := rfl
@[simp] theorem fsat_invals (f : F) (i n : Nat) : (fsat s f i n).invals = s.invals := rfl
@[simp] theorem fsat_rings (f : F) (i n : Nat) : (fsat s f i n).rings = s.rings := rfl
@[simp] theorem fsat_cmds (f : F) (i n : Nat) : (fsat s f i n).cmds = s.cmds := rfl
@[simp] theorem fsat_intake (f : F) (i n : Nat) : (fsat s f i n).intake = s.intake := rfl
@[simp] theorem fsat_turn (f : F) (i n : Nat) : (fsat s f i n).turn = s.turn := rfl
@[simp] theorem fsat_ctxs (f : F) (i n : Nat) : (fsat s f i n).ctxs = s.ctxs := rfl
@[simp] theorem fsat_objs (f : F) (i n : Nat) : (fsat s f i n).objs = s.objs := rfl
@[simp] theorem fsat_fences (f : F) (i n : Nat) : (fsat s f i n).fences = s.fences := rfl
@[simp] theorem fsat_faults (f : F) (i n : Nat) : (fsat s f i n).faults = s.faults := rfl
@[simp] theorem fsat_hints (f : F) (i n : Nat) : (fsat s f i n).hints = s.hints := rfl
@[simp] theorem fsat_reqs (f : F) (i n : Nat) : (fsat s f i n).reqs = s.reqs := rfl
@[simp] theorem fsat_services (f : F) (i n : Nat) : (fsat s f i n).services = s.services := rfl
@[simp] theorem fsat_lentExt (f : F) (i n : Nat) : (fsat s f i n).lentExt = s.lentExt := rfl
@[simp] theorem fsat_chans (f : F) (i n : Nat) : (fsat s f i n).chans = s.chans := rfl
@[simp] theorem fsat_comp (f : F) (i n : Nat) : (fsat s f i n).comp = s.comp := rfl
@[simp] theorem fsat_notices (f : F) (i n : Nat) : (fsat s f i n).notices = s.notices := rfl
@[simp] theorem fsat_compOut (f : F) (i n : Nat) : (fsat s f i n).compOut = s.compOut := rfl
@[simp] theorem fsat_reads (f : F) (i n : Nat) : (fsat s f i n).reads = s.reads := rfl
@[simp] theorem fsat_measures (f : F) (i n : Nat) : (fsat s f i n).measures = s.measures := rfl
@[simp] theorem fsat_harts (f : F) (i n : Nat) : (fsat s f i n).harts = s.harts := rfl
@[simp] theorem fsat_sorts (f : F) (i n : Nat) : (fsat s f i n).sorts = s.sorts := rfl
@[simp] theorem fsat_dirPtr (f : F) (i n : Nat) : (fsat s f i n).dirPtr = s.dirPtr := rfl
@[simp] theorem fsat_dirPlru (f : F) (i n : Nat) : (fsat s f i n).dirPlru = s.dirPlru := rfl
@[simp] theorem fsat_dirHeld (f : F) (i n : Nat) : (fsat s f i n).dirHeld = s.dirHeld := rfl
@[simp] theorem fsat_power (f : F) (i n : Nat) : (fsat s f i n).power = s.power := rfl
@[simp] theorem fsat_rst (f : F) (i n : Nat) : (fsat s f i n).rst = s.rst := rfl
@[simp] theorem fsat_shuts (f : F) (i n : Nat) : (fsat s f i n).shuts = s.shuts := rfl
@[simp] theorem fsat_mod (f : F) (i n : Nat) : (fsat s f i n).mod = s.mod := rfl

@[simp] theorem fsetBit_pending (f : F) (i n : Nat) (b : Bool) : (fsetBit s f i n b).pending = s.pending := rfl
@[simp] theorem fsetBit_freeCtr (f : F) (i n : Nat) (b : Bool) : (fsetBit s f i n b).freeCtr = s.freeCtr := rfl
@[simp] theorem fsetBit_stalled (f : F) (i n : Nat) (b : Bool) : (fsetBit s f i n b).stalled = s.stalled := rfl
@[simp] theorem fsetBit_now (f : F) (i n : Nat) (b : Bool) : (fsetBit s f i n b).now = s.now := rfl
@[simp] theorem fsetBit_mem (f : F) (i n : Nat) (b : Bool) : (fsetBit s f i n b).mem = s.mem := rfl
@[simp] theorem fsetBit_ueLines (f : F) (i n : Nat) (b : Bool) : (fsetBit s f i n b).ueLines = s.ueLines := rfl
@[simp] theorem fsetBit_cores (f : F) (i n : Nat) (b : Bool) : (fsetBit s f i n b).cores = s.cores := rfl
@[simp] theorem fsetBit_launches (f : F) (i n : Nat) (b : Bool) : (fsetBit s f i n b).launches = s.launches := rfl
@[simp] theorem fsetBit_heldAcc (f : F) (i n : Nat) (b : Bool) : (fsetBit s f i n b).heldAcc = s.heldAcc := rfl
@[simp] theorem fsetBit_answers (f : F) (i n : Nat) (b : Bool) : (fsetBit s f i n b).answers = s.answers := rfl
@[simp] theorem fsetBit_scache (f : F) (i n : Nat) (b : Bool) : (fsetBit s f i n b).scache = s.scache := rfl
@[simp] theorem fsetBit_scPlru (f : F) (i n : Nat) (b : Bool) : (fsetBit s f i n b).scPlru = s.scPlru := rfl
@[simp] theorem fsetBit_depot (f : F) (i n : Nat) (b : Bool) : (fsetBit s f i n b).depot = s.depot := rfl
@[simp] theorem fsetBit_depotPlru (f : F) (i n : Nat) (b : Bool) : (fsetBit s f i n b).depotPlru = s.depotPlru := rfl
@[simp] theorem fsetBit_mesh (f : F) (i n : Nat) (b : Bool) : (fsetBit s f i n b).mesh = s.mesh := rfl
@[simp] theorem fsetBit_watch (f : F) (i n : Nat) (b : Bool) : (fsetBit s f i n b).watch = s.watch := rfl
@[simp] theorem fsetBit_meshArb (f : F) (i n : Nat) (b : Bool) : (fsetBit s f i n b).meshArb = s.meshArb := rfl
@[simp] theorem fsetBit_ejected (f : F) (i n : Nat) (b : Bool) : (fsetBit s f i n b).ejected = s.ejected := rfl
@[simp] theorem fsetBit_sigs (f : F) (i n : Nat) (b : Bool) : (fsetBit s f i n b).sigs = s.sigs := rfl
@[simp] theorem fsetBit_mdSigs (f : F) (i n : Nat) (b : Bool) : (fsetBit s f i n b).mdSigs = s.mdSigs := rfl
@[simp] theorem fsetBit_stopSigs (f : F) (i n : Nat) (b : Bool) : (fsetBit s f i n b).stopSigs = s.stopSigs := rfl
@[simp] theorem fsetBit_rxq (f : F) (i n : Nat) (b : Bool) : (fsetBit s f i n b).rxq = s.rxq := rfl
@[simp] theorem fsetBit_kvgLanes (f : F) (i n : Nat) (b : Bool) : (fsetBit s f i n b).kvgLanes = s.kvgLanes := rfl
@[simp] theorem fsetBit_kvg (f : F) (i n : Nat) (b : Bool) : (fsetBit s f i n b).kvg = s.kvg := rfl
@[simp] theorem fsetBit_points (f : F) (i n : Nat) (b : Bool) : (fsetBit s f i n b).points = s.points := rfl
@[simp] theorem fsetBit_bls (f : F) (i n : Nat) (b : Bool) : (fsetBit s f i n b).bls = s.bls := rfl
@[simp] theorem fsetBit_routes (f : F) (i n : Nat) (b : Bool) : (fsetBit s f i n b).routes = s.routes := rfl
@[simp] theorem fsetBit_oldMaps (f : F) (i n : Nat) (b : Bool) : (fsetBit s f i n b).oldMaps = s.oldMaps := rfl
@[simp] theorem fsetBit_dill (f : F) (i n : Nat) (b : Bool) : (fsetBit s f i n b).dill = s.dill := rfl
@[simp] theorem fsetBit_declares (f : F) (i n : Nat) (b : Bool) : (fsetBit s f i n b).declares = s.declares := rfl
@[simp] theorem fsetBit_prefetches (f : F) (i n : Nat) (b : Bool) : (fsetBit s f i n b).prefetches = s.prefetches := rfl
@[simp] theorem fsetBit_scrubOf (f : F) (i n : Nat) (b : Bool) : (fsetBit s f i n b).scrubOf = s.scrubOf := rfl
@[simp] theorem fsetBit_missHist (f : F) (i n : Nat) (b : Bool) : (fsetBit s f i n b).missHist = s.missHist := rfl
@[simp] theorem fsetBit_regionClk (f : F) (i n : Nat) (b : Bool) : (fsetBit s f i n b).regionClk = s.regionClk := rfl
@[simp] theorem fsetBit_wins (f : F) (i n : Nat) (b : Bool) : (fsetBit s f i n b).wins = s.wins := rfl
@[simp] theorem fsetBit_winsNew (f : F) (i n : Nat) (b : Bool) : (fsetBit s f i n b).winsNew = s.winsNew := rfl
@[simp] theorem fsetBit_meters (f : F) (i n : Nat) (b : Bool) : (fsetBit s f i n b).meters = s.meters := rfl
@[simp] theorem fsetBit_troubles (f : F) (i n : Nat) (b : Bool) : (fsetBit s f i n b).troubles = s.troubles := rfl
@[simp] theorem fsetBit_portQ (f : F) (i n : Nat) (b : Bool) : (fsetBit s f i n b).portQ = s.portQ := rfl
@[simp] theorem fsetBit_portArb (f : F) (i n : Nat) (b : Bool) : (fsetBit s f i n b).portArb = s.portArb := rfl
@[simp] theorem fsetBit_unacked (f : F) (i n : Nat) (b : Bool) : (fsetBit s f i n b).unacked = s.unacked := rfl
@[simp] theorem fsetBit_remotes (f : F) (i n : Nat) (b : Bool) : (fsetBit s f i n b).remotes = s.remotes := rfl
@[simp] theorem fsetBit_links (f : F) (i n : Nat) (b : Bool) : (fsetBit s f i n b).links = s.links := rfl
@[simp] theorem fsetBit_flitOut (f : F) (i n : Nat) (b : Bool) : (fsetBit s f i n b).flitOut = s.flitOut := rfl
@[simp] theorem fsetBit_breaks (f : F) (i n : Nat) (b : Bool) : (fsetBit s f i n b).breaks = s.breaks := rfl
@[simp] theorem fsetBit_dirs (f : F) (i n : Nat) (b : Bool) : (fsetBit s f i n b).dirs = s.dirs := rfl
@[simp] theorem fsetBit_holders (f : F) (i n : Nat) (b : Bool) : (fsetBit s f i n b).holders = s.holders := rfl
@[simp] theorem fsetBit_nextId (f : F) (i n : Nat) (b : Bool) : (fsetBit s f i n b).nextId = s.nextId := rfl
@[simp] theorem fsetBit_funcs (f : F) (i n : Nat) (b : Bool) : (fsetBit s f i n b).funcs = s.funcs := rfl
@[simp] theorem fsetBit_msix (f : F) (i n : Nat) (b : Bool) : (fsetBit s f i n b).msix = s.msix := rfl
@[simp] theorem fsetBit_tlps (f : F) (i n : Nat) (b : Bool) : (fsetBit s f i n b).tlps = s.tlps := rfl
@[simp] theorem fsetBit_posted (f : F) (i n : Nat) (b : Bool) : (fsetBit s f i n b).posted = s.posted := rfl
@[simp] theorem fsetBit_atc (f : F) (i n : Nat) (b : Bool) : (fsetBit s f i n b).atc = s.atc := rfl
@[simp] theorem fsetBit_atsOut (f : F) (i n : Nat) (b : Bool) : (fsetBit s f i n b).atsOut = s.atsOut := rfl
@[simp] theorem fsetBit_hreads (f : F) (i n : Nat) (b : Bool) : (fsetBit s f i n b).hreads = s.hreads := rfl
@[simp] theorem fsetBit_invals (f : F) (i n : Nat) (b : Bool) : (fsetBit s f i n b).invals = s.invals := rfl
@[simp] theorem fsetBit_rings (f : F) (i n : Nat) (b : Bool) : (fsetBit s f i n b).rings = s.rings := rfl
@[simp] theorem fsetBit_cmds (f : F) (i n : Nat) (b : Bool) : (fsetBit s f i n b).cmds = s.cmds := rfl
@[simp] theorem fsetBit_intake (f : F) (i n : Nat) (b : Bool) : (fsetBit s f i n b).intake = s.intake := rfl
@[simp] theorem fsetBit_turn (f : F) (i n : Nat) (b : Bool) : (fsetBit s f i n b).turn = s.turn := rfl
@[simp] theorem fsetBit_ctxs (f : F) (i n : Nat) (b : Bool) : (fsetBit s f i n b).ctxs = s.ctxs := rfl
@[simp] theorem fsetBit_objs (f : F) (i n : Nat) (b : Bool) : (fsetBit s f i n b).objs = s.objs := rfl
@[simp] theorem fsetBit_fences (f : F) (i n : Nat) (b : Bool) : (fsetBit s f i n b).fences = s.fences := rfl
@[simp] theorem fsetBit_faults (f : F) (i n : Nat) (b : Bool) : (fsetBit s f i n b).faults = s.faults := rfl
@[simp] theorem fsetBit_hints (f : F) (i n : Nat) (b : Bool) : (fsetBit s f i n b).hints = s.hints := rfl
@[simp] theorem fsetBit_reqs (f : F) (i n : Nat) (b : Bool) : (fsetBit s f i n b).reqs = s.reqs := rfl
@[simp] theorem fsetBit_services (f : F) (i n : Nat) (b : Bool) : (fsetBit s f i n b).services = s.services := rfl
@[simp] theorem fsetBit_lentExt (f : F) (i n : Nat) (b : Bool) : (fsetBit s f i n b).lentExt = s.lentExt := rfl
@[simp] theorem fsetBit_chans (f : F) (i n : Nat) (b : Bool) : (fsetBit s f i n b).chans = s.chans := rfl
@[simp] theorem fsetBit_comp (f : F) (i n : Nat) (b : Bool) : (fsetBit s f i n b).comp = s.comp := rfl
@[simp] theorem fsetBit_notices (f : F) (i n : Nat) (b : Bool) : (fsetBit s f i n b).notices = s.notices := rfl
@[simp] theorem fsetBit_compOut (f : F) (i n : Nat) (b : Bool) : (fsetBit s f i n b).compOut = s.compOut := rfl
@[simp] theorem fsetBit_reads (f : F) (i n : Nat) (b : Bool) : (fsetBit s f i n b).reads = s.reads := rfl
@[simp] theorem fsetBit_measures (f : F) (i n : Nat) (b : Bool) : (fsetBit s f i n b).measures = s.measures := rfl
@[simp] theorem fsetBit_harts (f : F) (i n : Nat) (b : Bool) : (fsetBit s f i n b).harts = s.harts := rfl
@[simp] theorem fsetBit_sorts (f : F) (i n : Nat) (b : Bool) : (fsetBit s f i n b).sorts = s.sorts := rfl
@[simp] theorem fsetBit_dirPtr (f : F) (i n : Nat) (b : Bool) : (fsetBit s f i n b).dirPtr = s.dirPtr := rfl
@[simp] theorem fsetBit_dirPlru (f : F) (i n : Nat) (b : Bool) : (fsetBit s f i n b).dirPlru = s.dirPlru := rfl
@[simp] theorem fsetBit_dirHeld (f : F) (i n : Nat) (b : Bool) : (fsetBit s f i n b).dirHeld = s.dirHeld := rfl
@[simp] theorem fsetBit_power (f : F) (i n : Nat) (b : Bool) : (fsetBit s f i n b).power = s.power := rfl
@[simp] theorem fsetBit_rst (f : F) (i n : Nat) (b : Bool) : (fsetBit s f i n b).rst = s.rst := rfl
@[simp] theorem fsetBit_shuts (f : F) (i n : Nat) (b : Bool) : (fsetBit s f i n b).shuts = s.shuts := rfl
@[simp] theorem fsetBit_mod (f : F) (i n : Nat) (b : Bool) : (fsetBit s f i n b).mod = s.mod := rfl

@[simp] theorem setCore_pending (c : Nat) (x : Core) : (setCore s c x).pending = s.pending := rfl
@[simp] theorem setCore_freeCtr (c : Nat) (x : Core) : (setCore s c x).freeCtr = s.freeCtr := rfl
@[simp] theorem setCore_stalled (c : Nat) (x : Core) : (setCore s c x).stalled = s.stalled := rfl
@[simp] theorem setCore_now (c : Nat) (x : Core) : (setCore s c x).now = s.now := rfl
@[simp] theorem setCore_regs (c : Nat) (x : Core) : (setCore s c x).regs = s.regs := rfl
@[simp] theorem setCore_mem (c : Nat) (x : Core) : (setCore s c x).mem = s.mem := rfl
@[simp] theorem setCore_ueLines (c : Nat) (x : Core) : (setCore s c x).ueLines = s.ueLines := rfl
@[simp] theorem setCore_launches (c : Nat) (x : Core) : (setCore s c x).launches = s.launches := rfl
@[simp] theorem setCore_heldAcc (c : Nat) (x : Core) : (setCore s c x).heldAcc = s.heldAcc := rfl
@[simp] theorem setCore_answers (c : Nat) (x : Core) : (setCore s c x).answers = s.answers := rfl
@[simp] theorem setCore_scache (c : Nat) (x : Core) : (setCore s c x).scache = s.scache := rfl
@[simp] theorem setCore_scPlru (c : Nat) (x : Core) : (setCore s c x).scPlru = s.scPlru := rfl
@[simp] theorem setCore_depot (c : Nat) (x : Core) : (setCore s c x).depot = s.depot := rfl
@[simp] theorem setCore_depotPlru (c : Nat) (x : Core) : (setCore s c x).depotPlru = s.depotPlru := rfl
@[simp] theorem setCore_mesh (c : Nat) (x : Core) : (setCore s c x).mesh = s.mesh := rfl
@[simp] theorem setCore_watch (c : Nat) (x : Core) : (setCore s c x).watch = s.watch := rfl
@[simp] theorem setCore_meshArb (c : Nat) (x : Core) : (setCore s c x).meshArb = s.meshArb := rfl
@[simp] theorem setCore_ejected (c : Nat) (x : Core) : (setCore s c x).ejected = s.ejected := rfl
@[simp] theorem setCore_sigs (c : Nat) (x : Core) : (setCore s c x).sigs = s.sigs := rfl
@[simp] theorem setCore_mdSigs (c : Nat) (x : Core) : (setCore s c x).mdSigs = s.mdSigs := rfl
@[simp] theorem setCore_stopSigs (c : Nat) (x : Core) : (setCore s c x).stopSigs = s.stopSigs := rfl
@[simp] theorem setCore_rxq (c : Nat) (x : Core) : (setCore s c x).rxq = s.rxq := rfl
@[simp] theorem setCore_kvgLanes (c : Nat) (x : Core) : (setCore s c x).kvgLanes = s.kvgLanes := rfl
@[simp] theorem setCore_kvg (c : Nat) (x : Core) : (setCore s c x).kvg = s.kvg := rfl
@[simp] theorem setCore_points (c : Nat) (x : Core) : (setCore s c x).points = s.points := rfl
@[simp] theorem setCore_bls (c : Nat) (x : Core) : (setCore s c x).bls = s.bls := rfl
@[simp] theorem setCore_routes (c : Nat) (x : Core) : (setCore s c x).routes = s.routes := rfl
@[simp] theorem setCore_oldMaps (c : Nat) (x : Core) : (setCore s c x).oldMaps = s.oldMaps := rfl
@[simp] theorem setCore_dill (c : Nat) (x : Core) : (setCore s c x).dill = s.dill := rfl
@[simp] theorem setCore_declares (c : Nat) (x : Core) : (setCore s c x).declares = s.declares := rfl
@[simp] theorem setCore_prefetches (c : Nat) (x : Core) : (setCore s c x).prefetches = s.prefetches := rfl
@[simp] theorem setCore_scrubOf (c : Nat) (x : Core) : (setCore s c x).scrubOf = s.scrubOf := rfl
@[simp] theorem setCore_missHist (c : Nat) (x : Core) : (setCore s c x).missHist = s.missHist := rfl
@[simp] theorem setCore_regionClk (c : Nat) (x : Core) : (setCore s c x).regionClk = s.regionClk := rfl
@[simp] theorem setCore_wins (c : Nat) (x : Core) : (setCore s c x).wins = s.wins := rfl
@[simp] theorem setCore_winsNew (c : Nat) (x : Core) : (setCore s c x).winsNew = s.winsNew := rfl
@[simp] theorem setCore_meters (c : Nat) (x : Core) : (setCore s c x).meters = s.meters := rfl
@[simp] theorem setCore_troubles (c : Nat) (x : Core) : (setCore s c x).troubles = s.troubles := rfl
@[simp] theorem setCore_portQ (c : Nat) (x : Core) : (setCore s c x).portQ = s.portQ := rfl
@[simp] theorem setCore_portArb (c : Nat) (x : Core) : (setCore s c x).portArb = s.portArb := rfl
@[simp] theorem setCore_unacked (c : Nat) (x : Core) : (setCore s c x).unacked = s.unacked := rfl
@[simp] theorem setCore_remotes (c : Nat) (x : Core) : (setCore s c x).remotes = s.remotes := rfl
@[simp] theorem setCore_links (c : Nat) (x : Core) : (setCore s c x).links = s.links := rfl
@[simp] theorem setCore_flitOut (c : Nat) (x : Core) : (setCore s c x).flitOut = s.flitOut := rfl
@[simp] theorem setCore_breaks (c : Nat) (x : Core) : (setCore s c x).breaks = s.breaks := rfl
@[simp] theorem setCore_dirs (c : Nat) (x : Core) : (setCore s c x).dirs = s.dirs := rfl
@[simp] theorem setCore_holders (c : Nat) (x : Core) : (setCore s c x).holders = s.holders := rfl
@[simp] theorem setCore_nextId (c : Nat) (x : Core) : (setCore s c x).nextId = s.nextId := rfl
@[simp] theorem setCore_funcs (c : Nat) (x : Core) : (setCore s c x).funcs = s.funcs := rfl
@[simp] theorem setCore_msix (c : Nat) (x : Core) : (setCore s c x).msix = s.msix := rfl
@[simp] theorem setCore_tlps (c : Nat) (x : Core) : (setCore s c x).tlps = s.tlps := rfl
@[simp] theorem setCore_posted (c : Nat) (x : Core) : (setCore s c x).posted = s.posted := rfl
@[simp] theorem setCore_atc (c : Nat) (x : Core) : (setCore s c x).atc = s.atc := rfl
@[simp] theorem setCore_atsOut (c : Nat) (x : Core) : (setCore s c x).atsOut = s.atsOut := rfl
@[simp] theorem setCore_hreads (c : Nat) (x : Core) : (setCore s c x).hreads = s.hreads := rfl
@[simp] theorem setCore_invals (c : Nat) (x : Core) : (setCore s c x).invals = s.invals := rfl
@[simp] theorem setCore_rings (c : Nat) (x : Core) : (setCore s c x).rings = s.rings := rfl
@[simp] theorem setCore_cmds (c : Nat) (x : Core) : (setCore s c x).cmds = s.cmds := rfl
@[simp] theorem setCore_intake (c : Nat) (x : Core) : (setCore s c x).intake = s.intake := rfl
@[simp] theorem setCore_turn (c : Nat) (x : Core) : (setCore s c x).turn = s.turn := rfl
@[simp] theorem setCore_ctxs (c : Nat) (x : Core) : (setCore s c x).ctxs = s.ctxs := rfl
@[simp] theorem setCore_objs (c : Nat) (x : Core) : (setCore s c x).objs = s.objs := rfl
@[simp] theorem setCore_fences (c : Nat) (x : Core) : (setCore s c x).fences = s.fences := rfl
@[simp] theorem setCore_faults (c : Nat) (x : Core) : (setCore s c x).faults = s.faults := rfl
@[simp] theorem setCore_hints (c : Nat) (x : Core) : (setCore s c x).hints = s.hints := rfl
@[simp] theorem setCore_reqs (c : Nat) (x : Core) : (setCore s c x).reqs = s.reqs := rfl
@[simp] theorem setCore_services (c : Nat) (x : Core) : (setCore s c x).services = s.services := rfl
@[simp] theorem setCore_lentExt (c : Nat) (x : Core) : (setCore s c x).lentExt = s.lentExt := rfl
@[simp] theorem setCore_chans (c : Nat) (x : Core) : (setCore s c x).chans = s.chans := rfl
@[simp] theorem setCore_comp (c : Nat) (x : Core) : (setCore s c x).comp = s.comp := rfl
@[simp] theorem setCore_notices (c : Nat) (x : Core) : (setCore s c x).notices = s.notices := rfl
@[simp] theorem setCore_compOut (c : Nat) (x : Core) : (setCore s c x).compOut = s.compOut := rfl
@[simp] theorem setCore_reads (c : Nat) (x : Core) : (setCore s c x).reads = s.reads := rfl
@[simp] theorem setCore_measures (c : Nat) (x : Core) : (setCore s c x).measures = s.measures := rfl
@[simp] theorem setCore_harts (c : Nat) (x : Core) : (setCore s c x).harts = s.harts := rfl
@[simp] theorem setCore_sorts (c : Nat) (x : Core) : (setCore s c x).sorts = s.sorts := rfl
@[simp] theorem setCore_dirPtr (c : Nat) (x : Core) : (setCore s c x).dirPtr = s.dirPtr := rfl
@[simp] theorem setCore_dirPlru (c : Nat) (x : Core) : (setCore s c x).dirPlru = s.dirPlru := rfl
@[simp] theorem setCore_dirHeld (c : Nat) (x : Core) : (setCore s c x).dirHeld = s.dirHeld := rfl
@[simp] theorem setCore_power (c : Nat) (x : Core) : (setCore s c x).power = s.power := rfl
@[simp] theorem setCore_rst (c : Nat) (x : Core) : (setCore s c x).rst = s.rst := rfl
@[simp] theorem setCore_shuts (c : Nat) (x : Core) : (setCore s c x).shuts = s.shuts := rfl
@[simp] theorem setCore_mod (c : Nat) (x : Core) : (setCore s c x).mod = s.mod := rfl
@[simp] theorem fget_setCore (c : Nat) (x : Core) (ff : F) (j : Nat) : fget (setCore s c x) ff j = fget s ff j := rfl
@[simp] theorem fbit_setCore (c : Nat) (x : Core) (ff : F) (j : Nat) : fbit (setCore s c x) ff j = fbit s ff j := rfl

@[simp] theorem setCoreState_pending (c v : Nat) : (setCoreState s c v).pending = s.pending := rfl
@[simp] theorem setCoreState_freeCtr (c v : Nat) : (setCoreState s c v).freeCtr = s.freeCtr := rfl
@[simp] theorem setCoreState_stalled (c v : Nat) : (setCoreState s c v).stalled = s.stalled := rfl
@[simp] theorem setCoreState_now (c v : Nat) : (setCoreState s c v).now = s.now := rfl
@[simp] theorem setCoreState_mem (c v : Nat) : (setCoreState s c v).mem = s.mem := rfl
@[simp] theorem setCoreState_ueLines (c v : Nat) : (setCoreState s c v).ueLines = s.ueLines := rfl
@[simp] theorem setCoreState_cores (c v : Nat) : (setCoreState s c v).cores = s.cores := rfl
@[simp] theorem setCoreState_launches (c v : Nat) : (setCoreState s c v).launches = s.launches := rfl
@[simp] theorem setCoreState_heldAcc (c v : Nat) : (setCoreState s c v).heldAcc = s.heldAcc := rfl
@[simp] theorem setCoreState_answers (c v : Nat) : (setCoreState s c v).answers = s.answers := rfl
@[simp] theorem setCoreState_scache (c v : Nat) : (setCoreState s c v).scache = s.scache := rfl
@[simp] theorem setCoreState_scPlru (c v : Nat) : (setCoreState s c v).scPlru = s.scPlru := rfl
@[simp] theorem setCoreState_depot (c v : Nat) : (setCoreState s c v).depot = s.depot := rfl
@[simp] theorem setCoreState_depotPlru (c v : Nat) : (setCoreState s c v).depotPlru = s.depotPlru := rfl
@[simp] theorem setCoreState_mesh (c v : Nat) : (setCoreState s c v).mesh = s.mesh := rfl
@[simp] theorem setCoreState_watch (c v : Nat) : (setCoreState s c v).watch = s.watch := rfl
@[simp] theorem setCoreState_meshArb (c v : Nat) : (setCoreState s c v).meshArb = s.meshArb := rfl
@[simp] theorem setCoreState_ejected (c v : Nat) : (setCoreState s c v).ejected = s.ejected := rfl
@[simp] theorem setCoreState_sigs (c v : Nat) : (setCoreState s c v).sigs = s.sigs := rfl
@[simp] theorem setCoreState_mdSigs (c v : Nat) : (setCoreState s c v).mdSigs = s.mdSigs := rfl
@[simp] theorem setCoreState_stopSigs (c v : Nat) : (setCoreState s c v).stopSigs = s.stopSigs := rfl
@[simp] theorem setCoreState_rxq (c v : Nat) : (setCoreState s c v).rxq = s.rxq := rfl
@[simp] theorem setCoreState_kvgLanes (c v : Nat) : (setCoreState s c v).kvgLanes = s.kvgLanes := rfl
@[simp] theorem setCoreState_kvg (c v : Nat) : (setCoreState s c v).kvg = s.kvg := rfl
@[simp] theorem setCoreState_points (c v : Nat) : (setCoreState s c v).points = s.points := rfl
@[simp] theorem setCoreState_bls (c v : Nat) : (setCoreState s c v).bls = s.bls := rfl
@[simp] theorem setCoreState_routes (c v : Nat) : (setCoreState s c v).routes = s.routes := rfl
@[simp] theorem setCoreState_oldMaps (c v : Nat) : (setCoreState s c v).oldMaps = s.oldMaps := rfl
@[simp] theorem setCoreState_dill (c v : Nat) : (setCoreState s c v).dill = s.dill := rfl
@[simp] theorem setCoreState_declares (c v : Nat) : (setCoreState s c v).declares = s.declares := rfl
@[simp] theorem setCoreState_prefetches (c v : Nat) : (setCoreState s c v).prefetches = s.prefetches := rfl
@[simp] theorem setCoreState_scrubOf (c v : Nat) : (setCoreState s c v).scrubOf = s.scrubOf := rfl
@[simp] theorem setCoreState_missHist (c v : Nat) : (setCoreState s c v).missHist = s.missHist := rfl
@[simp] theorem setCoreState_regionClk (c v : Nat) : (setCoreState s c v).regionClk = s.regionClk := rfl
@[simp] theorem setCoreState_wins (c v : Nat) : (setCoreState s c v).wins = s.wins := rfl
@[simp] theorem setCoreState_winsNew (c v : Nat) : (setCoreState s c v).winsNew = s.winsNew := rfl
@[simp] theorem setCoreState_meters (c v : Nat) : (setCoreState s c v).meters = s.meters := rfl
@[simp] theorem setCoreState_troubles (c v : Nat) : (setCoreState s c v).troubles = s.troubles := rfl
@[simp] theorem setCoreState_portQ (c v : Nat) : (setCoreState s c v).portQ = s.portQ := rfl
@[simp] theorem setCoreState_portArb (c v : Nat) : (setCoreState s c v).portArb = s.portArb := rfl
@[simp] theorem setCoreState_unacked (c v : Nat) : (setCoreState s c v).unacked = s.unacked := rfl
@[simp] theorem setCoreState_remotes (c v : Nat) : (setCoreState s c v).remotes = s.remotes := rfl
@[simp] theorem setCoreState_links (c v : Nat) : (setCoreState s c v).links = s.links := rfl
@[simp] theorem setCoreState_flitOut (c v : Nat) : (setCoreState s c v).flitOut = s.flitOut := rfl
@[simp] theorem setCoreState_breaks (c v : Nat) : (setCoreState s c v).breaks = s.breaks := rfl
@[simp] theorem setCoreState_dirs (c v : Nat) : (setCoreState s c v).dirs = s.dirs := rfl
@[simp] theorem setCoreState_holders (c v : Nat) : (setCoreState s c v).holders = s.holders := rfl
@[simp] theorem setCoreState_nextId (c v : Nat) : (setCoreState s c v).nextId = s.nextId := rfl
@[simp] theorem setCoreState_funcs (c v : Nat) : (setCoreState s c v).funcs = s.funcs := rfl
@[simp] theorem setCoreState_msix (c v : Nat) : (setCoreState s c v).msix = s.msix := rfl
@[simp] theorem setCoreState_tlps (c v : Nat) : (setCoreState s c v).tlps = s.tlps := rfl
@[simp] theorem setCoreState_posted (c v : Nat) : (setCoreState s c v).posted = s.posted := rfl
@[simp] theorem setCoreState_atc (c v : Nat) : (setCoreState s c v).atc = s.atc := rfl
@[simp] theorem setCoreState_atsOut (c v : Nat) : (setCoreState s c v).atsOut = s.atsOut := rfl
@[simp] theorem setCoreState_hreads (c v : Nat) : (setCoreState s c v).hreads = s.hreads := rfl
@[simp] theorem setCoreState_invals (c v : Nat) : (setCoreState s c v).invals = s.invals := rfl
@[simp] theorem setCoreState_rings (c v : Nat) : (setCoreState s c v).rings = s.rings := rfl
@[simp] theorem setCoreState_cmds (c v : Nat) : (setCoreState s c v).cmds = s.cmds := rfl
@[simp] theorem setCoreState_intake (c v : Nat) : (setCoreState s c v).intake = s.intake := rfl
@[simp] theorem setCoreState_turn (c v : Nat) : (setCoreState s c v).turn = s.turn := rfl
@[simp] theorem setCoreState_ctxs (c v : Nat) : (setCoreState s c v).ctxs = s.ctxs := rfl
@[simp] theorem setCoreState_objs (c v : Nat) : (setCoreState s c v).objs = s.objs := rfl
@[simp] theorem setCoreState_fences (c v : Nat) : (setCoreState s c v).fences = s.fences := rfl
@[simp] theorem setCoreState_faults (c v : Nat) : (setCoreState s c v).faults = s.faults := rfl
@[simp] theorem setCoreState_hints (c v : Nat) : (setCoreState s c v).hints = s.hints := rfl
@[simp] theorem setCoreState_reqs (c v : Nat) : (setCoreState s c v).reqs = s.reqs := rfl
@[simp] theorem setCoreState_services (c v : Nat) : (setCoreState s c v).services = s.services := rfl
@[simp] theorem setCoreState_lentExt (c v : Nat) : (setCoreState s c v).lentExt = s.lentExt := rfl
@[simp] theorem setCoreState_chans (c v : Nat) : (setCoreState s c v).chans = s.chans := rfl
@[simp] theorem setCoreState_comp (c v : Nat) : (setCoreState s c v).comp = s.comp := rfl
@[simp] theorem setCoreState_notices (c v : Nat) : (setCoreState s c v).notices = s.notices := rfl
@[simp] theorem setCoreState_compOut (c v : Nat) : (setCoreState s c v).compOut = s.compOut := rfl
@[simp] theorem setCoreState_reads (c v : Nat) : (setCoreState s c v).reads = s.reads := rfl
@[simp] theorem setCoreState_measures (c v : Nat) : (setCoreState s c v).measures = s.measures := rfl
@[simp] theorem setCoreState_harts (c v : Nat) : (setCoreState s c v).harts = s.harts := rfl
@[simp] theorem setCoreState_sorts (c v : Nat) : (setCoreState s c v).sorts = s.sorts := rfl
@[simp] theorem setCoreState_dirPtr (c v : Nat) : (setCoreState s c v).dirPtr = s.dirPtr := rfl
@[simp] theorem setCoreState_dirPlru (c v : Nat) : (setCoreState s c v).dirPlru = s.dirPlru := rfl
@[simp] theorem setCoreState_dirHeld (c v : Nat) : (setCoreState s c v).dirHeld = s.dirHeld := rfl
@[simp] theorem setCoreState_power (c v : Nat) : (setCoreState s c v).power = s.power := rfl
@[simp] theorem setCoreState_rst (c v : Nat) : (setCoreState s c v).rst = s.rst := rfl
@[simp] theorem setCoreState_shuts (c v : Nat) : (setCoreState s c v).shuts = s.shuts := rfl
@[simp] theorem setCoreState_mod (c v : Nat) : (setCoreState s c v).mod = s.mod := rfl

@[simp] theorem sendSignal_pending (die stop : Nat) (m : Signal) : (sendSignal s die stop m).pending = s.pending := rfl
@[simp] theorem sendSignal_freeCtr (die stop : Nat) (m : Signal) : (sendSignal s die stop m).freeCtr = s.freeCtr := rfl
@[simp] theorem sendSignal_stalled (die stop : Nat) (m : Signal) : (sendSignal s die stop m).stalled = s.stalled := rfl
@[simp] theorem sendSignal_now (die stop : Nat) (m : Signal) : (sendSignal s die stop m).now = s.now := rfl
@[simp] theorem sendSignal_regs (die stop : Nat) (m : Signal) : (sendSignal s die stop m).regs = s.regs := rfl
@[simp] theorem sendSignal_mem (die stop : Nat) (m : Signal) : (sendSignal s die stop m).mem = s.mem := rfl
@[simp] theorem sendSignal_ueLines (die stop : Nat) (m : Signal) : (sendSignal s die stop m).ueLines = s.ueLines := rfl
@[simp] theorem sendSignal_cores (die stop : Nat) (m : Signal) : (sendSignal s die stop m).cores = s.cores := rfl
@[simp] theorem sendSignal_launches (die stop : Nat) (m : Signal) : (sendSignal s die stop m).launches = s.launches := rfl
@[simp] theorem sendSignal_heldAcc (die stop : Nat) (m : Signal) : (sendSignal s die stop m).heldAcc = s.heldAcc := rfl
@[simp] theorem sendSignal_answers (die stop : Nat) (m : Signal) : (sendSignal s die stop m).answers = s.answers := rfl
@[simp] theorem sendSignal_scache (die stop : Nat) (m : Signal) : (sendSignal s die stop m).scache = s.scache := rfl
@[simp] theorem sendSignal_scPlru (die stop : Nat) (m : Signal) : (sendSignal s die stop m).scPlru = s.scPlru := rfl
@[simp] theorem sendSignal_depot (die stop : Nat) (m : Signal) : (sendSignal s die stop m).depot = s.depot := rfl
@[simp] theorem sendSignal_depotPlru (die stop : Nat) (m : Signal) : (sendSignal s die stop m).depotPlru = s.depotPlru := rfl
@[simp] theorem sendSignal_mesh (die stop : Nat) (m : Signal) : (sendSignal s die stop m).mesh = s.mesh := rfl
@[simp] theorem sendSignal_watch (die stop : Nat) (m : Signal) : (sendSignal s die stop m).watch = s.watch := rfl
@[simp] theorem sendSignal_meshArb (die stop : Nat) (m : Signal) : (sendSignal s die stop m).meshArb = s.meshArb := rfl
@[simp] theorem sendSignal_ejected (die stop : Nat) (m : Signal) : (sendSignal s die stop m).ejected = s.ejected := rfl
@[simp] theorem sendSignal_mdSigs (die stop : Nat) (m : Signal) : (sendSignal s die stop m).mdSigs = s.mdSigs := rfl
@[simp] theorem sendSignal_stopSigs (die stop : Nat) (m : Signal) : (sendSignal s die stop m).stopSigs = s.stopSigs := rfl
@[simp] theorem sendSignal_rxq (die stop : Nat) (m : Signal) : (sendSignal s die stop m).rxq = s.rxq := rfl
@[simp] theorem sendSignal_kvgLanes (die stop : Nat) (m : Signal) : (sendSignal s die stop m).kvgLanes = s.kvgLanes := rfl
@[simp] theorem sendSignal_kvg (die stop : Nat) (m : Signal) : (sendSignal s die stop m).kvg = s.kvg := rfl
@[simp] theorem sendSignal_points (die stop : Nat) (m : Signal) : (sendSignal s die stop m).points = s.points := rfl
@[simp] theorem sendSignal_bls (die stop : Nat) (m : Signal) : (sendSignal s die stop m).bls = s.bls := rfl
@[simp] theorem sendSignal_routes (die stop : Nat) (m : Signal) : (sendSignal s die stop m).routes = s.routes := rfl
@[simp] theorem sendSignal_oldMaps (die stop : Nat) (m : Signal) : (sendSignal s die stop m).oldMaps = s.oldMaps := rfl
@[simp] theorem sendSignal_dill (die stop : Nat) (m : Signal) : (sendSignal s die stop m).dill = s.dill := rfl
@[simp] theorem sendSignal_declares (die stop : Nat) (m : Signal) : (sendSignal s die stop m).declares = s.declares := rfl
@[simp] theorem sendSignal_prefetches (die stop : Nat) (m : Signal) : (sendSignal s die stop m).prefetches = s.prefetches := rfl
@[simp] theorem sendSignal_scrubOf (die stop : Nat) (m : Signal) : (sendSignal s die stop m).scrubOf = s.scrubOf := rfl
@[simp] theorem sendSignal_missHist (die stop : Nat) (m : Signal) : (sendSignal s die stop m).missHist = s.missHist := rfl
@[simp] theorem sendSignal_regionClk (die stop : Nat) (m : Signal) : (sendSignal s die stop m).regionClk = s.regionClk := rfl
@[simp] theorem sendSignal_wins (die stop : Nat) (m : Signal) : (sendSignal s die stop m).wins = s.wins := rfl
@[simp] theorem sendSignal_winsNew (die stop : Nat) (m : Signal) : (sendSignal s die stop m).winsNew = s.winsNew := rfl
@[simp] theorem sendSignal_meters (die stop : Nat) (m : Signal) : (sendSignal s die stop m).meters = s.meters := rfl
@[simp] theorem sendSignal_troubles (die stop : Nat) (m : Signal) : (sendSignal s die stop m).troubles = s.troubles := rfl
@[simp] theorem sendSignal_portQ (die stop : Nat) (m : Signal) : (sendSignal s die stop m).portQ = s.portQ := rfl
@[simp] theorem sendSignal_portArb (die stop : Nat) (m : Signal) : (sendSignal s die stop m).portArb = s.portArb := rfl
@[simp] theorem sendSignal_unacked (die stop : Nat) (m : Signal) : (sendSignal s die stop m).unacked = s.unacked := rfl
@[simp] theorem sendSignal_remotes (die stop : Nat) (m : Signal) : (sendSignal s die stop m).remotes = s.remotes := rfl
@[simp] theorem sendSignal_links (die stop : Nat) (m : Signal) : (sendSignal s die stop m).links = s.links := rfl
@[simp] theorem sendSignal_flitOut (die stop : Nat) (m : Signal) : (sendSignal s die stop m).flitOut = s.flitOut := rfl
@[simp] theorem sendSignal_breaks (die stop : Nat) (m : Signal) : (sendSignal s die stop m).breaks = s.breaks := rfl
@[simp] theorem sendSignal_dirs (die stop : Nat) (m : Signal) : (sendSignal s die stop m).dirs = s.dirs := rfl
@[simp] theorem sendSignal_holders (die stop : Nat) (m : Signal) : (sendSignal s die stop m).holders = s.holders := rfl
@[simp] theorem sendSignal_nextId (die stop : Nat) (m : Signal) : (sendSignal s die stop m).nextId = s.nextId := rfl
@[simp] theorem sendSignal_funcs (die stop : Nat) (m : Signal) : (sendSignal s die stop m).funcs = s.funcs := rfl
@[simp] theorem sendSignal_msix (die stop : Nat) (m : Signal) : (sendSignal s die stop m).msix = s.msix := rfl
@[simp] theorem sendSignal_tlps (die stop : Nat) (m : Signal) : (sendSignal s die stop m).tlps = s.tlps := rfl
@[simp] theorem sendSignal_posted (die stop : Nat) (m : Signal) : (sendSignal s die stop m).posted = s.posted := rfl
@[simp] theorem sendSignal_atc (die stop : Nat) (m : Signal) : (sendSignal s die stop m).atc = s.atc := rfl
@[simp] theorem sendSignal_atsOut (die stop : Nat) (m : Signal) : (sendSignal s die stop m).atsOut = s.atsOut := rfl
@[simp] theorem sendSignal_hreads (die stop : Nat) (m : Signal) : (sendSignal s die stop m).hreads = s.hreads := rfl
@[simp] theorem sendSignal_invals (die stop : Nat) (m : Signal) : (sendSignal s die stop m).invals = s.invals := rfl
@[simp] theorem sendSignal_rings (die stop : Nat) (m : Signal) : (sendSignal s die stop m).rings = s.rings := rfl
@[simp] theorem sendSignal_cmds (die stop : Nat) (m : Signal) : (sendSignal s die stop m).cmds = s.cmds := rfl
@[simp] theorem sendSignal_intake (die stop : Nat) (m : Signal) : (sendSignal s die stop m).intake = s.intake := rfl
@[simp] theorem sendSignal_turn (die stop : Nat) (m : Signal) : (sendSignal s die stop m).turn = s.turn := rfl
@[simp] theorem sendSignal_ctxs (die stop : Nat) (m : Signal) : (sendSignal s die stop m).ctxs = s.ctxs := rfl
@[simp] theorem sendSignal_objs (die stop : Nat) (m : Signal) : (sendSignal s die stop m).objs = s.objs := rfl
@[simp] theorem sendSignal_fences (die stop : Nat) (m : Signal) : (sendSignal s die stop m).fences = s.fences := rfl
@[simp] theorem sendSignal_faults (die stop : Nat) (m : Signal) : (sendSignal s die stop m).faults = s.faults := rfl
@[simp] theorem sendSignal_hints (die stop : Nat) (m : Signal) : (sendSignal s die stop m).hints = s.hints := rfl
@[simp] theorem sendSignal_reqs (die stop : Nat) (m : Signal) : (sendSignal s die stop m).reqs = s.reqs := rfl
@[simp] theorem sendSignal_services (die stop : Nat) (m : Signal) : (sendSignal s die stop m).services = s.services := rfl
@[simp] theorem sendSignal_lentExt (die stop : Nat) (m : Signal) : (sendSignal s die stop m).lentExt = s.lentExt := rfl
@[simp] theorem sendSignal_chans (die stop : Nat) (m : Signal) : (sendSignal s die stop m).chans = s.chans := rfl
@[simp] theorem sendSignal_comp (die stop : Nat) (m : Signal) : (sendSignal s die stop m).comp = s.comp := rfl
@[simp] theorem sendSignal_notices (die stop : Nat) (m : Signal) : (sendSignal s die stop m).notices = s.notices := rfl
@[simp] theorem sendSignal_compOut (die stop : Nat) (m : Signal) : (sendSignal s die stop m).compOut = s.compOut := rfl
@[simp] theorem sendSignal_reads (die stop : Nat) (m : Signal) : (sendSignal s die stop m).reads = s.reads := rfl
@[simp] theorem sendSignal_measures (die stop : Nat) (m : Signal) : (sendSignal s die stop m).measures = s.measures := rfl
@[simp] theorem sendSignal_harts (die stop : Nat) (m : Signal) : (sendSignal s die stop m).harts = s.harts := rfl
@[simp] theorem sendSignal_sorts (die stop : Nat) (m : Signal) : (sendSignal s die stop m).sorts = s.sorts := rfl
@[simp] theorem sendSignal_dirPtr (die stop : Nat) (m : Signal) : (sendSignal s die stop m).dirPtr = s.dirPtr := rfl
@[simp] theorem sendSignal_dirPlru (die stop : Nat) (m : Signal) : (sendSignal s die stop m).dirPlru = s.dirPlru := rfl
@[simp] theorem sendSignal_dirHeld (die stop : Nat) (m : Signal) : (sendSignal s die stop m).dirHeld = s.dirHeld := rfl
@[simp] theorem sendSignal_power (die stop : Nat) (m : Signal) : (sendSignal s die stop m).power = s.power := rfl
@[simp] theorem sendSignal_rst (die stop : Nat) (m : Signal) : (sendSignal s die stop m).rst = s.rst := rfl
@[simp] theorem sendSignal_shuts (die stop : Nat) (m : Signal) : (sendSignal s die stop m).shuts = s.shuts := rfl
@[simp] theorem sendSignal_mod (die stop : Nat) (m : Signal) : (sendSignal s die stop m).mod = s.mod := rfl
@[simp] theorem fget_sendSignal (die stop : Nat) (m : Signal) (ff : F) (j : Nat) : fget (sendSignal s die stop m) ff j = fget s ff j := rfl
@[simp] theorem fbit_sendSignal (die stop : Nat) (m : Signal) (ff : F) (j : Nat) : fbit (sendSignal s die stop m) ff j = fbit s ff j := rfl

@[simp] theorem setUe_pending (line : Nat) (b : Bool) : (setUe s line b).pending = s.pending := rfl
@[simp] theorem setUe_freeCtr (line : Nat) (b : Bool) : (setUe s line b).freeCtr = s.freeCtr := rfl
@[simp] theorem setUe_stalled (line : Nat) (b : Bool) : (setUe s line b).stalled = s.stalled := rfl
@[simp] theorem setUe_now (line : Nat) (b : Bool) : (setUe s line b).now = s.now := rfl
@[simp] theorem setUe_regs (line : Nat) (b : Bool) : (setUe s line b).regs = s.regs := rfl
@[simp] theorem setUe_mem (line : Nat) (b : Bool) : (setUe s line b).mem = s.mem := rfl
@[simp] theorem setUe_cores (line : Nat) (b : Bool) : (setUe s line b).cores = s.cores := rfl
@[simp] theorem setUe_launches (line : Nat) (b : Bool) : (setUe s line b).launches = s.launches := rfl
@[simp] theorem setUe_heldAcc (line : Nat) (b : Bool) : (setUe s line b).heldAcc = s.heldAcc := rfl
@[simp] theorem setUe_answers (line : Nat) (b : Bool) : (setUe s line b).answers = s.answers := rfl
@[simp] theorem setUe_scache (line : Nat) (b : Bool) : (setUe s line b).scache = s.scache := rfl
@[simp] theorem setUe_scPlru (line : Nat) (b : Bool) : (setUe s line b).scPlru = s.scPlru := rfl
@[simp] theorem setUe_depot (line : Nat) (b : Bool) : (setUe s line b).depot = s.depot := rfl
@[simp] theorem setUe_depotPlru (line : Nat) (b : Bool) : (setUe s line b).depotPlru = s.depotPlru := rfl
@[simp] theorem setUe_mesh (line : Nat) (b : Bool) : (setUe s line b).mesh = s.mesh := rfl
@[simp] theorem setUe_watch (line : Nat) (b : Bool) : (setUe s line b).watch = s.watch := rfl
@[simp] theorem setUe_meshArb (line : Nat) (b : Bool) : (setUe s line b).meshArb = s.meshArb := rfl
@[simp] theorem setUe_ejected (line : Nat) (b : Bool) : (setUe s line b).ejected = s.ejected := rfl
@[simp] theorem setUe_sigs (line : Nat) (b : Bool) : (setUe s line b).sigs = s.sigs := rfl
@[simp] theorem setUe_mdSigs (line : Nat) (b : Bool) : (setUe s line b).mdSigs = s.mdSigs := rfl
@[simp] theorem setUe_stopSigs (line : Nat) (b : Bool) : (setUe s line b).stopSigs = s.stopSigs := rfl
@[simp] theorem setUe_rxq (line : Nat) (b : Bool) : (setUe s line b).rxq = s.rxq := rfl
@[simp] theorem setUe_kvgLanes (line : Nat) (b : Bool) : (setUe s line b).kvgLanes = s.kvgLanes := rfl
@[simp] theorem setUe_kvg (line : Nat) (b : Bool) : (setUe s line b).kvg = s.kvg := rfl
@[simp] theorem setUe_points (line : Nat) (b : Bool) : (setUe s line b).points = s.points := rfl
@[simp] theorem setUe_bls (line : Nat) (b : Bool) : (setUe s line b).bls = s.bls := rfl
@[simp] theorem setUe_routes (line : Nat) (b : Bool) : (setUe s line b).routes = s.routes := rfl
@[simp] theorem setUe_oldMaps (line : Nat) (b : Bool) : (setUe s line b).oldMaps = s.oldMaps := rfl
@[simp] theorem setUe_dill (line : Nat) (b : Bool) : (setUe s line b).dill = s.dill := rfl
@[simp] theorem setUe_declares (line : Nat) (b : Bool) : (setUe s line b).declares = s.declares := rfl
@[simp] theorem setUe_prefetches (line : Nat) (b : Bool) : (setUe s line b).prefetches = s.prefetches := rfl
@[simp] theorem setUe_scrubOf (line : Nat) (b : Bool) : (setUe s line b).scrubOf = s.scrubOf := rfl
@[simp] theorem setUe_missHist (line : Nat) (b : Bool) : (setUe s line b).missHist = s.missHist := rfl
@[simp] theorem setUe_regionClk (line : Nat) (b : Bool) : (setUe s line b).regionClk = s.regionClk := rfl
@[simp] theorem setUe_wins (line : Nat) (b : Bool) : (setUe s line b).wins = s.wins := rfl
@[simp] theorem setUe_winsNew (line : Nat) (b : Bool) : (setUe s line b).winsNew = s.winsNew := rfl
@[simp] theorem setUe_meters (line : Nat) (b : Bool) : (setUe s line b).meters = s.meters := rfl
@[simp] theorem setUe_troubles (line : Nat) (b : Bool) : (setUe s line b).troubles = s.troubles := rfl
@[simp] theorem setUe_portQ (line : Nat) (b : Bool) : (setUe s line b).portQ = s.portQ := rfl
@[simp] theorem setUe_portArb (line : Nat) (b : Bool) : (setUe s line b).portArb = s.portArb := rfl
@[simp] theorem setUe_unacked (line : Nat) (b : Bool) : (setUe s line b).unacked = s.unacked := rfl
@[simp] theorem setUe_remotes (line : Nat) (b : Bool) : (setUe s line b).remotes = s.remotes := rfl
@[simp] theorem setUe_links (line : Nat) (b : Bool) : (setUe s line b).links = s.links := rfl
@[simp] theorem setUe_flitOut (line : Nat) (b : Bool) : (setUe s line b).flitOut = s.flitOut := rfl
@[simp] theorem setUe_breaks (line : Nat) (b : Bool) : (setUe s line b).breaks = s.breaks := rfl
@[simp] theorem setUe_dirs (line : Nat) (b : Bool) : (setUe s line b).dirs = s.dirs := rfl
@[simp] theorem setUe_holders (line : Nat) (b : Bool) : (setUe s line b).holders = s.holders := rfl
@[simp] theorem setUe_nextId (line : Nat) (b : Bool) : (setUe s line b).nextId = s.nextId := rfl
@[simp] theorem setUe_funcs (line : Nat) (b : Bool) : (setUe s line b).funcs = s.funcs := rfl
@[simp] theorem setUe_msix (line : Nat) (b : Bool) : (setUe s line b).msix = s.msix := rfl
@[simp] theorem setUe_tlps (line : Nat) (b : Bool) : (setUe s line b).tlps = s.tlps := rfl
@[simp] theorem setUe_posted (line : Nat) (b : Bool) : (setUe s line b).posted = s.posted := rfl
@[simp] theorem setUe_atc (line : Nat) (b : Bool) : (setUe s line b).atc = s.atc := rfl
@[simp] theorem setUe_atsOut (line : Nat) (b : Bool) : (setUe s line b).atsOut = s.atsOut := rfl
@[simp] theorem setUe_hreads (line : Nat) (b : Bool) : (setUe s line b).hreads = s.hreads := rfl
@[simp] theorem setUe_invals (line : Nat) (b : Bool) : (setUe s line b).invals = s.invals := rfl
@[simp] theorem setUe_rings (line : Nat) (b : Bool) : (setUe s line b).rings = s.rings := rfl
@[simp] theorem setUe_cmds (line : Nat) (b : Bool) : (setUe s line b).cmds = s.cmds := rfl
@[simp] theorem setUe_intake (line : Nat) (b : Bool) : (setUe s line b).intake = s.intake := rfl
@[simp] theorem setUe_turn (line : Nat) (b : Bool) : (setUe s line b).turn = s.turn := rfl
@[simp] theorem setUe_ctxs (line : Nat) (b : Bool) : (setUe s line b).ctxs = s.ctxs := rfl
@[simp] theorem setUe_objs (line : Nat) (b : Bool) : (setUe s line b).objs = s.objs := rfl
@[simp] theorem setUe_fences (line : Nat) (b : Bool) : (setUe s line b).fences = s.fences := rfl
@[simp] theorem setUe_faults (line : Nat) (b : Bool) : (setUe s line b).faults = s.faults := rfl
@[simp] theorem setUe_hints (line : Nat) (b : Bool) : (setUe s line b).hints = s.hints := rfl
@[simp] theorem setUe_reqs (line : Nat) (b : Bool) : (setUe s line b).reqs = s.reqs := rfl
@[simp] theorem setUe_services (line : Nat) (b : Bool) : (setUe s line b).services = s.services := rfl
@[simp] theorem setUe_lentExt (line : Nat) (b : Bool) : (setUe s line b).lentExt = s.lentExt := rfl
@[simp] theorem setUe_chans (line : Nat) (b : Bool) : (setUe s line b).chans = s.chans := rfl
@[simp] theorem setUe_comp (line : Nat) (b : Bool) : (setUe s line b).comp = s.comp := rfl
@[simp] theorem setUe_notices (line : Nat) (b : Bool) : (setUe s line b).notices = s.notices := rfl
@[simp] theorem setUe_compOut (line : Nat) (b : Bool) : (setUe s line b).compOut = s.compOut := rfl
@[simp] theorem setUe_reads (line : Nat) (b : Bool) : (setUe s line b).reads = s.reads := rfl
@[simp] theorem setUe_measures (line : Nat) (b : Bool) : (setUe s line b).measures = s.measures := rfl
@[simp] theorem setUe_harts (line : Nat) (b : Bool) : (setUe s line b).harts = s.harts := rfl
@[simp] theorem setUe_sorts (line : Nat) (b : Bool) : (setUe s line b).sorts = s.sorts := rfl
@[simp] theorem setUe_dirPtr (line : Nat) (b : Bool) : (setUe s line b).dirPtr = s.dirPtr := rfl
@[simp] theorem setUe_dirPlru (line : Nat) (b : Bool) : (setUe s line b).dirPlru = s.dirPlru := rfl
@[simp] theorem setUe_dirHeld (line : Nat) (b : Bool) : (setUe s line b).dirHeld = s.dirHeld := rfl
@[simp] theorem setUe_power (line : Nat) (b : Bool) : (setUe s line b).power = s.power := rfl
@[simp] theorem setUe_rst (line : Nat) (b : Bool) : (setUe s line b).rst = s.rst := rfl
@[simp] theorem setUe_shuts (line : Nat) (b : Bool) : (setUe s line b).shuts = s.shuts := rfl
@[simp] theorem setUe_mod (line : Nat) (b : Bool) : (setUe s line b).mod = s.mod := rfl
@[simp] theorem fget_setUe (line : Nat) (b : Bool) (ff : F) (j : Nat) : fget (setUe s line b) ff j = fget s ff j := rfl
@[simp] theorem fbit_setUe (line : Nat) (b : Bool) (ff : F) (j : Nat) : fbit (setUe s line b) ff j = fbit s ff j := rfl

@[simp] theorem depotSet_pending (k set way : Nat) (v : Option Nat) : (depotSet s k set way v).pending = s.pending := rfl
@[simp] theorem depotSet_freeCtr (k set way : Nat) (v : Option Nat) : (depotSet s k set way v).freeCtr = s.freeCtr := rfl
@[simp] theorem depotSet_stalled (k set way : Nat) (v : Option Nat) : (depotSet s k set way v).stalled = s.stalled := rfl
@[simp] theorem depotSet_now (k set way : Nat) (v : Option Nat) : (depotSet s k set way v).now = s.now := rfl
@[simp] theorem depotSet_regs (k set way : Nat) (v : Option Nat) : (depotSet s k set way v).regs = s.regs := rfl
@[simp] theorem depotSet_mem (k set way : Nat) (v : Option Nat) : (depotSet s k set way v).mem = s.mem := rfl
@[simp] theorem depotSet_ueLines (k set way : Nat) (v : Option Nat) : (depotSet s k set way v).ueLines = s.ueLines := rfl
@[simp] theorem depotSet_cores (k set way : Nat) (v : Option Nat) : (depotSet s k set way v).cores = s.cores := rfl
@[simp] theorem depotSet_launches (k set way : Nat) (v : Option Nat) : (depotSet s k set way v).launches = s.launches := rfl
@[simp] theorem depotSet_heldAcc (k set way : Nat) (v : Option Nat) : (depotSet s k set way v).heldAcc = s.heldAcc := rfl
@[simp] theorem depotSet_answers (k set way : Nat) (v : Option Nat) : (depotSet s k set way v).answers = s.answers := rfl
@[simp] theorem depotSet_scache (k set way : Nat) (v : Option Nat) : (depotSet s k set way v).scache = s.scache := rfl
@[simp] theorem depotSet_scPlru (k set way : Nat) (v : Option Nat) : (depotSet s k set way v).scPlru = s.scPlru := rfl
@[simp] theorem depotSet_depotPlru (k set way : Nat) (v : Option Nat) : (depotSet s k set way v).depotPlru = s.depotPlru := rfl
@[simp] theorem depotSet_mesh (k set way : Nat) (v : Option Nat) : (depotSet s k set way v).mesh = s.mesh := rfl
@[simp] theorem depotSet_watch (k set way : Nat) (v : Option Nat) : (depotSet s k set way v).watch = s.watch := rfl
@[simp] theorem depotSet_meshArb (k set way : Nat) (v : Option Nat) : (depotSet s k set way v).meshArb = s.meshArb := rfl
@[simp] theorem depotSet_ejected (k set way : Nat) (v : Option Nat) : (depotSet s k set way v).ejected = s.ejected := rfl
@[simp] theorem depotSet_sigs (k set way : Nat) (v : Option Nat) : (depotSet s k set way v).sigs = s.sigs := rfl
@[simp] theorem depotSet_mdSigs (k set way : Nat) (v : Option Nat) : (depotSet s k set way v).mdSigs = s.mdSigs := rfl
@[simp] theorem depotSet_stopSigs (k set way : Nat) (v : Option Nat) : (depotSet s k set way v).stopSigs = s.stopSigs := rfl
@[simp] theorem depotSet_rxq (k set way : Nat) (v : Option Nat) : (depotSet s k set way v).rxq = s.rxq := rfl
@[simp] theorem depotSet_kvgLanes (k set way : Nat) (v : Option Nat) : (depotSet s k set way v).kvgLanes = s.kvgLanes := rfl
@[simp] theorem depotSet_kvg (k set way : Nat) (v : Option Nat) : (depotSet s k set way v).kvg = s.kvg := rfl
@[simp] theorem depotSet_points (k set way : Nat) (v : Option Nat) : (depotSet s k set way v).points = s.points := rfl
@[simp] theorem depotSet_bls (k set way : Nat) (v : Option Nat) : (depotSet s k set way v).bls = s.bls := rfl
@[simp] theorem depotSet_routes (k set way : Nat) (v : Option Nat) : (depotSet s k set way v).routes = s.routes := rfl
@[simp] theorem depotSet_oldMaps (k set way : Nat) (v : Option Nat) : (depotSet s k set way v).oldMaps = s.oldMaps := rfl
@[simp] theorem depotSet_dill (k set way : Nat) (v : Option Nat) : (depotSet s k set way v).dill = s.dill := rfl
@[simp] theorem depotSet_declares (k set way : Nat) (v : Option Nat) : (depotSet s k set way v).declares = s.declares := rfl
@[simp] theorem depotSet_prefetches (k set way : Nat) (v : Option Nat) : (depotSet s k set way v).prefetches = s.prefetches := rfl
@[simp] theorem depotSet_scrubOf (k set way : Nat) (v : Option Nat) : (depotSet s k set way v).scrubOf = s.scrubOf := rfl
@[simp] theorem depotSet_missHist (k set way : Nat) (v : Option Nat) : (depotSet s k set way v).missHist = s.missHist := rfl
@[simp] theorem depotSet_regionClk (k set way : Nat) (v : Option Nat) : (depotSet s k set way v).regionClk = s.regionClk := rfl
@[simp] theorem depotSet_wins (k set way : Nat) (v : Option Nat) : (depotSet s k set way v).wins = s.wins := rfl
@[simp] theorem depotSet_winsNew (k set way : Nat) (v : Option Nat) : (depotSet s k set way v).winsNew = s.winsNew := rfl
@[simp] theorem depotSet_meters (k set way : Nat) (v : Option Nat) : (depotSet s k set way v).meters = s.meters := rfl
@[simp] theorem depotSet_troubles (k set way : Nat) (v : Option Nat) : (depotSet s k set way v).troubles = s.troubles := rfl
@[simp] theorem depotSet_portQ (k set way : Nat) (v : Option Nat) : (depotSet s k set way v).portQ = s.portQ := rfl
@[simp] theorem depotSet_portArb (k set way : Nat) (v : Option Nat) : (depotSet s k set way v).portArb = s.portArb := rfl
@[simp] theorem depotSet_unacked (k set way : Nat) (v : Option Nat) : (depotSet s k set way v).unacked = s.unacked := rfl
@[simp] theorem depotSet_remotes (k set way : Nat) (v : Option Nat) : (depotSet s k set way v).remotes = s.remotes := rfl
@[simp] theorem depotSet_links (k set way : Nat) (v : Option Nat) : (depotSet s k set way v).links = s.links := rfl
@[simp] theorem depotSet_flitOut (k set way : Nat) (v : Option Nat) : (depotSet s k set way v).flitOut = s.flitOut := rfl
@[simp] theorem depotSet_breaks (k set way : Nat) (v : Option Nat) : (depotSet s k set way v).breaks = s.breaks := rfl
@[simp] theorem depotSet_dirs (k set way : Nat) (v : Option Nat) : (depotSet s k set way v).dirs = s.dirs := rfl
@[simp] theorem depotSet_holders (k set way : Nat) (v : Option Nat) : (depotSet s k set way v).holders = s.holders := rfl
@[simp] theorem depotSet_nextId (k set way : Nat) (v : Option Nat) : (depotSet s k set way v).nextId = s.nextId := rfl
@[simp] theorem depotSet_funcs (k set way : Nat) (v : Option Nat) : (depotSet s k set way v).funcs = s.funcs := rfl
@[simp] theorem depotSet_msix (k set way : Nat) (v : Option Nat) : (depotSet s k set way v).msix = s.msix := rfl
@[simp] theorem depotSet_tlps (k set way : Nat) (v : Option Nat) : (depotSet s k set way v).tlps = s.tlps := rfl
@[simp] theorem depotSet_posted (k set way : Nat) (v : Option Nat) : (depotSet s k set way v).posted = s.posted := rfl
@[simp] theorem depotSet_atc (k set way : Nat) (v : Option Nat) : (depotSet s k set way v).atc = s.atc := rfl
@[simp] theorem depotSet_atsOut (k set way : Nat) (v : Option Nat) : (depotSet s k set way v).atsOut = s.atsOut := rfl
@[simp] theorem depotSet_hreads (k set way : Nat) (v : Option Nat) : (depotSet s k set way v).hreads = s.hreads := rfl
@[simp] theorem depotSet_invals (k set way : Nat) (v : Option Nat) : (depotSet s k set way v).invals = s.invals := rfl
@[simp] theorem depotSet_rings (k set way : Nat) (v : Option Nat) : (depotSet s k set way v).rings = s.rings := rfl
@[simp] theorem depotSet_cmds (k set way : Nat) (v : Option Nat) : (depotSet s k set way v).cmds = s.cmds := rfl
@[simp] theorem depotSet_intake (k set way : Nat) (v : Option Nat) : (depotSet s k set way v).intake = s.intake := rfl
@[simp] theorem depotSet_turn (k set way : Nat) (v : Option Nat) : (depotSet s k set way v).turn = s.turn := rfl
@[simp] theorem depotSet_ctxs (k set way : Nat) (v : Option Nat) : (depotSet s k set way v).ctxs = s.ctxs := rfl
@[simp] theorem depotSet_objs (k set way : Nat) (v : Option Nat) : (depotSet s k set way v).objs = s.objs := rfl
@[simp] theorem depotSet_fences (k set way : Nat) (v : Option Nat) : (depotSet s k set way v).fences = s.fences := rfl
@[simp] theorem depotSet_faults (k set way : Nat) (v : Option Nat) : (depotSet s k set way v).faults = s.faults := rfl
@[simp] theorem depotSet_hints (k set way : Nat) (v : Option Nat) : (depotSet s k set way v).hints = s.hints := rfl
@[simp] theorem depotSet_reqs (k set way : Nat) (v : Option Nat) : (depotSet s k set way v).reqs = s.reqs := rfl
@[simp] theorem depotSet_services (k set way : Nat) (v : Option Nat) : (depotSet s k set way v).services = s.services := rfl
@[simp] theorem depotSet_lentExt (k set way : Nat) (v : Option Nat) : (depotSet s k set way v).lentExt = s.lentExt := rfl
@[simp] theorem depotSet_chans (k set way : Nat) (v : Option Nat) : (depotSet s k set way v).chans = s.chans := rfl
@[simp] theorem depotSet_comp (k set way : Nat) (v : Option Nat) : (depotSet s k set way v).comp = s.comp := rfl
@[simp] theorem depotSet_notices (k set way : Nat) (v : Option Nat) : (depotSet s k set way v).notices = s.notices := rfl
@[simp] theorem depotSet_compOut (k set way : Nat) (v : Option Nat) : (depotSet s k set way v).compOut = s.compOut := rfl
@[simp] theorem depotSet_reads (k set way : Nat) (v : Option Nat) : (depotSet s k set way v).reads = s.reads := rfl
@[simp] theorem depotSet_measures (k set way : Nat) (v : Option Nat) : (depotSet s k set way v).measures = s.measures := rfl
@[simp] theorem depotSet_harts (k set way : Nat) (v : Option Nat) : (depotSet s k set way v).harts = s.harts := rfl
@[simp] theorem depotSet_sorts (k set way : Nat) (v : Option Nat) : (depotSet s k set way v).sorts = s.sorts := rfl
@[simp] theorem depotSet_dirPtr (k set way : Nat) (v : Option Nat) : (depotSet s k set way v).dirPtr = s.dirPtr := rfl
@[simp] theorem depotSet_dirPlru (k set way : Nat) (v : Option Nat) : (depotSet s k set way v).dirPlru = s.dirPlru := rfl
@[simp] theorem depotSet_dirHeld (k set way : Nat) (v : Option Nat) : (depotSet s k set way v).dirHeld = s.dirHeld := rfl
@[simp] theorem depotSet_power (k set way : Nat) (v : Option Nat) : (depotSet s k set way v).power = s.power := rfl
@[simp] theorem depotSet_rst (k set way : Nat) (v : Option Nat) : (depotSet s k set way v).rst = s.rst := rfl
@[simp] theorem depotSet_shuts (k set way : Nat) (v : Option Nat) : (depotSet s k set way v).shuts = s.shuts := rfl
@[simp] theorem depotSet_mod (k set way : Nat) (v : Option Nat) : (depotSet s k set way v).mod = s.mod := rfl
@[simp] theorem fget_depotSet (k set way : Nat) (v : Option Nat) (ff : F) (j : Nat) : fget (depotSet s k set way v) ff j = fget s ff j := rfl
@[simp] theorem fbit_depotSet (k set way : Nat) (v : Option Nat) (ff : F) (j : Nat) : fbit (depotSet s k set way v) ff j = fbit s ff j := rfl

@[simp] theorem depotTouch_pending (k set way : Nat) : (depotTouch s k set way).pending = s.pending := rfl
@[simp] theorem depotTouch_freeCtr (k set way : Nat) : (depotTouch s k set way).freeCtr = s.freeCtr := rfl
@[simp] theorem depotTouch_stalled (k set way : Nat) : (depotTouch s k set way).stalled = s.stalled := rfl
@[simp] theorem depotTouch_now (k set way : Nat) : (depotTouch s k set way).now = s.now := rfl
@[simp] theorem depotTouch_regs (k set way : Nat) : (depotTouch s k set way).regs = s.regs := rfl
@[simp] theorem depotTouch_mem (k set way : Nat) : (depotTouch s k set way).mem = s.mem := rfl
@[simp] theorem depotTouch_ueLines (k set way : Nat) : (depotTouch s k set way).ueLines = s.ueLines := rfl
@[simp] theorem depotTouch_cores (k set way : Nat) : (depotTouch s k set way).cores = s.cores := rfl
@[simp] theorem depotTouch_launches (k set way : Nat) : (depotTouch s k set way).launches = s.launches := rfl
@[simp] theorem depotTouch_heldAcc (k set way : Nat) : (depotTouch s k set way).heldAcc = s.heldAcc := rfl
@[simp] theorem depotTouch_answers (k set way : Nat) : (depotTouch s k set way).answers = s.answers := rfl
@[simp] theorem depotTouch_scache (k set way : Nat) : (depotTouch s k set way).scache = s.scache := rfl
@[simp] theorem depotTouch_scPlru (k set way : Nat) : (depotTouch s k set way).scPlru = s.scPlru := rfl
@[simp] theorem depotTouch_depot (k set way : Nat) : (depotTouch s k set way).depot = s.depot := rfl
@[simp] theorem depotTouch_mesh (k set way : Nat) : (depotTouch s k set way).mesh = s.mesh := rfl
@[simp] theorem depotTouch_watch (k set way : Nat) : (depotTouch s k set way).watch = s.watch := rfl
@[simp] theorem depotTouch_meshArb (k set way : Nat) : (depotTouch s k set way).meshArb = s.meshArb := rfl
@[simp] theorem depotTouch_ejected (k set way : Nat) : (depotTouch s k set way).ejected = s.ejected := rfl
@[simp] theorem depotTouch_sigs (k set way : Nat) : (depotTouch s k set way).sigs = s.sigs := rfl
@[simp] theorem depotTouch_mdSigs (k set way : Nat) : (depotTouch s k set way).mdSigs = s.mdSigs := rfl
@[simp] theorem depotTouch_stopSigs (k set way : Nat) : (depotTouch s k set way).stopSigs = s.stopSigs := rfl
@[simp] theorem depotTouch_rxq (k set way : Nat) : (depotTouch s k set way).rxq = s.rxq := rfl
@[simp] theorem depotTouch_kvgLanes (k set way : Nat) : (depotTouch s k set way).kvgLanes = s.kvgLanes := rfl
@[simp] theorem depotTouch_kvg (k set way : Nat) : (depotTouch s k set way).kvg = s.kvg := rfl
@[simp] theorem depotTouch_points (k set way : Nat) : (depotTouch s k set way).points = s.points := rfl
@[simp] theorem depotTouch_bls (k set way : Nat) : (depotTouch s k set way).bls = s.bls := rfl
@[simp] theorem depotTouch_routes (k set way : Nat) : (depotTouch s k set way).routes = s.routes := rfl
@[simp] theorem depotTouch_oldMaps (k set way : Nat) : (depotTouch s k set way).oldMaps = s.oldMaps := rfl
@[simp] theorem depotTouch_dill (k set way : Nat) : (depotTouch s k set way).dill = s.dill := rfl
@[simp] theorem depotTouch_declares (k set way : Nat) : (depotTouch s k set way).declares = s.declares := rfl
@[simp] theorem depotTouch_prefetches (k set way : Nat) : (depotTouch s k set way).prefetches = s.prefetches := rfl
@[simp] theorem depotTouch_scrubOf (k set way : Nat) : (depotTouch s k set way).scrubOf = s.scrubOf := rfl
@[simp] theorem depotTouch_missHist (k set way : Nat) : (depotTouch s k set way).missHist = s.missHist := rfl
@[simp] theorem depotTouch_regionClk (k set way : Nat) : (depotTouch s k set way).regionClk = s.regionClk := rfl
@[simp] theorem depotTouch_wins (k set way : Nat) : (depotTouch s k set way).wins = s.wins := rfl
@[simp] theorem depotTouch_winsNew (k set way : Nat) : (depotTouch s k set way).winsNew = s.winsNew := rfl
@[simp] theorem depotTouch_meters (k set way : Nat) : (depotTouch s k set way).meters = s.meters := rfl
@[simp] theorem depotTouch_troubles (k set way : Nat) : (depotTouch s k set way).troubles = s.troubles := rfl
@[simp] theorem depotTouch_portQ (k set way : Nat) : (depotTouch s k set way).portQ = s.portQ := rfl
@[simp] theorem depotTouch_portArb (k set way : Nat) : (depotTouch s k set way).portArb = s.portArb := rfl
@[simp] theorem depotTouch_unacked (k set way : Nat) : (depotTouch s k set way).unacked = s.unacked := rfl
@[simp] theorem depotTouch_remotes (k set way : Nat) : (depotTouch s k set way).remotes = s.remotes := rfl
@[simp] theorem depotTouch_links (k set way : Nat) : (depotTouch s k set way).links = s.links := rfl
@[simp] theorem depotTouch_flitOut (k set way : Nat) : (depotTouch s k set way).flitOut = s.flitOut := rfl
@[simp] theorem depotTouch_breaks (k set way : Nat) : (depotTouch s k set way).breaks = s.breaks := rfl
@[simp] theorem depotTouch_dirs (k set way : Nat) : (depotTouch s k set way).dirs = s.dirs := rfl
@[simp] theorem depotTouch_holders (k set way : Nat) : (depotTouch s k set way).holders = s.holders := rfl
@[simp] theorem depotTouch_nextId (k set way : Nat) : (depotTouch s k set way).nextId = s.nextId := rfl
@[simp] theorem depotTouch_funcs (k set way : Nat) : (depotTouch s k set way).funcs = s.funcs := rfl
@[simp] theorem depotTouch_msix (k set way : Nat) : (depotTouch s k set way).msix = s.msix := rfl
@[simp] theorem depotTouch_tlps (k set way : Nat) : (depotTouch s k set way).tlps = s.tlps := rfl
@[simp] theorem depotTouch_posted (k set way : Nat) : (depotTouch s k set way).posted = s.posted := rfl
@[simp] theorem depotTouch_atc (k set way : Nat) : (depotTouch s k set way).atc = s.atc := rfl
@[simp] theorem depotTouch_atsOut (k set way : Nat) : (depotTouch s k set way).atsOut = s.atsOut := rfl
@[simp] theorem depotTouch_hreads (k set way : Nat) : (depotTouch s k set way).hreads = s.hreads := rfl
@[simp] theorem depotTouch_invals (k set way : Nat) : (depotTouch s k set way).invals = s.invals := rfl
@[simp] theorem depotTouch_rings (k set way : Nat) : (depotTouch s k set way).rings = s.rings := rfl
@[simp] theorem depotTouch_cmds (k set way : Nat) : (depotTouch s k set way).cmds = s.cmds := rfl
@[simp] theorem depotTouch_intake (k set way : Nat) : (depotTouch s k set way).intake = s.intake := rfl
@[simp] theorem depotTouch_turn (k set way : Nat) : (depotTouch s k set way).turn = s.turn := rfl
@[simp] theorem depotTouch_ctxs (k set way : Nat) : (depotTouch s k set way).ctxs = s.ctxs := rfl
@[simp] theorem depotTouch_objs (k set way : Nat) : (depotTouch s k set way).objs = s.objs := rfl
@[simp] theorem depotTouch_fences (k set way : Nat) : (depotTouch s k set way).fences = s.fences := rfl
@[simp] theorem depotTouch_faults (k set way : Nat) : (depotTouch s k set way).faults = s.faults := rfl
@[simp] theorem depotTouch_hints (k set way : Nat) : (depotTouch s k set way).hints = s.hints := rfl
@[simp] theorem depotTouch_reqs (k set way : Nat) : (depotTouch s k set way).reqs = s.reqs := rfl
@[simp] theorem depotTouch_services (k set way : Nat) : (depotTouch s k set way).services = s.services := rfl
@[simp] theorem depotTouch_lentExt (k set way : Nat) : (depotTouch s k set way).lentExt = s.lentExt := rfl
@[simp] theorem depotTouch_chans (k set way : Nat) : (depotTouch s k set way).chans = s.chans := rfl
@[simp] theorem depotTouch_comp (k set way : Nat) : (depotTouch s k set way).comp = s.comp := rfl
@[simp] theorem depotTouch_notices (k set way : Nat) : (depotTouch s k set way).notices = s.notices := rfl
@[simp] theorem depotTouch_compOut (k set way : Nat) : (depotTouch s k set way).compOut = s.compOut := rfl
@[simp] theorem depotTouch_reads (k set way : Nat) : (depotTouch s k set way).reads = s.reads := rfl
@[simp] theorem depotTouch_measures (k set way : Nat) : (depotTouch s k set way).measures = s.measures := rfl
@[simp] theorem depotTouch_harts (k set way : Nat) : (depotTouch s k set way).harts = s.harts := rfl
@[simp] theorem depotTouch_sorts (k set way : Nat) : (depotTouch s k set way).sorts = s.sorts := rfl
@[simp] theorem depotTouch_dirPtr (k set way : Nat) : (depotTouch s k set way).dirPtr = s.dirPtr := rfl
@[simp] theorem depotTouch_dirPlru (k set way : Nat) : (depotTouch s k set way).dirPlru = s.dirPlru := rfl
@[simp] theorem depotTouch_dirHeld (k set way : Nat) : (depotTouch s k set way).dirHeld = s.dirHeld := rfl
@[simp] theorem depotTouch_power (k set way : Nat) : (depotTouch s k set way).power = s.power := rfl
@[simp] theorem depotTouch_rst (k set way : Nat) : (depotTouch s k set way).rst = s.rst := rfl
@[simp] theorem depotTouch_shuts (k set way : Nat) : (depotTouch s k set way).shuts = s.shuts := rfl
@[simp] theorem depotTouch_mod (k set way : Nat) : (depotTouch s k set way).mod = s.mod := rfl
@[simp] theorem fget_depotTouch (k set way : Nat) (ff : F) (j : Nat) : fget (depotTouch s k set way) ff j = fget s ff j := rfl
@[simp] theorem fbit_depotTouch (k set way : Nat) (ff : F) (j : Nat) : fbit (depotTouch s k set way) ff j = fbit s ff j := rfl

@[simp] theorem setDir_pending (line : Nat) (e : Option DirEntry) : (setDir s line e).pending = s.pending := rfl
@[simp] theorem setDir_freeCtr (line : Nat) (e : Option DirEntry) : (setDir s line e).freeCtr = s.freeCtr := rfl
@[simp] theorem setDir_stalled (line : Nat) (e : Option DirEntry) : (setDir s line e).stalled = s.stalled := rfl
@[simp] theorem setDir_now (line : Nat) (e : Option DirEntry) : (setDir s line e).now = s.now := rfl
@[simp] theorem setDir_regs (line : Nat) (e : Option DirEntry) : (setDir s line e).regs = s.regs := rfl
@[simp] theorem setDir_mem (line : Nat) (e : Option DirEntry) : (setDir s line e).mem = s.mem := rfl
@[simp] theorem setDir_ueLines (line : Nat) (e : Option DirEntry) : (setDir s line e).ueLines = s.ueLines := rfl
@[simp] theorem setDir_cores (line : Nat) (e : Option DirEntry) : (setDir s line e).cores = s.cores := rfl
@[simp] theorem setDir_launches (line : Nat) (e : Option DirEntry) : (setDir s line e).launches = s.launches := rfl
@[simp] theorem setDir_heldAcc (line : Nat) (e : Option DirEntry) : (setDir s line e).heldAcc = s.heldAcc := rfl
@[simp] theorem setDir_answers (line : Nat) (e : Option DirEntry) : (setDir s line e).answers = s.answers := rfl
@[simp] theorem setDir_scache (line : Nat) (e : Option DirEntry) : (setDir s line e).scache = s.scache := rfl
@[simp] theorem setDir_scPlru (line : Nat) (e : Option DirEntry) : (setDir s line e).scPlru = s.scPlru := rfl
@[simp] theorem setDir_depot (line : Nat) (e : Option DirEntry) : (setDir s line e).depot = s.depot := rfl
@[simp] theorem setDir_depotPlru (line : Nat) (e : Option DirEntry) : (setDir s line e).depotPlru = s.depotPlru := rfl
@[simp] theorem setDir_mesh (line : Nat) (e : Option DirEntry) : (setDir s line e).mesh = s.mesh := rfl
@[simp] theorem setDir_watch (line : Nat) (e : Option DirEntry) : (setDir s line e).watch = s.watch := rfl
@[simp] theorem setDir_meshArb (line : Nat) (e : Option DirEntry) : (setDir s line e).meshArb = s.meshArb := rfl
@[simp] theorem setDir_ejected (line : Nat) (e : Option DirEntry) : (setDir s line e).ejected = s.ejected := rfl
@[simp] theorem setDir_sigs (line : Nat) (e : Option DirEntry) : (setDir s line e).sigs = s.sigs := rfl
@[simp] theorem setDir_mdSigs (line : Nat) (e : Option DirEntry) : (setDir s line e).mdSigs = s.mdSigs := rfl
@[simp] theorem setDir_stopSigs (line : Nat) (e : Option DirEntry) : (setDir s line e).stopSigs = s.stopSigs := rfl
@[simp] theorem setDir_rxq (line : Nat) (e : Option DirEntry) : (setDir s line e).rxq = s.rxq := rfl
@[simp] theorem setDir_kvgLanes (line : Nat) (e : Option DirEntry) : (setDir s line e).kvgLanes = s.kvgLanes := rfl
@[simp] theorem setDir_kvg (line : Nat) (e : Option DirEntry) : (setDir s line e).kvg = s.kvg := rfl
@[simp] theorem setDir_points (line : Nat) (e : Option DirEntry) : (setDir s line e).points = s.points := rfl
@[simp] theorem setDir_bls (line : Nat) (e : Option DirEntry) : (setDir s line e).bls = s.bls := rfl
@[simp] theorem setDir_routes (line : Nat) (e : Option DirEntry) : (setDir s line e).routes = s.routes := rfl
@[simp] theorem setDir_oldMaps (line : Nat) (e : Option DirEntry) : (setDir s line e).oldMaps = s.oldMaps := rfl
@[simp] theorem setDir_dill (line : Nat) (e : Option DirEntry) : (setDir s line e).dill = s.dill := rfl
@[simp] theorem setDir_declares (line : Nat) (e : Option DirEntry) : (setDir s line e).declares = s.declares := rfl
@[simp] theorem setDir_prefetches (line : Nat) (e : Option DirEntry) : (setDir s line e).prefetches = s.prefetches := rfl
@[simp] theorem setDir_scrubOf (line : Nat) (e : Option DirEntry) : (setDir s line e).scrubOf = s.scrubOf := rfl
@[simp] theorem setDir_missHist (line : Nat) (e : Option DirEntry) : (setDir s line e).missHist = s.missHist := rfl
@[simp] theorem setDir_regionClk (line : Nat) (e : Option DirEntry) : (setDir s line e).regionClk = s.regionClk := rfl
@[simp] theorem setDir_wins (line : Nat) (e : Option DirEntry) : (setDir s line e).wins = s.wins := rfl
@[simp] theorem setDir_winsNew (line : Nat) (e : Option DirEntry) : (setDir s line e).winsNew = s.winsNew := rfl
@[simp] theorem setDir_meters (line : Nat) (e : Option DirEntry) : (setDir s line e).meters = s.meters := rfl
@[simp] theorem setDir_troubles (line : Nat) (e : Option DirEntry) : (setDir s line e).troubles = s.troubles := rfl
@[simp] theorem setDir_portQ (line : Nat) (e : Option DirEntry) : (setDir s line e).portQ = s.portQ := rfl
@[simp] theorem setDir_portArb (line : Nat) (e : Option DirEntry) : (setDir s line e).portArb = s.portArb := rfl
@[simp] theorem setDir_unacked (line : Nat) (e : Option DirEntry) : (setDir s line e).unacked = s.unacked := rfl
@[simp] theorem setDir_remotes (line : Nat) (e : Option DirEntry) : (setDir s line e).remotes = s.remotes := rfl
@[simp] theorem setDir_links (line : Nat) (e : Option DirEntry) : (setDir s line e).links = s.links := rfl
@[simp] theorem setDir_flitOut (line : Nat) (e : Option DirEntry) : (setDir s line e).flitOut = s.flitOut := rfl
@[simp] theorem setDir_breaks (line : Nat) (e : Option DirEntry) : (setDir s line e).breaks = s.breaks := rfl
@[simp] theorem setDir_holders (line : Nat) (e : Option DirEntry) : (setDir s line e).holders = s.holders := rfl
@[simp] theorem setDir_nextId (line : Nat) (e : Option DirEntry) : (setDir s line e).nextId = s.nextId := rfl
@[simp] theorem setDir_funcs (line : Nat) (e : Option DirEntry) : (setDir s line e).funcs = s.funcs := rfl
@[simp] theorem setDir_msix (line : Nat) (e : Option DirEntry) : (setDir s line e).msix = s.msix := rfl
@[simp] theorem setDir_tlps (line : Nat) (e : Option DirEntry) : (setDir s line e).tlps = s.tlps := rfl
@[simp] theorem setDir_posted (line : Nat) (e : Option DirEntry) : (setDir s line e).posted = s.posted := rfl
@[simp] theorem setDir_atc (line : Nat) (e : Option DirEntry) : (setDir s line e).atc = s.atc := rfl
@[simp] theorem setDir_atsOut (line : Nat) (e : Option DirEntry) : (setDir s line e).atsOut = s.atsOut := rfl
@[simp] theorem setDir_hreads (line : Nat) (e : Option DirEntry) : (setDir s line e).hreads = s.hreads := rfl
@[simp] theorem setDir_invals (line : Nat) (e : Option DirEntry) : (setDir s line e).invals = s.invals := rfl
@[simp] theorem setDir_rings (line : Nat) (e : Option DirEntry) : (setDir s line e).rings = s.rings := rfl
@[simp] theorem setDir_cmds (line : Nat) (e : Option DirEntry) : (setDir s line e).cmds = s.cmds := rfl
@[simp] theorem setDir_intake (line : Nat) (e : Option DirEntry) : (setDir s line e).intake = s.intake := rfl
@[simp] theorem setDir_turn (line : Nat) (e : Option DirEntry) : (setDir s line e).turn = s.turn := rfl
@[simp] theorem setDir_ctxs (line : Nat) (e : Option DirEntry) : (setDir s line e).ctxs = s.ctxs := rfl
@[simp] theorem setDir_objs (line : Nat) (e : Option DirEntry) : (setDir s line e).objs = s.objs := rfl
@[simp] theorem setDir_fences (line : Nat) (e : Option DirEntry) : (setDir s line e).fences = s.fences := rfl
@[simp] theorem setDir_faults (line : Nat) (e : Option DirEntry) : (setDir s line e).faults = s.faults := rfl
@[simp] theorem setDir_hints (line : Nat) (e : Option DirEntry) : (setDir s line e).hints = s.hints := rfl
@[simp] theorem setDir_reqs (line : Nat) (e : Option DirEntry) : (setDir s line e).reqs = s.reqs := rfl
@[simp] theorem setDir_services (line : Nat) (e : Option DirEntry) : (setDir s line e).services = s.services := rfl
@[simp] theorem setDir_lentExt (line : Nat) (e : Option DirEntry) : (setDir s line e).lentExt = s.lentExt := rfl
@[simp] theorem setDir_chans (line : Nat) (e : Option DirEntry) : (setDir s line e).chans = s.chans := rfl
@[simp] theorem setDir_comp (line : Nat) (e : Option DirEntry) : (setDir s line e).comp = s.comp := rfl
@[simp] theorem setDir_notices (line : Nat) (e : Option DirEntry) : (setDir s line e).notices = s.notices := rfl
@[simp] theorem setDir_compOut (line : Nat) (e : Option DirEntry) : (setDir s line e).compOut = s.compOut := rfl
@[simp] theorem setDir_reads (line : Nat) (e : Option DirEntry) : (setDir s line e).reads = s.reads := rfl
@[simp] theorem setDir_measures (line : Nat) (e : Option DirEntry) : (setDir s line e).measures = s.measures := rfl
@[simp] theorem setDir_harts (line : Nat) (e : Option DirEntry) : (setDir s line e).harts = s.harts := rfl
@[simp] theorem setDir_sorts (line : Nat) (e : Option DirEntry) : (setDir s line e).sorts = s.sorts := rfl
@[simp] theorem setDir_dirPtr (line : Nat) (e : Option DirEntry) : (setDir s line e).dirPtr = s.dirPtr := rfl
@[simp] theorem setDir_dirPlru (line : Nat) (e : Option DirEntry) : (setDir s line e).dirPlru = s.dirPlru := rfl
@[simp] theorem setDir_dirHeld (line : Nat) (e : Option DirEntry) : (setDir s line e).dirHeld = s.dirHeld := rfl
@[simp] theorem setDir_power (line : Nat) (e : Option DirEntry) : (setDir s line e).power = s.power := rfl
@[simp] theorem setDir_rst (line : Nat) (e : Option DirEntry) : (setDir s line e).rst = s.rst := rfl
@[simp] theorem setDir_shuts (line : Nat) (e : Option DirEntry) : (setDir s line e).shuts = s.shuts := rfl
@[simp] theorem setDir_mod (line : Nat) (e : Option DirEntry) : (setDir s line e).mod = s.mod := rfl
@[simp] theorem fget_setDir (line : Nat) (e : Option DirEntry) (ff : F) (j : Nat) : fget (setDir s line e) ff j = fget s ff j := rfl
@[simp] theorem fbit_setDir (line : Nat) (e : Option DirEntry) (ff : F) (j : Nat) : fbit (setDir s line e) ff j = fbit s ff j := rfl

@[simp] theorem setHart_pending (g : Nat) (x : Hart) : (setHart s g x).pending = s.pending := rfl
@[simp] theorem setHart_freeCtr (g : Nat) (x : Hart) : (setHart s g x).freeCtr = s.freeCtr := rfl
@[simp] theorem setHart_stalled (g : Nat) (x : Hart) : (setHart s g x).stalled = s.stalled := rfl
@[simp] theorem setHart_now (g : Nat) (x : Hart) : (setHart s g x).now = s.now := rfl
@[simp] theorem setHart_regs (g : Nat) (x : Hart) : (setHart s g x).regs = s.regs := rfl
@[simp] theorem setHart_mem (g : Nat) (x : Hart) : (setHart s g x).mem = s.mem := rfl
@[simp] theorem setHart_ueLines (g : Nat) (x : Hart) : (setHart s g x).ueLines = s.ueLines := rfl
@[simp] theorem setHart_cores (g : Nat) (x : Hart) : (setHart s g x).cores = s.cores := rfl
@[simp] theorem setHart_launches (g : Nat) (x : Hart) : (setHart s g x).launches = s.launches := rfl
@[simp] theorem setHart_heldAcc (g : Nat) (x : Hart) : (setHart s g x).heldAcc = s.heldAcc := rfl
@[simp] theorem setHart_answers (g : Nat) (x : Hart) : (setHart s g x).answers = s.answers := rfl
@[simp] theorem setHart_scache (g : Nat) (x : Hart) : (setHart s g x).scache = s.scache := rfl
@[simp] theorem setHart_scPlru (g : Nat) (x : Hart) : (setHart s g x).scPlru = s.scPlru := rfl
@[simp] theorem setHart_depot (g : Nat) (x : Hart) : (setHart s g x).depot = s.depot := rfl
@[simp] theorem setHart_depotPlru (g : Nat) (x : Hart) : (setHart s g x).depotPlru = s.depotPlru := rfl
@[simp] theorem setHart_mesh (g : Nat) (x : Hart) : (setHart s g x).mesh = s.mesh := rfl
@[simp] theorem setHart_watch (g : Nat) (x : Hart) : (setHart s g x).watch = s.watch := rfl
@[simp] theorem setHart_meshArb (g : Nat) (x : Hart) : (setHart s g x).meshArb = s.meshArb := rfl
@[simp] theorem setHart_ejected (g : Nat) (x : Hart) : (setHart s g x).ejected = s.ejected := rfl
@[simp] theorem setHart_sigs (g : Nat) (x : Hart) : (setHart s g x).sigs = s.sigs := rfl
@[simp] theorem setHart_mdSigs (g : Nat) (x : Hart) : (setHart s g x).mdSigs = s.mdSigs := rfl
@[simp] theorem setHart_stopSigs (g : Nat) (x : Hart) : (setHart s g x).stopSigs = s.stopSigs := rfl
@[simp] theorem setHart_rxq (g : Nat) (x : Hart) : (setHart s g x).rxq = s.rxq := rfl
@[simp] theorem setHart_kvgLanes (g : Nat) (x : Hart) : (setHart s g x).kvgLanes = s.kvgLanes := rfl
@[simp] theorem setHart_kvg (g : Nat) (x : Hart) : (setHart s g x).kvg = s.kvg := rfl
@[simp] theorem setHart_points (g : Nat) (x : Hart) : (setHart s g x).points = s.points := rfl
@[simp] theorem setHart_bls (g : Nat) (x : Hart) : (setHart s g x).bls = s.bls := rfl
@[simp] theorem setHart_routes (g : Nat) (x : Hart) : (setHart s g x).routes = s.routes := rfl
@[simp] theorem setHart_oldMaps (g : Nat) (x : Hart) : (setHart s g x).oldMaps = s.oldMaps := rfl
@[simp] theorem setHart_dill (g : Nat) (x : Hart) : (setHart s g x).dill = s.dill := rfl
@[simp] theorem setHart_declares (g : Nat) (x : Hart) : (setHart s g x).declares = s.declares := rfl
@[simp] theorem setHart_prefetches (g : Nat) (x : Hart) : (setHart s g x).prefetches = s.prefetches := rfl
@[simp] theorem setHart_scrubOf (g : Nat) (x : Hart) : (setHart s g x).scrubOf = s.scrubOf := rfl
@[simp] theorem setHart_missHist (g : Nat) (x : Hart) : (setHart s g x).missHist = s.missHist := rfl
@[simp] theorem setHart_regionClk (g : Nat) (x : Hart) : (setHart s g x).regionClk = s.regionClk := rfl
@[simp] theorem setHart_wins (g : Nat) (x : Hart) : (setHart s g x).wins = s.wins := rfl
@[simp] theorem setHart_winsNew (g : Nat) (x : Hart) : (setHart s g x).winsNew = s.winsNew := rfl
@[simp] theorem setHart_meters (g : Nat) (x : Hart) : (setHart s g x).meters = s.meters := rfl
@[simp] theorem setHart_troubles (g : Nat) (x : Hart) : (setHart s g x).troubles = s.troubles := rfl
@[simp] theorem setHart_portQ (g : Nat) (x : Hart) : (setHart s g x).portQ = s.portQ := rfl
@[simp] theorem setHart_portArb (g : Nat) (x : Hart) : (setHart s g x).portArb = s.portArb := rfl
@[simp] theorem setHart_unacked (g : Nat) (x : Hart) : (setHart s g x).unacked = s.unacked := rfl
@[simp] theorem setHart_remotes (g : Nat) (x : Hart) : (setHart s g x).remotes = s.remotes := rfl
@[simp] theorem setHart_links (g : Nat) (x : Hart) : (setHart s g x).links = s.links := rfl
@[simp] theorem setHart_flitOut (g : Nat) (x : Hart) : (setHart s g x).flitOut = s.flitOut := rfl
@[simp] theorem setHart_breaks (g : Nat) (x : Hart) : (setHart s g x).breaks = s.breaks := rfl
@[simp] theorem setHart_dirs (g : Nat) (x : Hart) : (setHart s g x).dirs = s.dirs := rfl
@[simp] theorem setHart_holders (g : Nat) (x : Hart) : (setHart s g x).holders = s.holders := rfl
@[simp] theorem setHart_nextId (g : Nat) (x : Hart) : (setHart s g x).nextId = s.nextId := rfl
@[simp] theorem setHart_funcs (g : Nat) (x : Hart) : (setHart s g x).funcs = s.funcs := rfl
@[simp] theorem setHart_msix (g : Nat) (x : Hart) : (setHart s g x).msix = s.msix := rfl
@[simp] theorem setHart_tlps (g : Nat) (x : Hart) : (setHart s g x).tlps = s.tlps := rfl
@[simp] theorem setHart_posted (g : Nat) (x : Hart) : (setHart s g x).posted = s.posted := rfl
@[simp] theorem setHart_atc (g : Nat) (x : Hart) : (setHart s g x).atc = s.atc := rfl
@[simp] theorem setHart_atsOut (g : Nat) (x : Hart) : (setHart s g x).atsOut = s.atsOut := rfl
@[simp] theorem setHart_hreads (g : Nat) (x : Hart) : (setHart s g x).hreads = s.hreads := rfl
@[simp] theorem setHart_invals (g : Nat) (x : Hart) : (setHart s g x).invals = s.invals := rfl
@[simp] theorem setHart_rings (g : Nat) (x : Hart) : (setHart s g x).rings = s.rings := rfl
@[simp] theorem setHart_cmds (g : Nat) (x : Hart) : (setHart s g x).cmds = s.cmds := rfl
@[simp] theorem setHart_intake (g : Nat) (x : Hart) : (setHart s g x).intake = s.intake := rfl
@[simp] theorem setHart_turn (g : Nat) (x : Hart) : (setHart s g x).turn = s.turn := rfl
@[simp] theorem setHart_ctxs (g : Nat) (x : Hart) : (setHart s g x).ctxs = s.ctxs := rfl
@[simp] theorem setHart_objs (g : Nat) (x : Hart) : (setHart s g x).objs = s.objs := rfl
@[simp] theorem setHart_fences (g : Nat) (x : Hart) : (setHart s g x).fences = s.fences := rfl
@[simp] theorem setHart_faults (g : Nat) (x : Hart) : (setHart s g x).faults = s.faults := rfl
@[simp] theorem setHart_hints (g : Nat) (x : Hart) : (setHart s g x).hints = s.hints := rfl
@[simp] theorem setHart_reqs (g : Nat) (x : Hart) : (setHart s g x).reqs = s.reqs := rfl
@[simp] theorem setHart_services (g : Nat) (x : Hart) : (setHart s g x).services = s.services := rfl
@[simp] theorem setHart_lentExt (g : Nat) (x : Hart) : (setHart s g x).lentExt = s.lentExt := rfl
@[simp] theorem setHart_chans (g : Nat) (x : Hart) : (setHart s g x).chans = s.chans := rfl
@[simp] theorem setHart_comp (g : Nat) (x : Hart) : (setHart s g x).comp = s.comp := rfl
@[simp] theorem setHart_notices (g : Nat) (x : Hart) : (setHart s g x).notices = s.notices := rfl
@[simp] theorem setHart_compOut (g : Nat) (x : Hart) : (setHart s g x).compOut = s.compOut := rfl
@[simp] theorem setHart_reads (g : Nat) (x : Hart) : (setHart s g x).reads = s.reads := rfl
@[simp] theorem setHart_measures (g : Nat) (x : Hart) : (setHart s g x).measures = s.measures := rfl
@[simp] theorem setHart_sorts (g : Nat) (x : Hart) : (setHart s g x).sorts = s.sorts := rfl
@[simp] theorem setHart_dirPtr (g : Nat) (x : Hart) : (setHart s g x).dirPtr = s.dirPtr := rfl
@[simp] theorem setHart_dirPlru (g : Nat) (x : Hart) : (setHart s g x).dirPlru = s.dirPlru := rfl
@[simp] theorem setHart_dirHeld (g : Nat) (x : Hart) : (setHart s g x).dirHeld = s.dirHeld := rfl
@[simp] theorem setHart_power (g : Nat) (x : Hart) : (setHart s g x).power = s.power := rfl
@[simp] theorem setHart_rst (g : Nat) (x : Hart) : (setHart s g x).rst = s.rst := rfl
@[simp] theorem setHart_shuts (g : Nat) (x : Hart) : (setHart s g x).shuts = s.shuts := rfl
@[simp] theorem setHart_mod (g : Nat) (x : Hart) : (setHart s g x).mod = s.mod := rfl
@[simp] theorem fget_setHart (g : Nat) (x : Hart) (ff : F) (j : Nat) : fget (setHart s g x) ff j = fget s ff j := rfl
@[simp] theorem fbit_setHart (g : Nat) (x : Hart) (ff : F) (j : Nat) : fbit (setHart s g x) ff j = fbit s ff j := rfl

@[simp] theorem scSet_pending (st set way : Nat) (l : Option CLine) : (scSet s st set way l).pending = s.pending := rfl
@[simp] theorem scSet_freeCtr (st set way : Nat) (l : Option CLine) : (scSet s st set way l).freeCtr = s.freeCtr := rfl
@[simp] theorem scSet_stalled (st set way : Nat) (l : Option CLine) : (scSet s st set way l).stalled = s.stalled := rfl
@[simp] theorem scSet_now (st set way : Nat) (l : Option CLine) : (scSet s st set way l).now = s.now := rfl
@[simp] theorem scSet_regs (st set way : Nat) (l : Option CLine) : (scSet s st set way l).regs = s.regs := rfl
@[simp] theorem scSet_mem (st set way : Nat) (l : Option CLine) : (scSet s st set way l).mem = s.mem := rfl
@[simp] theorem scSet_ueLines (st set way : Nat) (l : Option CLine) : (scSet s st set way l).ueLines = s.ueLines := rfl
@[simp] theorem scSet_cores (st set way : Nat) (l : Option CLine) : (scSet s st set way l).cores = s.cores := rfl
@[simp] theorem scSet_launches (st set way : Nat) (l : Option CLine) : (scSet s st set way l).launches = s.launches := rfl
@[simp] theorem scSet_heldAcc (st set way : Nat) (l : Option CLine) : (scSet s st set way l).heldAcc = s.heldAcc := rfl
@[simp] theorem scSet_answers (st set way : Nat) (l : Option CLine) : (scSet s st set way l).answers = s.answers := rfl
@[simp] theorem scSet_scPlru (st set way : Nat) (l : Option CLine) : (scSet s st set way l).scPlru = s.scPlru := rfl
@[simp] theorem scSet_depot (st set way : Nat) (l : Option CLine) : (scSet s st set way l).depot = s.depot := rfl
@[simp] theorem scSet_depotPlru (st set way : Nat) (l : Option CLine) : (scSet s st set way l).depotPlru = s.depotPlru := rfl
@[simp] theorem scSet_mesh (st set way : Nat) (l : Option CLine) : (scSet s st set way l).mesh = s.mesh := rfl
@[simp] theorem scSet_watch (st set way : Nat) (l : Option CLine) : (scSet s st set way l).watch = s.watch := rfl
@[simp] theorem scSet_meshArb (st set way : Nat) (l : Option CLine) : (scSet s st set way l).meshArb = s.meshArb := rfl
@[simp] theorem scSet_ejected (st set way : Nat) (l : Option CLine) : (scSet s st set way l).ejected = s.ejected := rfl
@[simp] theorem scSet_sigs (st set way : Nat) (l : Option CLine) : (scSet s st set way l).sigs = s.sigs := rfl
@[simp] theorem scSet_mdSigs (st set way : Nat) (l : Option CLine) : (scSet s st set way l).mdSigs = s.mdSigs := rfl
@[simp] theorem scSet_stopSigs (st set way : Nat) (l : Option CLine) : (scSet s st set way l).stopSigs = s.stopSigs := rfl
@[simp] theorem scSet_rxq (st set way : Nat) (l : Option CLine) : (scSet s st set way l).rxq = s.rxq := rfl
@[simp] theorem scSet_kvgLanes (st set way : Nat) (l : Option CLine) : (scSet s st set way l).kvgLanes = s.kvgLanes := rfl
@[simp] theorem scSet_kvg (st set way : Nat) (l : Option CLine) : (scSet s st set way l).kvg = s.kvg := rfl
@[simp] theorem scSet_points (st set way : Nat) (l : Option CLine) : (scSet s st set way l).points = s.points := rfl
@[simp] theorem scSet_bls (st set way : Nat) (l : Option CLine) : (scSet s st set way l).bls = s.bls := rfl
@[simp] theorem scSet_routes (st set way : Nat) (l : Option CLine) : (scSet s st set way l).routes = s.routes := rfl
@[simp] theorem scSet_oldMaps (st set way : Nat) (l : Option CLine) : (scSet s st set way l).oldMaps = s.oldMaps := rfl
@[simp] theorem scSet_dill (st set way : Nat) (l : Option CLine) : (scSet s st set way l).dill = s.dill := rfl
@[simp] theorem scSet_declares (st set way : Nat) (l : Option CLine) : (scSet s st set way l).declares = s.declares := rfl
@[simp] theorem scSet_prefetches (st set way : Nat) (l : Option CLine) : (scSet s st set way l).prefetches = s.prefetches := rfl
@[simp] theorem scSet_scrubOf (st set way : Nat) (l : Option CLine) : (scSet s st set way l).scrubOf = s.scrubOf := rfl
@[simp] theorem scSet_missHist (st set way : Nat) (l : Option CLine) : (scSet s st set way l).missHist = s.missHist := rfl
@[simp] theorem scSet_regionClk (st set way : Nat) (l : Option CLine) : (scSet s st set way l).regionClk = s.regionClk := rfl
@[simp] theorem scSet_wins (st set way : Nat) (l : Option CLine) : (scSet s st set way l).wins = s.wins := rfl
@[simp] theorem scSet_winsNew (st set way : Nat) (l : Option CLine) : (scSet s st set way l).winsNew = s.winsNew := rfl
@[simp] theorem scSet_meters (st set way : Nat) (l : Option CLine) : (scSet s st set way l).meters = s.meters := rfl
@[simp] theorem scSet_troubles (st set way : Nat) (l : Option CLine) : (scSet s st set way l).troubles = s.troubles := rfl
@[simp] theorem scSet_portQ (st set way : Nat) (l : Option CLine) : (scSet s st set way l).portQ = s.portQ := rfl
@[simp] theorem scSet_portArb (st set way : Nat) (l : Option CLine) : (scSet s st set way l).portArb = s.portArb := rfl
@[simp] theorem scSet_unacked (st set way : Nat) (l : Option CLine) : (scSet s st set way l).unacked = s.unacked := rfl
@[simp] theorem scSet_remotes (st set way : Nat) (l : Option CLine) : (scSet s st set way l).remotes = s.remotes := rfl
@[simp] theorem scSet_links (st set way : Nat) (l : Option CLine) : (scSet s st set way l).links = s.links := rfl
@[simp] theorem scSet_flitOut (st set way : Nat) (l : Option CLine) : (scSet s st set way l).flitOut = s.flitOut := rfl
@[simp] theorem scSet_breaks (st set way : Nat) (l : Option CLine) : (scSet s st set way l).breaks = s.breaks := rfl
@[simp] theorem scSet_dirs (st set way : Nat) (l : Option CLine) : (scSet s st set way l).dirs = s.dirs := rfl
@[simp] theorem scSet_holders (st set way : Nat) (l : Option CLine) : (scSet s st set way l).holders = s.holders := rfl
@[simp] theorem scSet_nextId (st set way : Nat) (l : Option CLine) : (scSet s st set way l).nextId = s.nextId := rfl
@[simp] theorem scSet_funcs (st set way : Nat) (l : Option CLine) : (scSet s st set way l).funcs = s.funcs := rfl
@[simp] theorem scSet_msix (st set way : Nat) (l : Option CLine) : (scSet s st set way l).msix = s.msix := rfl
@[simp] theorem scSet_tlps (st set way : Nat) (l : Option CLine) : (scSet s st set way l).tlps = s.tlps := rfl
@[simp] theorem scSet_posted (st set way : Nat) (l : Option CLine) : (scSet s st set way l).posted = s.posted := rfl
@[simp] theorem scSet_atc (st set way : Nat) (l : Option CLine) : (scSet s st set way l).atc = s.atc := rfl
@[simp] theorem scSet_atsOut (st set way : Nat) (l : Option CLine) : (scSet s st set way l).atsOut = s.atsOut := rfl
@[simp] theorem scSet_hreads (st set way : Nat) (l : Option CLine) : (scSet s st set way l).hreads = s.hreads := rfl
@[simp] theorem scSet_invals (st set way : Nat) (l : Option CLine) : (scSet s st set way l).invals = s.invals := rfl
@[simp] theorem scSet_rings (st set way : Nat) (l : Option CLine) : (scSet s st set way l).rings = s.rings := rfl
@[simp] theorem scSet_cmds (st set way : Nat) (l : Option CLine) : (scSet s st set way l).cmds = s.cmds := rfl
@[simp] theorem scSet_intake (st set way : Nat) (l : Option CLine) : (scSet s st set way l).intake = s.intake := rfl
@[simp] theorem scSet_turn (st set way : Nat) (l : Option CLine) : (scSet s st set way l).turn = s.turn := rfl
@[simp] theorem scSet_ctxs (st set way : Nat) (l : Option CLine) : (scSet s st set way l).ctxs = s.ctxs := rfl
@[simp] theorem scSet_objs (st set way : Nat) (l : Option CLine) : (scSet s st set way l).objs = s.objs := rfl
@[simp] theorem scSet_fences (st set way : Nat) (l : Option CLine) : (scSet s st set way l).fences = s.fences := rfl
@[simp] theorem scSet_faults (st set way : Nat) (l : Option CLine) : (scSet s st set way l).faults = s.faults := rfl
@[simp] theorem scSet_hints (st set way : Nat) (l : Option CLine) : (scSet s st set way l).hints = s.hints := rfl
@[simp] theorem scSet_reqs (st set way : Nat) (l : Option CLine) : (scSet s st set way l).reqs = s.reqs := rfl
@[simp] theorem scSet_services (st set way : Nat) (l : Option CLine) : (scSet s st set way l).services = s.services := rfl
@[simp] theorem scSet_lentExt (st set way : Nat) (l : Option CLine) : (scSet s st set way l).lentExt = s.lentExt := rfl
@[simp] theorem scSet_chans (st set way : Nat) (l : Option CLine) : (scSet s st set way l).chans = s.chans := rfl
@[simp] theorem scSet_comp (st set way : Nat) (l : Option CLine) : (scSet s st set way l).comp = s.comp := rfl
@[simp] theorem scSet_notices (st set way : Nat) (l : Option CLine) : (scSet s st set way l).notices = s.notices := rfl
@[simp] theorem scSet_compOut (st set way : Nat) (l : Option CLine) : (scSet s st set way l).compOut = s.compOut := rfl
@[simp] theorem scSet_reads (st set way : Nat) (l : Option CLine) : (scSet s st set way l).reads = s.reads := rfl
@[simp] theorem scSet_measures (st set way : Nat) (l : Option CLine) : (scSet s st set way l).measures = s.measures := rfl
@[simp] theorem scSet_harts (st set way : Nat) (l : Option CLine) : (scSet s st set way l).harts = s.harts := rfl
@[simp] theorem scSet_sorts (st set way : Nat) (l : Option CLine) : (scSet s st set way l).sorts = s.sorts := rfl
@[simp] theorem scSet_dirPtr (st set way : Nat) (l : Option CLine) : (scSet s st set way l).dirPtr = s.dirPtr := rfl
@[simp] theorem scSet_dirPlru (st set way : Nat) (l : Option CLine) : (scSet s st set way l).dirPlru = s.dirPlru := rfl
@[simp] theorem scSet_dirHeld (st set way : Nat) (l : Option CLine) : (scSet s st set way l).dirHeld = s.dirHeld := rfl
@[simp] theorem scSet_power (st set way : Nat) (l : Option CLine) : (scSet s st set way l).power = s.power := rfl
@[simp] theorem scSet_rst (st set way : Nat) (l : Option CLine) : (scSet s st set way l).rst = s.rst := rfl
@[simp] theorem scSet_shuts (st set way : Nat) (l : Option CLine) : (scSet s st set way l).shuts = s.shuts := rfl
@[simp] theorem scSet_mod (st set way : Nat) (l : Option CLine) : (scSet s st set way l).mod = s.mod := rfl
@[simp] theorem fget_scSet (st set way : Nat) (l : Option CLine) (ff : F) (j : Nat) : fget (scSet s st set way l) ff j = fget s ff j := rfl
@[simp] theorem fbit_scSet (st set way : Nat) (l : Option CLine) (ff : F) (j : Nat) : fbit (scSet s st set way l) ff j = fbit s ff j := rfl

@[simp] theorem scTouch_pending (st set way : Nat) : (scTouch s st set way).pending = s.pending := rfl
@[simp] theorem scTouch_freeCtr (st set way : Nat) : (scTouch s st set way).freeCtr = s.freeCtr := rfl
@[simp] theorem scTouch_stalled (st set way : Nat) : (scTouch s st set way).stalled = s.stalled := rfl
@[simp] theorem scTouch_now (st set way : Nat) : (scTouch s st set way).now = s.now := rfl
@[simp] theorem scTouch_regs (st set way : Nat) : (scTouch s st set way).regs = s.regs := rfl
@[simp] theorem scTouch_mem (st set way : Nat) : (scTouch s st set way).mem = s.mem := rfl
@[simp] theorem scTouch_ueLines (st set way : Nat) : (scTouch s st set way).ueLines = s.ueLines := rfl
@[simp] theorem scTouch_cores (st set way : Nat) : (scTouch s st set way).cores = s.cores := rfl
@[simp] theorem scTouch_launches (st set way : Nat) : (scTouch s st set way).launches = s.launches := rfl
@[simp] theorem scTouch_heldAcc (st set way : Nat) : (scTouch s st set way).heldAcc = s.heldAcc := rfl
@[simp] theorem scTouch_answers (st set way : Nat) : (scTouch s st set way).answers = s.answers := rfl
@[simp] theorem scTouch_scache (st set way : Nat) : (scTouch s st set way).scache = s.scache := rfl
@[simp] theorem scTouch_depot (st set way : Nat) : (scTouch s st set way).depot = s.depot := rfl
@[simp] theorem scTouch_depotPlru (st set way : Nat) : (scTouch s st set way).depotPlru = s.depotPlru := rfl
@[simp] theorem scTouch_mesh (st set way : Nat) : (scTouch s st set way).mesh = s.mesh := rfl
@[simp] theorem scTouch_watch (st set way : Nat) : (scTouch s st set way).watch = s.watch := rfl
@[simp] theorem scTouch_meshArb (st set way : Nat) : (scTouch s st set way).meshArb = s.meshArb := rfl
@[simp] theorem scTouch_ejected (st set way : Nat) : (scTouch s st set way).ejected = s.ejected := rfl
@[simp] theorem scTouch_sigs (st set way : Nat) : (scTouch s st set way).sigs = s.sigs := rfl
@[simp] theorem scTouch_mdSigs (st set way : Nat) : (scTouch s st set way).mdSigs = s.mdSigs := rfl
@[simp] theorem scTouch_stopSigs (st set way : Nat) : (scTouch s st set way).stopSigs = s.stopSigs := rfl
@[simp] theorem scTouch_rxq (st set way : Nat) : (scTouch s st set way).rxq = s.rxq := rfl
@[simp] theorem scTouch_kvgLanes (st set way : Nat) : (scTouch s st set way).kvgLanes = s.kvgLanes := rfl
@[simp] theorem scTouch_kvg (st set way : Nat) : (scTouch s st set way).kvg = s.kvg := rfl
@[simp] theorem scTouch_points (st set way : Nat) : (scTouch s st set way).points = s.points := rfl
@[simp] theorem scTouch_bls (st set way : Nat) : (scTouch s st set way).bls = s.bls := rfl
@[simp] theorem scTouch_routes (st set way : Nat) : (scTouch s st set way).routes = s.routes := rfl
@[simp] theorem scTouch_oldMaps (st set way : Nat) : (scTouch s st set way).oldMaps = s.oldMaps := rfl
@[simp] theorem scTouch_dill (st set way : Nat) : (scTouch s st set way).dill = s.dill := rfl
@[simp] theorem scTouch_declares (st set way : Nat) : (scTouch s st set way).declares = s.declares := rfl
@[simp] theorem scTouch_prefetches (st set way : Nat) : (scTouch s st set way).prefetches = s.prefetches := rfl
@[simp] theorem scTouch_scrubOf (st set way : Nat) : (scTouch s st set way).scrubOf = s.scrubOf := rfl
@[simp] theorem scTouch_missHist (st set way : Nat) : (scTouch s st set way).missHist = s.missHist := rfl
@[simp] theorem scTouch_regionClk (st set way : Nat) : (scTouch s st set way).regionClk = s.regionClk := rfl
@[simp] theorem scTouch_wins (st set way : Nat) : (scTouch s st set way).wins = s.wins := rfl
@[simp] theorem scTouch_winsNew (st set way : Nat) : (scTouch s st set way).winsNew = s.winsNew := rfl
@[simp] theorem scTouch_meters (st set way : Nat) : (scTouch s st set way).meters = s.meters := rfl
@[simp] theorem scTouch_troubles (st set way : Nat) : (scTouch s st set way).troubles = s.troubles := rfl
@[simp] theorem scTouch_portQ (st set way : Nat) : (scTouch s st set way).portQ = s.portQ := rfl
@[simp] theorem scTouch_portArb (st set way : Nat) : (scTouch s st set way).portArb = s.portArb := rfl
@[simp] theorem scTouch_unacked (st set way : Nat) : (scTouch s st set way).unacked = s.unacked := rfl
@[simp] theorem scTouch_remotes (st set way : Nat) : (scTouch s st set way).remotes = s.remotes := rfl
@[simp] theorem scTouch_links (st set way : Nat) : (scTouch s st set way).links = s.links := rfl
@[simp] theorem scTouch_flitOut (st set way : Nat) : (scTouch s st set way).flitOut = s.flitOut := rfl
@[simp] theorem scTouch_breaks (st set way : Nat) : (scTouch s st set way).breaks = s.breaks := rfl
@[simp] theorem scTouch_dirs (st set way : Nat) : (scTouch s st set way).dirs = s.dirs := rfl
@[simp] theorem scTouch_holders (st set way : Nat) : (scTouch s st set way).holders = s.holders := rfl
@[simp] theorem scTouch_nextId (st set way : Nat) : (scTouch s st set way).nextId = s.nextId := rfl
@[simp] theorem scTouch_funcs (st set way : Nat) : (scTouch s st set way).funcs = s.funcs := rfl
@[simp] theorem scTouch_msix (st set way : Nat) : (scTouch s st set way).msix = s.msix := rfl
@[simp] theorem scTouch_tlps (st set way : Nat) : (scTouch s st set way).tlps = s.tlps := rfl
@[simp] theorem scTouch_posted (st set way : Nat) : (scTouch s st set way).posted = s.posted := rfl
@[simp] theorem scTouch_atc (st set way : Nat) : (scTouch s st set way).atc = s.atc := rfl
@[simp] theorem scTouch_atsOut (st set way : Nat) : (scTouch s st set way).atsOut = s.atsOut := rfl
@[simp] theorem scTouch_hreads (st set way : Nat) : (scTouch s st set way).hreads = s.hreads := rfl
@[simp] theorem scTouch_invals (st set way : Nat) : (scTouch s st set way).invals = s.invals := rfl
@[simp] theorem scTouch_rings (st set way : Nat) : (scTouch s st set way).rings = s.rings := rfl
@[simp] theorem scTouch_cmds (st set way : Nat) : (scTouch s st set way).cmds = s.cmds := rfl
@[simp] theorem scTouch_intake (st set way : Nat) : (scTouch s st set way).intake = s.intake := rfl
@[simp] theorem scTouch_turn (st set way : Nat) : (scTouch s st set way).turn = s.turn := rfl
@[simp] theorem scTouch_ctxs (st set way : Nat) : (scTouch s st set way).ctxs = s.ctxs := rfl
@[simp] theorem scTouch_objs (st set way : Nat) : (scTouch s st set way).objs = s.objs := rfl
@[simp] theorem scTouch_fences (st set way : Nat) : (scTouch s st set way).fences = s.fences := rfl
@[simp] theorem scTouch_faults (st set way : Nat) : (scTouch s st set way).faults = s.faults := rfl
@[simp] theorem scTouch_hints (st set way : Nat) : (scTouch s st set way).hints = s.hints := rfl
@[simp] theorem scTouch_reqs (st set way : Nat) : (scTouch s st set way).reqs = s.reqs := rfl
@[simp] theorem scTouch_services (st set way : Nat) : (scTouch s st set way).services = s.services := rfl
@[simp] theorem scTouch_lentExt (st set way : Nat) : (scTouch s st set way).lentExt = s.lentExt := rfl
@[simp] theorem scTouch_chans (st set way : Nat) : (scTouch s st set way).chans = s.chans := rfl
@[simp] theorem scTouch_comp (st set way : Nat) : (scTouch s st set way).comp = s.comp := rfl
@[simp] theorem scTouch_notices (st set way : Nat) : (scTouch s st set way).notices = s.notices := rfl
@[simp] theorem scTouch_compOut (st set way : Nat) : (scTouch s st set way).compOut = s.compOut := rfl
@[simp] theorem scTouch_reads (st set way : Nat) : (scTouch s st set way).reads = s.reads := rfl
@[simp] theorem scTouch_measures (st set way : Nat) : (scTouch s st set way).measures = s.measures := rfl
@[simp] theorem scTouch_harts (st set way : Nat) : (scTouch s st set way).harts = s.harts := rfl
@[simp] theorem scTouch_sorts (st set way : Nat) : (scTouch s st set way).sorts = s.sorts := rfl
@[simp] theorem scTouch_dirPtr (st set way : Nat) : (scTouch s st set way).dirPtr = s.dirPtr := rfl
@[simp] theorem scTouch_dirPlru (st set way : Nat) : (scTouch s st set way).dirPlru = s.dirPlru := rfl
@[simp] theorem scTouch_dirHeld (st set way : Nat) : (scTouch s st set way).dirHeld = s.dirHeld := rfl
@[simp] theorem scTouch_power (st set way : Nat) : (scTouch s st set way).power = s.power := rfl
@[simp] theorem scTouch_rst (st set way : Nat) : (scTouch s st set way).rst = s.rst := rfl
@[simp] theorem scTouch_shuts (st set way : Nat) : (scTouch s st set way).shuts = s.shuts := rfl
@[simp] theorem scTouch_mod (st set way : Nat) : (scTouch s st set way).mod = s.mod := rfl
@[simp] theorem fget_scTouch (st set way : Nat) (ff : F) (j : Nat) : fget (scTouch s st set way) ff j = fget s ff j := rfl
@[simp] theorem fbit_scTouch (st set way : Nat) (ff : F) (j : Nat) : fbit (scTouch s st set way) ff j = fbit s ff j := rfl

@[simp] theorem setFunc_pending (f : Nat) (x : Func) : (setFunc s f x).pending = s.pending := rfl
@[simp] theorem setFunc_freeCtr (f : Nat) (x : Func) : (setFunc s f x).freeCtr = s.freeCtr := rfl
@[simp] theorem setFunc_stalled (f : Nat) (x : Func) : (setFunc s f x).stalled = s.stalled := rfl
@[simp] theorem setFunc_now (f : Nat) (x : Func) : (setFunc s f x).now = s.now := rfl
@[simp] theorem setFunc_regs (f : Nat) (x : Func) : (setFunc s f x).regs = s.regs := rfl
@[simp] theorem setFunc_mem (f : Nat) (x : Func) : (setFunc s f x).mem = s.mem := rfl
@[simp] theorem setFunc_ueLines (f : Nat) (x : Func) : (setFunc s f x).ueLines = s.ueLines := rfl
@[simp] theorem setFunc_cores (f : Nat) (x : Func) : (setFunc s f x).cores = s.cores := rfl
@[simp] theorem setFunc_launches (f : Nat) (x : Func) : (setFunc s f x).launches = s.launches := rfl
@[simp] theorem setFunc_heldAcc (f : Nat) (x : Func) : (setFunc s f x).heldAcc = s.heldAcc := rfl
@[simp] theorem setFunc_answers (f : Nat) (x : Func) : (setFunc s f x).answers = s.answers := rfl
@[simp] theorem setFunc_scache (f : Nat) (x : Func) : (setFunc s f x).scache = s.scache := rfl
@[simp] theorem setFunc_scPlru (f : Nat) (x : Func) : (setFunc s f x).scPlru = s.scPlru := rfl
@[simp] theorem setFunc_depot (f : Nat) (x : Func) : (setFunc s f x).depot = s.depot := rfl
@[simp] theorem setFunc_depotPlru (f : Nat) (x : Func) : (setFunc s f x).depotPlru = s.depotPlru := rfl
@[simp] theorem setFunc_mesh (f : Nat) (x : Func) : (setFunc s f x).mesh = s.mesh := rfl
@[simp] theorem setFunc_watch (f : Nat) (x : Func) : (setFunc s f x).watch = s.watch := rfl
@[simp] theorem setFunc_meshArb (f : Nat) (x : Func) : (setFunc s f x).meshArb = s.meshArb := rfl
@[simp] theorem setFunc_ejected (f : Nat) (x : Func) : (setFunc s f x).ejected = s.ejected := rfl
@[simp] theorem setFunc_sigs (f : Nat) (x : Func) : (setFunc s f x).sigs = s.sigs := rfl
@[simp] theorem setFunc_mdSigs (f : Nat) (x : Func) : (setFunc s f x).mdSigs = s.mdSigs := rfl
@[simp] theorem setFunc_stopSigs (f : Nat) (x : Func) : (setFunc s f x).stopSigs = s.stopSigs := rfl
@[simp] theorem setFunc_rxq (f : Nat) (x : Func) : (setFunc s f x).rxq = s.rxq := rfl
@[simp] theorem setFunc_kvgLanes (f : Nat) (x : Func) : (setFunc s f x).kvgLanes = s.kvgLanes := rfl
@[simp] theorem setFunc_kvg (f : Nat) (x : Func) : (setFunc s f x).kvg = s.kvg := rfl
@[simp] theorem setFunc_points (f : Nat) (x : Func) : (setFunc s f x).points = s.points := rfl
@[simp] theorem setFunc_bls (f : Nat) (x : Func) : (setFunc s f x).bls = s.bls := rfl
@[simp] theorem setFunc_routes (f : Nat) (x : Func) : (setFunc s f x).routes = s.routes := rfl
@[simp] theorem setFunc_oldMaps (f : Nat) (x : Func) : (setFunc s f x).oldMaps = s.oldMaps := rfl
@[simp] theorem setFunc_dill (f : Nat) (x : Func) : (setFunc s f x).dill = s.dill := rfl
@[simp] theorem setFunc_declares (f : Nat) (x : Func) : (setFunc s f x).declares = s.declares := rfl
@[simp] theorem setFunc_prefetches (f : Nat) (x : Func) : (setFunc s f x).prefetches = s.prefetches := rfl
@[simp] theorem setFunc_scrubOf (f : Nat) (x : Func) : (setFunc s f x).scrubOf = s.scrubOf := rfl
@[simp] theorem setFunc_missHist (f : Nat) (x : Func) : (setFunc s f x).missHist = s.missHist := rfl
@[simp] theorem setFunc_regionClk (f : Nat) (x : Func) : (setFunc s f x).regionClk = s.regionClk := rfl
@[simp] theorem setFunc_wins (f : Nat) (x : Func) : (setFunc s f x).wins = s.wins := rfl
@[simp] theorem setFunc_winsNew (f : Nat) (x : Func) : (setFunc s f x).winsNew = s.winsNew := rfl
@[simp] theorem setFunc_meters (f : Nat) (x : Func) : (setFunc s f x).meters = s.meters := rfl
@[simp] theorem setFunc_troubles (f : Nat) (x : Func) : (setFunc s f x).troubles = s.troubles := rfl
@[simp] theorem setFunc_portQ (f : Nat) (x : Func) : (setFunc s f x).portQ = s.portQ := rfl
@[simp] theorem setFunc_portArb (f : Nat) (x : Func) : (setFunc s f x).portArb = s.portArb := rfl
@[simp] theorem setFunc_unacked (f : Nat) (x : Func) : (setFunc s f x).unacked = s.unacked := rfl
@[simp] theorem setFunc_remotes (f : Nat) (x : Func) : (setFunc s f x).remotes = s.remotes := rfl
@[simp] theorem setFunc_links (f : Nat) (x : Func) : (setFunc s f x).links = s.links := rfl
@[simp] theorem setFunc_flitOut (f : Nat) (x : Func) : (setFunc s f x).flitOut = s.flitOut := rfl
@[simp] theorem setFunc_breaks (f : Nat) (x : Func) : (setFunc s f x).breaks = s.breaks := rfl
@[simp] theorem setFunc_dirs (f : Nat) (x : Func) : (setFunc s f x).dirs = s.dirs := rfl
@[simp] theorem setFunc_holders (f : Nat) (x : Func) : (setFunc s f x).holders = s.holders := rfl
@[simp] theorem setFunc_nextId (f : Nat) (x : Func) : (setFunc s f x).nextId = s.nextId := rfl
@[simp] theorem setFunc_msix (f : Nat) (x : Func) : (setFunc s f x).msix = s.msix := rfl
@[simp] theorem setFunc_tlps (f : Nat) (x : Func) : (setFunc s f x).tlps = s.tlps := rfl
@[simp] theorem setFunc_posted (f : Nat) (x : Func) : (setFunc s f x).posted = s.posted := rfl
@[simp] theorem setFunc_atc (f : Nat) (x : Func) : (setFunc s f x).atc = s.atc := rfl
@[simp] theorem setFunc_atsOut (f : Nat) (x : Func) : (setFunc s f x).atsOut = s.atsOut := rfl
@[simp] theorem setFunc_hreads (f : Nat) (x : Func) : (setFunc s f x).hreads = s.hreads := rfl
@[simp] theorem setFunc_invals (f : Nat) (x : Func) : (setFunc s f x).invals = s.invals := rfl
@[simp] theorem setFunc_rings (f : Nat) (x : Func) : (setFunc s f x).rings = s.rings := rfl
@[simp] theorem setFunc_cmds (f : Nat) (x : Func) : (setFunc s f x).cmds = s.cmds := rfl
@[simp] theorem setFunc_intake (f : Nat) (x : Func) : (setFunc s f x).intake = s.intake := rfl
@[simp] theorem setFunc_turn (f : Nat) (x : Func) : (setFunc s f x).turn = s.turn := rfl
@[simp] theorem setFunc_ctxs (f : Nat) (x : Func) : (setFunc s f x).ctxs = s.ctxs := rfl
@[simp] theorem setFunc_objs (f : Nat) (x : Func) : (setFunc s f x).objs = s.objs := rfl
@[simp] theorem setFunc_fences (f : Nat) (x : Func) : (setFunc s f x).fences = s.fences := rfl
@[simp] theorem setFunc_faults (f : Nat) (x : Func) : (setFunc s f x).faults = s.faults := rfl
@[simp] theorem setFunc_hints (f : Nat) (x : Func) : (setFunc s f x).hints = s.hints := rfl
@[simp] theorem setFunc_reqs (f : Nat) (x : Func) : (setFunc s f x).reqs = s.reqs := rfl
@[simp] theorem setFunc_services (f : Nat) (x : Func) : (setFunc s f x).services = s.services := rfl
@[simp] theorem setFunc_lentExt (f : Nat) (x : Func) : (setFunc s f x).lentExt = s.lentExt := rfl
@[simp] theorem setFunc_chans (f : Nat) (x : Func) : (setFunc s f x).chans = s.chans := rfl
@[simp] theorem setFunc_comp (f : Nat) (x : Func) : (setFunc s f x).comp = s.comp := rfl
@[simp] theorem setFunc_notices (f : Nat) (x : Func) : (setFunc s f x).notices = s.notices := rfl
@[simp] theorem setFunc_compOut (f : Nat) (x : Func) : (setFunc s f x).compOut = s.compOut := rfl
@[simp] theorem setFunc_reads (f : Nat) (x : Func) : (setFunc s f x).reads = s.reads := rfl
@[simp] theorem setFunc_measures (f : Nat) (x : Func) : (setFunc s f x).measures = s.measures := rfl
@[simp] theorem setFunc_harts (f : Nat) (x : Func) : (setFunc s f x).harts = s.harts := rfl
@[simp] theorem setFunc_sorts (f : Nat) (x : Func) : (setFunc s f x).sorts = s.sorts := rfl
@[simp] theorem setFunc_dirPtr (f : Nat) (x : Func) : (setFunc s f x).dirPtr = s.dirPtr := rfl
@[simp] theorem setFunc_dirPlru (f : Nat) (x : Func) : (setFunc s f x).dirPlru = s.dirPlru := rfl
@[simp] theorem setFunc_dirHeld (f : Nat) (x : Func) : (setFunc s f x).dirHeld = s.dirHeld := rfl
@[simp] theorem setFunc_power (f : Nat) (x : Func) : (setFunc s f x).power = s.power := rfl
@[simp] theorem setFunc_rst (f : Nat) (x : Func) : (setFunc s f x).rst = s.rst := rfl
@[simp] theorem setFunc_shuts (f : Nat) (x : Func) : (setFunc s f x).shuts = s.shuts := rfl
@[simp] theorem setFunc_mod (f : Nat) (x : Func) : (setFunc s f x).mod = s.mod := rfl
@[simp] theorem fget_setFunc (f : Nat) (x : Func) (ff : F) (j : Nat) : fget (setFunc s f x) ff j = fget s ff j := rfl
@[simp] theorem fbit_setFunc (f : Nat) (x : Func) (ff : F) (j : Nat) : fbit (setFunc s f x) ff j = fbit s ff j := rfl

@[simp] theorem setAtc_pending (f : Nat) (l : List AtcEntry) : (setAtc s f l).pending = s.pending := rfl
@[simp] theorem setAtc_freeCtr (f : Nat) (l : List AtcEntry) : (setAtc s f l).freeCtr = s.freeCtr := rfl
@[simp] theorem setAtc_stalled (f : Nat) (l : List AtcEntry) : (setAtc s f l).stalled = s.stalled := rfl
@[simp] theorem setAtc_now (f : Nat) (l : List AtcEntry) : (setAtc s f l).now = s.now := rfl
@[simp] theorem setAtc_regs (f : Nat) (l : List AtcEntry) : (setAtc s f l).regs = s.regs := rfl
@[simp] theorem setAtc_mem (f : Nat) (l : List AtcEntry) : (setAtc s f l).mem = s.mem := rfl
@[simp] theorem setAtc_ueLines (f : Nat) (l : List AtcEntry) : (setAtc s f l).ueLines = s.ueLines := rfl
@[simp] theorem setAtc_cores (f : Nat) (l : List AtcEntry) : (setAtc s f l).cores = s.cores := rfl
@[simp] theorem setAtc_launches (f : Nat) (l : List AtcEntry) : (setAtc s f l).launches = s.launches := rfl
@[simp] theorem setAtc_heldAcc (f : Nat) (l : List AtcEntry) : (setAtc s f l).heldAcc = s.heldAcc := rfl
@[simp] theorem setAtc_answers (f : Nat) (l : List AtcEntry) : (setAtc s f l).answers = s.answers := rfl
@[simp] theorem setAtc_scache (f : Nat) (l : List AtcEntry) : (setAtc s f l).scache = s.scache := rfl
@[simp] theorem setAtc_scPlru (f : Nat) (l : List AtcEntry) : (setAtc s f l).scPlru = s.scPlru := rfl
@[simp] theorem setAtc_depot (f : Nat) (l : List AtcEntry) : (setAtc s f l).depot = s.depot := rfl
@[simp] theorem setAtc_depotPlru (f : Nat) (l : List AtcEntry) : (setAtc s f l).depotPlru = s.depotPlru := rfl
@[simp] theorem setAtc_mesh (f : Nat) (l : List AtcEntry) : (setAtc s f l).mesh = s.mesh := rfl
@[simp] theorem setAtc_watch (f : Nat) (l : List AtcEntry) : (setAtc s f l).watch = s.watch := rfl
@[simp] theorem setAtc_meshArb (f : Nat) (l : List AtcEntry) : (setAtc s f l).meshArb = s.meshArb := rfl
@[simp] theorem setAtc_ejected (f : Nat) (l : List AtcEntry) : (setAtc s f l).ejected = s.ejected := rfl
@[simp] theorem setAtc_sigs (f : Nat) (l : List AtcEntry) : (setAtc s f l).sigs = s.sigs := rfl
@[simp] theorem setAtc_mdSigs (f : Nat) (l : List AtcEntry) : (setAtc s f l).mdSigs = s.mdSigs := rfl
@[simp] theorem setAtc_stopSigs (f : Nat) (l : List AtcEntry) : (setAtc s f l).stopSigs = s.stopSigs := rfl
@[simp] theorem setAtc_rxq (f : Nat) (l : List AtcEntry) : (setAtc s f l).rxq = s.rxq := rfl
@[simp] theorem setAtc_kvgLanes (f : Nat) (l : List AtcEntry) : (setAtc s f l).kvgLanes = s.kvgLanes := rfl
@[simp] theorem setAtc_kvg (f : Nat) (l : List AtcEntry) : (setAtc s f l).kvg = s.kvg := rfl
@[simp] theorem setAtc_points (f : Nat) (l : List AtcEntry) : (setAtc s f l).points = s.points := rfl
@[simp] theorem setAtc_bls (f : Nat) (l : List AtcEntry) : (setAtc s f l).bls = s.bls := rfl
@[simp] theorem setAtc_routes (f : Nat) (l : List AtcEntry) : (setAtc s f l).routes = s.routes := rfl
@[simp] theorem setAtc_oldMaps (f : Nat) (l : List AtcEntry) : (setAtc s f l).oldMaps = s.oldMaps := rfl
@[simp] theorem setAtc_dill (f : Nat) (l : List AtcEntry) : (setAtc s f l).dill = s.dill := rfl
@[simp] theorem setAtc_declares (f : Nat) (l : List AtcEntry) : (setAtc s f l).declares = s.declares := rfl
@[simp] theorem setAtc_prefetches (f : Nat) (l : List AtcEntry) : (setAtc s f l).prefetches = s.prefetches := rfl
@[simp] theorem setAtc_scrubOf (f : Nat) (l : List AtcEntry) : (setAtc s f l).scrubOf = s.scrubOf := rfl
@[simp] theorem setAtc_missHist (f : Nat) (l : List AtcEntry) : (setAtc s f l).missHist = s.missHist := rfl
@[simp] theorem setAtc_regionClk (f : Nat) (l : List AtcEntry) : (setAtc s f l).regionClk = s.regionClk := rfl
@[simp] theorem setAtc_wins (f : Nat) (l : List AtcEntry) : (setAtc s f l).wins = s.wins := rfl
@[simp] theorem setAtc_winsNew (f : Nat) (l : List AtcEntry) : (setAtc s f l).winsNew = s.winsNew := rfl
@[simp] theorem setAtc_meters (f : Nat) (l : List AtcEntry) : (setAtc s f l).meters = s.meters := rfl
@[simp] theorem setAtc_troubles (f : Nat) (l : List AtcEntry) : (setAtc s f l).troubles = s.troubles := rfl
@[simp] theorem setAtc_portQ (f : Nat) (l : List AtcEntry) : (setAtc s f l).portQ = s.portQ := rfl
@[simp] theorem setAtc_portArb (f : Nat) (l : List AtcEntry) : (setAtc s f l).portArb = s.portArb := rfl
@[simp] theorem setAtc_unacked (f : Nat) (l : List AtcEntry) : (setAtc s f l).unacked = s.unacked := rfl
@[simp] theorem setAtc_remotes (f : Nat) (l : List AtcEntry) : (setAtc s f l).remotes = s.remotes := rfl
@[simp] theorem setAtc_links (f : Nat) (l : List AtcEntry) : (setAtc s f l).links = s.links := rfl
@[simp] theorem setAtc_flitOut (f : Nat) (l : List AtcEntry) : (setAtc s f l).flitOut = s.flitOut := rfl
@[simp] theorem setAtc_breaks (f : Nat) (l : List AtcEntry) : (setAtc s f l).breaks = s.breaks := rfl
@[simp] theorem setAtc_dirs (f : Nat) (l : List AtcEntry) : (setAtc s f l).dirs = s.dirs := rfl
@[simp] theorem setAtc_holders (f : Nat) (l : List AtcEntry) : (setAtc s f l).holders = s.holders := rfl
@[simp] theorem setAtc_nextId (f : Nat) (l : List AtcEntry) : (setAtc s f l).nextId = s.nextId := rfl
@[simp] theorem setAtc_funcs (f : Nat) (l : List AtcEntry) : (setAtc s f l).funcs = s.funcs := rfl
@[simp] theorem setAtc_msix (f : Nat) (l : List AtcEntry) : (setAtc s f l).msix = s.msix := rfl
@[simp] theorem setAtc_tlps (f : Nat) (l : List AtcEntry) : (setAtc s f l).tlps = s.tlps := rfl
@[simp] theorem setAtc_posted (f : Nat) (l : List AtcEntry) : (setAtc s f l).posted = s.posted := rfl
@[simp] theorem setAtc_atsOut (f : Nat) (l : List AtcEntry) : (setAtc s f l).atsOut = s.atsOut := rfl
@[simp] theorem setAtc_hreads (f : Nat) (l : List AtcEntry) : (setAtc s f l).hreads = s.hreads := rfl
@[simp] theorem setAtc_invals (f : Nat) (l : List AtcEntry) : (setAtc s f l).invals = s.invals := rfl
@[simp] theorem setAtc_rings (f : Nat) (l : List AtcEntry) : (setAtc s f l).rings = s.rings := rfl
@[simp] theorem setAtc_cmds (f : Nat) (l : List AtcEntry) : (setAtc s f l).cmds = s.cmds := rfl
@[simp] theorem setAtc_intake (f : Nat) (l : List AtcEntry) : (setAtc s f l).intake = s.intake := rfl
@[simp] theorem setAtc_turn (f : Nat) (l : List AtcEntry) : (setAtc s f l).turn = s.turn := rfl
@[simp] theorem setAtc_ctxs (f : Nat) (l : List AtcEntry) : (setAtc s f l).ctxs = s.ctxs := rfl
@[simp] theorem setAtc_objs (f : Nat) (l : List AtcEntry) : (setAtc s f l).objs = s.objs := rfl
@[simp] theorem setAtc_fences (f : Nat) (l : List AtcEntry) : (setAtc s f l).fences = s.fences := rfl
@[simp] theorem setAtc_faults (f : Nat) (l : List AtcEntry) : (setAtc s f l).faults = s.faults := rfl
@[simp] theorem setAtc_hints (f : Nat) (l : List AtcEntry) : (setAtc s f l).hints = s.hints := rfl
@[simp] theorem setAtc_reqs (f : Nat) (l : List AtcEntry) : (setAtc s f l).reqs = s.reqs := rfl
@[simp] theorem setAtc_services (f : Nat) (l : List AtcEntry) : (setAtc s f l).services = s.services := rfl
@[simp] theorem setAtc_lentExt (f : Nat) (l : List AtcEntry) : (setAtc s f l).lentExt = s.lentExt := rfl
@[simp] theorem setAtc_chans (f : Nat) (l : List AtcEntry) : (setAtc s f l).chans = s.chans := rfl
@[simp] theorem setAtc_comp (f : Nat) (l : List AtcEntry) : (setAtc s f l).comp = s.comp := rfl
@[simp] theorem setAtc_notices (f : Nat) (l : List AtcEntry) : (setAtc s f l).notices = s.notices := rfl
@[simp] theorem setAtc_compOut (f : Nat) (l : List AtcEntry) : (setAtc s f l).compOut = s.compOut := rfl
@[simp] theorem setAtc_reads (f : Nat) (l : List AtcEntry) : (setAtc s f l).reads = s.reads := rfl
@[simp] theorem setAtc_measures (f : Nat) (l : List AtcEntry) : (setAtc s f l).measures = s.measures := rfl
@[simp] theorem setAtc_harts (f : Nat) (l : List AtcEntry) : (setAtc s f l).harts = s.harts := rfl
@[simp] theorem setAtc_sorts (f : Nat) (l : List AtcEntry) : (setAtc s f l).sorts = s.sorts := rfl
@[simp] theorem setAtc_dirPtr (f : Nat) (l : List AtcEntry) : (setAtc s f l).dirPtr = s.dirPtr := rfl
@[simp] theorem setAtc_dirPlru (f : Nat) (l : List AtcEntry) : (setAtc s f l).dirPlru = s.dirPlru := rfl
@[simp] theorem setAtc_dirHeld (f : Nat) (l : List AtcEntry) : (setAtc s f l).dirHeld = s.dirHeld := rfl
@[simp] theorem setAtc_power (f : Nat) (l : List AtcEntry) : (setAtc s f l).power = s.power := rfl
@[simp] theorem setAtc_rst (f : Nat) (l : List AtcEntry) : (setAtc s f l).rst = s.rst := rfl
@[simp] theorem setAtc_shuts (f : Nat) (l : List AtcEntry) : (setAtc s f l).shuts = s.shuts := rfl
@[simp] theorem setAtc_mod (f : Nat) (l : List AtcEntry) : (setAtc s f l).mod = s.mod := rfl
@[simp] theorem fget_setAtc (f : Nat) (l : List AtcEntry) (ff : F) (j : Nat) : fget (setAtc s f l) ff j = fget s ff j := rfl
@[simp] theorem fbit_setAtc (f : Nat) (l : List AtcEntry) (ff : F) (j : Nat) : fbit (setAtc s f l) ff j = fbit s ff j := rfl

@[simp] theorem setMsix_pending (f v : Nat) (x : Msix) : (setMsix s f v x).pending = s.pending := rfl
@[simp] theorem setMsix_freeCtr (f v : Nat) (x : Msix) : (setMsix s f v x).freeCtr = s.freeCtr := rfl
@[simp] theorem setMsix_stalled (f v : Nat) (x : Msix) : (setMsix s f v x).stalled = s.stalled := rfl
@[simp] theorem setMsix_now (f v : Nat) (x : Msix) : (setMsix s f v x).now = s.now := rfl
@[simp] theorem setMsix_regs (f v : Nat) (x : Msix) : (setMsix s f v x).regs = s.regs := rfl
@[simp] theorem setMsix_mem (f v : Nat) (x : Msix) : (setMsix s f v x).mem = s.mem := rfl
@[simp] theorem setMsix_ueLines (f v : Nat) (x : Msix) : (setMsix s f v x).ueLines = s.ueLines := rfl
@[simp] theorem setMsix_cores (f v : Nat) (x : Msix) : (setMsix s f v x).cores = s.cores := rfl
@[simp] theorem setMsix_launches (f v : Nat) (x : Msix) : (setMsix s f v x).launches = s.launches := rfl
@[simp] theorem setMsix_heldAcc (f v : Nat) (x : Msix) : (setMsix s f v x).heldAcc = s.heldAcc := rfl
@[simp] theorem setMsix_answers (f v : Nat) (x : Msix) : (setMsix s f v x).answers = s.answers := rfl
@[simp] theorem setMsix_scache (f v : Nat) (x : Msix) : (setMsix s f v x).scache = s.scache := rfl
@[simp] theorem setMsix_scPlru (f v : Nat) (x : Msix) : (setMsix s f v x).scPlru = s.scPlru := rfl
@[simp] theorem setMsix_depot (f v : Nat) (x : Msix) : (setMsix s f v x).depot = s.depot := rfl
@[simp] theorem setMsix_depotPlru (f v : Nat) (x : Msix) : (setMsix s f v x).depotPlru = s.depotPlru := rfl
@[simp] theorem setMsix_mesh (f v : Nat) (x : Msix) : (setMsix s f v x).mesh = s.mesh := rfl
@[simp] theorem setMsix_watch (f v : Nat) (x : Msix) : (setMsix s f v x).watch = s.watch := rfl
@[simp] theorem setMsix_meshArb (f v : Nat) (x : Msix) : (setMsix s f v x).meshArb = s.meshArb := rfl
@[simp] theorem setMsix_ejected (f v : Nat) (x : Msix) : (setMsix s f v x).ejected = s.ejected := rfl
@[simp] theorem setMsix_sigs (f v : Nat) (x : Msix) : (setMsix s f v x).sigs = s.sigs := rfl
@[simp] theorem setMsix_mdSigs (f v : Nat) (x : Msix) : (setMsix s f v x).mdSigs = s.mdSigs := rfl
@[simp] theorem setMsix_stopSigs (f v : Nat) (x : Msix) : (setMsix s f v x).stopSigs = s.stopSigs := rfl
@[simp] theorem setMsix_rxq (f v : Nat) (x : Msix) : (setMsix s f v x).rxq = s.rxq := rfl
@[simp] theorem setMsix_kvgLanes (f v : Nat) (x : Msix) : (setMsix s f v x).kvgLanes = s.kvgLanes := rfl
@[simp] theorem setMsix_kvg (f v : Nat) (x : Msix) : (setMsix s f v x).kvg = s.kvg := rfl
@[simp] theorem setMsix_points (f v : Nat) (x : Msix) : (setMsix s f v x).points = s.points := rfl
@[simp] theorem setMsix_bls (f v : Nat) (x : Msix) : (setMsix s f v x).bls = s.bls := rfl
@[simp] theorem setMsix_routes (f v : Nat) (x : Msix) : (setMsix s f v x).routes = s.routes := rfl
@[simp] theorem setMsix_oldMaps (f v : Nat) (x : Msix) : (setMsix s f v x).oldMaps = s.oldMaps := rfl
@[simp] theorem setMsix_dill (f v : Nat) (x : Msix) : (setMsix s f v x).dill = s.dill := rfl
@[simp] theorem setMsix_declares (f v : Nat) (x : Msix) : (setMsix s f v x).declares = s.declares := rfl
@[simp] theorem setMsix_prefetches (f v : Nat) (x : Msix) : (setMsix s f v x).prefetches = s.prefetches := rfl
@[simp] theorem setMsix_scrubOf (f v : Nat) (x : Msix) : (setMsix s f v x).scrubOf = s.scrubOf := rfl
@[simp] theorem setMsix_missHist (f v : Nat) (x : Msix) : (setMsix s f v x).missHist = s.missHist := rfl
@[simp] theorem setMsix_regionClk (f v : Nat) (x : Msix) : (setMsix s f v x).regionClk = s.regionClk := rfl
@[simp] theorem setMsix_wins (f v : Nat) (x : Msix) : (setMsix s f v x).wins = s.wins := rfl
@[simp] theorem setMsix_winsNew (f v : Nat) (x : Msix) : (setMsix s f v x).winsNew = s.winsNew := rfl
@[simp] theorem setMsix_meters (f v : Nat) (x : Msix) : (setMsix s f v x).meters = s.meters := rfl
@[simp] theorem setMsix_troubles (f v : Nat) (x : Msix) : (setMsix s f v x).troubles = s.troubles := rfl
@[simp] theorem setMsix_portQ (f v : Nat) (x : Msix) : (setMsix s f v x).portQ = s.portQ := rfl
@[simp] theorem setMsix_portArb (f v : Nat) (x : Msix) : (setMsix s f v x).portArb = s.portArb := rfl
@[simp] theorem setMsix_unacked (f v : Nat) (x : Msix) : (setMsix s f v x).unacked = s.unacked := rfl
@[simp] theorem setMsix_remotes (f v : Nat) (x : Msix) : (setMsix s f v x).remotes = s.remotes := rfl
@[simp] theorem setMsix_links (f v : Nat) (x : Msix) : (setMsix s f v x).links = s.links := rfl
@[simp] theorem setMsix_flitOut (f v : Nat) (x : Msix) : (setMsix s f v x).flitOut = s.flitOut := rfl
@[simp] theorem setMsix_breaks (f v : Nat) (x : Msix) : (setMsix s f v x).breaks = s.breaks := rfl
@[simp] theorem setMsix_dirs (f v : Nat) (x : Msix) : (setMsix s f v x).dirs = s.dirs := rfl
@[simp] theorem setMsix_holders (f v : Nat) (x : Msix) : (setMsix s f v x).holders = s.holders := rfl
@[simp] theorem setMsix_nextId (f v : Nat) (x : Msix) : (setMsix s f v x).nextId = s.nextId := rfl
@[simp] theorem setMsix_funcs (f v : Nat) (x : Msix) : (setMsix s f v x).funcs = s.funcs := rfl
@[simp] theorem setMsix_tlps (f v : Nat) (x : Msix) : (setMsix s f v x).tlps = s.tlps := rfl
@[simp] theorem setMsix_posted (f v : Nat) (x : Msix) : (setMsix s f v x).posted = s.posted := rfl
@[simp] theorem setMsix_atc (f v : Nat) (x : Msix) : (setMsix s f v x).atc = s.atc := rfl
@[simp] theorem setMsix_atsOut (f v : Nat) (x : Msix) : (setMsix s f v x).atsOut = s.atsOut := rfl
@[simp] theorem setMsix_hreads (f v : Nat) (x : Msix) : (setMsix s f v x).hreads = s.hreads := rfl
@[simp] theorem setMsix_invals (f v : Nat) (x : Msix) : (setMsix s f v x).invals = s.invals := rfl
@[simp] theorem setMsix_rings (f v : Nat) (x : Msix) : (setMsix s f v x).rings = s.rings := rfl
@[simp] theorem setMsix_cmds (f v : Nat) (x : Msix) : (setMsix s f v x).cmds = s.cmds := rfl
@[simp] theorem setMsix_intake (f v : Nat) (x : Msix) : (setMsix s f v x).intake = s.intake := rfl
@[simp] theorem setMsix_turn (f v : Nat) (x : Msix) : (setMsix s f v x).turn = s.turn := rfl
@[simp] theorem setMsix_ctxs (f v : Nat) (x : Msix) : (setMsix s f v x).ctxs = s.ctxs := rfl
@[simp] theorem setMsix_objs (f v : Nat) (x : Msix) : (setMsix s f v x).objs = s.objs := rfl
@[simp] theorem setMsix_fences (f v : Nat) (x : Msix) : (setMsix s f v x).fences = s.fences := rfl
@[simp] theorem setMsix_faults (f v : Nat) (x : Msix) : (setMsix s f v x).faults = s.faults := rfl
@[simp] theorem setMsix_hints (f v : Nat) (x : Msix) : (setMsix s f v x).hints = s.hints := rfl
@[simp] theorem setMsix_reqs (f v : Nat) (x : Msix) : (setMsix s f v x).reqs = s.reqs := rfl
@[simp] theorem setMsix_services (f v : Nat) (x : Msix) : (setMsix s f v x).services = s.services := rfl
@[simp] theorem setMsix_lentExt (f v : Nat) (x : Msix) : (setMsix s f v x).lentExt = s.lentExt := rfl
@[simp] theorem setMsix_chans (f v : Nat) (x : Msix) : (setMsix s f v x).chans = s.chans := rfl
@[simp] theorem setMsix_comp (f v : Nat) (x : Msix) : (setMsix s f v x).comp = s.comp := rfl
@[simp] theorem setMsix_notices (f v : Nat) (x : Msix) : (setMsix s f v x).notices = s.notices := rfl
@[simp] theorem setMsix_compOut (f v : Nat) (x : Msix) : (setMsix s f v x).compOut = s.compOut := rfl
@[simp] theorem setMsix_reads (f v : Nat) (x : Msix) : (setMsix s f v x).reads = s.reads := rfl
@[simp] theorem setMsix_measures (f v : Nat) (x : Msix) : (setMsix s f v x).measures = s.measures := rfl
@[simp] theorem setMsix_harts (f v : Nat) (x : Msix) : (setMsix s f v x).harts = s.harts := rfl
@[simp] theorem setMsix_sorts (f v : Nat) (x : Msix) : (setMsix s f v x).sorts = s.sorts := rfl
@[simp] theorem setMsix_dirPtr (f v : Nat) (x : Msix) : (setMsix s f v x).dirPtr = s.dirPtr := rfl
@[simp] theorem setMsix_dirPlru (f v : Nat) (x : Msix) : (setMsix s f v x).dirPlru = s.dirPlru := rfl
@[simp] theorem setMsix_dirHeld (f v : Nat) (x : Msix) : (setMsix s f v x).dirHeld = s.dirHeld := rfl
@[simp] theorem setMsix_power (f v : Nat) (x : Msix) : (setMsix s f v x).power = s.power := rfl
@[simp] theorem setMsix_rst (f v : Nat) (x : Msix) : (setMsix s f v x).rst = s.rst := rfl
@[simp] theorem setMsix_shuts (f v : Nat) (x : Msix) : (setMsix s f v x).shuts = s.shuts := rfl
@[simp] theorem setMsix_mod (f v : Nat) (x : Msix) : (setMsix s f v x).mod = s.mod := rfl
@[simp] theorem fget_setMsix (f v : Nat) (x : Msix) (ff : F) (j : Nat) : fget (setMsix s f v x) ff j = fget s ff j := rfl
@[simp] theorem fbit_setMsix (f v : Nat) (x : Msix) (ff : F) (j : Nat) : fbit (setMsix s f v x) ff j = fbit s ff j := rfl

@[simp] theorem setPosted_pending (f : Nat) (l : List Posted) : (setPosted s f l).pending = s.pending := rfl
@[simp] theorem setPosted_freeCtr (f : Nat) (l : List Posted) : (setPosted s f l).freeCtr = s.freeCtr := rfl
@[simp] theorem setPosted_stalled (f : Nat) (l : List Posted) : (setPosted s f l).stalled = s.stalled := rfl
@[simp] theorem setPosted_now (f : Nat) (l : List Posted) : (setPosted s f l).now = s.now := rfl
@[simp] theorem setPosted_regs (f : Nat) (l : List Posted) : (setPosted s f l).regs = s.regs := rfl
@[simp] theorem setPosted_mem (f : Nat) (l : List Posted) : (setPosted s f l).mem = s.mem := rfl
@[simp] theorem setPosted_ueLines (f : Nat) (l : List Posted) : (setPosted s f l).ueLines = s.ueLines := rfl
@[simp] theorem setPosted_cores (f : Nat) (l : List Posted) : (setPosted s f l).cores = s.cores := rfl
@[simp] theorem setPosted_launches (f : Nat) (l : List Posted) : (setPosted s f l).launches = s.launches := rfl
@[simp] theorem setPosted_heldAcc (f : Nat) (l : List Posted) : (setPosted s f l).heldAcc = s.heldAcc := rfl
@[simp] theorem setPosted_answers (f : Nat) (l : List Posted) : (setPosted s f l).answers = s.answers := rfl
@[simp] theorem setPosted_scache (f : Nat) (l : List Posted) : (setPosted s f l).scache = s.scache := rfl
@[simp] theorem setPosted_scPlru (f : Nat) (l : List Posted) : (setPosted s f l).scPlru = s.scPlru := rfl
@[simp] theorem setPosted_depot (f : Nat) (l : List Posted) : (setPosted s f l).depot = s.depot := rfl
@[simp] theorem setPosted_depotPlru (f : Nat) (l : List Posted) : (setPosted s f l).depotPlru = s.depotPlru := rfl
@[simp] theorem setPosted_mesh (f : Nat) (l : List Posted) : (setPosted s f l).mesh = s.mesh := rfl
@[simp] theorem setPosted_watch (f : Nat) (l : List Posted) : (setPosted s f l).watch = s.watch := rfl
@[simp] theorem setPosted_meshArb (f : Nat) (l : List Posted) : (setPosted s f l).meshArb = s.meshArb := rfl
@[simp] theorem setPosted_ejected (f : Nat) (l : List Posted) : (setPosted s f l).ejected = s.ejected := rfl
@[simp] theorem setPosted_sigs (f : Nat) (l : List Posted) : (setPosted s f l).sigs = s.sigs := rfl
@[simp] theorem setPosted_mdSigs (f : Nat) (l : List Posted) : (setPosted s f l).mdSigs = s.mdSigs := rfl
@[simp] theorem setPosted_stopSigs (f : Nat) (l : List Posted) : (setPosted s f l).stopSigs = s.stopSigs := rfl
@[simp] theorem setPosted_rxq (f : Nat) (l : List Posted) : (setPosted s f l).rxq = s.rxq := rfl
@[simp] theorem setPosted_kvgLanes (f : Nat) (l : List Posted) : (setPosted s f l).kvgLanes = s.kvgLanes := rfl
@[simp] theorem setPosted_kvg (f : Nat) (l : List Posted) : (setPosted s f l).kvg = s.kvg := rfl
@[simp] theorem setPosted_points (f : Nat) (l : List Posted) : (setPosted s f l).points = s.points := rfl
@[simp] theorem setPosted_bls (f : Nat) (l : List Posted) : (setPosted s f l).bls = s.bls := rfl
@[simp] theorem setPosted_routes (f : Nat) (l : List Posted) : (setPosted s f l).routes = s.routes := rfl
@[simp] theorem setPosted_oldMaps (f : Nat) (l : List Posted) : (setPosted s f l).oldMaps = s.oldMaps := rfl
@[simp] theorem setPosted_dill (f : Nat) (l : List Posted) : (setPosted s f l).dill = s.dill := rfl
@[simp] theorem setPosted_declares (f : Nat) (l : List Posted) : (setPosted s f l).declares = s.declares := rfl
@[simp] theorem setPosted_prefetches (f : Nat) (l : List Posted) : (setPosted s f l).prefetches = s.prefetches := rfl
@[simp] theorem setPosted_scrubOf (f : Nat) (l : List Posted) : (setPosted s f l).scrubOf = s.scrubOf := rfl
@[simp] theorem setPosted_missHist (f : Nat) (l : List Posted) : (setPosted s f l).missHist = s.missHist := rfl
@[simp] theorem setPosted_regionClk (f : Nat) (l : List Posted) : (setPosted s f l).regionClk = s.regionClk := rfl
@[simp] theorem setPosted_wins (f : Nat) (l : List Posted) : (setPosted s f l).wins = s.wins := rfl
@[simp] theorem setPosted_winsNew (f : Nat) (l : List Posted) : (setPosted s f l).winsNew = s.winsNew := rfl
@[simp] theorem setPosted_meters (f : Nat) (l : List Posted) : (setPosted s f l).meters = s.meters := rfl
@[simp] theorem setPosted_troubles (f : Nat) (l : List Posted) : (setPosted s f l).troubles = s.troubles := rfl
@[simp] theorem setPosted_portQ (f : Nat) (l : List Posted) : (setPosted s f l).portQ = s.portQ := rfl
@[simp] theorem setPosted_portArb (f : Nat) (l : List Posted) : (setPosted s f l).portArb = s.portArb := rfl
@[simp] theorem setPosted_unacked (f : Nat) (l : List Posted) : (setPosted s f l).unacked = s.unacked := rfl
@[simp] theorem setPosted_remotes (f : Nat) (l : List Posted) : (setPosted s f l).remotes = s.remotes := rfl
@[simp] theorem setPosted_links (f : Nat) (l : List Posted) : (setPosted s f l).links = s.links := rfl
@[simp] theorem setPosted_flitOut (f : Nat) (l : List Posted) : (setPosted s f l).flitOut = s.flitOut := rfl
@[simp] theorem setPosted_breaks (f : Nat) (l : List Posted) : (setPosted s f l).breaks = s.breaks := rfl
@[simp] theorem setPosted_dirs (f : Nat) (l : List Posted) : (setPosted s f l).dirs = s.dirs := rfl
@[simp] theorem setPosted_holders (f : Nat) (l : List Posted) : (setPosted s f l).holders = s.holders := rfl
@[simp] theorem setPosted_nextId (f : Nat) (l : List Posted) : (setPosted s f l).nextId = s.nextId := rfl
@[simp] theorem setPosted_funcs (f : Nat) (l : List Posted) : (setPosted s f l).funcs = s.funcs := rfl
@[simp] theorem setPosted_msix (f : Nat) (l : List Posted) : (setPosted s f l).msix = s.msix := rfl
@[simp] theorem setPosted_tlps (f : Nat) (l : List Posted) : (setPosted s f l).tlps = s.tlps := rfl
@[simp] theorem setPosted_atc (f : Nat) (l : List Posted) : (setPosted s f l).atc = s.atc := rfl
@[simp] theorem setPosted_atsOut (f : Nat) (l : List Posted) : (setPosted s f l).atsOut = s.atsOut := rfl
@[simp] theorem setPosted_hreads (f : Nat) (l : List Posted) : (setPosted s f l).hreads = s.hreads := rfl
@[simp] theorem setPosted_invals (f : Nat) (l : List Posted) : (setPosted s f l).invals = s.invals := rfl
@[simp] theorem setPosted_rings (f : Nat) (l : List Posted) : (setPosted s f l).rings = s.rings := rfl
@[simp] theorem setPosted_cmds (f : Nat) (l : List Posted) : (setPosted s f l).cmds = s.cmds := rfl
@[simp] theorem setPosted_intake (f : Nat) (l : List Posted) : (setPosted s f l).intake = s.intake := rfl
@[simp] theorem setPosted_turn (f : Nat) (l : List Posted) : (setPosted s f l).turn = s.turn := rfl
@[simp] theorem setPosted_ctxs (f : Nat) (l : List Posted) : (setPosted s f l).ctxs = s.ctxs := rfl
@[simp] theorem setPosted_objs (f : Nat) (l : List Posted) : (setPosted s f l).objs = s.objs := rfl
@[simp] theorem setPosted_fences (f : Nat) (l : List Posted) : (setPosted s f l).fences = s.fences := rfl
@[simp] theorem setPosted_faults (f : Nat) (l : List Posted) : (setPosted s f l).faults = s.faults := rfl
@[simp] theorem setPosted_hints (f : Nat) (l : List Posted) : (setPosted s f l).hints = s.hints := rfl
@[simp] theorem setPosted_reqs (f : Nat) (l : List Posted) : (setPosted s f l).reqs = s.reqs := rfl
@[simp] theorem setPosted_services (f : Nat) (l : List Posted) : (setPosted s f l).services = s.services := rfl
@[simp] theorem setPosted_lentExt (f : Nat) (l : List Posted) : (setPosted s f l).lentExt = s.lentExt := rfl
@[simp] theorem setPosted_chans (f : Nat) (l : List Posted) : (setPosted s f l).chans = s.chans := rfl
@[simp] theorem setPosted_comp (f : Nat) (l : List Posted) : (setPosted s f l).comp = s.comp := rfl
@[simp] theorem setPosted_notices (f : Nat) (l : List Posted) : (setPosted s f l).notices = s.notices := rfl
@[simp] theorem setPosted_compOut (f : Nat) (l : List Posted) : (setPosted s f l).compOut = s.compOut := rfl
@[simp] theorem setPosted_reads (f : Nat) (l : List Posted) : (setPosted s f l).reads = s.reads := rfl
@[simp] theorem setPosted_measures (f : Nat) (l : List Posted) : (setPosted s f l).measures = s.measures := rfl
@[simp] theorem setPosted_harts (f : Nat) (l : List Posted) : (setPosted s f l).harts = s.harts := rfl
@[simp] theorem setPosted_sorts (f : Nat) (l : List Posted) : (setPosted s f l).sorts = s.sorts := rfl
@[simp] theorem setPosted_dirPtr (f : Nat) (l : List Posted) : (setPosted s f l).dirPtr = s.dirPtr := rfl
@[simp] theorem setPosted_dirPlru (f : Nat) (l : List Posted) : (setPosted s f l).dirPlru = s.dirPlru := rfl
@[simp] theorem setPosted_dirHeld (f : Nat) (l : List Posted) : (setPosted s f l).dirHeld = s.dirHeld := rfl
@[simp] theorem setPosted_power (f : Nat) (l : List Posted) : (setPosted s f l).power = s.power := rfl
@[simp] theorem setPosted_rst (f : Nat) (l : List Posted) : (setPosted s f l).rst = s.rst := rfl
@[simp] theorem setPosted_shuts (f : Nat) (l : List Posted) : (setPosted s f l).shuts = s.shuts := rfl
@[simp] theorem setPosted_mod (f : Nat) (l : List Posted) : (setPosted s f l).mod = s.mod := rfl
@[simp] theorem fget_setPosted (f : Nat) (l : List Posted) (ff : F) (j : Nat) : fget (setPosted s f l) ff j = fget s ff j := rfl
@[simp] theorem fbit_setPosted (f : Nat) (l : List Posted) (ff : F) (j : Nat) : fbit (setPosted s f l) ff j = fbit s ff j := rfl

@[simp] theorem setRing_pending (r : Nat) (x : Ring) : (setRing s r x).pending = s.pending := rfl
@[simp] theorem setRing_freeCtr (r : Nat) (x : Ring) : (setRing s r x).freeCtr = s.freeCtr := rfl
@[simp] theorem setRing_stalled (r : Nat) (x : Ring) : (setRing s r x).stalled = s.stalled := rfl
@[simp] theorem setRing_now (r : Nat) (x : Ring) : (setRing s r x).now = s.now := rfl
@[simp] theorem setRing_regs (r : Nat) (x : Ring) : (setRing s r x).regs = s.regs := rfl
@[simp] theorem setRing_mem (r : Nat) (x : Ring) : (setRing s r x).mem = s.mem := rfl
@[simp] theorem setRing_ueLines (r : Nat) (x : Ring) : (setRing s r x).ueLines = s.ueLines := rfl
@[simp] theorem setRing_cores (r : Nat) (x : Ring) : (setRing s r x).cores = s.cores := rfl
@[simp] theorem setRing_launches (r : Nat) (x : Ring) : (setRing s r x).launches = s.launches := rfl
@[simp] theorem setRing_heldAcc (r : Nat) (x : Ring) : (setRing s r x).heldAcc = s.heldAcc := rfl
@[simp] theorem setRing_answers (r : Nat) (x : Ring) : (setRing s r x).answers = s.answers := rfl
@[simp] theorem setRing_scache (r : Nat) (x : Ring) : (setRing s r x).scache = s.scache := rfl
@[simp] theorem setRing_scPlru (r : Nat) (x : Ring) : (setRing s r x).scPlru = s.scPlru := rfl
@[simp] theorem setRing_depot (r : Nat) (x : Ring) : (setRing s r x).depot = s.depot := rfl
@[simp] theorem setRing_depotPlru (r : Nat) (x : Ring) : (setRing s r x).depotPlru = s.depotPlru := rfl
@[simp] theorem setRing_mesh (r : Nat) (x : Ring) : (setRing s r x).mesh = s.mesh := rfl
@[simp] theorem setRing_watch (r : Nat) (x : Ring) : (setRing s r x).watch = s.watch := rfl
@[simp] theorem setRing_meshArb (r : Nat) (x : Ring) : (setRing s r x).meshArb = s.meshArb := rfl
@[simp] theorem setRing_ejected (r : Nat) (x : Ring) : (setRing s r x).ejected = s.ejected := rfl
@[simp] theorem setRing_sigs (r : Nat) (x : Ring) : (setRing s r x).sigs = s.sigs := rfl
@[simp] theorem setRing_mdSigs (r : Nat) (x : Ring) : (setRing s r x).mdSigs = s.mdSigs := rfl
@[simp] theorem setRing_stopSigs (r : Nat) (x : Ring) : (setRing s r x).stopSigs = s.stopSigs := rfl
@[simp] theorem setRing_rxq (r : Nat) (x : Ring) : (setRing s r x).rxq = s.rxq := rfl
@[simp] theorem setRing_kvgLanes (r : Nat) (x : Ring) : (setRing s r x).kvgLanes = s.kvgLanes := rfl
@[simp] theorem setRing_kvg (r : Nat) (x : Ring) : (setRing s r x).kvg = s.kvg := rfl
@[simp] theorem setRing_points (r : Nat) (x : Ring) : (setRing s r x).points = s.points := rfl
@[simp] theorem setRing_bls (r : Nat) (x : Ring) : (setRing s r x).bls = s.bls := rfl
@[simp] theorem setRing_routes (r : Nat) (x : Ring) : (setRing s r x).routes = s.routes := rfl
@[simp] theorem setRing_oldMaps (r : Nat) (x : Ring) : (setRing s r x).oldMaps = s.oldMaps := rfl
@[simp] theorem setRing_dill (r : Nat) (x : Ring) : (setRing s r x).dill = s.dill := rfl
@[simp] theorem setRing_declares (r : Nat) (x : Ring) : (setRing s r x).declares = s.declares := rfl
@[simp] theorem setRing_prefetches (r : Nat) (x : Ring) : (setRing s r x).prefetches = s.prefetches := rfl
@[simp] theorem setRing_scrubOf (r : Nat) (x : Ring) : (setRing s r x).scrubOf = s.scrubOf := rfl
@[simp] theorem setRing_missHist (r : Nat) (x : Ring) : (setRing s r x).missHist = s.missHist := rfl
@[simp] theorem setRing_regionClk (r : Nat) (x : Ring) : (setRing s r x).regionClk = s.regionClk := rfl
@[simp] theorem setRing_wins (r : Nat) (x : Ring) : (setRing s r x).wins = s.wins := rfl
@[simp] theorem setRing_winsNew (r : Nat) (x : Ring) : (setRing s r x).winsNew = s.winsNew := rfl
@[simp] theorem setRing_meters (r : Nat) (x : Ring) : (setRing s r x).meters = s.meters := rfl
@[simp] theorem setRing_troubles (r : Nat) (x : Ring) : (setRing s r x).troubles = s.troubles := rfl
@[simp] theorem setRing_portQ (r : Nat) (x : Ring) : (setRing s r x).portQ = s.portQ := rfl
@[simp] theorem setRing_portArb (r : Nat) (x : Ring) : (setRing s r x).portArb = s.portArb := rfl
@[simp] theorem setRing_unacked (r : Nat) (x : Ring) : (setRing s r x).unacked = s.unacked := rfl
@[simp] theorem setRing_remotes (r : Nat) (x : Ring) : (setRing s r x).remotes = s.remotes := rfl
@[simp] theorem setRing_links (r : Nat) (x : Ring) : (setRing s r x).links = s.links := rfl
@[simp] theorem setRing_flitOut (r : Nat) (x : Ring) : (setRing s r x).flitOut = s.flitOut := rfl
@[simp] theorem setRing_breaks (r : Nat) (x : Ring) : (setRing s r x).breaks = s.breaks := rfl
@[simp] theorem setRing_dirs (r : Nat) (x : Ring) : (setRing s r x).dirs = s.dirs := rfl
@[simp] theorem setRing_holders (r : Nat) (x : Ring) : (setRing s r x).holders = s.holders := rfl
@[simp] theorem setRing_nextId (r : Nat) (x : Ring) : (setRing s r x).nextId = s.nextId := rfl
@[simp] theorem setRing_funcs (r : Nat) (x : Ring) : (setRing s r x).funcs = s.funcs := rfl
@[simp] theorem setRing_msix (r : Nat) (x : Ring) : (setRing s r x).msix = s.msix := rfl
@[simp] theorem setRing_tlps (r : Nat) (x : Ring) : (setRing s r x).tlps = s.tlps := rfl
@[simp] theorem setRing_posted (r : Nat) (x : Ring) : (setRing s r x).posted = s.posted := rfl
@[simp] theorem setRing_atc (r : Nat) (x : Ring) : (setRing s r x).atc = s.atc := rfl
@[simp] theorem setRing_atsOut (r : Nat) (x : Ring) : (setRing s r x).atsOut = s.atsOut := rfl
@[simp] theorem setRing_hreads (r : Nat) (x : Ring) : (setRing s r x).hreads = s.hreads := rfl
@[simp] theorem setRing_invals (r : Nat) (x : Ring) : (setRing s r x).invals = s.invals := rfl
@[simp] theorem setRing_cmds (r : Nat) (x : Ring) : (setRing s r x).cmds = s.cmds := rfl
@[simp] theorem setRing_intake (r : Nat) (x : Ring) : (setRing s r x).intake = s.intake := rfl
@[simp] theorem setRing_turn (r : Nat) (x : Ring) : (setRing s r x).turn = s.turn := rfl
@[simp] theorem setRing_ctxs (r : Nat) (x : Ring) : (setRing s r x).ctxs = s.ctxs := rfl
@[simp] theorem setRing_objs (r : Nat) (x : Ring) : (setRing s r x).objs = s.objs := rfl
@[simp] theorem setRing_fences (r : Nat) (x : Ring) : (setRing s r x).fences = s.fences := rfl
@[simp] theorem setRing_faults (r : Nat) (x : Ring) : (setRing s r x).faults = s.faults := rfl
@[simp] theorem setRing_hints (r : Nat) (x : Ring) : (setRing s r x).hints = s.hints := rfl
@[simp] theorem setRing_reqs (r : Nat) (x : Ring) : (setRing s r x).reqs = s.reqs := rfl
@[simp] theorem setRing_services (r : Nat) (x : Ring) : (setRing s r x).services = s.services := rfl
@[simp] theorem setRing_lentExt (r : Nat) (x : Ring) : (setRing s r x).lentExt = s.lentExt := rfl
@[simp] theorem setRing_chans (r : Nat) (x : Ring) : (setRing s r x).chans = s.chans := rfl
@[simp] theorem setRing_comp (r : Nat) (x : Ring) : (setRing s r x).comp = s.comp := rfl
@[simp] theorem setRing_notices (r : Nat) (x : Ring) : (setRing s r x).notices = s.notices := rfl
@[simp] theorem setRing_compOut (r : Nat) (x : Ring) : (setRing s r x).compOut = s.compOut := rfl
@[simp] theorem setRing_reads (r : Nat) (x : Ring) : (setRing s r x).reads = s.reads := rfl
@[simp] theorem setRing_measures (r : Nat) (x : Ring) : (setRing s r x).measures = s.measures := rfl
@[simp] theorem setRing_harts (r : Nat) (x : Ring) : (setRing s r x).harts = s.harts := rfl
@[simp] theorem setRing_sorts (r : Nat) (x : Ring) : (setRing s r x).sorts = s.sorts := rfl
@[simp] theorem setRing_dirPtr (r : Nat) (x : Ring) : (setRing s r x).dirPtr = s.dirPtr := rfl
@[simp] theorem setRing_dirPlru (r : Nat) (x : Ring) : (setRing s r x).dirPlru = s.dirPlru := rfl
@[simp] theorem setRing_dirHeld (r : Nat) (x : Ring) : (setRing s r x).dirHeld = s.dirHeld := rfl
@[simp] theorem setRing_power (r : Nat) (x : Ring) : (setRing s r x).power = s.power := rfl
@[simp] theorem setRing_rst (r : Nat) (x : Ring) : (setRing s r x).rst = s.rst := rfl
@[simp] theorem setRing_shuts (r : Nat) (x : Ring) : (setRing s r x).shuts = s.shuts := rfl
@[simp] theorem setRing_mod (r : Nat) (x : Ring) : (setRing s r x).mod = s.mod := rfl
@[simp] theorem fget_setRing (r : Nat) (x : Ring) (ff : F) (j : Nat) : fget (setRing s r x) ff j = fget s ff j := rfl
@[simp] theorem fbit_setRing (r : Nat) (x : Ring) (ff : F) (j : Nat) : fbit (setRing s r x) ff j = fbit s ff j := rfl

@[simp] theorem setCtx_pending (p c : Nat) (x : Option Ctx) : (setCtx s p c x).pending = s.pending := rfl
@[simp] theorem setCtx_freeCtr (p c : Nat) (x : Option Ctx) : (setCtx s p c x).freeCtr = s.freeCtr := rfl
@[simp] theorem setCtx_stalled (p c : Nat) (x : Option Ctx) : (setCtx s p c x).stalled = s.stalled := rfl
@[simp] theorem setCtx_now (p c : Nat) (x : Option Ctx) : (setCtx s p c x).now = s.now := rfl
@[simp] theorem setCtx_regs (p c : Nat) (x : Option Ctx) : (setCtx s p c x).regs = s.regs := rfl
@[simp] theorem setCtx_mem (p c : Nat) (x : Option Ctx) : (setCtx s p c x).mem = s.mem := rfl
@[simp] theorem setCtx_ueLines (p c : Nat) (x : Option Ctx) : (setCtx s p c x).ueLines = s.ueLines := rfl
@[simp] theorem setCtx_cores (p c : Nat) (x : Option Ctx) : (setCtx s p c x).cores = s.cores := rfl
@[simp] theorem setCtx_launches (p c : Nat) (x : Option Ctx) : (setCtx s p c x).launches = s.launches := rfl
@[simp] theorem setCtx_heldAcc (p c : Nat) (x : Option Ctx) : (setCtx s p c x).heldAcc = s.heldAcc := rfl
@[simp] theorem setCtx_answers (p c : Nat) (x : Option Ctx) : (setCtx s p c x).answers = s.answers := rfl
@[simp] theorem setCtx_scache (p c : Nat) (x : Option Ctx) : (setCtx s p c x).scache = s.scache := rfl
@[simp] theorem setCtx_scPlru (p c : Nat) (x : Option Ctx) : (setCtx s p c x).scPlru = s.scPlru := rfl
@[simp] theorem setCtx_depot (p c : Nat) (x : Option Ctx) : (setCtx s p c x).depot = s.depot := rfl
@[simp] theorem setCtx_depotPlru (p c : Nat) (x : Option Ctx) : (setCtx s p c x).depotPlru = s.depotPlru := rfl
@[simp] theorem setCtx_mesh (p c : Nat) (x : Option Ctx) : (setCtx s p c x).mesh = s.mesh := rfl
@[simp] theorem setCtx_watch (p c : Nat) (x : Option Ctx) : (setCtx s p c x).watch = s.watch := rfl
@[simp] theorem setCtx_meshArb (p c : Nat) (x : Option Ctx) : (setCtx s p c x).meshArb = s.meshArb := rfl
@[simp] theorem setCtx_ejected (p c : Nat) (x : Option Ctx) : (setCtx s p c x).ejected = s.ejected := rfl
@[simp] theorem setCtx_sigs (p c : Nat) (x : Option Ctx) : (setCtx s p c x).sigs = s.sigs := rfl
@[simp] theorem setCtx_mdSigs (p c : Nat) (x : Option Ctx) : (setCtx s p c x).mdSigs = s.mdSigs := rfl
@[simp] theorem setCtx_stopSigs (p c : Nat) (x : Option Ctx) : (setCtx s p c x).stopSigs = s.stopSigs := rfl
@[simp] theorem setCtx_rxq (p c : Nat) (x : Option Ctx) : (setCtx s p c x).rxq = s.rxq := rfl
@[simp] theorem setCtx_kvgLanes (p c : Nat) (x : Option Ctx) : (setCtx s p c x).kvgLanes = s.kvgLanes := rfl
@[simp] theorem setCtx_kvg (p c : Nat) (x : Option Ctx) : (setCtx s p c x).kvg = s.kvg := rfl
@[simp] theorem setCtx_points (p c : Nat) (x : Option Ctx) : (setCtx s p c x).points = s.points := rfl
@[simp] theorem setCtx_bls (p c : Nat) (x : Option Ctx) : (setCtx s p c x).bls = s.bls := rfl
@[simp] theorem setCtx_routes (p c : Nat) (x : Option Ctx) : (setCtx s p c x).routes = s.routes := rfl
@[simp] theorem setCtx_oldMaps (p c : Nat) (x : Option Ctx) : (setCtx s p c x).oldMaps = s.oldMaps := rfl
@[simp] theorem setCtx_dill (p c : Nat) (x : Option Ctx) : (setCtx s p c x).dill = s.dill := rfl
@[simp] theorem setCtx_declares (p c : Nat) (x : Option Ctx) : (setCtx s p c x).declares = s.declares := rfl
@[simp] theorem setCtx_prefetches (p c : Nat) (x : Option Ctx) : (setCtx s p c x).prefetches = s.prefetches := rfl
@[simp] theorem setCtx_scrubOf (p c : Nat) (x : Option Ctx) : (setCtx s p c x).scrubOf = s.scrubOf := rfl
@[simp] theorem setCtx_missHist (p c : Nat) (x : Option Ctx) : (setCtx s p c x).missHist = s.missHist := rfl
@[simp] theorem setCtx_regionClk (p c : Nat) (x : Option Ctx) : (setCtx s p c x).regionClk = s.regionClk := rfl
@[simp] theorem setCtx_wins (p c : Nat) (x : Option Ctx) : (setCtx s p c x).wins = s.wins := rfl
@[simp] theorem setCtx_winsNew (p c : Nat) (x : Option Ctx) : (setCtx s p c x).winsNew = s.winsNew := rfl
@[simp] theorem setCtx_meters (p c : Nat) (x : Option Ctx) : (setCtx s p c x).meters = s.meters := rfl
@[simp] theorem setCtx_troubles (p c : Nat) (x : Option Ctx) : (setCtx s p c x).troubles = s.troubles := rfl
@[simp] theorem setCtx_portQ (p c : Nat) (x : Option Ctx) : (setCtx s p c x).portQ = s.portQ := rfl
@[simp] theorem setCtx_portArb (p c : Nat) (x : Option Ctx) : (setCtx s p c x).portArb = s.portArb := rfl
@[simp] theorem setCtx_unacked (p c : Nat) (x : Option Ctx) : (setCtx s p c x).unacked = s.unacked := rfl
@[simp] theorem setCtx_remotes (p c : Nat) (x : Option Ctx) : (setCtx s p c x).remotes = s.remotes := rfl
@[simp] theorem setCtx_links (p c : Nat) (x : Option Ctx) : (setCtx s p c x).links = s.links := rfl
@[simp] theorem setCtx_flitOut (p c : Nat) (x : Option Ctx) : (setCtx s p c x).flitOut = s.flitOut := rfl
@[simp] theorem setCtx_breaks (p c : Nat) (x : Option Ctx) : (setCtx s p c x).breaks = s.breaks := rfl
@[simp] theorem setCtx_dirs (p c : Nat) (x : Option Ctx) : (setCtx s p c x).dirs = s.dirs := rfl
@[simp] theorem setCtx_holders (p c : Nat) (x : Option Ctx) : (setCtx s p c x).holders = s.holders := rfl
@[simp] theorem setCtx_nextId (p c : Nat) (x : Option Ctx) : (setCtx s p c x).nextId = s.nextId := rfl
@[simp] theorem setCtx_funcs (p c : Nat) (x : Option Ctx) : (setCtx s p c x).funcs = s.funcs := rfl
@[simp] theorem setCtx_msix (p c : Nat) (x : Option Ctx) : (setCtx s p c x).msix = s.msix := rfl
@[simp] theorem setCtx_tlps (p c : Nat) (x : Option Ctx) : (setCtx s p c x).tlps = s.tlps := rfl
@[simp] theorem setCtx_posted (p c : Nat) (x : Option Ctx) : (setCtx s p c x).posted = s.posted := rfl
@[simp] theorem setCtx_atc (p c : Nat) (x : Option Ctx) : (setCtx s p c x).atc = s.atc := rfl
@[simp] theorem setCtx_atsOut (p c : Nat) (x : Option Ctx) : (setCtx s p c x).atsOut = s.atsOut := rfl
@[simp] theorem setCtx_hreads (p c : Nat) (x : Option Ctx) : (setCtx s p c x).hreads = s.hreads := rfl
@[simp] theorem setCtx_invals (p c : Nat) (x : Option Ctx) : (setCtx s p c x).invals = s.invals := rfl
@[simp] theorem setCtx_rings (p c : Nat) (x : Option Ctx) : (setCtx s p c x).rings = s.rings := rfl
@[simp] theorem setCtx_cmds (p c : Nat) (x : Option Ctx) : (setCtx s p c x).cmds = s.cmds := rfl
@[simp] theorem setCtx_intake (p c : Nat) (x : Option Ctx) : (setCtx s p c x).intake = s.intake := rfl
@[simp] theorem setCtx_turn (p c : Nat) (x : Option Ctx) : (setCtx s p c x).turn = s.turn := rfl
@[simp] theorem setCtx_objs (p c : Nat) (x : Option Ctx) : (setCtx s p c x).objs = s.objs := rfl
@[simp] theorem setCtx_fences (p c : Nat) (x : Option Ctx) : (setCtx s p c x).fences = s.fences := rfl
@[simp] theorem setCtx_faults (p c : Nat) (x : Option Ctx) : (setCtx s p c x).faults = s.faults := rfl
@[simp] theorem setCtx_hints (p c : Nat) (x : Option Ctx) : (setCtx s p c x).hints = s.hints := rfl
@[simp] theorem setCtx_reqs (p c : Nat) (x : Option Ctx) : (setCtx s p c x).reqs = s.reqs := rfl
@[simp] theorem setCtx_services (p c : Nat) (x : Option Ctx) : (setCtx s p c x).services = s.services := rfl
@[simp] theorem setCtx_lentExt (p c : Nat) (x : Option Ctx) : (setCtx s p c x).lentExt = s.lentExt := rfl
@[simp] theorem setCtx_chans (p c : Nat) (x : Option Ctx) : (setCtx s p c x).chans = s.chans := rfl
@[simp] theorem setCtx_comp (p c : Nat) (x : Option Ctx) : (setCtx s p c x).comp = s.comp := rfl
@[simp] theorem setCtx_notices (p c : Nat) (x : Option Ctx) : (setCtx s p c x).notices = s.notices := rfl
@[simp] theorem setCtx_compOut (p c : Nat) (x : Option Ctx) : (setCtx s p c x).compOut = s.compOut := rfl
@[simp] theorem setCtx_reads (p c : Nat) (x : Option Ctx) : (setCtx s p c x).reads = s.reads := rfl
@[simp] theorem setCtx_measures (p c : Nat) (x : Option Ctx) : (setCtx s p c x).measures = s.measures := rfl
@[simp] theorem setCtx_harts (p c : Nat) (x : Option Ctx) : (setCtx s p c x).harts = s.harts := rfl
@[simp] theorem setCtx_sorts (p c : Nat) (x : Option Ctx) : (setCtx s p c x).sorts = s.sorts := rfl
@[simp] theorem setCtx_dirPtr (p c : Nat) (x : Option Ctx) : (setCtx s p c x).dirPtr = s.dirPtr := rfl
@[simp] theorem setCtx_dirPlru (p c : Nat) (x : Option Ctx) : (setCtx s p c x).dirPlru = s.dirPlru := rfl
@[simp] theorem setCtx_dirHeld (p c : Nat) (x : Option Ctx) : (setCtx s p c x).dirHeld = s.dirHeld := rfl
@[simp] theorem setCtx_power (p c : Nat) (x : Option Ctx) : (setCtx s p c x).power = s.power := rfl
@[simp] theorem setCtx_rst (p c : Nat) (x : Option Ctx) : (setCtx s p c x).rst = s.rst := rfl
@[simp] theorem setCtx_shuts (p c : Nat) (x : Option Ctx) : (setCtx s p c x).shuts = s.shuts := rfl
@[simp] theorem setCtx_mod (p c : Nat) (x : Option Ctx) : (setCtx s p c x).mod = s.mod := rfl
@[simp] theorem fget_setCtx (p c : Nat) (x : Option Ctx) (ff : F) (j : Nat) : fget (setCtx s p c x) ff j = fget s ff j := rfl
@[simp] theorem fbit_setCtx (p c : Nat) (x : Option Ctx) (ff : F) (j : Nat) : fbit (setCtx s p c x) ff j = fbit s ff j := rfl

@[simp] theorem setCmd_pending (c : Cmd) : (setCmd s c).pending = s.pending := rfl
@[simp] theorem setCmd_freeCtr (c : Cmd) : (setCmd s c).freeCtr = s.freeCtr := rfl
@[simp] theorem setCmd_stalled (c : Cmd) : (setCmd s c).stalled = s.stalled := rfl
@[simp] theorem setCmd_now (c : Cmd) : (setCmd s c).now = s.now := rfl
@[simp] theorem setCmd_regs (c : Cmd) : (setCmd s c).regs = s.regs := rfl
@[simp] theorem setCmd_mem (c : Cmd) : (setCmd s c).mem = s.mem := rfl
@[simp] theorem setCmd_ueLines (c : Cmd) : (setCmd s c).ueLines = s.ueLines := rfl
@[simp] theorem setCmd_cores (c : Cmd) : (setCmd s c).cores = s.cores := rfl
@[simp] theorem setCmd_launches (c : Cmd) : (setCmd s c).launches = s.launches := rfl
@[simp] theorem setCmd_heldAcc (c : Cmd) : (setCmd s c).heldAcc = s.heldAcc := rfl
@[simp] theorem setCmd_answers (c : Cmd) : (setCmd s c).answers = s.answers := rfl
@[simp] theorem setCmd_scache (c : Cmd) : (setCmd s c).scache = s.scache := rfl
@[simp] theorem setCmd_scPlru (c : Cmd) : (setCmd s c).scPlru = s.scPlru := rfl
@[simp] theorem setCmd_depot (c : Cmd) : (setCmd s c).depot = s.depot := rfl
@[simp] theorem setCmd_depotPlru (c : Cmd) : (setCmd s c).depotPlru = s.depotPlru := rfl
@[simp] theorem setCmd_mesh (c : Cmd) : (setCmd s c).mesh = s.mesh := rfl
@[simp] theorem setCmd_watch (c : Cmd) : (setCmd s c).watch = s.watch := rfl
@[simp] theorem setCmd_meshArb (c : Cmd) : (setCmd s c).meshArb = s.meshArb := rfl
@[simp] theorem setCmd_ejected (c : Cmd) : (setCmd s c).ejected = s.ejected := rfl
@[simp] theorem setCmd_sigs (c : Cmd) : (setCmd s c).sigs = s.sigs := rfl
@[simp] theorem setCmd_mdSigs (c : Cmd) : (setCmd s c).mdSigs = s.mdSigs := rfl
@[simp] theorem setCmd_stopSigs (c : Cmd) : (setCmd s c).stopSigs = s.stopSigs := rfl
@[simp] theorem setCmd_rxq (c : Cmd) : (setCmd s c).rxq = s.rxq := rfl
@[simp] theorem setCmd_kvgLanes (c : Cmd) : (setCmd s c).kvgLanes = s.kvgLanes := rfl
@[simp] theorem setCmd_kvg (c : Cmd) : (setCmd s c).kvg = s.kvg := rfl
@[simp] theorem setCmd_points (c : Cmd) : (setCmd s c).points = s.points := rfl
@[simp] theorem setCmd_bls (c : Cmd) : (setCmd s c).bls = s.bls := rfl
@[simp] theorem setCmd_routes (c : Cmd) : (setCmd s c).routes = s.routes := rfl
@[simp] theorem setCmd_oldMaps (c : Cmd) : (setCmd s c).oldMaps = s.oldMaps := rfl
@[simp] theorem setCmd_dill (c : Cmd) : (setCmd s c).dill = s.dill := rfl
@[simp] theorem setCmd_declares (c : Cmd) : (setCmd s c).declares = s.declares := rfl
@[simp] theorem setCmd_prefetches (c : Cmd) : (setCmd s c).prefetches = s.prefetches := rfl
@[simp] theorem setCmd_scrubOf (c : Cmd) : (setCmd s c).scrubOf = s.scrubOf := rfl
@[simp] theorem setCmd_missHist (c : Cmd) : (setCmd s c).missHist = s.missHist := rfl
@[simp] theorem setCmd_regionClk (c : Cmd) : (setCmd s c).regionClk = s.regionClk := rfl
@[simp] theorem setCmd_wins (c : Cmd) : (setCmd s c).wins = s.wins := rfl
@[simp] theorem setCmd_winsNew (c : Cmd) : (setCmd s c).winsNew = s.winsNew := rfl
@[simp] theorem setCmd_meters (c : Cmd) : (setCmd s c).meters = s.meters := rfl
@[simp] theorem setCmd_troubles (c : Cmd) : (setCmd s c).troubles = s.troubles := rfl
@[simp] theorem setCmd_portQ (c : Cmd) : (setCmd s c).portQ = s.portQ := rfl
@[simp] theorem setCmd_portArb (c : Cmd) : (setCmd s c).portArb = s.portArb := rfl
@[simp] theorem setCmd_unacked (c : Cmd) : (setCmd s c).unacked = s.unacked := rfl
@[simp] theorem setCmd_remotes (c : Cmd) : (setCmd s c).remotes = s.remotes := rfl
@[simp] theorem setCmd_links (c : Cmd) : (setCmd s c).links = s.links := rfl
@[simp] theorem setCmd_flitOut (c : Cmd) : (setCmd s c).flitOut = s.flitOut := rfl
@[simp] theorem setCmd_breaks (c : Cmd) : (setCmd s c).breaks = s.breaks := rfl
@[simp] theorem setCmd_dirs (c : Cmd) : (setCmd s c).dirs = s.dirs := rfl
@[simp] theorem setCmd_holders (c : Cmd) : (setCmd s c).holders = s.holders := rfl
@[simp] theorem setCmd_nextId (c : Cmd) : (setCmd s c).nextId = s.nextId := rfl
@[simp] theorem setCmd_funcs (c : Cmd) : (setCmd s c).funcs = s.funcs := rfl
@[simp] theorem setCmd_msix (c : Cmd) : (setCmd s c).msix = s.msix := rfl
@[simp] theorem setCmd_tlps (c : Cmd) : (setCmd s c).tlps = s.tlps := rfl
@[simp] theorem setCmd_posted (c : Cmd) : (setCmd s c).posted = s.posted := rfl
@[simp] theorem setCmd_atc (c : Cmd) : (setCmd s c).atc = s.atc := rfl
@[simp] theorem setCmd_atsOut (c : Cmd) : (setCmd s c).atsOut = s.atsOut := rfl
@[simp] theorem setCmd_hreads (c : Cmd) : (setCmd s c).hreads = s.hreads := rfl
@[simp] theorem setCmd_invals (c : Cmd) : (setCmd s c).invals = s.invals := rfl
@[simp] theorem setCmd_rings (c : Cmd) : (setCmd s c).rings = s.rings := rfl
@[simp] theorem setCmd_intake (c : Cmd) : (setCmd s c).intake = s.intake := rfl
@[simp] theorem setCmd_turn (c : Cmd) : (setCmd s c).turn = s.turn := rfl
@[simp] theorem setCmd_ctxs (c : Cmd) : (setCmd s c).ctxs = s.ctxs := rfl
@[simp] theorem setCmd_objs (c : Cmd) : (setCmd s c).objs = s.objs := rfl
@[simp] theorem setCmd_fences (c : Cmd) : (setCmd s c).fences = s.fences := rfl
@[simp] theorem setCmd_faults (c : Cmd) : (setCmd s c).faults = s.faults := rfl
@[simp] theorem setCmd_hints (c : Cmd) : (setCmd s c).hints = s.hints := rfl
@[simp] theorem setCmd_reqs (c : Cmd) : (setCmd s c).reqs = s.reqs := rfl
@[simp] theorem setCmd_services (c : Cmd) : (setCmd s c).services = s.services := rfl
@[simp] theorem setCmd_lentExt (c : Cmd) : (setCmd s c).lentExt = s.lentExt := rfl
@[simp] theorem setCmd_chans (c : Cmd) : (setCmd s c).chans = s.chans := rfl
@[simp] theorem setCmd_comp (c : Cmd) : (setCmd s c).comp = s.comp := rfl
@[simp] theorem setCmd_notices (c : Cmd) : (setCmd s c).notices = s.notices := rfl
@[simp] theorem setCmd_compOut (c : Cmd) : (setCmd s c).compOut = s.compOut := rfl
@[simp] theorem setCmd_reads (c : Cmd) : (setCmd s c).reads = s.reads := rfl
@[simp] theorem setCmd_measures (c : Cmd) : (setCmd s c).measures = s.measures := rfl
@[simp] theorem setCmd_harts (c : Cmd) : (setCmd s c).harts = s.harts := rfl
@[simp] theorem setCmd_sorts (c : Cmd) : (setCmd s c).sorts = s.sorts := rfl
@[simp] theorem setCmd_dirPtr (c : Cmd) : (setCmd s c).dirPtr = s.dirPtr := rfl
@[simp] theorem setCmd_dirPlru (c : Cmd) : (setCmd s c).dirPlru = s.dirPlru := rfl
@[simp] theorem setCmd_dirHeld (c : Cmd) : (setCmd s c).dirHeld = s.dirHeld := rfl
@[simp] theorem setCmd_power (c : Cmd) : (setCmd s c).power = s.power := rfl
@[simp] theorem setCmd_rst (c : Cmd) : (setCmd s c).rst = s.rst := rfl
@[simp] theorem setCmd_shuts (c : Cmd) : (setCmd s c).shuts = s.shuts := rfl
@[simp] theorem setCmd_mod (c : Cmd) : (setCmd s c).mod = s.mod := rfl
@[simp] theorem fget_setCmd (c : Cmd) (ff : F) (j : Nat) : fget (setCmd s c) ff j = fget s ff j := rfl
@[simp] theorem fbit_setCmd (c : Cmd) (ff : F) (j : Nat) : fbit (setCmd s c) ff j = fbit s ff j := rfl

@[simp] theorem setObj_pending (p h : Nat) (o : Option Obj) : (setObj s p h o).pending = s.pending := rfl
@[simp] theorem setObj_freeCtr (p h : Nat) (o : Option Obj) : (setObj s p h o).freeCtr = s.freeCtr := rfl
@[simp] theorem setObj_stalled (p h : Nat) (o : Option Obj) : (setObj s p h o).stalled = s.stalled := rfl
@[simp] theorem setObj_now (p h : Nat) (o : Option Obj) : (setObj s p h o).now = s.now := rfl
@[simp] theorem setObj_regs (p h : Nat) (o : Option Obj) : (setObj s p h o).regs = s.regs := rfl
@[simp] theorem setObj_mem (p h : Nat) (o : Option Obj) : (setObj s p h o).mem = s.mem := rfl
@[simp] theorem setObj_ueLines (p h : Nat) (o : Option Obj) : (setObj s p h o).ueLines = s.ueLines := rfl
@[simp] theorem setObj_cores (p h : Nat) (o : Option Obj) : (setObj s p h o).cores = s.cores := rfl
@[simp] theorem setObj_launches (p h : Nat) (o : Option Obj) : (setObj s p h o).launches = s.launches := rfl
@[simp] theorem setObj_heldAcc (p h : Nat) (o : Option Obj) : (setObj s p h o).heldAcc = s.heldAcc := rfl
@[simp] theorem setObj_answers (p h : Nat) (o : Option Obj) : (setObj s p h o).answers = s.answers := rfl
@[simp] theorem setObj_scache (p h : Nat) (o : Option Obj) : (setObj s p h o).scache = s.scache := rfl
@[simp] theorem setObj_scPlru (p h : Nat) (o : Option Obj) : (setObj s p h o).scPlru = s.scPlru := rfl
@[simp] theorem setObj_depot (p h : Nat) (o : Option Obj) : (setObj s p h o).depot = s.depot := rfl
@[simp] theorem setObj_depotPlru (p h : Nat) (o : Option Obj) : (setObj s p h o).depotPlru = s.depotPlru := rfl
@[simp] theorem setObj_mesh (p h : Nat) (o : Option Obj) : (setObj s p h o).mesh = s.mesh := rfl
@[simp] theorem setObj_watch (p h : Nat) (o : Option Obj) : (setObj s p h o).watch = s.watch := rfl
@[simp] theorem setObj_meshArb (p h : Nat) (o : Option Obj) : (setObj s p h o).meshArb = s.meshArb := rfl
@[simp] theorem setObj_ejected (p h : Nat) (o : Option Obj) : (setObj s p h o).ejected = s.ejected := rfl
@[simp] theorem setObj_sigs (p h : Nat) (o : Option Obj) : (setObj s p h o).sigs = s.sigs := rfl
@[simp] theorem setObj_mdSigs (p h : Nat) (o : Option Obj) : (setObj s p h o).mdSigs = s.mdSigs := rfl
@[simp] theorem setObj_stopSigs (p h : Nat) (o : Option Obj) : (setObj s p h o).stopSigs = s.stopSigs := rfl
@[simp] theorem setObj_rxq (p h : Nat) (o : Option Obj) : (setObj s p h o).rxq = s.rxq := rfl
@[simp] theorem setObj_kvgLanes (p h : Nat) (o : Option Obj) : (setObj s p h o).kvgLanes = s.kvgLanes := rfl
@[simp] theorem setObj_kvg (p h : Nat) (o : Option Obj) : (setObj s p h o).kvg = s.kvg := rfl
@[simp] theorem setObj_points (p h : Nat) (o : Option Obj) : (setObj s p h o).points = s.points := rfl
@[simp] theorem setObj_bls (p h : Nat) (o : Option Obj) : (setObj s p h o).bls = s.bls := rfl
@[simp] theorem setObj_routes (p h : Nat) (o : Option Obj) : (setObj s p h o).routes = s.routes := rfl
@[simp] theorem setObj_oldMaps (p h : Nat) (o : Option Obj) : (setObj s p h o).oldMaps = s.oldMaps := rfl
@[simp] theorem setObj_dill (p h : Nat) (o : Option Obj) : (setObj s p h o).dill = s.dill := rfl
@[simp] theorem setObj_declares (p h : Nat) (o : Option Obj) : (setObj s p h o).declares = s.declares := rfl
@[simp] theorem setObj_prefetches (p h : Nat) (o : Option Obj) : (setObj s p h o).prefetches = s.prefetches := rfl
@[simp] theorem setObj_scrubOf (p h : Nat) (o : Option Obj) : (setObj s p h o).scrubOf = s.scrubOf := rfl
@[simp] theorem setObj_missHist (p h : Nat) (o : Option Obj) : (setObj s p h o).missHist = s.missHist := rfl
@[simp] theorem setObj_regionClk (p h : Nat) (o : Option Obj) : (setObj s p h o).regionClk = s.regionClk := rfl
@[simp] theorem setObj_wins (p h : Nat) (o : Option Obj) : (setObj s p h o).wins = s.wins := rfl
@[simp] theorem setObj_winsNew (p h : Nat) (o : Option Obj) : (setObj s p h o).winsNew = s.winsNew := rfl
@[simp] theorem setObj_meters (p h : Nat) (o : Option Obj) : (setObj s p h o).meters = s.meters := rfl
@[simp] theorem setObj_troubles (p h : Nat) (o : Option Obj) : (setObj s p h o).troubles = s.troubles := rfl
@[simp] theorem setObj_portQ (p h : Nat) (o : Option Obj) : (setObj s p h o).portQ = s.portQ := rfl
@[simp] theorem setObj_portArb (p h : Nat) (o : Option Obj) : (setObj s p h o).portArb = s.portArb := rfl
@[simp] theorem setObj_unacked (p h : Nat) (o : Option Obj) : (setObj s p h o).unacked = s.unacked := rfl
@[simp] theorem setObj_remotes (p h : Nat) (o : Option Obj) : (setObj s p h o).remotes = s.remotes := rfl
@[simp] theorem setObj_links (p h : Nat) (o : Option Obj) : (setObj s p h o).links = s.links := rfl
@[simp] theorem setObj_flitOut (p h : Nat) (o : Option Obj) : (setObj s p h o).flitOut = s.flitOut := rfl
@[simp] theorem setObj_breaks (p h : Nat) (o : Option Obj) : (setObj s p h o).breaks = s.breaks := rfl
@[simp] theorem setObj_dirs (p h : Nat) (o : Option Obj) : (setObj s p h o).dirs = s.dirs := rfl
@[simp] theorem setObj_holders (p h : Nat) (o : Option Obj) : (setObj s p h o).holders = s.holders := rfl
@[simp] theorem setObj_nextId (p h : Nat) (o : Option Obj) : (setObj s p h o).nextId = s.nextId := rfl
@[simp] theorem setObj_funcs (p h : Nat) (o : Option Obj) : (setObj s p h o).funcs = s.funcs := rfl
@[simp] theorem setObj_msix (p h : Nat) (o : Option Obj) : (setObj s p h o).msix = s.msix := rfl
@[simp] theorem setObj_tlps (p h : Nat) (o : Option Obj) : (setObj s p h o).tlps = s.tlps := rfl
@[simp] theorem setObj_posted (p h : Nat) (o : Option Obj) : (setObj s p h o).posted = s.posted := rfl
@[simp] theorem setObj_atc (p h : Nat) (o : Option Obj) : (setObj s p h o).atc = s.atc := rfl
@[simp] theorem setObj_atsOut (p h : Nat) (o : Option Obj) : (setObj s p h o).atsOut = s.atsOut := rfl
@[simp] theorem setObj_hreads (p h : Nat) (o : Option Obj) : (setObj s p h o).hreads = s.hreads := rfl
@[simp] theorem setObj_invals (p h : Nat) (o : Option Obj) : (setObj s p h o).invals = s.invals := rfl
@[simp] theorem setObj_rings (p h : Nat) (o : Option Obj) : (setObj s p h o).rings = s.rings := rfl
@[simp] theorem setObj_cmds (p h : Nat) (o : Option Obj) : (setObj s p h o).cmds = s.cmds := rfl
@[simp] theorem setObj_intake (p h : Nat) (o : Option Obj) : (setObj s p h o).intake = s.intake := rfl
@[simp] theorem setObj_turn (p h : Nat) (o : Option Obj) : (setObj s p h o).turn = s.turn := rfl
@[simp] theorem setObj_ctxs (p h : Nat) (o : Option Obj) : (setObj s p h o).ctxs = s.ctxs := rfl
@[simp] theorem setObj_fences (p h : Nat) (o : Option Obj) : (setObj s p h o).fences = s.fences := rfl
@[simp] theorem setObj_faults (p h : Nat) (o : Option Obj) : (setObj s p h o).faults = s.faults := rfl
@[simp] theorem setObj_hints (p h : Nat) (o : Option Obj) : (setObj s p h o).hints = s.hints := rfl
@[simp] theorem setObj_reqs (p h : Nat) (o : Option Obj) : (setObj s p h o).reqs = s.reqs := rfl
@[simp] theorem setObj_services (p h : Nat) (o : Option Obj) : (setObj s p h o).services = s.services := rfl
@[simp] theorem setObj_lentExt (p h : Nat) (o : Option Obj) : (setObj s p h o).lentExt = s.lentExt := rfl
@[simp] theorem setObj_chans (p h : Nat) (o : Option Obj) : (setObj s p h o).chans = s.chans := rfl
@[simp] theorem setObj_comp (p h : Nat) (o : Option Obj) : (setObj s p h o).comp = s.comp := rfl
@[simp] theorem setObj_notices (p h : Nat) (o : Option Obj) : (setObj s p h o).notices = s.notices := rfl
@[simp] theorem setObj_compOut (p h : Nat) (o : Option Obj) : (setObj s p h o).compOut = s.compOut := rfl
@[simp] theorem setObj_reads (p h : Nat) (o : Option Obj) : (setObj s p h o).reads = s.reads := rfl
@[simp] theorem setObj_measures (p h : Nat) (o : Option Obj) : (setObj s p h o).measures = s.measures := rfl
@[simp] theorem setObj_harts (p h : Nat) (o : Option Obj) : (setObj s p h o).harts = s.harts := rfl
@[simp] theorem setObj_sorts (p h : Nat) (o : Option Obj) : (setObj s p h o).sorts = s.sorts := rfl
@[simp] theorem setObj_dirPtr (p h : Nat) (o : Option Obj) : (setObj s p h o).dirPtr = s.dirPtr := rfl
@[simp] theorem setObj_dirPlru (p h : Nat) (o : Option Obj) : (setObj s p h o).dirPlru = s.dirPlru := rfl
@[simp] theorem setObj_dirHeld (p h : Nat) (o : Option Obj) : (setObj s p h o).dirHeld = s.dirHeld := rfl
@[simp] theorem setObj_power (p h : Nat) (o : Option Obj) : (setObj s p h o).power = s.power := rfl
@[simp] theorem setObj_rst (p h : Nat) (o : Option Obj) : (setObj s p h o).rst = s.rst := rfl
@[simp] theorem setObj_shuts (p h : Nat) (o : Option Obj) : (setObj s p h o).shuts = s.shuts := rfl
@[simp] theorem setObj_mod (p h : Nat) (o : Option Obj) : (setObj s p h o).mod = s.mod := rfl
@[simp] theorem fget_setObj (p h : Nat) (o : Option Obj) (ff : F) (j : Nat) : fget (setObj s p h o) ff j = fget s ff j := rfl
@[simp] theorem fbit_setObj (p h : Nat) (o : Option Obj) (ff : F) (j : Nat) : fbit (setObj s p h o) ff j = fbit s ff j := rfl

@[simp] theorem setFence_pending (p h : Nat) (x : Option Fence) : (setFence s p h x).pending = s.pending := rfl
@[simp] theorem setFence_freeCtr (p h : Nat) (x : Option Fence) : (setFence s p h x).freeCtr = s.freeCtr := rfl
@[simp] theorem setFence_stalled (p h : Nat) (x : Option Fence) : (setFence s p h x).stalled = s.stalled := rfl
@[simp] theorem setFence_now (p h : Nat) (x : Option Fence) : (setFence s p h x).now = s.now := rfl
@[simp] theorem setFence_regs (p h : Nat) (x : Option Fence) : (setFence s p h x).regs = s.regs := rfl
@[simp] theorem setFence_mem (p h : Nat) (x : Option Fence) : (setFence s p h x).mem = s.mem := rfl
@[simp] theorem setFence_ueLines (p h : Nat) (x : Option Fence) : (setFence s p h x).ueLines = s.ueLines := rfl
@[simp] theorem setFence_cores (p h : Nat) (x : Option Fence) : (setFence s p h x).cores = s.cores := rfl
@[simp] theorem setFence_launches (p h : Nat) (x : Option Fence) : (setFence s p h x).launches = s.launches := rfl
@[simp] theorem setFence_heldAcc (p h : Nat) (x : Option Fence) : (setFence s p h x).heldAcc = s.heldAcc := rfl
@[simp] theorem setFence_answers (p h : Nat) (x : Option Fence) : (setFence s p h x).answers = s.answers := rfl
@[simp] theorem setFence_scache (p h : Nat) (x : Option Fence) : (setFence s p h x).scache = s.scache := rfl
@[simp] theorem setFence_scPlru (p h : Nat) (x : Option Fence) : (setFence s p h x).scPlru = s.scPlru := rfl
@[simp] theorem setFence_depot (p h : Nat) (x : Option Fence) : (setFence s p h x).depot = s.depot := rfl
@[simp] theorem setFence_depotPlru (p h : Nat) (x : Option Fence) : (setFence s p h x).depotPlru = s.depotPlru := rfl
@[simp] theorem setFence_mesh (p h : Nat) (x : Option Fence) : (setFence s p h x).mesh = s.mesh := rfl
@[simp] theorem setFence_watch (p h : Nat) (x : Option Fence) : (setFence s p h x).watch = s.watch := rfl
@[simp] theorem setFence_meshArb (p h : Nat) (x : Option Fence) : (setFence s p h x).meshArb = s.meshArb := rfl
@[simp] theorem setFence_ejected (p h : Nat) (x : Option Fence) : (setFence s p h x).ejected = s.ejected := rfl
@[simp] theorem setFence_sigs (p h : Nat) (x : Option Fence) : (setFence s p h x).sigs = s.sigs := rfl
@[simp] theorem setFence_mdSigs (p h : Nat) (x : Option Fence) : (setFence s p h x).mdSigs = s.mdSigs := rfl
@[simp] theorem setFence_stopSigs (p h : Nat) (x : Option Fence) : (setFence s p h x).stopSigs = s.stopSigs := rfl
@[simp] theorem setFence_rxq (p h : Nat) (x : Option Fence) : (setFence s p h x).rxq = s.rxq := rfl
@[simp] theorem setFence_kvgLanes (p h : Nat) (x : Option Fence) : (setFence s p h x).kvgLanes = s.kvgLanes := rfl
@[simp] theorem setFence_kvg (p h : Nat) (x : Option Fence) : (setFence s p h x).kvg = s.kvg := rfl
@[simp] theorem setFence_points (p h : Nat) (x : Option Fence) : (setFence s p h x).points = s.points := rfl
@[simp] theorem setFence_bls (p h : Nat) (x : Option Fence) : (setFence s p h x).bls = s.bls := rfl
@[simp] theorem setFence_routes (p h : Nat) (x : Option Fence) : (setFence s p h x).routes = s.routes := rfl
@[simp] theorem setFence_oldMaps (p h : Nat) (x : Option Fence) : (setFence s p h x).oldMaps = s.oldMaps := rfl
@[simp] theorem setFence_dill (p h : Nat) (x : Option Fence) : (setFence s p h x).dill = s.dill := rfl
@[simp] theorem setFence_declares (p h : Nat) (x : Option Fence) : (setFence s p h x).declares = s.declares := rfl
@[simp] theorem setFence_prefetches (p h : Nat) (x : Option Fence) : (setFence s p h x).prefetches = s.prefetches := rfl
@[simp] theorem setFence_scrubOf (p h : Nat) (x : Option Fence) : (setFence s p h x).scrubOf = s.scrubOf := rfl
@[simp] theorem setFence_missHist (p h : Nat) (x : Option Fence) : (setFence s p h x).missHist = s.missHist := rfl
@[simp] theorem setFence_regionClk (p h : Nat) (x : Option Fence) : (setFence s p h x).regionClk = s.regionClk := rfl
@[simp] theorem setFence_wins (p h : Nat) (x : Option Fence) : (setFence s p h x).wins = s.wins := rfl
@[simp] theorem setFence_winsNew (p h : Nat) (x : Option Fence) : (setFence s p h x).winsNew = s.winsNew := rfl
@[simp] theorem setFence_meters (p h : Nat) (x : Option Fence) : (setFence s p h x).meters = s.meters := rfl
@[simp] theorem setFence_troubles (p h : Nat) (x : Option Fence) : (setFence s p h x).troubles = s.troubles := rfl
@[simp] theorem setFence_portQ (p h : Nat) (x : Option Fence) : (setFence s p h x).portQ = s.portQ := rfl
@[simp] theorem setFence_portArb (p h : Nat) (x : Option Fence) : (setFence s p h x).portArb = s.portArb := rfl
@[simp] theorem setFence_unacked (p h : Nat) (x : Option Fence) : (setFence s p h x).unacked = s.unacked := rfl
@[simp] theorem setFence_remotes (p h : Nat) (x : Option Fence) : (setFence s p h x).remotes = s.remotes := rfl
@[simp] theorem setFence_links (p h : Nat) (x : Option Fence) : (setFence s p h x).links = s.links := rfl
@[simp] theorem setFence_flitOut (p h : Nat) (x : Option Fence) : (setFence s p h x).flitOut = s.flitOut := rfl
@[simp] theorem setFence_breaks (p h : Nat) (x : Option Fence) : (setFence s p h x).breaks = s.breaks := rfl
@[simp] theorem setFence_dirs (p h : Nat) (x : Option Fence) : (setFence s p h x).dirs = s.dirs := rfl
@[simp] theorem setFence_holders (p h : Nat) (x : Option Fence) : (setFence s p h x).holders = s.holders := rfl
@[simp] theorem setFence_nextId (p h : Nat) (x : Option Fence) : (setFence s p h x).nextId = s.nextId := rfl
@[simp] theorem setFence_funcs (p h : Nat) (x : Option Fence) : (setFence s p h x).funcs = s.funcs := rfl
@[simp] theorem setFence_msix (p h : Nat) (x : Option Fence) : (setFence s p h x).msix = s.msix := rfl
@[simp] theorem setFence_tlps (p h : Nat) (x : Option Fence) : (setFence s p h x).tlps = s.tlps := rfl
@[simp] theorem setFence_posted (p h : Nat) (x : Option Fence) : (setFence s p h x).posted = s.posted := rfl
@[simp] theorem setFence_atc (p h : Nat) (x : Option Fence) : (setFence s p h x).atc = s.atc := rfl
@[simp] theorem setFence_atsOut (p h : Nat) (x : Option Fence) : (setFence s p h x).atsOut = s.atsOut := rfl
@[simp] theorem setFence_hreads (p h : Nat) (x : Option Fence) : (setFence s p h x).hreads = s.hreads := rfl
@[simp] theorem setFence_invals (p h : Nat) (x : Option Fence) : (setFence s p h x).invals = s.invals := rfl
@[simp] theorem setFence_rings (p h : Nat) (x : Option Fence) : (setFence s p h x).rings = s.rings := rfl
@[simp] theorem setFence_cmds (p h : Nat) (x : Option Fence) : (setFence s p h x).cmds = s.cmds := rfl
@[simp] theorem setFence_intake (p h : Nat) (x : Option Fence) : (setFence s p h x).intake = s.intake := rfl
@[simp] theorem setFence_turn (p h : Nat) (x : Option Fence) : (setFence s p h x).turn = s.turn := rfl
@[simp] theorem setFence_ctxs (p h : Nat) (x : Option Fence) : (setFence s p h x).ctxs = s.ctxs := rfl
@[simp] theorem setFence_objs (p h : Nat) (x : Option Fence) : (setFence s p h x).objs = s.objs := rfl
@[simp] theorem setFence_faults (p h : Nat) (x : Option Fence) : (setFence s p h x).faults = s.faults := rfl
@[simp] theorem setFence_hints (p h : Nat) (x : Option Fence) : (setFence s p h x).hints = s.hints := rfl
@[simp] theorem setFence_reqs (p h : Nat) (x : Option Fence) : (setFence s p h x).reqs = s.reqs := rfl
@[simp] theorem setFence_services (p h : Nat) (x : Option Fence) : (setFence s p h x).services = s.services := rfl
@[simp] theorem setFence_lentExt (p h : Nat) (x : Option Fence) : (setFence s p h x).lentExt = s.lentExt := rfl
@[simp] theorem setFence_chans (p h : Nat) (x : Option Fence) : (setFence s p h x).chans = s.chans := rfl
@[simp] theorem setFence_comp (p h : Nat) (x : Option Fence) : (setFence s p h x).comp = s.comp := rfl
@[simp] theorem setFence_notices (p h : Nat) (x : Option Fence) : (setFence s p h x).notices = s.notices := rfl
@[simp] theorem setFence_compOut (p h : Nat) (x : Option Fence) : (setFence s p h x).compOut = s.compOut := rfl
@[simp] theorem setFence_reads (p h : Nat) (x : Option Fence) : (setFence s p h x).reads = s.reads := rfl
@[simp] theorem setFence_measures (p h : Nat) (x : Option Fence) : (setFence s p h x).measures = s.measures := rfl
@[simp] theorem setFence_harts (p h : Nat) (x : Option Fence) : (setFence s p h x).harts = s.harts := rfl
@[simp] theorem setFence_sorts (p h : Nat) (x : Option Fence) : (setFence s p h x).sorts = s.sorts := rfl
@[simp] theorem setFence_dirPtr (p h : Nat) (x : Option Fence) : (setFence s p h x).dirPtr = s.dirPtr := rfl
@[simp] theorem setFence_dirPlru (p h : Nat) (x : Option Fence) : (setFence s p h x).dirPlru = s.dirPlru := rfl
@[simp] theorem setFence_dirHeld (p h : Nat) (x : Option Fence) : (setFence s p h x).dirHeld = s.dirHeld := rfl
@[simp] theorem setFence_power (p h : Nat) (x : Option Fence) : (setFence s p h x).power = s.power := rfl
@[simp] theorem setFence_rst (p h : Nat) (x : Option Fence) : (setFence s p h x).rst = s.rst := rfl
@[simp] theorem setFence_shuts (p h : Nat) (x : Option Fence) : (setFence s p h x).shuts = s.shuts := rfl
@[simp] theorem setFence_mod (p h : Nat) (x : Option Fence) : (setFence s p h x).mod = s.mod := rfl
@[simp] theorem fget_setFence (p h : Nat) (x : Option Fence) (ff : F) (j : Nat) : fget (setFence s p h x) ff j = fget s ff j := rfl
@[simp] theorem fbit_setFence (p h : Nat) (x : Option Fence) (ff : F) (j : Nat) : fbit (setFence s p h x) ff j = fbit s ff j := rfl

@[simp] theorem setChan_pending (n : Nat) (x : Chan) : (setChan s n x).pending = s.pending := rfl
@[simp] theorem setChan_freeCtr (n : Nat) (x : Chan) : (setChan s n x).freeCtr = s.freeCtr := rfl
@[simp] theorem setChan_stalled (n : Nat) (x : Chan) : (setChan s n x).stalled = s.stalled := rfl
@[simp] theorem setChan_now (n : Nat) (x : Chan) : (setChan s n x).now = s.now := rfl
@[simp] theorem setChan_regs (n : Nat) (x : Chan) : (setChan s n x).regs = s.regs := rfl
@[simp] theorem setChan_mem (n : Nat) (x : Chan) : (setChan s n x).mem = s.mem := rfl
@[simp] theorem setChan_ueLines (n : Nat) (x : Chan) : (setChan s n x).ueLines = s.ueLines := rfl
@[simp] theorem setChan_cores (n : Nat) (x : Chan) : (setChan s n x).cores = s.cores := rfl
@[simp] theorem setChan_launches (n : Nat) (x : Chan) : (setChan s n x).launches = s.launches := rfl
@[simp] theorem setChan_heldAcc (n : Nat) (x : Chan) : (setChan s n x).heldAcc = s.heldAcc := rfl
@[simp] theorem setChan_answers (n : Nat) (x : Chan) : (setChan s n x).answers = s.answers := rfl
@[simp] theorem setChan_scache (n : Nat) (x : Chan) : (setChan s n x).scache = s.scache := rfl
@[simp] theorem setChan_scPlru (n : Nat) (x : Chan) : (setChan s n x).scPlru = s.scPlru := rfl
@[simp] theorem setChan_depot (n : Nat) (x : Chan) : (setChan s n x).depot = s.depot := rfl
@[simp] theorem setChan_depotPlru (n : Nat) (x : Chan) : (setChan s n x).depotPlru = s.depotPlru := rfl
@[simp] theorem setChan_mesh (n : Nat) (x : Chan) : (setChan s n x).mesh = s.mesh := rfl
@[simp] theorem setChan_watch (n : Nat) (x : Chan) : (setChan s n x).watch = s.watch := rfl
@[simp] theorem setChan_meshArb (n : Nat) (x : Chan) : (setChan s n x).meshArb = s.meshArb := rfl
@[simp] theorem setChan_ejected (n : Nat) (x : Chan) : (setChan s n x).ejected = s.ejected := rfl
@[simp] theorem setChan_sigs (n : Nat) (x : Chan) : (setChan s n x).sigs = s.sigs := rfl
@[simp] theorem setChan_mdSigs (n : Nat) (x : Chan) : (setChan s n x).mdSigs = s.mdSigs := rfl
@[simp] theorem setChan_stopSigs (n : Nat) (x : Chan) : (setChan s n x).stopSigs = s.stopSigs := rfl
@[simp] theorem setChan_rxq (n : Nat) (x : Chan) : (setChan s n x).rxq = s.rxq := rfl
@[simp] theorem setChan_kvgLanes (n : Nat) (x : Chan) : (setChan s n x).kvgLanes = s.kvgLanes := rfl
@[simp] theorem setChan_kvg (n : Nat) (x : Chan) : (setChan s n x).kvg = s.kvg := rfl
@[simp] theorem setChan_points (n : Nat) (x : Chan) : (setChan s n x).points = s.points := rfl
@[simp] theorem setChan_bls (n : Nat) (x : Chan) : (setChan s n x).bls = s.bls := rfl
@[simp] theorem setChan_routes (n : Nat) (x : Chan) : (setChan s n x).routes = s.routes := rfl
@[simp] theorem setChan_oldMaps (n : Nat) (x : Chan) : (setChan s n x).oldMaps = s.oldMaps := rfl
@[simp] theorem setChan_dill (n : Nat) (x : Chan) : (setChan s n x).dill = s.dill := rfl
@[simp] theorem setChan_declares (n : Nat) (x : Chan) : (setChan s n x).declares = s.declares := rfl
@[simp] theorem setChan_prefetches (n : Nat) (x : Chan) : (setChan s n x).prefetches = s.prefetches := rfl
@[simp] theorem setChan_scrubOf (n : Nat) (x : Chan) : (setChan s n x).scrubOf = s.scrubOf := rfl
@[simp] theorem setChan_missHist (n : Nat) (x : Chan) : (setChan s n x).missHist = s.missHist := rfl
@[simp] theorem setChan_regionClk (n : Nat) (x : Chan) : (setChan s n x).regionClk = s.regionClk := rfl
@[simp] theorem setChan_wins (n : Nat) (x : Chan) : (setChan s n x).wins = s.wins := rfl
@[simp] theorem setChan_winsNew (n : Nat) (x : Chan) : (setChan s n x).winsNew = s.winsNew := rfl
@[simp] theorem setChan_meters (n : Nat) (x : Chan) : (setChan s n x).meters = s.meters := rfl
@[simp] theorem setChan_troubles (n : Nat) (x : Chan) : (setChan s n x).troubles = s.troubles := rfl
@[simp] theorem setChan_portQ (n : Nat) (x : Chan) : (setChan s n x).portQ = s.portQ := rfl
@[simp] theorem setChan_portArb (n : Nat) (x : Chan) : (setChan s n x).portArb = s.portArb := rfl
@[simp] theorem setChan_unacked (n : Nat) (x : Chan) : (setChan s n x).unacked = s.unacked := rfl
@[simp] theorem setChan_remotes (n : Nat) (x : Chan) : (setChan s n x).remotes = s.remotes := rfl
@[simp] theorem setChan_links (n : Nat) (x : Chan) : (setChan s n x).links = s.links := rfl
@[simp] theorem setChan_flitOut (n : Nat) (x : Chan) : (setChan s n x).flitOut = s.flitOut := rfl
@[simp] theorem setChan_breaks (n : Nat) (x : Chan) : (setChan s n x).breaks = s.breaks := rfl
@[simp] theorem setChan_dirs (n : Nat) (x : Chan) : (setChan s n x).dirs = s.dirs := rfl
@[simp] theorem setChan_holders (n : Nat) (x : Chan) : (setChan s n x).holders = s.holders := rfl
@[simp] theorem setChan_nextId (n : Nat) (x : Chan) : (setChan s n x).nextId = s.nextId := rfl
@[simp] theorem setChan_funcs (n : Nat) (x : Chan) : (setChan s n x).funcs = s.funcs := rfl
@[simp] theorem setChan_msix (n : Nat) (x : Chan) : (setChan s n x).msix = s.msix := rfl
@[simp] theorem setChan_tlps (n : Nat) (x : Chan) : (setChan s n x).tlps = s.tlps := rfl
@[simp] theorem setChan_posted (n : Nat) (x : Chan) : (setChan s n x).posted = s.posted := rfl
@[simp] theorem setChan_atc (n : Nat) (x : Chan) : (setChan s n x).atc = s.atc := rfl
@[simp] theorem setChan_atsOut (n : Nat) (x : Chan) : (setChan s n x).atsOut = s.atsOut := rfl
@[simp] theorem setChan_hreads (n : Nat) (x : Chan) : (setChan s n x).hreads = s.hreads := rfl
@[simp] theorem setChan_invals (n : Nat) (x : Chan) : (setChan s n x).invals = s.invals := rfl
@[simp] theorem setChan_rings (n : Nat) (x : Chan) : (setChan s n x).rings = s.rings := rfl
@[simp] theorem setChan_cmds (n : Nat) (x : Chan) : (setChan s n x).cmds = s.cmds := rfl
@[simp] theorem setChan_intake (n : Nat) (x : Chan) : (setChan s n x).intake = s.intake := rfl
@[simp] theorem setChan_turn (n : Nat) (x : Chan) : (setChan s n x).turn = s.turn := rfl
@[simp] theorem setChan_ctxs (n : Nat) (x : Chan) : (setChan s n x).ctxs = s.ctxs := rfl
@[simp] theorem setChan_objs (n : Nat) (x : Chan) : (setChan s n x).objs = s.objs := rfl
@[simp] theorem setChan_fences (n : Nat) (x : Chan) : (setChan s n x).fences = s.fences := rfl
@[simp] theorem setChan_faults (n : Nat) (x : Chan) : (setChan s n x).faults = s.faults := rfl
@[simp] theorem setChan_hints (n : Nat) (x : Chan) : (setChan s n x).hints = s.hints := rfl
@[simp] theorem setChan_reqs (n : Nat) (x : Chan) : (setChan s n x).reqs = s.reqs := rfl
@[simp] theorem setChan_services (n : Nat) (x : Chan) : (setChan s n x).services = s.services := rfl
@[simp] theorem setChan_lentExt (n : Nat) (x : Chan) : (setChan s n x).lentExt = s.lentExt := rfl
@[simp] theorem setChan_comp (n : Nat) (x : Chan) : (setChan s n x).comp = s.comp := rfl
@[simp] theorem setChan_notices (n : Nat) (x : Chan) : (setChan s n x).notices = s.notices := rfl
@[simp] theorem setChan_compOut (n : Nat) (x : Chan) : (setChan s n x).compOut = s.compOut := rfl
@[simp] theorem setChan_reads (n : Nat) (x : Chan) : (setChan s n x).reads = s.reads := rfl
@[simp] theorem setChan_measures (n : Nat) (x : Chan) : (setChan s n x).measures = s.measures := rfl
@[simp] theorem setChan_harts (n : Nat) (x : Chan) : (setChan s n x).harts = s.harts := rfl
@[simp] theorem setChan_sorts (n : Nat) (x : Chan) : (setChan s n x).sorts = s.sorts := rfl
@[simp] theorem setChan_dirPtr (n : Nat) (x : Chan) : (setChan s n x).dirPtr = s.dirPtr := rfl
@[simp] theorem setChan_dirPlru (n : Nat) (x : Chan) : (setChan s n x).dirPlru = s.dirPlru := rfl
@[simp] theorem setChan_dirHeld (n : Nat) (x : Chan) : (setChan s n x).dirHeld = s.dirHeld := rfl
@[simp] theorem setChan_power (n : Nat) (x : Chan) : (setChan s n x).power = s.power := rfl
@[simp] theorem setChan_rst (n : Nat) (x : Chan) : (setChan s n x).rst = s.rst := rfl
@[simp] theorem setChan_shuts (n : Nat) (x : Chan) : (setChan s n x).shuts = s.shuts := rfl
@[simp] theorem setChan_mod (n : Nat) (x : Chan) : (setChan s n x).mod = s.mod := rfl
@[simp] theorem fget_setChan (n : Nat) (x : Chan) (ff : F) (j : Nat) : fget (setChan s n x) ff j = fget s ff j := rfl
@[simp] theorem fbit_setChan (n : Nat) (x : Chan) (ff : F) (j : Nat) : fbit (setChan s n x) ff j = fbit s ff j := rfl

@[simp] theorem setSorts_pending (d : Nat) (q : List SortJob) : (setSorts s d q).pending = s.pending := rfl
@[simp] theorem setSorts_freeCtr (d : Nat) (q : List SortJob) : (setSorts s d q).freeCtr = s.freeCtr := rfl
@[simp] theorem setSorts_stalled (d : Nat) (q : List SortJob) : (setSorts s d q).stalled = s.stalled := rfl
@[simp] theorem setSorts_now (d : Nat) (q : List SortJob) : (setSorts s d q).now = s.now := rfl
@[simp] theorem setSorts_regs (d : Nat) (q : List SortJob) : (setSorts s d q).regs = s.regs := rfl
@[simp] theorem setSorts_mem (d : Nat) (q : List SortJob) : (setSorts s d q).mem = s.mem := rfl
@[simp] theorem setSorts_ueLines (d : Nat) (q : List SortJob) : (setSorts s d q).ueLines = s.ueLines := rfl
@[simp] theorem setSorts_cores (d : Nat) (q : List SortJob) : (setSorts s d q).cores = s.cores := rfl
@[simp] theorem setSorts_launches (d : Nat) (q : List SortJob) : (setSorts s d q).launches = s.launches := rfl
@[simp] theorem setSorts_heldAcc (d : Nat) (q : List SortJob) : (setSorts s d q).heldAcc = s.heldAcc := rfl
@[simp] theorem setSorts_answers (d : Nat) (q : List SortJob) : (setSorts s d q).answers = s.answers := rfl
@[simp] theorem setSorts_scache (d : Nat) (q : List SortJob) : (setSorts s d q).scache = s.scache := rfl
@[simp] theorem setSorts_scPlru (d : Nat) (q : List SortJob) : (setSorts s d q).scPlru = s.scPlru := rfl
@[simp] theorem setSorts_depot (d : Nat) (q : List SortJob) : (setSorts s d q).depot = s.depot := rfl
@[simp] theorem setSorts_depotPlru (d : Nat) (q : List SortJob) : (setSorts s d q).depotPlru = s.depotPlru := rfl
@[simp] theorem setSorts_mesh (d : Nat) (q : List SortJob) : (setSorts s d q).mesh = s.mesh := rfl
@[simp] theorem setSorts_watch (d : Nat) (q : List SortJob) : (setSorts s d q).watch = s.watch := rfl
@[simp] theorem setSorts_meshArb (d : Nat) (q : List SortJob) : (setSorts s d q).meshArb = s.meshArb := rfl
@[simp] theorem setSorts_ejected (d : Nat) (q : List SortJob) : (setSorts s d q).ejected = s.ejected := rfl
@[simp] theorem setSorts_sigs (d : Nat) (q : List SortJob) : (setSorts s d q).sigs = s.sigs := rfl
@[simp] theorem setSorts_mdSigs (d : Nat) (q : List SortJob) : (setSorts s d q).mdSigs = s.mdSigs := rfl
@[simp] theorem setSorts_stopSigs (d : Nat) (q : List SortJob) : (setSorts s d q).stopSigs = s.stopSigs := rfl
@[simp] theorem setSorts_rxq (d : Nat) (q : List SortJob) : (setSorts s d q).rxq = s.rxq := rfl
@[simp] theorem setSorts_kvgLanes (d : Nat) (q : List SortJob) : (setSorts s d q).kvgLanes = s.kvgLanes := rfl
@[simp] theorem setSorts_kvg (d : Nat) (q : List SortJob) : (setSorts s d q).kvg = s.kvg := rfl
@[simp] theorem setSorts_points (d : Nat) (q : List SortJob) : (setSorts s d q).points = s.points := rfl
@[simp] theorem setSorts_bls (d : Nat) (q : List SortJob) : (setSorts s d q).bls = s.bls := rfl
@[simp] theorem setSorts_routes (d : Nat) (q : List SortJob) : (setSorts s d q).routes = s.routes := rfl
@[simp] theorem setSorts_oldMaps (d : Nat) (q : List SortJob) : (setSorts s d q).oldMaps = s.oldMaps := rfl
@[simp] theorem setSorts_dill (d : Nat) (q : List SortJob) : (setSorts s d q).dill = s.dill := rfl
@[simp] theorem setSorts_declares (d : Nat) (q : List SortJob) : (setSorts s d q).declares = s.declares := rfl
@[simp] theorem setSorts_prefetches (d : Nat) (q : List SortJob) : (setSorts s d q).prefetches = s.prefetches := rfl
@[simp] theorem setSorts_scrubOf (d : Nat) (q : List SortJob) : (setSorts s d q).scrubOf = s.scrubOf := rfl
@[simp] theorem setSorts_missHist (d : Nat) (q : List SortJob) : (setSorts s d q).missHist = s.missHist := rfl
@[simp] theorem setSorts_regionClk (d : Nat) (q : List SortJob) : (setSorts s d q).regionClk = s.regionClk := rfl
@[simp] theorem setSorts_wins (d : Nat) (q : List SortJob) : (setSorts s d q).wins = s.wins := rfl
@[simp] theorem setSorts_winsNew (d : Nat) (q : List SortJob) : (setSorts s d q).winsNew = s.winsNew := rfl
@[simp] theorem setSorts_meters (d : Nat) (q : List SortJob) : (setSorts s d q).meters = s.meters := rfl
@[simp] theorem setSorts_troubles (d : Nat) (q : List SortJob) : (setSorts s d q).troubles = s.troubles := rfl
@[simp] theorem setSorts_portQ (d : Nat) (q : List SortJob) : (setSorts s d q).portQ = s.portQ := rfl
@[simp] theorem setSorts_portArb (d : Nat) (q : List SortJob) : (setSorts s d q).portArb = s.portArb := rfl
@[simp] theorem setSorts_unacked (d : Nat) (q : List SortJob) : (setSorts s d q).unacked = s.unacked := rfl
@[simp] theorem setSorts_remotes (d : Nat) (q : List SortJob) : (setSorts s d q).remotes = s.remotes := rfl
@[simp] theorem setSorts_links (d : Nat) (q : List SortJob) : (setSorts s d q).links = s.links := rfl
@[simp] theorem setSorts_flitOut (d : Nat) (q : List SortJob) : (setSorts s d q).flitOut = s.flitOut := rfl
@[simp] theorem setSorts_breaks (d : Nat) (q : List SortJob) : (setSorts s d q).breaks = s.breaks := rfl
@[simp] theorem setSorts_dirs (d : Nat) (q : List SortJob) : (setSorts s d q).dirs = s.dirs := rfl
@[simp] theorem setSorts_holders (d : Nat) (q : List SortJob) : (setSorts s d q).holders = s.holders := rfl
@[simp] theorem setSorts_nextId (d : Nat) (q : List SortJob) : (setSorts s d q).nextId = s.nextId := rfl
@[simp] theorem setSorts_funcs (d : Nat) (q : List SortJob) : (setSorts s d q).funcs = s.funcs := rfl
@[simp] theorem setSorts_msix (d : Nat) (q : List SortJob) : (setSorts s d q).msix = s.msix := rfl
@[simp] theorem setSorts_tlps (d : Nat) (q : List SortJob) : (setSorts s d q).tlps = s.tlps := rfl
@[simp] theorem setSorts_posted (d : Nat) (q : List SortJob) : (setSorts s d q).posted = s.posted := rfl
@[simp] theorem setSorts_atc (d : Nat) (q : List SortJob) : (setSorts s d q).atc = s.atc := rfl
@[simp] theorem setSorts_atsOut (d : Nat) (q : List SortJob) : (setSorts s d q).atsOut = s.atsOut := rfl
@[simp] theorem setSorts_hreads (d : Nat) (q : List SortJob) : (setSorts s d q).hreads = s.hreads := rfl
@[simp] theorem setSorts_invals (d : Nat) (q : List SortJob) : (setSorts s d q).invals = s.invals := rfl
@[simp] theorem setSorts_rings (d : Nat) (q : List SortJob) : (setSorts s d q).rings = s.rings := rfl
@[simp] theorem setSorts_cmds (d : Nat) (q : List SortJob) : (setSorts s d q).cmds = s.cmds := rfl
@[simp] theorem setSorts_intake (d : Nat) (q : List SortJob) : (setSorts s d q).intake = s.intake := rfl
@[simp] theorem setSorts_turn (d : Nat) (q : List SortJob) : (setSorts s d q).turn = s.turn := rfl
@[simp] theorem setSorts_ctxs (d : Nat) (q : List SortJob) : (setSorts s d q).ctxs = s.ctxs := rfl
@[simp] theorem setSorts_objs (d : Nat) (q : List SortJob) : (setSorts s d q).objs = s.objs := rfl
@[simp] theorem setSorts_fences (d : Nat) (q : List SortJob) : (setSorts s d q).fences = s.fences := rfl
@[simp] theorem setSorts_faults (d : Nat) (q : List SortJob) : (setSorts s d q).faults = s.faults := rfl
@[simp] theorem setSorts_hints (d : Nat) (q : List SortJob) : (setSorts s d q).hints = s.hints := rfl
@[simp] theorem setSorts_reqs (d : Nat) (q : List SortJob) : (setSorts s d q).reqs = s.reqs := rfl
@[simp] theorem setSorts_services (d : Nat) (q : List SortJob) : (setSorts s d q).services = s.services := rfl
@[simp] theorem setSorts_lentExt (d : Nat) (q : List SortJob) : (setSorts s d q).lentExt = s.lentExt := rfl
@[simp] theorem setSorts_chans (d : Nat) (q : List SortJob) : (setSorts s d q).chans = s.chans := rfl
@[simp] theorem setSorts_comp (d : Nat) (q : List SortJob) : (setSorts s d q).comp = s.comp := rfl
@[simp] theorem setSorts_notices (d : Nat) (q : List SortJob) : (setSorts s d q).notices = s.notices := rfl
@[simp] theorem setSorts_compOut (d : Nat) (q : List SortJob) : (setSorts s d q).compOut = s.compOut := rfl
@[simp] theorem setSorts_reads (d : Nat) (q : List SortJob) : (setSorts s d q).reads = s.reads := rfl
@[simp] theorem setSorts_measures (d : Nat) (q : List SortJob) : (setSorts s d q).measures = s.measures := rfl
@[simp] theorem setSorts_harts (d : Nat) (q : List SortJob) : (setSorts s d q).harts = s.harts := rfl
@[simp] theorem setSorts_dirPtr (d : Nat) (q : List SortJob) : (setSorts s d q).dirPtr = s.dirPtr := rfl
@[simp] theorem setSorts_dirPlru (d : Nat) (q : List SortJob) : (setSorts s d q).dirPlru = s.dirPlru := rfl
@[simp] theorem setSorts_dirHeld (d : Nat) (q : List SortJob) : (setSorts s d q).dirHeld = s.dirHeld := rfl
@[simp] theorem setSorts_power (d : Nat) (q : List SortJob) : (setSorts s d q).power = s.power := rfl
@[simp] theorem setSorts_rst (d : Nat) (q : List SortJob) : (setSorts s d q).rst = s.rst := rfl
@[simp] theorem setSorts_shuts (d : Nat) (q : List SortJob) : (setSorts s d q).shuts = s.shuts := rfl
@[simp] theorem setSorts_mod (d : Nat) (q : List SortJob) : (setSorts s d q).mod = s.mod := rfl
@[simp] theorem fget_setSorts (d : Nat) (q : List SortJob) (ff : F) (j : Nat) : fget (setSorts s d q) ff j = fget s ff j := rfl
@[simp] theorem fbit_setSorts (d : Nat) (q : List SortJob) (ff : F) (j : Nat) : fbit (setSorts s d q) ff j = fbit s ff j := rfl

@[simp] theorem setService_pending (v : Service) : (setService s v).pending = s.pending := rfl
@[simp] theorem setService_freeCtr (v : Service) : (setService s v).freeCtr = s.freeCtr := rfl
@[simp] theorem setService_stalled (v : Service) : (setService s v).stalled = s.stalled := rfl
@[simp] theorem setService_now (v : Service) : (setService s v).now = s.now := rfl
@[simp] theorem setService_regs (v : Service) : (setService s v).regs = s.regs := rfl
@[simp] theorem setService_mem (v : Service) : (setService s v).mem = s.mem := rfl
@[simp] theorem setService_ueLines (v : Service) : (setService s v).ueLines = s.ueLines := rfl
@[simp] theorem setService_cores (v : Service) : (setService s v).cores = s.cores := rfl
@[simp] theorem setService_launches (v : Service) : (setService s v).launches = s.launches := rfl
@[simp] theorem setService_heldAcc (v : Service) : (setService s v).heldAcc = s.heldAcc := rfl
@[simp] theorem setService_answers (v : Service) : (setService s v).answers = s.answers := rfl
@[simp] theorem setService_scache (v : Service) : (setService s v).scache = s.scache := rfl
@[simp] theorem setService_scPlru (v : Service) : (setService s v).scPlru = s.scPlru := rfl
@[simp] theorem setService_depot (v : Service) : (setService s v).depot = s.depot := rfl
@[simp] theorem setService_depotPlru (v : Service) : (setService s v).depotPlru = s.depotPlru := rfl
@[simp] theorem setService_mesh (v : Service) : (setService s v).mesh = s.mesh := rfl
@[simp] theorem setService_watch (v : Service) : (setService s v).watch = s.watch := rfl
@[simp] theorem setService_meshArb (v : Service) : (setService s v).meshArb = s.meshArb := rfl
@[simp] theorem setService_ejected (v : Service) : (setService s v).ejected = s.ejected := rfl
@[simp] theorem setService_sigs (v : Service) : (setService s v).sigs = s.sigs := rfl
@[simp] theorem setService_mdSigs (v : Service) : (setService s v).mdSigs = s.mdSigs := rfl
@[simp] theorem setService_stopSigs (v : Service) : (setService s v).stopSigs = s.stopSigs := rfl
@[simp] theorem setService_rxq (v : Service) : (setService s v).rxq = s.rxq := rfl
@[simp] theorem setService_kvgLanes (v : Service) : (setService s v).kvgLanes = s.kvgLanes := rfl
@[simp] theorem setService_kvg (v : Service) : (setService s v).kvg = s.kvg := rfl
@[simp] theorem setService_points (v : Service) : (setService s v).points = s.points := rfl
@[simp] theorem setService_bls (v : Service) : (setService s v).bls = s.bls := rfl
@[simp] theorem setService_routes (v : Service) : (setService s v).routes = s.routes := rfl
@[simp] theorem setService_oldMaps (v : Service) : (setService s v).oldMaps = s.oldMaps := rfl
@[simp] theorem setService_dill (v : Service) : (setService s v).dill = s.dill := rfl
@[simp] theorem setService_declares (v : Service) : (setService s v).declares = s.declares := rfl
@[simp] theorem setService_prefetches (v : Service) : (setService s v).prefetches = s.prefetches := rfl
@[simp] theorem setService_scrubOf (v : Service) : (setService s v).scrubOf = s.scrubOf := rfl
@[simp] theorem setService_missHist (v : Service) : (setService s v).missHist = s.missHist := rfl
@[simp] theorem setService_regionClk (v : Service) : (setService s v).regionClk = s.regionClk := rfl
@[simp] theorem setService_wins (v : Service) : (setService s v).wins = s.wins := rfl
@[simp] theorem setService_winsNew (v : Service) : (setService s v).winsNew = s.winsNew := rfl
@[simp] theorem setService_meters (v : Service) : (setService s v).meters = s.meters := rfl
@[simp] theorem setService_troubles (v : Service) : (setService s v).troubles = s.troubles := rfl
@[simp] theorem setService_portQ (v : Service) : (setService s v).portQ = s.portQ := rfl
@[simp] theorem setService_portArb (v : Service) : (setService s v).portArb = s.portArb := rfl
@[simp] theorem setService_unacked (v : Service) : (setService s v).unacked = s.unacked := rfl
@[simp] theorem setService_remotes (v : Service) : (setService s v).remotes = s.remotes := rfl
@[simp] theorem setService_links (v : Service) : (setService s v).links = s.links := rfl
@[simp] theorem setService_flitOut (v : Service) : (setService s v).flitOut = s.flitOut := rfl
@[simp] theorem setService_breaks (v : Service) : (setService s v).breaks = s.breaks := rfl
@[simp] theorem setService_dirs (v : Service) : (setService s v).dirs = s.dirs := rfl
@[simp] theorem setService_holders (v : Service) : (setService s v).holders = s.holders := rfl
@[simp] theorem setService_nextId (v : Service) : (setService s v).nextId = s.nextId := rfl
@[simp] theorem setService_funcs (v : Service) : (setService s v).funcs = s.funcs := rfl
@[simp] theorem setService_msix (v : Service) : (setService s v).msix = s.msix := rfl
@[simp] theorem setService_tlps (v : Service) : (setService s v).tlps = s.tlps := rfl
@[simp] theorem setService_posted (v : Service) : (setService s v).posted = s.posted := rfl
@[simp] theorem setService_atc (v : Service) : (setService s v).atc = s.atc := rfl
@[simp] theorem setService_atsOut (v : Service) : (setService s v).atsOut = s.atsOut := rfl
@[simp] theorem setService_hreads (v : Service) : (setService s v).hreads = s.hreads := rfl
@[simp] theorem setService_invals (v : Service) : (setService s v).invals = s.invals := rfl
@[simp] theorem setService_rings (v : Service) : (setService s v).rings = s.rings := rfl
@[simp] theorem setService_cmds (v : Service) : (setService s v).cmds = s.cmds := rfl
@[simp] theorem setService_intake (v : Service) : (setService s v).intake = s.intake := rfl
@[simp] theorem setService_turn (v : Service) : (setService s v).turn = s.turn := rfl
@[simp] theorem setService_ctxs (v : Service) : (setService s v).ctxs = s.ctxs := rfl
@[simp] theorem setService_objs (v : Service) : (setService s v).objs = s.objs := rfl
@[simp] theorem setService_fences (v : Service) : (setService s v).fences = s.fences := rfl
@[simp] theorem setService_faults (v : Service) : (setService s v).faults = s.faults := rfl
@[simp] theorem setService_hints (v : Service) : (setService s v).hints = s.hints := rfl
@[simp] theorem setService_reqs (v : Service) : (setService s v).reqs = s.reqs := rfl
@[simp] theorem setService_lentExt (v : Service) : (setService s v).lentExt = s.lentExt := rfl
@[simp] theorem setService_chans (v : Service) : (setService s v).chans = s.chans := rfl
@[simp] theorem setService_comp (v : Service) : (setService s v).comp = s.comp := rfl
@[simp] theorem setService_notices (v : Service) : (setService s v).notices = s.notices := rfl
@[simp] theorem setService_compOut (v : Service) : (setService s v).compOut = s.compOut := rfl
@[simp] theorem setService_reads (v : Service) : (setService s v).reads = s.reads := rfl
@[simp] theorem setService_measures (v : Service) : (setService s v).measures = s.measures := rfl
@[simp] theorem setService_harts (v : Service) : (setService s v).harts = s.harts := rfl
@[simp] theorem setService_sorts (v : Service) : (setService s v).sorts = s.sorts := rfl
@[simp] theorem setService_dirPtr (v : Service) : (setService s v).dirPtr = s.dirPtr := rfl
@[simp] theorem setService_dirPlru (v : Service) : (setService s v).dirPlru = s.dirPlru := rfl
@[simp] theorem setService_dirHeld (v : Service) : (setService s v).dirHeld = s.dirHeld := rfl
@[simp] theorem setService_power (v : Service) : (setService s v).power = s.power := rfl
@[simp] theorem setService_rst (v : Service) : (setService s v).rst = s.rst := rfl
@[simp] theorem setService_shuts (v : Service) : (setService s v).shuts = s.shuts := rfl
@[simp] theorem setService_mod (v : Service) : (setService s v).mod = s.mod := rfl
@[simp] theorem fget_setService (v : Service) (ff : F) (j : Nat) : fget (setService s v) ff j = fget s ff j := rfl
@[simp] theorem fbit_setService (v : Service) (ff : F) (j : Nat) : fbit (setService s v) ff j = fbit s ff j := rfl

@[simp] theorem setMeasure_pending (p : Nat) (m : List Byte) : (setMeasure s p m).pending = s.pending := rfl
@[simp] theorem setMeasure_freeCtr (p : Nat) (m : List Byte) : (setMeasure s p m).freeCtr = s.freeCtr := rfl
@[simp] theorem setMeasure_stalled (p : Nat) (m : List Byte) : (setMeasure s p m).stalled = s.stalled := rfl
@[simp] theorem setMeasure_now (p : Nat) (m : List Byte) : (setMeasure s p m).now = s.now := rfl
@[simp] theorem setMeasure_regs (p : Nat) (m : List Byte) : (setMeasure s p m).regs = s.regs := rfl
@[simp] theorem setMeasure_mem (p : Nat) (m : List Byte) : (setMeasure s p m).mem = s.mem := rfl
@[simp] theorem setMeasure_ueLines (p : Nat) (m : List Byte) : (setMeasure s p m).ueLines = s.ueLines := rfl
@[simp] theorem setMeasure_cores (p : Nat) (m : List Byte) : (setMeasure s p m).cores = s.cores := rfl
@[simp] theorem setMeasure_launches (p : Nat) (m : List Byte) : (setMeasure s p m).launches = s.launches := rfl
@[simp] theorem setMeasure_heldAcc (p : Nat) (m : List Byte) : (setMeasure s p m).heldAcc = s.heldAcc := rfl
@[simp] theorem setMeasure_answers (p : Nat) (m : List Byte) : (setMeasure s p m).answers = s.answers := rfl
@[simp] theorem setMeasure_scache (p : Nat) (m : List Byte) : (setMeasure s p m).scache = s.scache := rfl
@[simp] theorem setMeasure_scPlru (p : Nat) (m : List Byte) : (setMeasure s p m).scPlru = s.scPlru := rfl
@[simp] theorem setMeasure_depot (p : Nat) (m : List Byte) : (setMeasure s p m).depot = s.depot := rfl
@[simp] theorem setMeasure_depotPlru (p : Nat) (m : List Byte) : (setMeasure s p m).depotPlru = s.depotPlru := rfl
@[simp] theorem setMeasure_mesh (p : Nat) (m : List Byte) : (setMeasure s p m).mesh = s.mesh := rfl
@[simp] theorem setMeasure_watch (p : Nat) (m : List Byte) : (setMeasure s p m).watch = s.watch := rfl
@[simp] theorem setMeasure_meshArb (p : Nat) (m : List Byte) : (setMeasure s p m).meshArb = s.meshArb := rfl
@[simp] theorem setMeasure_ejected (p : Nat) (m : List Byte) : (setMeasure s p m).ejected = s.ejected := rfl
@[simp] theorem setMeasure_sigs (p : Nat) (m : List Byte) : (setMeasure s p m).sigs = s.sigs := rfl
@[simp] theorem setMeasure_mdSigs (p : Nat) (m : List Byte) : (setMeasure s p m).mdSigs = s.mdSigs := rfl
@[simp] theorem setMeasure_stopSigs (p : Nat) (m : List Byte) : (setMeasure s p m).stopSigs = s.stopSigs := rfl
@[simp] theorem setMeasure_rxq (p : Nat) (m : List Byte) : (setMeasure s p m).rxq = s.rxq := rfl
@[simp] theorem setMeasure_kvgLanes (p : Nat) (m : List Byte) : (setMeasure s p m).kvgLanes = s.kvgLanes := rfl
@[simp] theorem setMeasure_kvg (p : Nat) (m : List Byte) : (setMeasure s p m).kvg = s.kvg := rfl
@[simp] theorem setMeasure_points (p : Nat) (m : List Byte) : (setMeasure s p m).points = s.points := rfl
@[simp] theorem setMeasure_bls (p : Nat) (m : List Byte) : (setMeasure s p m).bls = s.bls := rfl
@[simp] theorem setMeasure_routes (p : Nat) (m : List Byte) : (setMeasure s p m).routes = s.routes := rfl
@[simp] theorem setMeasure_oldMaps (p : Nat) (m : List Byte) : (setMeasure s p m).oldMaps = s.oldMaps := rfl
@[simp] theorem setMeasure_dill (p : Nat) (m : List Byte) : (setMeasure s p m).dill = s.dill := rfl
@[simp] theorem setMeasure_declares (p : Nat) (m : List Byte) : (setMeasure s p m).declares = s.declares := rfl
@[simp] theorem setMeasure_prefetches (p : Nat) (m : List Byte) : (setMeasure s p m).prefetches = s.prefetches := rfl
@[simp] theorem setMeasure_scrubOf (p : Nat) (m : List Byte) : (setMeasure s p m).scrubOf = s.scrubOf := rfl
@[simp] theorem setMeasure_missHist (p : Nat) (m : List Byte) : (setMeasure s p m).missHist = s.missHist := rfl
@[simp] theorem setMeasure_regionClk (p : Nat) (m : List Byte) : (setMeasure s p m).regionClk = s.regionClk := rfl
@[simp] theorem setMeasure_wins (p : Nat) (m : List Byte) : (setMeasure s p m).wins = s.wins := rfl
@[simp] theorem setMeasure_winsNew (p : Nat) (m : List Byte) : (setMeasure s p m).winsNew = s.winsNew := rfl
@[simp] theorem setMeasure_meters (p : Nat) (m : List Byte) : (setMeasure s p m).meters = s.meters := rfl
@[simp] theorem setMeasure_troubles (p : Nat) (m : List Byte) : (setMeasure s p m).troubles = s.troubles := rfl
@[simp] theorem setMeasure_portQ (p : Nat) (m : List Byte) : (setMeasure s p m).portQ = s.portQ := rfl
@[simp] theorem setMeasure_portArb (p : Nat) (m : List Byte) : (setMeasure s p m).portArb = s.portArb := rfl
@[simp] theorem setMeasure_unacked (p : Nat) (m : List Byte) : (setMeasure s p m).unacked = s.unacked := rfl
@[simp] theorem setMeasure_remotes (p : Nat) (m : List Byte) : (setMeasure s p m).remotes = s.remotes := rfl
@[simp] theorem setMeasure_links (p : Nat) (m : List Byte) : (setMeasure s p m).links = s.links := rfl
@[simp] theorem setMeasure_flitOut (p : Nat) (m : List Byte) : (setMeasure s p m).flitOut = s.flitOut := rfl
@[simp] theorem setMeasure_breaks (p : Nat) (m : List Byte) : (setMeasure s p m).breaks = s.breaks := rfl
@[simp] theorem setMeasure_dirs (p : Nat) (m : List Byte) : (setMeasure s p m).dirs = s.dirs := rfl
@[simp] theorem setMeasure_holders (p : Nat) (m : List Byte) : (setMeasure s p m).holders = s.holders := rfl
@[simp] theorem setMeasure_nextId (p : Nat) (m : List Byte) : (setMeasure s p m).nextId = s.nextId := rfl
@[simp] theorem setMeasure_funcs (p : Nat) (m : List Byte) : (setMeasure s p m).funcs = s.funcs := rfl
@[simp] theorem setMeasure_msix (p : Nat) (m : List Byte) : (setMeasure s p m).msix = s.msix := rfl
@[simp] theorem setMeasure_tlps (p : Nat) (m : List Byte) : (setMeasure s p m).tlps = s.tlps := rfl
@[simp] theorem setMeasure_posted (p : Nat) (m : List Byte) : (setMeasure s p m).posted = s.posted := rfl
@[simp] theorem setMeasure_atc (p : Nat) (m : List Byte) : (setMeasure s p m).atc = s.atc := rfl
@[simp] theorem setMeasure_atsOut (p : Nat) (m : List Byte) : (setMeasure s p m).atsOut = s.atsOut := rfl
@[simp] theorem setMeasure_hreads (p : Nat) (m : List Byte) : (setMeasure s p m).hreads = s.hreads := rfl
@[simp] theorem setMeasure_invals (p : Nat) (m : List Byte) : (setMeasure s p m).invals = s.invals := rfl
@[simp] theorem setMeasure_rings (p : Nat) (m : List Byte) : (setMeasure s p m).rings = s.rings := rfl
@[simp] theorem setMeasure_cmds (p : Nat) (m : List Byte) : (setMeasure s p m).cmds = s.cmds := rfl
@[simp] theorem setMeasure_intake (p : Nat) (m : List Byte) : (setMeasure s p m).intake = s.intake := rfl
@[simp] theorem setMeasure_turn (p : Nat) (m : List Byte) : (setMeasure s p m).turn = s.turn := rfl
@[simp] theorem setMeasure_ctxs (p : Nat) (m : List Byte) : (setMeasure s p m).ctxs = s.ctxs := rfl
@[simp] theorem setMeasure_objs (p : Nat) (m : List Byte) : (setMeasure s p m).objs = s.objs := rfl
@[simp] theorem setMeasure_fences (p : Nat) (m : List Byte) : (setMeasure s p m).fences = s.fences := rfl
@[simp] theorem setMeasure_faults (p : Nat) (m : List Byte) : (setMeasure s p m).faults = s.faults := rfl
@[simp] theorem setMeasure_hints (p : Nat) (m : List Byte) : (setMeasure s p m).hints = s.hints := rfl
@[simp] theorem setMeasure_reqs (p : Nat) (m : List Byte) : (setMeasure s p m).reqs = s.reqs := rfl
@[simp] theorem setMeasure_services (p : Nat) (m : List Byte) : (setMeasure s p m).services = s.services := rfl
@[simp] theorem setMeasure_lentExt (p : Nat) (m : List Byte) : (setMeasure s p m).lentExt = s.lentExt := rfl
@[simp] theorem setMeasure_chans (p : Nat) (m : List Byte) : (setMeasure s p m).chans = s.chans := rfl
@[simp] theorem setMeasure_comp (p : Nat) (m : List Byte) : (setMeasure s p m).comp = s.comp := rfl
@[simp] theorem setMeasure_notices (p : Nat) (m : List Byte) : (setMeasure s p m).notices = s.notices := rfl
@[simp] theorem setMeasure_compOut (p : Nat) (m : List Byte) : (setMeasure s p m).compOut = s.compOut := rfl
@[simp] theorem setMeasure_reads (p : Nat) (m : List Byte) : (setMeasure s p m).reads = s.reads := rfl
@[simp] theorem setMeasure_harts (p : Nat) (m : List Byte) : (setMeasure s p m).harts = s.harts := rfl
@[simp] theorem setMeasure_sorts (p : Nat) (m : List Byte) : (setMeasure s p m).sorts = s.sorts := rfl
@[simp] theorem setMeasure_dirPtr (p : Nat) (m : List Byte) : (setMeasure s p m).dirPtr = s.dirPtr := rfl
@[simp] theorem setMeasure_dirPlru (p : Nat) (m : List Byte) : (setMeasure s p m).dirPlru = s.dirPlru := rfl
@[simp] theorem setMeasure_dirHeld (p : Nat) (m : List Byte) : (setMeasure s p m).dirHeld = s.dirHeld := rfl
@[simp] theorem setMeasure_power (p : Nat) (m : List Byte) : (setMeasure s p m).power = s.power := rfl
@[simp] theorem setMeasure_rst (p : Nat) (m : List Byte) : (setMeasure s p m).rst = s.rst := rfl
@[simp] theorem setMeasure_shuts (p : Nat) (m : List Byte) : (setMeasure s p m).shuts = s.shuts := rfl
@[simp] theorem setMeasure_mod (p : Nat) (m : List Byte) : (setMeasure s p m).mod = s.mod := rfl
@[simp] theorem fget_setMeasure (p : Nat) (m : List Byte) (ff : F) (j : Nat) : fget (setMeasure s p m) ff j = fget s ff j := rfl
@[simp] theorem fbit_setMeasure (p : Nat) (m : List Byte) (ff : F) (j : Nat) : fbit (setMeasure s p m) ff j = fbit s ff j := rfl

@[simp] theorem setLink_pending (p : Nat) (l : Link) : (setLink s p l).pending = s.pending := rfl
@[simp] theorem setLink_freeCtr (p : Nat) (l : Link) : (setLink s p l).freeCtr = s.freeCtr := rfl
@[simp] theorem setLink_stalled (p : Nat) (l : Link) : (setLink s p l).stalled = s.stalled := rfl
@[simp] theorem setLink_now (p : Nat) (l : Link) : (setLink s p l).now = s.now := rfl
@[simp] theorem setLink_regs (p : Nat) (l : Link) : (setLink s p l).regs = s.regs := rfl
@[simp] theorem setLink_mem (p : Nat) (l : Link) : (setLink s p l).mem = s.mem := rfl
@[simp] theorem setLink_ueLines (p : Nat) (l : Link) : (setLink s p l).ueLines = s.ueLines := rfl
@[simp] theorem setLink_cores (p : Nat) (l : Link) : (setLink s p l).cores = s.cores := rfl
@[simp] theorem setLink_launches (p : Nat) (l : Link) : (setLink s p l).launches = s.launches := rfl
@[simp] theorem setLink_heldAcc (p : Nat) (l : Link) : (setLink s p l).heldAcc = s.heldAcc := rfl
@[simp] theorem setLink_answers (p : Nat) (l : Link) : (setLink s p l).answers = s.answers := rfl
@[simp] theorem setLink_scache (p : Nat) (l : Link) : (setLink s p l).scache = s.scache := rfl
@[simp] theorem setLink_scPlru (p : Nat) (l : Link) : (setLink s p l).scPlru = s.scPlru := rfl
@[simp] theorem setLink_depot (p : Nat) (l : Link) : (setLink s p l).depot = s.depot := rfl
@[simp] theorem setLink_depotPlru (p : Nat) (l : Link) : (setLink s p l).depotPlru = s.depotPlru := rfl
@[simp] theorem setLink_mesh (p : Nat) (l : Link) : (setLink s p l).mesh = s.mesh := rfl
@[simp] theorem setLink_watch (p : Nat) (l : Link) : (setLink s p l).watch = s.watch := rfl
@[simp] theorem setLink_meshArb (p : Nat) (l : Link) : (setLink s p l).meshArb = s.meshArb := rfl
@[simp] theorem setLink_ejected (p : Nat) (l : Link) : (setLink s p l).ejected = s.ejected := rfl
@[simp] theorem setLink_sigs (p : Nat) (l : Link) : (setLink s p l).sigs = s.sigs := rfl
@[simp] theorem setLink_mdSigs (p : Nat) (l : Link) : (setLink s p l).mdSigs = s.mdSigs := rfl
@[simp] theorem setLink_stopSigs (p : Nat) (l : Link) : (setLink s p l).stopSigs = s.stopSigs := rfl
@[simp] theorem setLink_rxq (p : Nat) (l : Link) : (setLink s p l).rxq = s.rxq := rfl
@[simp] theorem setLink_kvgLanes (p : Nat) (l : Link) : (setLink s p l).kvgLanes = s.kvgLanes := rfl
@[simp] theorem setLink_kvg (p : Nat) (l : Link) : (setLink s p l).kvg = s.kvg := rfl
@[simp] theorem setLink_points (p : Nat) (l : Link) : (setLink s p l).points = s.points := rfl
@[simp] theorem setLink_bls (p : Nat) (l : Link) : (setLink s p l).bls = s.bls := rfl
@[simp] theorem setLink_routes (p : Nat) (l : Link) : (setLink s p l).routes = s.routes := rfl
@[simp] theorem setLink_oldMaps (p : Nat) (l : Link) : (setLink s p l).oldMaps = s.oldMaps := rfl
@[simp] theorem setLink_dill (p : Nat) (l : Link) : (setLink s p l).dill = s.dill := rfl
@[simp] theorem setLink_declares (p : Nat) (l : Link) : (setLink s p l).declares = s.declares := rfl
@[simp] theorem setLink_prefetches (p : Nat) (l : Link) : (setLink s p l).prefetches = s.prefetches := rfl
@[simp] theorem setLink_scrubOf (p : Nat) (l : Link) : (setLink s p l).scrubOf = s.scrubOf := rfl
@[simp] theorem setLink_missHist (p : Nat) (l : Link) : (setLink s p l).missHist = s.missHist := rfl
@[simp] theorem setLink_regionClk (p : Nat) (l : Link) : (setLink s p l).regionClk = s.regionClk := rfl
@[simp] theorem setLink_wins (p : Nat) (l : Link) : (setLink s p l).wins = s.wins := rfl
@[simp] theorem setLink_winsNew (p : Nat) (l : Link) : (setLink s p l).winsNew = s.winsNew := rfl
@[simp] theorem setLink_meters (p : Nat) (l : Link) : (setLink s p l).meters = s.meters := rfl
@[simp] theorem setLink_troubles (p : Nat) (l : Link) : (setLink s p l).troubles = s.troubles := rfl
@[simp] theorem setLink_portQ (p : Nat) (l : Link) : (setLink s p l).portQ = s.portQ := rfl
@[simp] theorem setLink_portArb (p : Nat) (l : Link) : (setLink s p l).portArb = s.portArb := rfl
@[simp] theorem setLink_unacked (p : Nat) (l : Link) : (setLink s p l).unacked = s.unacked := rfl
@[simp] theorem setLink_remotes (p : Nat) (l : Link) : (setLink s p l).remotes = s.remotes := rfl
@[simp] theorem setLink_flitOut (p : Nat) (l : Link) : (setLink s p l).flitOut = s.flitOut := rfl
@[simp] theorem setLink_breaks (p : Nat) (l : Link) : (setLink s p l).breaks = s.breaks := rfl
@[simp] theorem setLink_dirs (p : Nat) (l : Link) : (setLink s p l).dirs = s.dirs := rfl
@[simp] theorem setLink_holders (p : Nat) (l : Link) : (setLink s p l).holders = s.holders := rfl
@[simp] theorem setLink_nextId (p : Nat) (l : Link) : (setLink s p l).nextId = s.nextId := rfl
@[simp] theorem setLink_funcs (p : Nat) (l : Link) : (setLink s p l).funcs = s.funcs := rfl
@[simp] theorem setLink_msix (p : Nat) (l : Link) : (setLink s p l).msix = s.msix := rfl
@[simp] theorem setLink_tlps (p : Nat) (l : Link) : (setLink s p l).tlps = s.tlps := rfl
@[simp] theorem setLink_posted (p : Nat) (l : Link) : (setLink s p l).posted = s.posted := rfl
@[simp] theorem setLink_atc (p : Nat) (l : Link) : (setLink s p l).atc = s.atc := rfl
@[simp] theorem setLink_atsOut (p : Nat) (l : Link) : (setLink s p l).atsOut = s.atsOut := rfl
@[simp] theorem setLink_hreads (p : Nat) (l : Link) : (setLink s p l).hreads = s.hreads := rfl
@[simp] theorem setLink_invals (p : Nat) (l : Link) : (setLink s p l).invals = s.invals := rfl
@[simp] theorem setLink_rings (p : Nat) (l : Link) : (setLink s p l).rings = s.rings := rfl
@[simp] theorem setLink_cmds (p : Nat) (l : Link) : (setLink s p l).cmds = s.cmds := rfl
@[simp] theorem setLink_intake (p : Nat) (l : Link) : (setLink s p l).intake = s.intake := rfl
@[simp] theorem setLink_turn (p : Nat) (l : Link) : (setLink s p l).turn = s.turn := rfl
@[simp] theorem setLink_ctxs (p : Nat) (l : Link) : (setLink s p l).ctxs = s.ctxs := rfl
@[simp] theorem setLink_objs (p : Nat) (l : Link) : (setLink s p l).objs = s.objs := rfl
@[simp] theorem setLink_fences (p : Nat) (l : Link) : (setLink s p l).fences = s.fences := rfl
@[simp] theorem setLink_faults (p : Nat) (l : Link) : (setLink s p l).faults = s.faults := rfl
@[simp] theorem setLink_hints (p : Nat) (l : Link) : (setLink s p l).hints = s.hints := rfl
@[simp] theorem setLink_reqs (p : Nat) (l : Link) : (setLink s p l).reqs = s.reqs := rfl
@[simp] theorem setLink_services (p : Nat) (l : Link) : (setLink s p l).services = s.services := rfl
@[simp] theorem setLink_lentExt (p : Nat) (l : Link) : (setLink s p l).lentExt = s.lentExt := rfl
@[simp] theorem setLink_chans (p : Nat) (l : Link) : (setLink s p l).chans = s.chans := rfl
@[simp] theorem setLink_comp (p : Nat) (l : Link) : (setLink s p l).comp = s.comp := rfl
@[simp] theorem setLink_notices (p : Nat) (l : Link) : (setLink s p l).notices = s.notices := rfl
@[simp] theorem setLink_compOut (p : Nat) (l : Link) : (setLink s p l).compOut = s.compOut := rfl
@[simp] theorem setLink_reads (p : Nat) (l : Link) : (setLink s p l).reads = s.reads := rfl
@[simp] theorem setLink_measures (p : Nat) (l : Link) : (setLink s p l).measures = s.measures := rfl
@[simp] theorem setLink_harts (p : Nat) (l : Link) : (setLink s p l).harts = s.harts := rfl
@[simp] theorem setLink_sorts (p : Nat) (l : Link) : (setLink s p l).sorts = s.sorts := rfl
@[simp] theorem setLink_dirPtr (p : Nat) (l : Link) : (setLink s p l).dirPtr = s.dirPtr := rfl
@[simp] theorem setLink_dirPlru (p : Nat) (l : Link) : (setLink s p l).dirPlru = s.dirPlru := rfl
@[simp] theorem setLink_dirHeld (p : Nat) (l : Link) : (setLink s p l).dirHeld = s.dirHeld := rfl
@[simp] theorem setLink_power (p : Nat) (l : Link) : (setLink s p l).power = s.power := rfl
@[simp] theorem setLink_rst (p : Nat) (l : Link) : (setLink s p l).rst = s.rst := rfl
@[simp] theorem setLink_shuts (p : Nat) (l : Link) : (setLink s p l).shuts = s.shuts := rfl
@[simp] theorem setLink_mod (p : Nat) (l : Link) : (setLink s p l).mod = s.mod := rfl
@[simp] theorem fget_setLink (p : Nat) (l : Link) (ff : F) (j : Nat) : fget (setLink s p l) ff j = fget s ff j := rfl
@[simp] theorem fbit_setLink (p : Nat) (l : Link) (ff : F) (j : Nat) : fbit (setLink s p l) ff j = fbit s ff j := rfl

@[simp] theorem setReq_pending (r : Req) : (setReq s r).pending = s.pending := rfl
@[simp] theorem setReq_freeCtr (r : Req) : (setReq s r).freeCtr = s.freeCtr := rfl
@[simp] theorem setReq_stalled (r : Req) : (setReq s r).stalled = s.stalled := rfl
@[simp] theorem setReq_now (r : Req) : (setReq s r).now = s.now := rfl
@[simp] theorem setReq_regs (r : Req) : (setReq s r).regs = s.regs := rfl
@[simp] theorem setReq_mem (r : Req) : (setReq s r).mem = s.mem := rfl
@[simp] theorem setReq_ueLines (r : Req) : (setReq s r).ueLines = s.ueLines := rfl
@[simp] theorem setReq_cores (r : Req) : (setReq s r).cores = s.cores := rfl
@[simp] theorem setReq_launches (r : Req) : (setReq s r).launches = s.launches := rfl
@[simp] theorem setReq_heldAcc (r : Req) : (setReq s r).heldAcc = s.heldAcc := rfl
@[simp] theorem setReq_answers (r : Req) : (setReq s r).answers = s.answers := rfl
@[simp] theorem setReq_scache (r : Req) : (setReq s r).scache = s.scache := rfl
@[simp] theorem setReq_scPlru (r : Req) : (setReq s r).scPlru = s.scPlru := rfl
@[simp] theorem setReq_depot (r : Req) : (setReq s r).depot = s.depot := rfl
@[simp] theorem setReq_depotPlru (r : Req) : (setReq s r).depotPlru = s.depotPlru := rfl
@[simp] theorem setReq_mesh (r : Req) : (setReq s r).mesh = s.mesh := rfl
@[simp] theorem setReq_watch (r : Req) : (setReq s r).watch = s.watch := rfl
@[simp] theorem setReq_meshArb (r : Req) : (setReq s r).meshArb = s.meshArb := rfl
@[simp] theorem setReq_ejected (r : Req) : (setReq s r).ejected = s.ejected := rfl
@[simp] theorem setReq_sigs (r : Req) : (setReq s r).sigs = s.sigs := rfl
@[simp] theorem setReq_mdSigs (r : Req) : (setReq s r).mdSigs = s.mdSigs := rfl
@[simp] theorem setReq_stopSigs (r : Req) : (setReq s r).stopSigs = s.stopSigs := rfl
@[simp] theorem setReq_rxq (r : Req) : (setReq s r).rxq = s.rxq := rfl
@[simp] theorem setReq_kvgLanes (r : Req) : (setReq s r).kvgLanes = s.kvgLanes := rfl
@[simp] theorem setReq_kvg (r : Req) : (setReq s r).kvg = s.kvg := rfl
@[simp] theorem setReq_points (r : Req) : (setReq s r).points = s.points := rfl
@[simp] theorem setReq_bls (r : Req) : (setReq s r).bls = s.bls := rfl
@[simp] theorem setReq_routes (r : Req) : (setReq s r).routes = s.routes := rfl
@[simp] theorem setReq_oldMaps (r : Req) : (setReq s r).oldMaps = s.oldMaps := rfl
@[simp] theorem setReq_dill (r : Req) : (setReq s r).dill = s.dill := rfl
@[simp] theorem setReq_declares (r : Req) : (setReq s r).declares = s.declares := rfl
@[simp] theorem setReq_prefetches (r : Req) : (setReq s r).prefetches = s.prefetches := rfl
@[simp] theorem setReq_scrubOf (r : Req) : (setReq s r).scrubOf = s.scrubOf := rfl
@[simp] theorem setReq_missHist (r : Req) : (setReq s r).missHist = s.missHist := rfl
@[simp] theorem setReq_regionClk (r : Req) : (setReq s r).regionClk = s.regionClk := rfl
@[simp] theorem setReq_wins (r : Req) : (setReq s r).wins = s.wins := rfl
@[simp] theorem setReq_winsNew (r : Req) : (setReq s r).winsNew = s.winsNew := rfl
@[simp] theorem setReq_meters (r : Req) : (setReq s r).meters = s.meters := rfl
@[simp] theorem setReq_troubles (r : Req) : (setReq s r).troubles = s.troubles := rfl
@[simp] theorem setReq_portQ (r : Req) : (setReq s r).portQ = s.portQ := rfl
@[simp] theorem setReq_portArb (r : Req) : (setReq s r).portArb = s.portArb := rfl
@[simp] theorem setReq_unacked (r : Req) : (setReq s r).unacked = s.unacked := rfl
@[simp] theorem setReq_remotes (r : Req) : (setReq s r).remotes = s.remotes := rfl
@[simp] theorem setReq_links (r : Req) : (setReq s r).links = s.links := rfl
@[simp] theorem setReq_flitOut (r : Req) : (setReq s r).flitOut = s.flitOut := rfl
@[simp] theorem setReq_breaks (r : Req) : (setReq s r).breaks = s.breaks := rfl
@[simp] theorem setReq_dirs (r : Req) : (setReq s r).dirs = s.dirs := rfl
@[simp] theorem setReq_holders (r : Req) : (setReq s r).holders = s.holders := rfl
@[simp] theorem setReq_nextId (r : Req) : (setReq s r).nextId = s.nextId := rfl
@[simp] theorem setReq_funcs (r : Req) : (setReq s r).funcs = s.funcs := rfl
@[simp] theorem setReq_msix (r : Req) : (setReq s r).msix = s.msix := rfl
@[simp] theorem setReq_tlps (r : Req) : (setReq s r).tlps = s.tlps := rfl
@[simp] theorem setReq_posted (r : Req) : (setReq s r).posted = s.posted := rfl
@[simp] theorem setReq_atc (r : Req) : (setReq s r).atc = s.atc := rfl
@[simp] theorem setReq_atsOut (r : Req) : (setReq s r).atsOut = s.atsOut := rfl
@[simp] theorem setReq_hreads (r : Req) : (setReq s r).hreads = s.hreads := rfl
@[simp] theorem setReq_invals (r : Req) : (setReq s r).invals = s.invals := rfl
@[simp] theorem setReq_rings (r : Req) : (setReq s r).rings = s.rings := rfl
@[simp] theorem setReq_cmds (r : Req) : (setReq s r).cmds = s.cmds := rfl
@[simp] theorem setReq_intake (r : Req) : (setReq s r).intake = s.intake := rfl
@[simp] theorem setReq_turn (r : Req) : (setReq s r).turn = s.turn := rfl
@[simp] theorem setReq_ctxs (r : Req) : (setReq s r).ctxs = s.ctxs := rfl
@[simp] theorem setReq_objs (r : Req) : (setReq s r).objs = s.objs := rfl
@[simp] theorem setReq_fences (r : Req) : (setReq s r).fences = s.fences := rfl
@[simp] theorem setReq_faults (r : Req) : (setReq s r).faults = s.faults := rfl
@[simp] theorem setReq_hints (r : Req) : (setReq s r).hints = s.hints := rfl
@[simp] theorem setReq_services (r : Req) : (setReq s r).services = s.services := rfl
@[simp] theorem setReq_lentExt (r : Req) : (setReq s r).lentExt = s.lentExt := rfl
@[simp] theorem setReq_chans (r : Req) : (setReq s r).chans = s.chans := rfl
@[simp] theorem setReq_comp (r : Req) : (setReq s r).comp = s.comp := rfl
@[simp] theorem setReq_notices (r : Req) : (setReq s r).notices = s.notices := rfl
@[simp] theorem setReq_compOut (r : Req) : (setReq s r).compOut = s.compOut := rfl
@[simp] theorem setReq_reads (r : Req) : (setReq s r).reads = s.reads := rfl
@[simp] theorem setReq_measures (r : Req) : (setReq s r).measures = s.measures := rfl
@[simp] theorem setReq_harts (r : Req) : (setReq s r).harts = s.harts := rfl
@[simp] theorem setReq_sorts (r : Req) : (setReq s r).sorts = s.sorts := rfl
@[simp] theorem setReq_dirPtr (r : Req) : (setReq s r).dirPtr = s.dirPtr := rfl
@[simp] theorem setReq_dirPlru (r : Req) : (setReq s r).dirPlru = s.dirPlru := rfl
@[simp] theorem setReq_dirHeld (r : Req) : (setReq s r).dirHeld = s.dirHeld := rfl
@[simp] theorem setReq_power (r : Req) : (setReq s r).power = s.power := rfl
@[simp] theorem setReq_rst (r : Req) : (setReq s r).rst = s.rst := rfl
@[simp] theorem setReq_shuts (r : Req) : (setReq s r).shuts = s.shuts := rfl
@[simp] theorem setReq_mod (r : Req) : (setReq s r).mod = s.mod := rfl
@[simp] theorem fget_setReq (r : Req) (ff : F) (j : Nat) : fget (setReq s r) ff j = fget s ff j := rfl
@[simp] theorem fbit_setReq (r : Req) (ff : F) (j : Nat) : fbit (setReq s r) ff j = fbit s ff j := rfl

@[simp] theorem setMod_pending (m : Mod) : (setMod s m).pending = s.pending := rfl
@[simp] theorem setMod_freeCtr (m : Mod) : (setMod s m).freeCtr = s.freeCtr := rfl
@[simp] theorem setMod_stalled (m : Mod) : (setMod s m).stalled = s.stalled := rfl
@[simp] theorem setMod_now (m : Mod) : (setMod s m).now = s.now := rfl
@[simp] theorem setMod_regs (m : Mod) : (setMod s m).regs = s.regs := rfl
@[simp] theorem setMod_mem (m : Mod) : (setMod s m).mem = s.mem := rfl
@[simp] theorem setMod_ueLines (m : Mod) : (setMod s m).ueLines = s.ueLines := rfl
@[simp] theorem setMod_cores (m : Mod) : (setMod s m).cores = s.cores := rfl
@[simp] theorem setMod_launches (m : Mod) : (setMod s m).launches = s.launches := rfl
@[simp] theorem setMod_heldAcc (m : Mod) : (setMod s m).heldAcc = s.heldAcc := rfl
@[simp] theorem setMod_answers (m : Mod) : (setMod s m).answers = s.answers := rfl
@[simp] theorem setMod_scache (m : Mod) : (setMod s m).scache = s.scache := rfl
@[simp] theorem setMod_scPlru (m : Mod) : (setMod s m).scPlru = s.scPlru := rfl
@[simp] theorem setMod_depot (m : Mod) : (setMod s m).depot = s.depot := rfl
@[simp] theorem setMod_depotPlru (m : Mod) : (setMod s m).depotPlru = s.depotPlru := rfl
@[simp] theorem setMod_mesh (m : Mod) : (setMod s m).mesh = s.mesh := rfl
@[simp] theorem setMod_watch (m : Mod) : (setMod s m).watch = s.watch := rfl
@[simp] theorem setMod_meshArb (m : Mod) : (setMod s m).meshArb = s.meshArb := rfl
@[simp] theorem setMod_ejected (m : Mod) : (setMod s m).ejected = s.ejected := rfl
@[simp] theorem setMod_sigs (m : Mod) : (setMod s m).sigs = s.sigs := rfl
@[simp] theorem setMod_mdSigs (m : Mod) : (setMod s m).mdSigs = s.mdSigs := rfl
@[simp] theorem setMod_stopSigs (m : Mod) : (setMod s m).stopSigs = s.stopSigs := rfl
@[simp] theorem setMod_rxq (m : Mod) : (setMod s m).rxq = s.rxq := rfl
@[simp] theorem setMod_kvgLanes (m : Mod) : (setMod s m).kvgLanes = s.kvgLanes := rfl
@[simp] theorem setMod_kvg (m : Mod) : (setMod s m).kvg = s.kvg := rfl
@[simp] theorem setMod_points (m : Mod) : (setMod s m).points = s.points := rfl
@[simp] theorem setMod_bls (m : Mod) : (setMod s m).bls = s.bls := rfl
@[simp] theorem setMod_routes (m : Mod) : (setMod s m).routes = s.routes := rfl
@[simp] theorem setMod_oldMaps (m : Mod) : (setMod s m).oldMaps = s.oldMaps := rfl
@[simp] theorem setMod_dill (m : Mod) : (setMod s m).dill = s.dill := rfl
@[simp] theorem setMod_declares (m : Mod) : (setMod s m).declares = s.declares := rfl
@[simp] theorem setMod_prefetches (m : Mod) : (setMod s m).prefetches = s.prefetches := rfl
@[simp] theorem setMod_scrubOf (m : Mod) : (setMod s m).scrubOf = s.scrubOf := rfl
@[simp] theorem setMod_missHist (m : Mod) : (setMod s m).missHist = s.missHist := rfl
@[simp] theorem setMod_regionClk (m : Mod) : (setMod s m).regionClk = s.regionClk := rfl
@[simp] theorem setMod_wins (m : Mod) : (setMod s m).wins = s.wins := rfl
@[simp] theorem setMod_winsNew (m : Mod) : (setMod s m).winsNew = s.winsNew := rfl
@[simp] theorem setMod_meters (m : Mod) : (setMod s m).meters = s.meters := rfl
@[simp] theorem setMod_troubles (m : Mod) : (setMod s m).troubles = s.troubles := rfl
@[simp] theorem setMod_portQ (m : Mod) : (setMod s m).portQ = s.portQ := rfl
@[simp] theorem setMod_portArb (m : Mod) : (setMod s m).portArb = s.portArb := rfl
@[simp] theorem setMod_unacked (m : Mod) : (setMod s m).unacked = s.unacked := rfl
@[simp] theorem setMod_remotes (m : Mod) : (setMod s m).remotes = s.remotes := rfl
@[simp] theorem setMod_links (m : Mod) : (setMod s m).links = s.links := rfl
@[simp] theorem setMod_flitOut (m : Mod) : (setMod s m).flitOut = s.flitOut := rfl
@[simp] theorem setMod_breaks (m : Mod) : (setMod s m).breaks = s.breaks := rfl
@[simp] theorem setMod_dirs (m : Mod) : (setMod s m).dirs = s.dirs := rfl
@[simp] theorem setMod_holders (m : Mod) : (setMod s m).holders = s.holders := rfl
@[simp] theorem setMod_nextId (m : Mod) : (setMod s m).nextId = s.nextId := rfl
@[simp] theorem setMod_funcs (m : Mod) : (setMod s m).funcs = s.funcs := rfl
@[simp] theorem setMod_msix (m : Mod) : (setMod s m).msix = s.msix := rfl
@[simp] theorem setMod_tlps (m : Mod) : (setMod s m).tlps = s.tlps := rfl
@[simp] theorem setMod_posted (m : Mod) : (setMod s m).posted = s.posted := rfl
@[simp] theorem setMod_atc (m : Mod) : (setMod s m).atc = s.atc := rfl
@[simp] theorem setMod_atsOut (m : Mod) : (setMod s m).atsOut = s.atsOut := rfl
@[simp] theorem setMod_hreads (m : Mod) : (setMod s m).hreads = s.hreads := rfl
@[simp] theorem setMod_invals (m : Mod) : (setMod s m).invals = s.invals := rfl
@[simp] theorem setMod_rings (m : Mod) : (setMod s m).rings = s.rings := rfl
@[simp] theorem setMod_cmds (m : Mod) : (setMod s m).cmds = s.cmds := rfl
@[simp] theorem setMod_intake (m : Mod) : (setMod s m).intake = s.intake := rfl
@[simp] theorem setMod_turn (m : Mod) : (setMod s m).turn = s.turn := rfl
@[simp] theorem setMod_ctxs (m : Mod) : (setMod s m).ctxs = s.ctxs := rfl
@[simp] theorem setMod_objs (m : Mod) : (setMod s m).objs = s.objs := rfl
@[simp] theorem setMod_fences (m : Mod) : (setMod s m).fences = s.fences := rfl
@[simp] theorem setMod_faults (m : Mod) : (setMod s m).faults = s.faults := rfl
@[simp] theorem setMod_hints (m : Mod) : (setMod s m).hints = s.hints := rfl
@[simp] theorem setMod_reqs (m : Mod) : (setMod s m).reqs = s.reqs := rfl
@[simp] theorem setMod_services (m : Mod) : (setMod s m).services = s.services := rfl
@[simp] theorem setMod_lentExt (m : Mod) : (setMod s m).lentExt = s.lentExt := rfl
@[simp] theorem setMod_chans (m : Mod) : (setMod s m).chans = s.chans := rfl
@[simp] theorem setMod_comp (m : Mod) : (setMod s m).comp = s.comp := rfl
@[simp] theorem setMod_notices (m : Mod) : (setMod s m).notices = s.notices := rfl
@[simp] theorem setMod_compOut (m : Mod) : (setMod s m).compOut = s.compOut := rfl
@[simp] theorem setMod_reads (m : Mod) : (setMod s m).reads = s.reads := rfl
@[simp] theorem setMod_measures (m : Mod) : (setMod s m).measures = s.measures := rfl
@[simp] theorem setMod_harts (m : Mod) : (setMod s m).harts = s.harts := rfl
@[simp] theorem setMod_sorts (m : Mod) : (setMod s m).sorts = s.sorts := rfl
@[simp] theorem setMod_dirPtr (m : Mod) : (setMod s m).dirPtr = s.dirPtr := rfl
@[simp] theorem setMod_dirPlru (m : Mod) : (setMod s m).dirPlru = s.dirPlru := rfl
@[simp] theorem setMod_dirHeld (m : Mod) : (setMod s m).dirHeld = s.dirHeld := rfl
@[simp] theorem setMod_power (m : Mod) : (setMod s m).power = s.power := rfl
@[simp] theorem setMod_rst (m : Mod) : (setMod s m).rst = s.rst := rfl
@[simp] theorem setMod_shuts (m : Mod) : (setMod s m).shuts = s.shuts := rfl
@[simp] theorem fget_setMod (m : Mod) (ff : F) (j : Nat) : fget (setMod s m) ff j = fget s ff j := rfl
@[simp] theorem fbit_setMod (m : Mod) (ff : F) (j : Nat) : fbit (setMod s m) ff j = fbit s ff j := rfl

@[simp] theorem setPower_pending (x : Power) : (setPower s x).pending = s.pending := rfl
@[simp] theorem setPower_freeCtr (x : Power) : (setPower s x).freeCtr = s.freeCtr := rfl
@[simp] theorem setPower_stalled (x : Power) : (setPower s x).stalled = s.stalled := rfl
@[simp] theorem setPower_now (x : Power) : (setPower s x).now = s.now := rfl
@[simp] theorem setPower_regs (x : Power) : (setPower s x).regs = s.regs := rfl
@[simp] theorem setPower_mem (x : Power) : (setPower s x).mem = s.mem := rfl
@[simp] theorem setPower_ueLines (x : Power) : (setPower s x).ueLines = s.ueLines := rfl
@[simp] theorem setPower_cores (x : Power) : (setPower s x).cores = s.cores := rfl
@[simp] theorem setPower_launches (x : Power) : (setPower s x).launches = s.launches := rfl
@[simp] theorem setPower_heldAcc (x : Power) : (setPower s x).heldAcc = s.heldAcc := rfl
@[simp] theorem setPower_answers (x : Power) : (setPower s x).answers = s.answers := rfl
@[simp] theorem setPower_scache (x : Power) : (setPower s x).scache = s.scache := rfl
@[simp] theorem setPower_scPlru (x : Power) : (setPower s x).scPlru = s.scPlru := rfl
@[simp] theorem setPower_depot (x : Power) : (setPower s x).depot = s.depot := rfl
@[simp] theorem setPower_depotPlru (x : Power) : (setPower s x).depotPlru = s.depotPlru := rfl
@[simp] theorem setPower_mesh (x : Power) : (setPower s x).mesh = s.mesh := rfl
@[simp] theorem setPower_watch (x : Power) : (setPower s x).watch = s.watch := rfl
@[simp] theorem setPower_meshArb (x : Power) : (setPower s x).meshArb = s.meshArb := rfl
@[simp] theorem setPower_ejected (x : Power) : (setPower s x).ejected = s.ejected := rfl
@[simp] theorem setPower_sigs (x : Power) : (setPower s x).sigs = s.sigs := rfl
@[simp] theorem setPower_mdSigs (x : Power) : (setPower s x).mdSigs = s.mdSigs := rfl
@[simp] theorem setPower_stopSigs (x : Power) : (setPower s x).stopSigs = s.stopSigs := rfl
@[simp] theorem setPower_rxq (x : Power) : (setPower s x).rxq = s.rxq := rfl
@[simp] theorem setPower_kvgLanes (x : Power) : (setPower s x).kvgLanes = s.kvgLanes := rfl
@[simp] theorem setPower_kvg (x : Power) : (setPower s x).kvg = s.kvg := rfl
@[simp] theorem setPower_points (x : Power) : (setPower s x).points = s.points := rfl
@[simp] theorem setPower_bls (x : Power) : (setPower s x).bls = s.bls := rfl
@[simp] theorem setPower_routes (x : Power) : (setPower s x).routes = s.routes := rfl
@[simp] theorem setPower_oldMaps (x : Power) : (setPower s x).oldMaps = s.oldMaps := rfl
@[simp] theorem setPower_dill (x : Power) : (setPower s x).dill = s.dill := rfl
@[simp] theorem setPower_declares (x : Power) : (setPower s x).declares = s.declares := rfl
@[simp] theorem setPower_prefetches (x : Power) : (setPower s x).prefetches = s.prefetches := rfl
@[simp] theorem setPower_scrubOf (x : Power) : (setPower s x).scrubOf = s.scrubOf := rfl
@[simp] theorem setPower_missHist (x : Power) : (setPower s x).missHist = s.missHist := rfl
@[simp] theorem setPower_regionClk (x : Power) : (setPower s x).regionClk = s.regionClk := rfl
@[simp] theorem setPower_wins (x : Power) : (setPower s x).wins = s.wins := rfl
@[simp] theorem setPower_winsNew (x : Power) : (setPower s x).winsNew = s.winsNew := rfl
@[simp] theorem setPower_meters (x : Power) : (setPower s x).meters = s.meters := rfl
@[simp] theorem setPower_troubles (x : Power) : (setPower s x).troubles = s.troubles := rfl
@[simp] theorem setPower_portQ (x : Power) : (setPower s x).portQ = s.portQ := rfl
@[simp] theorem setPower_portArb (x : Power) : (setPower s x).portArb = s.portArb := rfl
@[simp] theorem setPower_unacked (x : Power) : (setPower s x).unacked = s.unacked := rfl
@[simp] theorem setPower_remotes (x : Power) : (setPower s x).remotes = s.remotes := rfl
@[simp] theorem setPower_links (x : Power) : (setPower s x).links = s.links := rfl
@[simp] theorem setPower_flitOut (x : Power) : (setPower s x).flitOut = s.flitOut := rfl
@[simp] theorem setPower_breaks (x : Power) : (setPower s x).breaks = s.breaks := rfl
@[simp] theorem setPower_dirs (x : Power) : (setPower s x).dirs = s.dirs := rfl
@[simp] theorem setPower_holders (x : Power) : (setPower s x).holders = s.holders := rfl
@[simp] theorem setPower_nextId (x : Power) : (setPower s x).nextId = s.nextId := rfl
@[simp] theorem setPower_funcs (x : Power) : (setPower s x).funcs = s.funcs := rfl
@[simp] theorem setPower_msix (x : Power) : (setPower s x).msix = s.msix := rfl
@[simp] theorem setPower_tlps (x : Power) : (setPower s x).tlps = s.tlps := rfl
@[simp] theorem setPower_posted (x : Power) : (setPower s x).posted = s.posted := rfl
@[simp] theorem setPower_atc (x : Power) : (setPower s x).atc = s.atc := rfl
@[simp] theorem setPower_atsOut (x : Power) : (setPower s x).atsOut = s.atsOut := rfl
@[simp] theorem setPower_hreads (x : Power) : (setPower s x).hreads = s.hreads := rfl
@[simp] theorem setPower_invals (x : Power) : (setPower s x).invals = s.invals := rfl
@[simp] theorem setPower_rings (x : Power) : (setPower s x).rings = s.rings := rfl
@[simp] theorem setPower_cmds (x : Power) : (setPower s x).cmds = s.cmds := rfl
@[simp] theorem setPower_intake (x : Power) : (setPower s x).intake = s.intake := rfl
@[simp] theorem setPower_turn (x : Power) : (setPower s x).turn = s.turn := rfl
@[simp] theorem setPower_ctxs (x : Power) : (setPower s x).ctxs = s.ctxs := rfl
@[simp] theorem setPower_objs (x : Power) : (setPower s x).objs = s.objs := rfl
@[simp] theorem setPower_fences (x : Power) : (setPower s x).fences = s.fences := rfl
@[simp] theorem setPower_faults (x : Power) : (setPower s x).faults = s.faults := rfl
@[simp] theorem setPower_hints (x : Power) : (setPower s x).hints = s.hints := rfl
@[simp] theorem setPower_reqs (x : Power) : (setPower s x).reqs = s.reqs := rfl
@[simp] theorem setPower_services (x : Power) : (setPower s x).services = s.services := rfl
@[simp] theorem setPower_lentExt (x : Power) : (setPower s x).lentExt = s.lentExt := rfl
@[simp] theorem setPower_chans (x : Power) : (setPower s x).chans = s.chans := rfl
@[simp] theorem setPower_comp (x : Power) : (setPower s x).comp = s.comp := rfl
@[simp] theorem setPower_notices (x : Power) : (setPower s x).notices = s.notices := rfl
@[simp] theorem setPower_compOut (x : Power) : (setPower s x).compOut = s.compOut := rfl
@[simp] theorem setPower_reads (x : Power) : (setPower s x).reads = s.reads := rfl
@[simp] theorem setPower_measures (x : Power) : (setPower s x).measures = s.measures := rfl
@[simp] theorem setPower_harts (x : Power) : (setPower s x).harts = s.harts := rfl
@[simp] theorem setPower_sorts (x : Power) : (setPower s x).sorts = s.sorts := rfl
@[simp] theorem setPower_dirPtr (x : Power) : (setPower s x).dirPtr = s.dirPtr := rfl
@[simp] theorem setPower_dirPlru (x : Power) : (setPower s x).dirPlru = s.dirPlru := rfl
@[simp] theorem setPower_dirHeld (x : Power) : (setPower s x).dirHeld = s.dirHeld := rfl
@[simp] theorem setPower_rst (x : Power) : (setPower s x).rst = s.rst := rfl
@[simp] theorem setPower_shuts (x : Power) : (setPower s x).shuts = s.shuts := rfl
@[simp] theorem setPower_mod (x : Power) : (setPower s x).mod = s.mod := rfl
@[simp] theorem fget_setPower (x : Power) (ff : F) (j : Nat) : fget (setPower s x) ff j = fget s ff j := rfl
@[simp] theorem fbit_setPower (x : Power) (ff : F) (j : Nat) : fbit (setPower s x) ff j = fbit s ff j := rfl

@[simp] theorem setRst_pending (r : Rst) : (setRst s r).pending = s.pending := rfl
@[simp] theorem setRst_freeCtr (r : Rst) : (setRst s r).freeCtr = s.freeCtr := rfl
@[simp] theorem setRst_stalled (r : Rst) : (setRst s r).stalled = s.stalled := rfl
@[simp] theorem setRst_now (r : Rst) : (setRst s r).now = s.now := rfl
@[simp] theorem setRst_regs (r : Rst) : (setRst s r).regs = s.regs := rfl
@[simp] theorem setRst_mem (r : Rst) : (setRst s r).mem = s.mem := rfl
@[simp] theorem setRst_ueLines (r : Rst) : (setRst s r).ueLines = s.ueLines := rfl
@[simp] theorem setRst_cores (r : Rst) : (setRst s r).cores = s.cores := rfl
@[simp] theorem setRst_launches (r : Rst) : (setRst s r).launches = s.launches := rfl
@[simp] theorem setRst_heldAcc (r : Rst) : (setRst s r).heldAcc = s.heldAcc := rfl
@[simp] theorem setRst_answers (r : Rst) : (setRst s r).answers = s.answers := rfl
@[simp] theorem setRst_scache (r : Rst) : (setRst s r).scache = s.scache := rfl
@[simp] theorem setRst_scPlru (r : Rst) : (setRst s r).scPlru = s.scPlru := rfl
@[simp] theorem setRst_depot (r : Rst) : (setRst s r).depot = s.depot := rfl
@[simp] theorem setRst_depotPlru (r : Rst) : (setRst s r).depotPlru = s.depotPlru := rfl
@[simp] theorem setRst_mesh (r : Rst) : (setRst s r).mesh = s.mesh := rfl
@[simp] theorem setRst_watch (r : Rst) : (setRst s r).watch = s.watch := rfl
@[simp] theorem setRst_meshArb (r : Rst) : (setRst s r).meshArb = s.meshArb := rfl
@[simp] theorem setRst_ejected (r : Rst) : (setRst s r).ejected = s.ejected := rfl
@[simp] theorem setRst_sigs (r : Rst) : (setRst s r).sigs = s.sigs := rfl
@[simp] theorem setRst_mdSigs (r : Rst) : (setRst s r).mdSigs = s.mdSigs := rfl
@[simp] theorem setRst_stopSigs (r : Rst) : (setRst s r).stopSigs = s.stopSigs := rfl
@[simp] theorem setRst_rxq (r : Rst) : (setRst s r).rxq = s.rxq := rfl
@[simp] theorem setRst_kvgLanes (r : Rst) : (setRst s r).kvgLanes = s.kvgLanes := rfl
@[simp] theorem setRst_kvg (r : Rst) : (setRst s r).kvg = s.kvg := rfl
@[simp] theorem setRst_points (r : Rst) : (setRst s r).points = s.points := rfl
@[simp] theorem setRst_bls (r : Rst) : (setRst s r).bls = s.bls := rfl
@[simp] theorem setRst_routes (r : Rst) : (setRst s r).routes = s.routes := rfl
@[simp] theorem setRst_oldMaps (r : Rst) : (setRst s r).oldMaps = s.oldMaps := rfl
@[simp] theorem setRst_dill (r : Rst) : (setRst s r).dill = s.dill := rfl
@[simp] theorem setRst_declares (r : Rst) : (setRst s r).declares = s.declares := rfl
@[simp] theorem setRst_prefetches (r : Rst) : (setRst s r).prefetches = s.prefetches := rfl
@[simp] theorem setRst_scrubOf (r : Rst) : (setRst s r).scrubOf = s.scrubOf := rfl
@[simp] theorem setRst_missHist (r : Rst) : (setRst s r).missHist = s.missHist := rfl
@[simp] theorem setRst_regionClk (r : Rst) : (setRst s r).regionClk = s.regionClk := rfl
@[simp] theorem setRst_wins (r : Rst) : (setRst s r).wins = s.wins := rfl
@[simp] theorem setRst_winsNew (r : Rst) : (setRst s r).winsNew = s.winsNew := rfl
@[simp] theorem setRst_meters (r : Rst) : (setRst s r).meters = s.meters := rfl
@[simp] theorem setRst_troubles (r : Rst) : (setRst s r).troubles = s.troubles := rfl
@[simp] theorem setRst_portQ (r : Rst) : (setRst s r).portQ = s.portQ := rfl
@[simp] theorem setRst_portArb (r : Rst) : (setRst s r).portArb = s.portArb := rfl
@[simp] theorem setRst_unacked (r : Rst) : (setRst s r).unacked = s.unacked := rfl
@[simp] theorem setRst_remotes (r : Rst) : (setRst s r).remotes = s.remotes := rfl
@[simp] theorem setRst_links (r : Rst) : (setRst s r).links = s.links := rfl
@[simp] theorem setRst_flitOut (r : Rst) : (setRst s r).flitOut = s.flitOut := rfl
@[simp] theorem setRst_breaks (r : Rst) : (setRst s r).breaks = s.breaks := rfl
@[simp] theorem setRst_dirs (r : Rst) : (setRst s r).dirs = s.dirs := rfl
@[simp] theorem setRst_holders (r : Rst) : (setRst s r).holders = s.holders := rfl
@[simp] theorem setRst_nextId (r : Rst) : (setRst s r).nextId = s.nextId := rfl
@[simp] theorem setRst_funcs (r : Rst) : (setRst s r).funcs = s.funcs := rfl
@[simp] theorem setRst_msix (r : Rst) : (setRst s r).msix = s.msix := rfl
@[simp] theorem setRst_tlps (r : Rst) : (setRst s r).tlps = s.tlps := rfl
@[simp] theorem setRst_posted (r : Rst) : (setRst s r).posted = s.posted := rfl
@[simp] theorem setRst_atc (r : Rst) : (setRst s r).atc = s.atc := rfl
@[simp] theorem setRst_atsOut (r : Rst) : (setRst s r).atsOut = s.atsOut := rfl
@[simp] theorem setRst_hreads (r : Rst) : (setRst s r).hreads = s.hreads := rfl
@[simp] theorem setRst_invals (r : Rst) : (setRst s r).invals = s.invals := rfl
@[simp] theorem setRst_rings (r : Rst) : (setRst s r).rings = s.rings := rfl
@[simp] theorem setRst_cmds (r : Rst) : (setRst s r).cmds = s.cmds := rfl
@[simp] theorem setRst_intake (r : Rst) : (setRst s r).intake = s.intake := rfl
@[simp] theorem setRst_turn (r : Rst) : (setRst s r).turn = s.turn := rfl
@[simp] theorem setRst_ctxs (r : Rst) : (setRst s r).ctxs = s.ctxs := rfl
@[simp] theorem setRst_objs (r : Rst) : (setRst s r).objs = s.objs := rfl
@[simp] theorem setRst_fences (r : Rst) : (setRst s r).fences = s.fences := rfl
@[simp] theorem setRst_faults (r : Rst) : (setRst s r).faults = s.faults := rfl
@[simp] theorem setRst_hints (r : Rst) : (setRst s r).hints = s.hints := rfl
@[simp] theorem setRst_reqs (r : Rst) : (setRst s r).reqs = s.reqs := rfl
@[simp] theorem setRst_services (r : Rst) : (setRst s r).services = s.services := rfl
@[simp] theorem setRst_lentExt (r : Rst) : (setRst s r).lentExt = s.lentExt := rfl
@[simp] theorem setRst_chans (r : Rst) : (setRst s r).chans = s.chans := rfl
@[simp] theorem setRst_comp (r : Rst) : (setRst s r).comp = s.comp := rfl
@[simp] theorem setRst_notices (r : Rst) : (setRst s r).notices = s.notices := rfl
@[simp] theorem setRst_compOut (r : Rst) : (setRst s r).compOut = s.compOut := rfl
@[simp] theorem setRst_reads (r : Rst) : (setRst s r).reads = s.reads := rfl
@[simp] theorem setRst_measures (r : Rst) : (setRst s r).measures = s.measures := rfl
@[simp] theorem setRst_harts (r : Rst) : (setRst s r).harts = s.harts := rfl
@[simp] theorem setRst_sorts (r : Rst) : (setRst s r).sorts = s.sorts := rfl
@[simp] theorem setRst_dirPtr (r : Rst) : (setRst s r).dirPtr = s.dirPtr := rfl
@[simp] theorem setRst_dirPlru (r : Rst) : (setRst s r).dirPlru = s.dirPlru := rfl
@[simp] theorem setRst_dirHeld (r : Rst) : (setRst s r).dirHeld = s.dirHeld := rfl
@[simp] theorem setRst_power (r : Rst) : (setRst s r).power = s.power := rfl
@[simp] theorem setRst_shuts (r : Rst) : (setRst s r).shuts = s.shuts := rfl
@[simp] theorem setRst_mod (r : Rst) : (setRst s r).mod = s.mod := rfl
@[simp] theorem fget_setRst (r : Rst) (ff : F) (j : Nat) : fget (setRst s r) ff j = fget s ff j := rfl
@[simp] theorem fbit_setRst (r : Rst) (ff : F) (j : Nat) : fbit (setRst s r) ff j = fbit s ff j := rfl

@[simp] theorem setKvgLanes_pending (k : Nat) (l : List W64) : (setKvgLanes s k l).pending = s.pending := rfl
@[simp] theorem setKvgLanes_freeCtr (k : Nat) (l : List W64) : (setKvgLanes s k l).freeCtr = s.freeCtr := rfl
@[simp] theorem setKvgLanes_stalled (k : Nat) (l : List W64) : (setKvgLanes s k l).stalled = s.stalled := rfl
@[simp] theorem setKvgLanes_now (k : Nat) (l : List W64) : (setKvgLanes s k l).now = s.now := rfl
@[simp] theorem setKvgLanes_regs (k : Nat) (l : List W64) : (setKvgLanes s k l).regs = s.regs := rfl
@[simp] theorem setKvgLanes_mem (k : Nat) (l : List W64) : (setKvgLanes s k l).mem = s.mem := rfl
@[simp] theorem setKvgLanes_ueLines (k : Nat) (l : List W64) : (setKvgLanes s k l).ueLines = s.ueLines := rfl
@[simp] theorem setKvgLanes_cores (k : Nat) (l : List W64) : (setKvgLanes s k l).cores = s.cores := rfl
@[simp] theorem setKvgLanes_launches (k : Nat) (l : List W64) : (setKvgLanes s k l).launches = s.launches := rfl
@[simp] theorem setKvgLanes_heldAcc (k : Nat) (l : List W64) : (setKvgLanes s k l).heldAcc = s.heldAcc := rfl
@[simp] theorem setKvgLanes_answers (k : Nat) (l : List W64) : (setKvgLanes s k l).answers = s.answers := rfl
@[simp] theorem setKvgLanes_scache (k : Nat) (l : List W64) : (setKvgLanes s k l).scache = s.scache := rfl
@[simp] theorem setKvgLanes_scPlru (k : Nat) (l : List W64) : (setKvgLanes s k l).scPlru = s.scPlru := rfl
@[simp] theorem setKvgLanes_depot (k : Nat) (l : List W64) : (setKvgLanes s k l).depot = s.depot := rfl
@[simp] theorem setKvgLanes_depotPlru (k : Nat) (l : List W64) : (setKvgLanes s k l).depotPlru = s.depotPlru := rfl
@[simp] theorem setKvgLanes_mesh (k : Nat) (l : List W64) : (setKvgLanes s k l).mesh = s.mesh := rfl
@[simp] theorem setKvgLanes_watch (k : Nat) (l : List W64) : (setKvgLanes s k l).watch = s.watch := rfl
@[simp] theorem setKvgLanes_meshArb (k : Nat) (l : List W64) : (setKvgLanes s k l).meshArb = s.meshArb := rfl
@[simp] theorem setKvgLanes_ejected (k : Nat) (l : List W64) : (setKvgLanes s k l).ejected = s.ejected := rfl
@[simp] theorem setKvgLanes_sigs (k : Nat) (l : List W64) : (setKvgLanes s k l).sigs = s.sigs := rfl
@[simp] theorem setKvgLanes_mdSigs (k : Nat) (l : List W64) : (setKvgLanes s k l).mdSigs = s.mdSigs := rfl
@[simp] theorem setKvgLanes_stopSigs (k : Nat) (l : List W64) : (setKvgLanes s k l).stopSigs = s.stopSigs := rfl
@[simp] theorem setKvgLanes_rxq (k : Nat) (l : List W64) : (setKvgLanes s k l).rxq = s.rxq := rfl
@[simp] theorem setKvgLanes_kvg (k : Nat) (l : List W64) : (setKvgLanes s k l).kvg = s.kvg := rfl
@[simp] theorem setKvgLanes_points (k : Nat) (l : List W64) : (setKvgLanes s k l).points = s.points := rfl
@[simp] theorem setKvgLanes_bls (k : Nat) (l : List W64) : (setKvgLanes s k l).bls = s.bls := rfl
@[simp] theorem setKvgLanes_routes (k : Nat) (l : List W64) : (setKvgLanes s k l).routes = s.routes := rfl
@[simp] theorem setKvgLanes_oldMaps (k : Nat) (l : List W64) : (setKvgLanes s k l).oldMaps = s.oldMaps := rfl
@[simp] theorem setKvgLanes_dill (k : Nat) (l : List W64) : (setKvgLanes s k l).dill = s.dill := rfl
@[simp] theorem setKvgLanes_declares (k : Nat) (l : List W64) : (setKvgLanes s k l).declares = s.declares := rfl
@[simp] theorem setKvgLanes_prefetches (k : Nat) (l : List W64) : (setKvgLanes s k l).prefetches = s.prefetches := rfl
@[simp] theorem setKvgLanes_scrubOf (k : Nat) (l : List W64) : (setKvgLanes s k l).scrubOf = s.scrubOf := rfl
@[simp] theorem setKvgLanes_missHist (k : Nat) (l : List W64) : (setKvgLanes s k l).missHist = s.missHist := rfl
@[simp] theorem setKvgLanes_regionClk (k : Nat) (l : List W64) : (setKvgLanes s k l).regionClk = s.regionClk := rfl
@[simp] theorem setKvgLanes_wins (k : Nat) (l : List W64) : (setKvgLanes s k l).wins = s.wins := rfl
@[simp] theorem setKvgLanes_winsNew (k : Nat) (l : List W64) : (setKvgLanes s k l).winsNew = s.winsNew := rfl
@[simp] theorem setKvgLanes_meters (k : Nat) (l : List W64) : (setKvgLanes s k l).meters = s.meters := rfl
@[simp] theorem setKvgLanes_troubles (k : Nat) (l : List W64) : (setKvgLanes s k l).troubles = s.troubles := rfl
@[simp] theorem setKvgLanes_portQ (k : Nat) (l : List W64) : (setKvgLanes s k l).portQ = s.portQ := rfl
@[simp] theorem setKvgLanes_portArb (k : Nat) (l : List W64) : (setKvgLanes s k l).portArb = s.portArb := rfl
@[simp] theorem setKvgLanes_unacked (k : Nat) (l : List W64) : (setKvgLanes s k l).unacked = s.unacked := rfl
@[simp] theorem setKvgLanes_remotes (k : Nat) (l : List W64) : (setKvgLanes s k l).remotes = s.remotes := rfl
@[simp] theorem setKvgLanes_links (k : Nat) (l : List W64) : (setKvgLanes s k l).links = s.links := rfl
@[simp] theorem setKvgLanes_flitOut (k : Nat) (l : List W64) : (setKvgLanes s k l).flitOut = s.flitOut := rfl
@[simp] theorem setKvgLanes_breaks (k : Nat) (l : List W64) : (setKvgLanes s k l).breaks = s.breaks := rfl
@[simp] theorem setKvgLanes_dirs (k : Nat) (l : List W64) : (setKvgLanes s k l).dirs = s.dirs := rfl
@[simp] theorem setKvgLanes_holders (k : Nat) (l : List W64) : (setKvgLanes s k l).holders = s.holders := rfl
@[simp] theorem setKvgLanes_nextId (k : Nat) (l : List W64) : (setKvgLanes s k l).nextId = s.nextId := rfl
@[simp] theorem setKvgLanes_funcs (k : Nat) (l : List W64) : (setKvgLanes s k l).funcs = s.funcs := rfl
@[simp] theorem setKvgLanes_msix (k : Nat) (l : List W64) : (setKvgLanes s k l).msix = s.msix := rfl
@[simp] theorem setKvgLanes_tlps (k : Nat) (l : List W64) : (setKvgLanes s k l).tlps = s.tlps := rfl
@[simp] theorem setKvgLanes_posted (k : Nat) (l : List W64) : (setKvgLanes s k l).posted = s.posted := rfl
@[simp] theorem setKvgLanes_atc (k : Nat) (l : List W64) : (setKvgLanes s k l).atc = s.atc := rfl
@[simp] theorem setKvgLanes_atsOut (k : Nat) (l : List W64) : (setKvgLanes s k l).atsOut = s.atsOut := rfl
@[simp] theorem setKvgLanes_hreads (k : Nat) (l : List W64) : (setKvgLanes s k l).hreads = s.hreads := rfl
@[simp] theorem setKvgLanes_invals (k : Nat) (l : List W64) : (setKvgLanes s k l).invals = s.invals := rfl
@[simp] theorem setKvgLanes_rings (k : Nat) (l : List W64) : (setKvgLanes s k l).rings = s.rings := rfl
@[simp] theorem setKvgLanes_cmds (k : Nat) (l : List W64) : (setKvgLanes s k l).cmds = s.cmds := rfl
@[simp] theorem setKvgLanes_intake (k : Nat) (l : List W64) : (setKvgLanes s k l).intake = s.intake := rfl
@[simp] theorem setKvgLanes_turn (k : Nat) (l : List W64) : (setKvgLanes s k l).turn = s.turn := rfl
@[simp] theorem setKvgLanes_ctxs (k : Nat) (l : List W64) : (setKvgLanes s k l).ctxs = s.ctxs := rfl
@[simp] theorem setKvgLanes_objs (k : Nat) (l : List W64) : (setKvgLanes s k l).objs = s.objs := rfl
@[simp] theorem setKvgLanes_fences (k : Nat) (l : List W64) : (setKvgLanes s k l).fences = s.fences := rfl
@[simp] theorem setKvgLanes_faults (k : Nat) (l : List W64) : (setKvgLanes s k l).faults = s.faults := rfl
@[simp] theorem setKvgLanes_hints (k : Nat) (l : List W64) : (setKvgLanes s k l).hints = s.hints := rfl
@[simp] theorem setKvgLanes_reqs (k : Nat) (l : List W64) : (setKvgLanes s k l).reqs = s.reqs := rfl
@[simp] theorem setKvgLanes_services (k : Nat) (l : List W64) : (setKvgLanes s k l).services = s.services := rfl
@[simp] theorem setKvgLanes_lentExt (k : Nat) (l : List W64) : (setKvgLanes s k l).lentExt = s.lentExt := rfl
@[simp] theorem setKvgLanes_chans (k : Nat) (l : List W64) : (setKvgLanes s k l).chans = s.chans := rfl
@[simp] theorem setKvgLanes_comp (k : Nat) (l : List W64) : (setKvgLanes s k l).comp = s.comp := rfl
@[simp] theorem setKvgLanes_notices (k : Nat) (l : List W64) : (setKvgLanes s k l).notices = s.notices := rfl
@[simp] theorem setKvgLanes_compOut (k : Nat) (l : List W64) : (setKvgLanes s k l).compOut = s.compOut := rfl
@[simp] theorem setKvgLanes_reads (k : Nat) (l : List W64) : (setKvgLanes s k l).reads = s.reads := rfl
@[simp] theorem setKvgLanes_measures (k : Nat) (l : List W64) : (setKvgLanes s k l).measures = s.measures := rfl
@[simp] theorem setKvgLanes_harts (k : Nat) (l : List W64) : (setKvgLanes s k l).harts = s.harts := rfl
@[simp] theorem setKvgLanes_sorts (k : Nat) (l : List W64) : (setKvgLanes s k l).sorts = s.sorts := rfl
@[simp] theorem setKvgLanes_dirPtr (k : Nat) (l : List W64) : (setKvgLanes s k l).dirPtr = s.dirPtr := rfl
@[simp] theorem setKvgLanes_dirPlru (k : Nat) (l : List W64) : (setKvgLanes s k l).dirPlru = s.dirPlru := rfl
@[simp] theorem setKvgLanes_dirHeld (k : Nat) (l : List W64) : (setKvgLanes s k l).dirHeld = s.dirHeld := rfl
@[simp] theorem setKvgLanes_power (k : Nat) (l : List W64) : (setKvgLanes s k l).power = s.power := rfl
@[simp] theorem setKvgLanes_rst (k : Nat) (l : List W64) : (setKvgLanes s k l).rst = s.rst := rfl
@[simp] theorem setKvgLanes_shuts (k : Nat) (l : List W64) : (setKvgLanes s k l).shuts = s.shuts := rfl
@[simp] theorem setKvgLanes_mod (k : Nat) (l : List W64) : (setKvgLanes s k l).mod = s.mod := rfl
@[simp] theorem fget_setKvgLanes (k : Nat) (l : List W64) (ff : F) (j : Nat) : fget (setKvgLanes s k l) ff j = fget s ff j := rfl
@[simp] theorem fbit_setKvgLanes (k : Nat) (l : List W64) (ff : F) (j : Nat) : fbit (setKvgLanes s k l) ff j = fbit s ff j := rfl

@[simp] theorem setKvg_pending (k : Nat) (g : Kvg) : (setKvg s k g).pending = s.pending := rfl
@[simp] theorem setKvg_freeCtr (k : Nat) (g : Kvg) : (setKvg s k g).freeCtr = s.freeCtr := rfl
@[simp] theorem setKvg_stalled (k : Nat) (g : Kvg) : (setKvg s k g).stalled = s.stalled := rfl
@[simp] theorem setKvg_now (k : Nat) (g : Kvg) : (setKvg s k g).now = s.now := rfl
@[simp] theorem setKvg_regs (k : Nat) (g : Kvg) : (setKvg s k g).regs = s.regs := rfl
@[simp] theorem setKvg_mem (k : Nat) (g : Kvg) : (setKvg s k g).mem = s.mem := rfl
@[simp] theorem setKvg_ueLines (k : Nat) (g : Kvg) : (setKvg s k g).ueLines = s.ueLines := rfl
@[simp] theorem setKvg_cores (k : Nat) (g : Kvg) : (setKvg s k g).cores = s.cores := rfl
@[simp] theorem setKvg_launches (k : Nat) (g : Kvg) : (setKvg s k g).launches = s.launches := rfl
@[simp] theorem setKvg_heldAcc (k : Nat) (g : Kvg) : (setKvg s k g).heldAcc = s.heldAcc := rfl
@[simp] theorem setKvg_answers (k : Nat) (g : Kvg) : (setKvg s k g).answers = s.answers := rfl
@[simp] theorem setKvg_scache (k : Nat) (g : Kvg) : (setKvg s k g).scache = s.scache := rfl
@[simp] theorem setKvg_scPlru (k : Nat) (g : Kvg) : (setKvg s k g).scPlru = s.scPlru := rfl
@[simp] theorem setKvg_depot (k : Nat) (g : Kvg) : (setKvg s k g).depot = s.depot := rfl
@[simp] theorem setKvg_depotPlru (k : Nat) (g : Kvg) : (setKvg s k g).depotPlru = s.depotPlru := rfl
@[simp] theorem setKvg_mesh (k : Nat) (g : Kvg) : (setKvg s k g).mesh = s.mesh := rfl
@[simp] theorem setKvg_watch (k : Nat) (g : Kvg) : (setKvg s k g).watch = s.watch := rfl
@[simp] theorem setKvg_meshArb (k : Nat) (g : Kvg) : (setKvg s k g).meshArb = s.meshArb := rfl
@[simp] theorem setKvg_ejected (k : Nat) (g : Kvg) : (setKvg s k g).ejected = s.ejected := rfl
@[simp] theorem setKvg_sigs (k : Nat) (g : Kvg) : (setKvg s k g).sigs = s.sigs := rfl
@[simp] theorem setKvg_mdSigs (k : Nat) (g : Kvg) : (setKvg s k g).mdSigs = s.mdSigs := rfl
@[simp] theorem setKvg_stopSigs (k : Nat) (g : Kvg) : (setKvg s k g).stopSigs = s.stopSigs := rfl
@[simp] theorem setKvg_rxq (k : Nat) (g : Kvg) : (setKvg s k g).rxq = s.rxq := rfl
@[simp] theorem setKvg_kvgLanes (k : Nat) (g : Kvg) : (setKvg s k g).kvgLanes = s.kvgLanes := rfl
@[simp] theorem setKvg_points (k : Nat) (g : Kvg) : (setKvg s k g).points = s.points := rfl
@[simp] theorem setKvg_bls (k : Nat) (g : Kvg) : (setKvg s k g).bls = s.bls := rfl
@[simp] theorem setKvg_routes (k : Nat) (g : Kvg) : (setKvg s k g).routes = s.routes := rfl
@[simp] theorem setKvg_oldMaps (k : Nat) (g : Kvg) : (setKvg s k g).oldMaps = s.oldMaps := rfl
@[simp] theorem setKvg_dill (k : Nat) (g : Kvg) : (setKvg s k g).dill = s.dill := rfl
@[simp] theorem setKvg_declares (k : Nat) (g : Kvg) : (setKvg s k g).declares = s.declares := rfl
@[simp] theorem setKvg_prefetches (k : Nat) (g : Kvg) : (setKvg s k g).prefetches = s.prefetches := rfl
@[simp] theorem setKvg_scrubOf (k : Nat) (g : Kvg) : (setKvg s k g).scrubOf = s.scrubOf := rfl
@[simp] theorem setKvg_missHist (k : Nat) (g : Kvg) : (setKvg s k g).missHist = s.missHist := rfl
@[simp] theorem setKvg_regionClk (k : Nat) (g : Kvg) : (setKvg s k g).regionClk = s.regionClk := rfl
@[simp] theorem setKvg_wins (k : Nat) (g : Kvg) : (setKvg s k g).wins = s.wins := rfl
@[simp] theorem setKvg_winsNew (k : Nat) (g : Kvg) : (setKvg s k g).winsNew = s.winsNew := rfl
@[simp] theorem setKvg_meters (k : Nat) (g : Kvg) : (setKvg s k g).meters = s.meters := rfl
@[simp] theorem setKvg_troubles (k : Nat) (g : Kvg) : (setKvg s k g).troubles = s.troubles := rfl
@[simp] theorem setKvg_portQ (k : Nat) (g : Kvg) : (setKvg s k g).portQ = s.portQ := rfl
@[simp] theorem setKvg_portArb (k : Nat) (g : Kvg) : (setKvg s k g).portArb = s.portArb := rfl
@[simp] theorem setKvg_unacked (k : Nat) (g : Kvg) : (setKvg s k g).unacked = s.unacked := rfl
@[simp] theorem setKvg_remotes (k : Nat) (g : Kvg) : (setKvg s k g).remotes = s.remotes := rfl
@[simp] theorem setKvg_links (k : Nat) (g : Kvg) : (setKvg s k g).links = s.links := rfl
@[simp] theorem setKvg_flitOut (k : Nat) (g : Kvg) : (setKvg s k g).flitOut = s.flitOut := rfl
@[simp] theorem setKvg_breaks (k : Nat) (g : Kvg) : (setKvg s k g).breaks = s.breaks := rfl
@[simp] theorem setKvg_dirs (k : Nat) (g : Kvg) : (setKvg s k g).dirs = s.dirs := rfl
@[simp] theorem setKvg_holders (k : Nat) (g : Kvg) : (setKvg s k g).holders = s.holders := rfl
@[simp] theorem setKvg_nextId (k : Nat) (g : Kvg) : (setKvg s k g).nextId = s.nextId := rfl
@[simp] theorem setKvg_funcs (k : Nat) (g : Kvg) : (setKvg s k g).funcs = s.funcs := rfl
@[simp] theorem setKvg_msix (k : Nat) (g : Kvg) : (setKvg s k g).msix = s.msix := rfl
@[simp] theorem setKvg_tlps (k : Nat) (g : Kvg) : (setKvg s k g).tlps = s.tlps := rfl
@[simp] theorem setKvg_posted (k : Nat) (g : Kvg) : (setKvg s k g).posted = s.posted := rfl
@[simp] theorem setKvg_atc (k : Nat) (g : Kvg) : (setKvg s k g).atc = s.atc := rfl
@[simp] theorem setKvg_atsOut (k : Nat) (g : Kvg) : (setKvg s k g).atsOut = s.atsOut := rfl
@[simp] theorem setKvg_hreads (k : Nat) (g : Kvg) : (setKvg s k g).hreads = s.hreads := rfl
@[simp] theorem setKvg_invals (k : Nat) (g : Kvg) : (setKvg s k g).invals = s.invals := rfl
@[simp] theorem setKvg_rings (k : Nat) (g : Kvg) : (setKvg s k g).rings = s.rings := rfl
@[simp] theorem setKvg_cmds (k : Nat) (g : Kvg) : (setKvg s k g).cmds = s.cmds := rfl
@[simp] theorem setKvg_intake (k : Nat) (g : Kvg) : (setKvg s k g).intake = s.intake := rfl
@[simp] theorem setKvg_turn (k : Nat) (g : Kvg) : (setKvg s k g).turn = s.turn := rfl
@[simp] theorem setKvg_ctxs (k : Nat) (g : Kvg) : (setKvg s k g).ctxs = s.ctxs := rfl
@[simp] theorem setKvg_objs (k : Nat) (g : Kvg) : (setKvg s k g).objs = s.objs := rfl
@[simp] theorem setKvg_fences (k : Nat) (g : Kvg) : (setKvg s k g).fences = s.fences := rfl
@[simp] theorem setKvg_faults (k : Nat) (g : Kvg) : (setKvg s k g).faults = s.faults := rfl
@[simp] theorem setKvg_hints (k : Nat) (g : Kvg) : (setKvg s k g).hints = s.hints := rfl
@[simp] theorem setKvg_reqs (k : Nat) (g : Kvg) : (setKvg s k g).reqs = s.reqs := rfl
@[simp] theorem setKvg_services (k : Nat) (g : Kvg) : (setKvg s k g).services = s.services := rfl
@[simp] theorem setKvg_lentExt (k : Nat) (g : Kvg) : (setKvg s k g).lentExt = s.lentExt := rfl
@[simp] theorem setKvg_chans (k : Nat) (g : Kvg) : (setKvg s k g).chans = s.chans := rfl
@[simp] theorem setKvg_comp (k : Nat) (g : Kvg) : (setKvg s k g).comp = s.comp := rfl
@[simp] theorem setKvg_notices (k : Nat) (g : Kvg) : (setKvg s k g).notices = s.notices := rfl
@[simp] theorem setKvg_compOut (k : Nat) (g : Kvg) : (setKvg s k g).compOut = s.compOut := rfl
@[simp] theorem setKvg_reads (k : Nat) (g : Kvg) : (setKvg s k g).reads = s.reads := rfl
@[simp] theorem setKvg_measures (k : Nat) (g : Kvg) : (setKvg s k g).measures = s.measures := rfl
@[simp] theorem setKvg_harts (k : Nat) (g : Kvg) : (setKvg s k g).harts = s.harts := rfl
@[simp] theorem setKvg_sorts (k : Nat) (g : Kvg) : (setKvg s k g).sorts = s.sorts := rfl
@[simp] theorem setKvg_dirPtr (k : Nat) (g : Kvg) : (setKvg s k g).dirPtr = s.dirPtr := rfl
@[simp] theorem setKvg_dirPlru (k : Nat) (g : Kvg) : (setKvg s k g).dirPlru = s.dirPlru := rfl
@[simp] theorem setKvg_dirHeld (k : Nat) (g : Kvg) : (setKvg s k g).dirHeld = s.dirHeld := rfl
@[simp] theorem setKvg_power (k : Nat) (g : Kvg) : (setKvg s k g).power = s.power := rfl
@[simp] theorem setKvg_rst (k : Nat) (g : Kvg) : (setKvg s k g).rst = s.rst := rfl
@[simp] theorem setKvg_shuts (k : Nat) (g : Kvg) : (setKvg s k g).shuts = s.shuts := rfl
@[simp] theorem setKvg_mod (k : Nat) (g : Kvg) : (setKvg s k g).mod = s.mod := rfl
@[simp] theorem fget_setKvg (k : Nat) (g : Kvg) (ff : F) (j : Nat) : fget (setKvg s k g) ff j = fget s ff j := rfl
@[simp] theorem fbit_setKvg (k : Nat) (g : Kvg) (ff : F) (j : Nat) : fbit (setKvg s k g) ff j = fbit s ff j := rfl

@[simp] theorem setLaunch_pending (l : Launch) : (setLaunch s l).pending = s.pending := rfl
@[simp] theorem setLaunch_freeCtr (l : Launch) : (setLaunch s l).freeCtr = s.freeCtr := rfl
@[simp] theorem setLaunch_stalled (l : Launch) : (setLaunch s l).stalled = s.stalled := rfl
@[simp] theorem setLaunch_now (l : Launch) : (setLaunch s l).now = s.now := rfl
@[simp] theorem setLaunch_regs (l : Launch) : (setLaunch s l).regs = s.regs := rfl
@[simp] theorem setLaunch_mem (l : Launch) : (setLaunch s l).mem = s.mem := rfl
@[simp] theorem setLaunch_ueLines (l : Launch) : (setLaunch s l).ueLines = s.ueLines := rfl
@[simp] theorem setLaunch_cores (l : Launch) : (setLaunch s l).cores = s.cores := rfl
@[simp] theorem setLaunch_heldAcc (l : Launch) : (setLaunch s l).heldAcc = s.heldAcc := rfl
@[simp] theorem setLaunch_answers (l : Launch) : (setLaunch s l).answers = s.answers := rfl
@[simp] theorem setLaunch_scache (l : Launch) : (setLaunch s l).scache = s.scache := rfl
@[simp] theorem setLaunch_scPlru (l : Launch) : (setLaunch s l).scPlru = s.scPlru := rfl
@[simp] theorem setLaunch_depot (l : Launch) : (setLaunch s l).depot = s.depot := rfl
@[simp] theorem setLaunch_depotPlru (l : Launch) : (setLaunch s l).depotPlru = s.depotPlru := rfl
@[simp] theorem setLaunch_mesh (l : Launch) : (setLaunch s l).mesh = s.mesh := rfl
@[simp] theorem setLaunch_watch (l : Launch) : (setLaunch s l).watch = s.watch := rfl
@[simp] theorem setLaunch_meshArb (l : Launch) : (setLaunch s l).meshArb = s.meshArb := rfl
@[simp] theorem setLaunch_ejected (l : Launch) : (setLaunch s l).ejected = s.ejected := rfl
@[simp] theorem setLaunch_sigs (l : Launch) : (setLaunch s l).sigs = s.sigs := rfl
@[simp] theorem setLaunch_mdSigs (l : Launch) : (setLaunch s l).mdSigs = s.mdSigs := rfl
@[simp] theorem setLaunch_stopSigs (l : Launch) : (setLaunch s l).stopSigs = s.stopSigs := rfl
@[simp] theorem setLaunch_rxq (l : Launch) : (setLaunch s l).rxq = s.rxq := rfl
@[simp] theorem setLaunch_kvgLanes (l : Launch) : (setLaunch s l).kvgLanes = s.kvgLanes := rfl
@[simp] theorem setLaunch_kvg (l : Launch) : (setLaunch s l).kvg = s.kvg := rfl
@[simp] theorem setLaunch_points (l : Launch) : (setLaunch s l).points = s.points := rfl
@[simp] theorem setLaunch_bls (l : Launch) : (setLaunch s l).bls = s.bls := rfl
@[simp] theorem setLaunch_routes (l : Launch) : (setLaunch s l).routes = s.routes := rfl
@[simp] theorem setLaunch_oldMaps (l : Launch) : (setLaunch s l).oldMaps = s.oldMaps := rfl
@[simp] theorem setLaunch_dill (l : Launch) : (setLaunch s l).dill = s.dill := rfl
@[simp] theorem setLaunch_declares (l : Launch) : (setLaunch s l).declares = s.declares := rfl
@[simp] theorem setLaunch_prefetches (l : Launch) : (setLaunch s l).prefetches = s.prefetches := rfl
@[simp] theorem setLaunch_scrubOf (l : Launch) : (setLaunch s l).scrubOf = s.scrubOf := rfl
@[simp] theorem setLaunch_missHist (l : Launch) : (setLaunch s l).missHist = s.missHist := rfl
@[simp] theorem setLaunch_regionClk (l : Launch) : (setLaunch s l).regionClk = s.regionClk := rfl
@[simp] theorem setLaunch_wins (l : Launch) : (setLaunch s l).wins = s.wins := rfl
@[simp] theorem setLaunch_winsNew (l : Launch) : (setLaunch s l).winsNew = s.winsNew := rfl
@[simp] theorem setLaunch_meters (l : Launch) : (setLaunch s l).meters = s.meters := rfl
@[simp] theorem setLaunch_troubles (l : Launch) : (setLaunch s l).troubles = s.troubles := rfl
@[simp] theorem setLaunch_portQ (l : Launch) : (setLaunch s l).portQ = s.portQ := rfl
@[simp] theorem setLaunch_portArb (l : Launch) : (setLaunch s l).portArb = s.portArb := rfl
@[simp] theorem setLaunch_unacked (l : Launch) : (setLaunch s l).unacked = s.unacked := rfl
@[simp] theorem setLaunch_remotes (l : Launch) : (setLaunch s l).remotes = s.remotes := rfl
@[simp] theorem setLaunch_links (l : Launch) : (setLaunch s l).links = s.links := rfl
@[simp] theorem setLaunch_flitOut (l : Launch) : (setLaunch s l).flitOut = s.flitOut := rfl
@[simp] theorem setLaunch_breaks (l : Launch) : (setLaunch s l).breaks = s.breaks := rfl
@[simp] theorem setLaunch_dirs (l : Launch) : (setLaunch s l).dirs = s.dirs := rfl
@[simp] theorem setLaunch_holders (l : Launch) : (setLaunch s l).holders = s.holders := rfl
@[simp] theorem setLaunch_nextId (l : Launch) : (setLaunch s l).nextId = s.nextId := rfl
@[simp] theorem setLaunch_funcs (l : Launch) : (setLaunch s l).funcs = s.funcs := rfl
@[simp] theorem setLaunch_msix (l : Launch) : (setLaunch s l).msix = s.msix := rfl
@[simp] theorem setLaunch_tlps (l : Launch) : (setLaunch s l).tlps = s.tlps := rfl
@[simp] theorem setLaunch_posted (l : Launch) : (setLaunch s l).posted = s.posted := rfl
@[simp] theorem setLaunch_atc (l : Launch) : (setLaunch s l).atc = s.atc := rfl
@[simp] theorem setLaunch_atsOut (l : Launch) : (setLaunch s l).atsOut = s.atsOut := rfl
@[simp] theorem setLaunch_hreads (l : Launch) : (setLaunch s l).hreads = s.hreads := rfl
@[simp] theorem setLaunch_invals (l : Launch) : (setLaunch s l).invals = s.invals := rfl
@[simp] theorem setLaunch_rings (l : Launch) : (setLaunch s l).rings = s.rings := rfl
@[simp] theorem setLaunch_cmds (l : Launch) : (setLaunch s l).cmds = s.cmds := rfl
@[simp] theorem setLaunch_intake (l : Launch) : (setLaunch s l).intake = s.intake := rfl
@[simp] theorem setLaunch_turn (l : Launch) : (setLaunch s l).turn = s.turn := rfl
@[simp] theorem setLaunch_ctxs (l : Launch) : (setLaunch s l).ctxs = s.ctxs := rfl
@[simp] theorem setLaunch_objs (l : Launch) : (setLaunch s l).objs = s.objs := rfl
@[simp] theorem setLaunch_fences (l : Launch) : (setLaunch s l).fences = s.fences := rfl
@[simp] theorem setLaunch_faults (l : Launch) : (setLaunch s l).faults = s.faults := rfl
@[simp] theorem setLaunch_hints (l : Launch) : (setLaunch s l).hints = s.hints := rfl
@[simp] theorem setLaunch_reqs (l : Launch) : (setLaunch s l).reqs = s.reqs := rfl
@[simp] theorem setLaunch_services (l : Launch) : (setLaunch s l).services = s.services := rfl
@[simp] theorem setLaunch_lentExt (l : Launch) : (setLaunch s l).lentExt = s.lentExt := rfl
@[simp] theorem setLaunch_chans (l : Launch) : (setLaunch s l).chans = s.chans := rfl
@[simp] theorem setLaunch_comp (l : Launch) : (setLaunch s l).comp = s.comp := rfl
@[simp] theorem setLaunch_notices (l : Launch) : (setLaunch s l).notices = s.notices := rfl
@[simp] theorem setLaunch_compOut (l : Launch) : (setLaunch s l).compOut = s.compOut := rfl
@[simp] theorem setLaunch_reads (l : Launch) : (setLaunch s l).reads = s.reads := rfl
@[simp] theorem setLaunch_measures (l : Launch) : (setLaunch s l).measures = s.measures := rfl
@[simp] theorem setLaunch_harts (l : Launch) : (setLaunch s l).harts = s.harts := rfl
@[simp] theorem setLaunch_sorts (l : Launch) : (setLaunch s l).sorts = s.sorts := rfl
@[simp] theorem setLaunch_dirPtr (l : Launch) : (setLaunch s l).dirPtr = s.dirPtr := rfl
@[simp] theorem setLaunch_dirPlru (l : Launch) : (setLaunch s l).dirPlru = s.dirPlru := rfl
@[simp] theorem setLaunch_dirHeld (l : Launch) : (setLaunch s l).dirHeld = s.dirHeld := rfl
@[simp] theorem setLaunch_power (l : Launch) : (setLaunch s l).power = s.power := rfl
@[simp] theorem setLaunch_rst (l : Launch) : (setLaunch s l).rst = s.rst := rfl
@[simp] theorem setLaunch_shuts (l : Launch) : (setLaunch s l).shuts = s.shuts := rfl
@[simp] theorem setLaunch_mod (l : Launch) : (setLaunch s l).mod = s.mod := rfl
@[simp] theorem fget_setLaunch (l : Launch) (ff : F) (j : Nat) : fget (setLaunch s l) ff j = fget s ff j := rfl
@[simp] theorem fbit_setLaunch (l : Launch) (ff : F) (j : Nat) : fbit (setLaunch s l) ff j = fbit s ff j := rfl

@[simp] theorem setRxq_pending (g : Nat) (q : List Signal) : (setRxq s g q).pending = s.pending := rfl
@[simp] theorem setRxq_freeCtr (g : Nat) (q : List Signal) : (setRxq s g q).freeCtr = s.freeCtr := rfl
@[simp] theorem setRxq_stalled (g : Nat) (q : List Signal) : (setRxq s g q).stalled = s.stalled := rfl
@[simp] theorem setRxq_now (g : Nat) (q : List Signal) : (setRxq s g q).now = s.now := rfl
@[simp] theorem setRxq_regs (g : Nat) (q : List Signal) : (setRxq s g q).regs = s.regs := rfl
@[simp] theorem setRxq_mem (g : Nat) (q : List Signal) : (setRxq s g q).mem = s.mem := rfl
@[simp] theorem setRxq_ueLines (g : Nat) (q : List Signal) : (setRxq s g q).ueLines = s.ueLines := rfl
@[simp] theorem setRxq_cores (g : Nat) (q : List Signal) : (setRxq s g q).cores = s.cores := rfl
@[simp] theorem setRxq_launches (g : Nat) (q : List Signal) : (setRxq s g q).launches = s.launches := rfl
@[simp] theorem setRxq_heldAcc (g : Nat) (q : List Signal) : (setRxq s g q).heldAcc = s.heldAcc := rfl
@[simp] theorem setRxq_answers (g : Nat) (q : List Signal) : (setRxq s g q).answers = s.answers := rfl
@[simp] theorem setRxq_scache (g : Nat) (q : List Signal) : (setRxq s g q).scache = s.scache := rfl
@[simp] theorem setRxq_scPlru (g : Nat) (q : List Signal) : (setRxq s g q).scPlru = s.scPlru := rfl
@[simp] theorem setRxq_depot (g : Nat) (q : List Signal) : (setRxq s g q).depot = s.depot := rfl
@[simp] theorem setRxq_depotPlru (g : Nat) (q : List Signal) : (setRxq s g q).depotPlru = s.depotPlru := rfl
@[simp] theorem setRxq_mesh (g : Nat) (q : List Signal) : (setRxq s g q).mesh = s.mesh := rfl
@[simp] theorem setRxq_watch (g : Nat) (q : List Signal) : (setRxq s g q).watch = s.watch := rfl
@[simp] theorem setRxq_meshArb (g : Nat) (q : List Signal) : (setRxq s g q).meshArb = s.meshArb := rfl
@[simp] theorem setRxq_ejected (g : Nat) (q : List Signal) : (setRxq s g q).ejected = s.ejected := rfl
@[simp] theorem setRxq_sigs (g : Nat) (q : List Signal) : (setRxq s g q).sigs = s.sigs := rfl
@[simp] theorem setRxq_mdSigs (g : Nat) (q : List Signal) : (setRxq s g q).mdSigs = s.mdSigs := rfl
@[simp] theorem setRxq_stopSigs (g : Nat) (q : List Signal) : (setRxq s g q).stopSigs = s.stopSigs := rfl
@[simp] theorem setRxq_kvgLanes (g : Nat) (q : List Signal) : (setRxq s g q).kvgLanes = s.kvgLanes := rfl
@[simp] theorem setRxq_kvg (g : Nat) (q : List Signal) : (setRxq s g q).kvg = s.kvg := rfl
@[simp] theorem setRxq_points (g : Nat) (q : List Signal) : (setRxq s g q).points = s.points := rfl
@[simp] theorem setRxq_bls (g : Nat) (q : List Signal) : (setRxq s g q).bls = s.bls := rfl
@[simp] theorem setRxq_routes (g : Nat) (q : List Signal) : (setRxq s g q).routes = s.routes := rfl
@[simp] theorem setRxq_oldMaps (g : Nat) (q : List Signal) : (setRxq s g q).oldMaps = s.oldMaps := rfl
@[simp] theorem setRxq_dill (g : Nat) (q : List Signal) : (setRxq s g q).dill = s.dill := rfl
@[simp] theorem setRxq_declares (g : Nat) (q : List Signal) : (setRxq s g q).declares = s.declares := rfl
@[simp] theorem setRxq_prefetches (g : Nat) (q : List Signal) : (setRxq s g q).prefetches = s.prefetches := rfl
@[simp] theorem setRxq_scrubOf (g : Nat) (q : List Signal) : (setRxq s g q).scrubOf = s.scrubOf := rfl
@[simp] theorem setRxq_missHist (g : Nat) (q : List Signal) : (setRxq s g q).missHist = s.missHist := rfl
@[simp] theorem setRxq_regionClk (g : Nat) (q : List Signal) : (setRxq s g q).regionClk = s.regionClk := rfl
@[simp] theorem setRxq_wins (g : Nat) (q : List Signal) : (setRxq s g q).wins = s.wins := rfl
@[simp] theorem setRxq_winsNew (g : Nat) (q : List Signal) : (setRxq s g q).winsNew = s.winsNew := rfl
@[simp] theorem setRxq_meters (g : Nat) (q : List Signal) : (setRxq s g q).meters = s.meters := rfl
@[simp] theorem setRxq_troubles (g : Nat) (q : List Signal) : (setRxq s g q).troubles = s.troubles := rfl
@[simp] theorem setRxq_portQ (g : Nat) (q : List Signal) : (setRxq s g q).portQ = s.portQ := rfl
@[simp] theorem setRxq_portArb (g : Nat) (q : List Signal) : (setRxq s g q).portArb = s.portArb := rfl
@[simp] theorem setRxq_unacked (g : Nat) (q : List Signal) : (setRxq s g q).unacked = s.unacked := rfl
@[simp] theorem setRxq_remotes (g : Nat) (q : List Signal) : (setRxq s g q).remotes = s.remotes := rfl
@[simp] theorem setRxq_links (g : Nat) (q : List Signal) : (setRxq s g q).links = s.links := rfl
@[simp] theorem setRxq_flitOut (g : Nat) (q : List Signal) : (setRxq s g q).flitOut = s.flitOut := rfl
@[simp] theorem setRxq_breaks (g : Nat) (q : List Signal) : (setRxq s g q).breaks = s.breaks := rfl
@[simp] theorem setRxq_dirs (g : Nat) (q : List Signal) : (setRxq s g q).dirs = s.dirs := rfl
@[simp] theorem setRxq_holders (g : Nat) (q : List Signal) : (setRxq s g q).holders = s.holders := rfl
@[simp] theorem setRxq_nextId (g : Nat) (q : List Signal) : (setRxq s g q).nextId = s.nextId := rfl
@[simp] theorem setRxq_funcs (g : Nat) (q : List Signal) : (setRxq s g q).funcs = s.funcs := rfl
@[simp] theorem setRxq_msix (g : Nat) (q : List Signal) : (setRxq s g q).msix = s.msix := rfl
@[simp] theorem setRxq_tlps (g : Nat) (q : List Signal) : (setRxq s g q).tlps = s.tlps := rfl
@[simp] theorem setRxq_posted (g : Nat) (q : List Signal) : (setRxq s g q).posted = s.posted := rfl
@[simp] theorem setRxq_atc (g : Nat) (q : List Signal) : (setRxq s g q).atc = s.atc := rfl
@[simp] theorem setRxq_atsOut (g : Nat) (q : List Signal) : (setRxq s g q).atsOut = s.atsOut := rfl
@[simp] theorem setRxq_hreads (g : Nat) (q : List Signal) : (setRxq s g q).hreads = s.hreads := rfl
@[simp] theorem setRxq_invals (g : Nat) (q : List Signal) : (setRxq s g q).invals = s.invals := rfl
@[simp] theorem setRxq_rings (g : Nat) (q : List Signal) : (setRxq s g q).rings = s.rings := rfl
@[simp] theorem setRxq_cmds (g : Nat) (q : List Signal) : (setRxq s g q).cmds = s.cmds := rfl
@[simp] theorem setRxq_intake (g : Nat) (q : List Signal) : (setRxq s g q).intake = s.intake := rfl
@[simp] theorem setRxq_turn (g : Nat) (q : List Signal) : (setRxq s g q).turn = s.turn := rfl
@[simp] theorem setRxq_ctxs (g : Nat) (q : List Signal) : (setRxq s g q).ctxs = s.ctxs := rfl
@[simp] theorem setRxq_objs (g : Nat) (q : List Signal) : (setRxq s g q).objs = s.objs := rfl
@[simp] theorem setRxq_fences (g : Nat) (q : List Signal) : (setRxq s g q).fences = s.fences := rfl
@[simp] theorem setRxq_faults (g : Nat) (q : List Signal) : (setRxq s g q).faults = s.faults := rfl
@[simp] theorem setRxq_hints (g : Nat) (q : List Signal) : (setRxq s g q).hints = s.hints := rfl
@[simp] theorem setRxq_reqs (g : Nat) (q : List Signal) : (setRxq s g q).reqs = s.reqs := rfl
@[simp] theorem setRxq_services (g : Nat) (q : List Signal) : (setRxq s g q).services = s.services := rfl
@[simp] theorem setRxq_lentExt (g : Nat) (q : List Signal) : (setRxq s g q).lentExt = s.lentExt := rfl
@[simp] theorem setRxq_chans (g : Nat) (q : List Signal) : (setRxq s g q).chans = s.chans := rfl
@[simp] theorem setRxq_comp (g : Nat) (q : List Signal) : (setRxq s g q).comp = s.comp := rfl
@[simp] theorem setRxq_notices (g : Nat) (q : List Signal) : (setRxq s g q).notices = s.notices := rfl
@[simp] theorem setRxq_compOut (g : Nat) (q : List Signal) : (setRxq s g q).compOut = s.compOut := rfl
@[simp] theorem setRxq_reads (g : Nat) (q : List Signal) : (setRxq s g q).reads = s.reads := rfl
@[simp] theorem setRxq_measures (g : Nat) (q : List Signal) : (setRxq s g q).measures = s.measures := rfl
@[simp] theorem setRxq_harts (g : Nat) (q : List Signal) : (setRxq s g q).harts = s.harts := rfl
@[simp] theorem setRxq_sorts (g : Nat) (q : List Signal) : (setRxq s g q).sorts = s.sorts := rfl
@[simp] theorem setRxq_dirPtr (g : Nat) (q : List Signal) : (setRxq s g q).dirPtr = s.dirPtr := rfl
@[simp] theorem setRxq_dirPlru (g : Nat) (q : List Signal) : (setRxq s g q).dirPlru = s.dirPlru := rfl
@[simp] theorem setRxq_dirHeld (g : Nat) (q : List Signal) : (setRxq s g q).dirHeld = s.dirHeld := rfl
@[simp] theorem setRxq_power (g : Nat) (q : List Signal) : (setRxq s g q).power = s.power := rfl
@[simp] theorem setRxq_rst (g : Nat) (q : List Signal) : (setRxq s g q).rst = s.rst := rfl
@[simp] theorem setRxq_shuts (g : Nat) (q : List Signal) : (setRxq s g q).shuts = s.shuts := rfl
@[simp] theorem setRxq_mod (g : Nat) (q : List Signal) : (setRxq s g q).mod = s.mod := rfl
@[simp] theorem fget_setRxq (g : Nat) (q : List Signal) (ff : F) (j : Nat) : fget (setRxq s g q) ff j = fget s ff j := rfl
@[simp] theorem fbit_setRxq (g : Nat) (q : List Signal) (ff : F) (j : Nat) : fbit (setRxq s g q) ff j = fbit s ff j := rfl

@[simp] theorem stnWrite_pending (k off : Nat) (bs : List Byte) : (stnWrite s k off bs).pending = s.pending := rfl
@[simp] theorem stnWrite_freeCtr (k off : Nat) (bs : List Byte) : (stnWrite s k off bs).freeCtr = s.freeCtr := rfl
@[simp] theorem stnWrite_stalled (k off : Nat) (bs : List Byte) : (stnWrite s k off bs).stalled = s.stalled := rfl
@[simp] theorem stnWrite_now (k off : Nat) (bs : List Byte) : (stnWrite s k off bs).now = s.now := rfl
@[simp] theorem stnWrite_regs (k off : Nat) (bs : List Byte) : (stnWrite s k off bs).regs = s.regs := rfl
@[simp] theorem stnWrite_ueLines (k off : Nat) (bs : List Byte) : (stnWrite s k off bs).ueLines = s.ueLines := rfl
@[simp] theorem stnWrite_cores (k off : Nat) (bs : List Byte) : (stnWrite s k off bs).cores = s.cores := rfl
@[simp] theorem stnWrite_launches (k off : Nat) (bs : List Byte) : (stnWrite s k off bs).launches = s.launches := rfl
@[simp] theorem stnWrite_heldAcc (k off : Nat) (bs : List Byte) : (stnWrite s k off bs).heldAcc = s.heldAcc := rfl
@[simp] theorem stnWrite_answers (k off : Nat) (bs : List Byte) : (stnWrite s k off bs).answers = s.answers := rfl
@[simp] theorem stnWrite_scache (k off : Nat) (bs : List Byte) : (stnWrite s k off bs).scache = s.scache := rfl
@[simp] theorem stnWrite_scPlru (k off : Nat) (bs : List Byte) : (stnWrite s k off bs).scPlru = s.scPlru := rfl
@[simp] theorem stnWrite_depot (k off : Nat) (bs : List Byte) : (stnWrite s k off bs).depot = s.depot := rfl
@[simp] theorem stnWrite_depotPlru (k off : Nat) (bs : List Byte) : (stnWrite s k off bs).depotPlru = s.depotPlru := rfl
@[simp] theorem stnWrite_mesh (k off : Nat) (bs : List Byte) : (stnWrite s k off bs).mesh = s.mesh := rfl
@[simp] theorem stnWrite_watch (k off : Nat) (bs : List Byte) : (stnWrite s k off bs).watch = s.watch := rfl
@[simp] theorem stnWrite_meshArb (k off : Nat) (bs : List Byte) : (stnWrite s k off bs).meshArb = s.meshArb := rfl
@[simp] theorem stnWrite_ejected (k off : Nat) (bs : List Byte) : (stnWrite s k off bs).ejected = s.ejected := rfl
@[simp] theorem stnWrite_sigs (k off : Nat) (bs : List Byte) : (stnWrite s k off bs).sigs = s.sigs := rfl
@[simp] theorem stnWrite_mdSigs (k off : Nat) (bs : List Byte) : (stnWrite s k off bs).mdSigs = s.mdSigs := rfl
@[simp] theorem stnWrite_stopSigs (k off : Nat) (bs : List Byte) : (stnWrite s k off bs).stopSigs = s.stopSigs := rfl
@[simp] theorem stnWrite_rxq (k off : Nat) (bs : List Byte) : (stnWrite s k off bs).rxq = s.rxq := rfl
@[simp] theorem stnWrite_kvgLanes (k off : Nat) (bs : List Byte) : (stnWrite s k off bs).kvgLanes = s.kvgLanes := rfl
@[simp] theorem stnWrite_kvg (k off : Nat) (bs : List Byte) : (stnWrite s k off bs).kvg = s.kvg := rfl
@[simp] theorem stnWrite_points (k off : Nat) (bs : List Byte) : (stnWrite s k off bs).points = s.points := rfl
@[simp] theorem stnWrite_bls (k off : Nat) (bs : List Byte) : (stnWrite s k off bs).bls = s.bls := rfl
@[simp] theorem stnWrite_routes (k off : Nat) (bs : List Byte) : (stnWrite s k off bs).routes = s.routes := rfl
@[simp] theorem stnWrite_oldMaps (k off : Nat) (bs : List Byte) : (stnWrite s k off bs).oldMaps = s.oldMaps := rfl
@[simp] theorem stnWrite_dill (k off : Nat) (bs : List Byte) : (stnWrite s k off bs).dill = s.dill := rfl
@[simp] theorem stnWrite_declares (k off : Nat) (bs : List Byte) : (stnWrite s k off bs).declares = s.declares := rfl
@[simp] theorem stnWrite_prefetches (k off : Nat) (bs : List Byte) : (stnWrite s k off bs).prefetches = s.prefetches := rfl
@[simp] theorem stnWrite_scrubOf (k off : Nat) (bs : List Byte) : (stnWrite s k off bs).scrubOf = s.scrubOf := rfl
@[simp] theorem stnWrite_missHist (k off : Nat) (bs : List Byte) : (stnWrite s k off bs).missHist = s.missHist := rfl
@[simp] theorem stnWrite_regionClk (k off : Nat) (bs : List Byte) : (stnWrite s k off bs).regionClk = s.regionClk := rfl
@[simp] theorem stnWrite_wins (k off : Nat) (bs : List Byte) : (stnWrite s k off bs).wins = s.wins := rfl
@[simp] theorem stnWrite_winsNew (k off : Nat) (bs : List Byte) : (stnWrite s k off bs).winsNew = s.winsNew := rfl
@[simp] theorem stnWrite_meters (k off : Nat) (bs : List Byte) : (stnWrite s k off bs).meters = s.meters := rfl
@[simp] theorem stnWrite_troubles (k off : Nat) (bs : List Byte) : (stnWrite s k off bs).troubles = s.troubles := rfl
@[simp] theorem stnWrite_portQ (k off : Nat) (bs : List Byte) : (stnWrite s k off bs).portQ = s.portQ := rfl
@[simp] theorem stnWrite_portArb (k off : Nat) (bs : List Byte) : (stnWrite s k off bs).portArb = s.portArb := rfl
@[simp] theorem stnWrite_unacked (k off : Nat) (bs : List Byte) : (stnWrite s k off bs).unacked = s.unacked := rfl
@[simp] theorem stnWrite_remotes (k off : Nat) (bs : List Byte) : (stnWrite s k off bs).remotes = s.remotes := rfl
@[simp] theorem stnWrite_links (k off : Nat) (bs : List Byte) : (stnWrite s k off bs).links = s.links := rfl
@[simp] theorem stnWrite_flitOut (k off : Nat) (bs : List Byte) : (stnWrite s k off bs).flitOut = s.flitOut := rfl
@[simp] theorem stnWrite_breaks (k off : Nat) (bs : List Byte) : (stnWrite s k off bs).breaks = s.breaks := rfl
@[simp] theorem stnWrite_dirs (k off : Nat) (bs : List Byte) : (stnWrite s k off bs).dirs = s.dirs := rfl
@[simp] theorem stnWrite_holders (k off : Nat) (bs : List Byte) : (stnWrite s k off bs).holders = s.holders := rfl
@[simp] theorem stnWrite_nextId (k off : Nat) (bs : List Byte) : (stnWrite s k off bs).nextId = s.nextId := rfl
@[simp] theorem stnWrite_funcs (k off : Nat) (bs : List Byte) : (stnWrite s k off bs).funcs = s.funcs := rfl
@[simp] theorem stnWrite_msix (k off : Nat) (bs : List Byte) : (stnWrite s k off bs).msix = s.msix := rfl
@[simp] theorem stnWrite_tlps (k off : Nat) (bs : List Byte) : (stnWrite s k off bs).tlps = s.tlps := rfl
@[simp] theorem stnWrite_posted (k off : Nat) (bs : List Byte) : (stnWrite s k off bs).posted = s.posted := rfl
@[simp] theorem stnWrite_atc (k off : Nat) (bs : List Byte) : (stnWrite s k off bs).atc = s.atc := rfl
@[simp] theorem stnWrite_atsOut (k off : Nat) (bs : List Byte) : (stnWrite s k off bs).atsOut = s.atsOut := rfl
@[simp] theorem stnWrite_hreads (k off : Nat) (bs : List Byte) : (stnWrite s k off bs).hreads = s.hreads := rfl
@[simp] theorem stnWrite_invals (k off : Nat) (bs : List Byte) : (stnWrite s k off bs).invals = s.invals := rfl
@[simp] theorem stnWrite_rings (k off : Nat) (bs : List Byte) : (stnWrite s k off bs).rings = s.rings := rfl
@[simp] theorem stnWrite_cmds (k off : Nat) (bs : List Byte) : (stnWrite s k off bs).cmds = s.cmds := rfl
@[simp] theorem stnWrite_intake (k off : Nat) (bs : List Byte) : (stnWrite s k off bs).intake = s.intake := rfl
@[simp] theorem stnWrite_turn (k off : Nat) (bs : List Byte) : (stnWrite s k off bs).turn = s.turn := rfl
@[simp] theorem stnWrite_ctxs (k off : Nat) (bs : List Byte) : (stnWrite s k off bs).ctxs = s.ctxs := rfl
@[simp] theorem stnWrite_objs (k off : Nat) (bs : List Byte) : (stnWrite s k off bs).objs = s.objs := rfl
@[simp] theorem stnWrite_fences (k off : Nat) (bs : List Byte) : (stnWrite s k off bs).fences = s.fences := rfl
@[simp] theorem stnWrite_faults (k off : Nat) (bs : List Byte) : (stnWrite s k off bs).faults = s.faults := rfl
@[simp] theorem stnWrite_hints (k off : Nat) (bs : List Byte) : (stnWrite s k off bs).hints = s.hints := rfl
@[simp] theorem stnWrite_reqs (k off : Nat) (bs : List Byte) : (stnWrite s k off bs).reqs = s.reqs := rfl
@[simp] theorem stnWrite_services (k off : Nat) (bs : List Byte) : (stnWrite s k off bs).services = s.services := rfl
@[simp] theorem stnWrite_lentExt (k off : Nat) (bs : List Byte) : (stnWrite s k off bs).lentExt = s.lentExt := rfl
@[simp] theorem stnWrite_chans (k off : Nat) (bs : List Byte) : (stnWrite s k off bs).chans = s.chans := rfl
@[simp] theorem stnWrite_comp (k off : Nat) (bs : List Byte) : (stnWrite s k off bs).comp = s.comp := rfl
@[simp] theorem stnWrite_notices (k off : Nat) (bs : List Byte) : (stnWrite s k off bs).notices = s.notices := rfl
@[simp] theorem stnWrite_compOut (k off : Nat) (bs : List Byte) : (stnWrite s k off bs).compOut = s.compOut := rfl
@[simp] theorem stnWrite_reads (k off : Nat) (bs : List Byte) : (stnWrite s k off bs).reads = s.reads := rfl
@[simp] theorem stnWrite_measures (k off : Nat) (bs : List Byte) : (stnWrite s k off bs).measures = s.measures := rfl
@[simp] theorem stnWrite_harts (k off : Nat) (bs : List Byte) : (stnWrite s k off bs).harts = s.harts := rfl
@[simp] theorem stnWrite_sorts (k off : Nat) (bs : List Byte) : (stnWrite s k off bs).sorts = s.sorts := rfl
@[simp] theorem stnWrite_dirPtr (k off : Nat) (bs : List Byte) : (stnWrite s k off bs).dirPtr = s.dirPtr := rfl
@[simp] theorem stnWrite_dirPlru (k off : Nat) (bs : List Byte) : (stnWrite s k off bs).dirPlru = s.dirPlru := rfl
@[simp] theorem stnWrite_dirHeld (k off : Nat) (bs : List Byte) : (stnWrite s k off bs).dirHeld = s.dirHeld := rfl
@[simp] theorem stnWrite_power (k off : Nat) (bs : List Byte) : (stnWrite s k off bs).power = s.power := rfl
@[simp] theorem stnWrite_rst (k off : Nat) (bs : List Byte) : (stnWrite s k off bs).rst = s.rst := rfl
@[simp] theorem stnWrite_shuts (k off : Nat) (bs : List Byte) : (stnWrite s k off bs).shuts = s.shuts := rfl
@[simp] theorem stnWrite_mod (k off : Nat) (bs : List Byte) : (stnWrite s k off bs).mod = s.mod := rfl
@[simp] theorem fget_stnWrite (k off : Nat) (bs : List Byte) (ff : F) (j : Nat) : fget (stnWrite s k off bs) ff j = fget s ff j := rfl
@[simp] theorem fbit_stnWrite (k off : Nat) (bs : List Byte) (ff : F) (j : Nat) : fbit (stnWrite s k off bs) ff j = fbit s ff j := rfl

@[simp] theorem clearFields_pending (p : F → Nat → Bool) : (clearFields s p).pending = s.pending := rfl
@[simp] theorem clearFields_freeCtr (p : F → Nat → Bool) : (clearFields s p).freeCtr = s.freeCtr := rfl
@[simp] theorem clearFields_stalled (p : F → Nat → Bool) : (clearFields s p).stalled = s.stalled := rfl
@[simp] theorem clearFields_now (p : F → Nat → Bool) : (clearFields s p).now = s.now := rfl
@[simp] theorem clearFields_mem (p : F → Nat → Bool) : (clearFields s p).mem = s.mem := rfl
@[simp] theorem clearFields_ueLines (p : F → Nat → Bool) : (clearFields s p).ueLines = s.ueLines := rfl
@[simp] theorem clearFields_cores (p : F → Nat → Bool) : (clearFields s p).cores = s.cores := rfl
@[simp] theorem clearFields_launches (p : F → Nat → Bool) : (clearFields s p).launches = s.launches := rfl
@[simp] theorem clearFields_heldAcc (p : F → Nat → Bool) : (clearFields s p).heldAcc = s.heldAcc := rfl
@[simp] theorem clearFields_answers (p : F → Nat → Bool) : (clearFields s p).answers = s.answers := rfl
@[simp] theorem clearFields_scache (p : F → Nat → Bool) : (clearFields s p).scache = s.scache := rfl
@[simp] theorem clearFields_scPlru (p : F → Nat → Bool) : (clearFields s p).scPlru = s.scPlru := rfl
@[simp] theorem clearFields_depot (p : F → Nat → Bool) : (clearFields s p).depot = s.depot := rfl
@[simp] theorem clearFields_depotPlru (p : F → Nat → Bool) : (clearFields s p).depotPlru = s.depotPlru := rfl
@[simp] theorem clearFields_mesh (p : F → Nat → Bool) : (clearFields s p).mesh = s.mesh := rfl
@[simp] theorem clearFields_watch (p : F → Nat → Bool) : (clearFields s p).watch = s.watch := rfl
@[simp] theorem clearFields_meshArb (p : F → Nat → Bool) : (clearFields s p).meshArb = s.meshArb := rfl
@[simp] theorem clearFields_ejected (p : F → Nat → Bool) : (clearFields s p).ejected = s.ejected := rfl
@[simp] theorem clearFields_sigs (p : F → Nat → Bool) : (clearFields s p).sigs = s.sigs := rfl
@[simp] theorem clearFields_mdSigs (p : F → Nat → Bool) : (clearFields s p).mdSigs = s.mdSigs := rfl
@[simp] theorem clearFields_stopSigs (p : F → Nat → Bool) : (clearFields s p).stopSigs = s.stopSigs := rfl
@[simp] theorem clearFields_rxq (p : F → Nat → Bool) : (clearFields s p).rxq = s.rxq := rfl
@[simp] theorem clearFields_kvgLanes (p : F → Nat → Bool) : (clearFields s p).kvgLanes = s.kvgLanes := rfl
@[simp] theorem clearFields_kvg (p : F → Nat → Bool) : (clearFields s p).kvg = s.kvg := rfl
@[simp] theorem clearFields_points (p : F → Nat → Bool) : (clearFields s p).points = s.points := rfl
@[simp] theorem clearFields_bls (p : F → Nat → Bool) : (clearFields s p).bls = s.bls := rfl
@[simp] theorem clearFields_routes (p : F → Nat → Bool) : (clearFields s p).routes = s.routes := rfl
@[simp] theorem clearFields_oldMaps (p : F → Nat → Bool) : (clearFields s p).oldMaps = s.oldMaps := rfl
@[simp] theorem clearFields_dill (p : F → Nat → Bool) : (clearFields s p).dill = s.dill := rfl
@[simp] theorem clearFields_declares (p : F → Nat → Bool) : (clearFields s p).declares = s.declares := rfl
@[simp] theorem clearFields_prefetches (p : F → Nat → Bool) : (clearFields s p).prefetches = s.prefetches := rfl
@[simp] theorem clearFields_scrubOf (p : F → Nat → Bool) : (clearFields s p).scrubOf = s.scrubOf := rfl
@[simp] theorem clearFields_missHist (p : F → Nat → Bool) : (clearFields s p).missHist = s.missHist := rfl
@[simp] theorem clearFields_regionClk (p : F → Nat → Bool) : (clearFields s p).regionClk = s.regionClk := rfl
@[simp] theorem clearFields_wins (p : F → Nat → Bool) : (clearFields s p).wins = s.wins := rfl
@[simp] theorem clearFields_winsNew (p : F → Nat → Bool) : (clearFields s p).winsNew = s.winsNew := rfl
@[simp] theorem clearFields_meters (p : F → Nat → Bool) : (clearFields s p).meters = s.meters := rfl
@[simp] theorem clearFields_troubles (p : F → Nat → Bool) : (clearFields s p).troubles = s.troubles := rfl
@[simp] theorem clearFields_portQ (p : F → Nat → Bool) : (clearFields s p).portQ = s.portQ := rfl
@[simp] theorem clearFields_portArb (p : F → Nat → Bool) : (clearFields s p).portArb = s.portArb := rfl
@[simp] theorem clearFields_unacked (p : F → Nat → Bool) : (clearFields s p).unacked = s.unacked := rfl
@[simp] theorem clearFields_remotes (p : F → Nat → Bool) : (clearFields s p).remotes = s.remotes := rfl
@[simp] theorem clearFields_links (p : F → Nat → Bool) : (clearFields s p).links = s.links := rfl
@[simp] theorem clearFields_flitOut (p : F → Nat → Bool) : (clearFields s p).flitOut = s.flitOut := rfl
@[simp] theorem clearFields_breaks (p : F → Nat → Bool) : (clearFields s p).breaks = s.breaks := rfl
@[simp] theorem clearFields_dirs (p : F → Nat → Bool) : (clearFields s p).dirs = s.dirs := rfl
@[simp] theorem clearFields_holders (p : F → Nat → Bool) : (clearFields s p).holders = s.holders := rfl
@[simp] theorem clearFields_nextId (p : F → Nat → Bool) : (clearFields s p).nextId = s.nextId := rfl
@[simp] theorem clearFields_funcs (p : F → Nat → Bool) : (clearFields s p).funcs = s.funcs := rfl
@[simp] theorem clearFields_msix (p : F → Nat → Bool) : (clearFields s p).msix = s.msix := rfl
@[simp] theorem clearFields_tlps (p : F → Nat → Bool) : (clearFields s p).tlps = s.tlps := rfl
@[simp] theorem clearFields_posted (p : F → Nat → Bool) : (clearFields s p).posted = s.posted := rfl
@[simp] theorem clearFields_atc (p : F → Nat → Bool) : (clearFields s p).atc = s.atc := rfl
@[simp] theorem clearFields_atsOut (p : F → Nat → Bool) : (clearFields s p).atsOut = s.atsOut := rfl
@[simp] theorem clearFields_hreads (p : F → Nat → Bool) : (clearFields s p).hreads = s.hreads := rfl
@[simp] theorem clearFields_invals (p : F → Nat → Bool) : (clearFields s p).invals = s.invals := rfl
@[simp] theorem clearFields_rings (p : F → Nat → Bool) : (clearFields s p).rings = s.rings := rfl
@[simp] theorem clearFields_cmds (p : F → Nat → Bool) : (clearFields s p).cmds = s.cmds := rfl
@[simp] theorem clearFields_intake (p : F → Nat → Bool) : (clearFields s p).intake = s.intake := rfl
@[simp] theorem clearFields_turn (p : F → Nat → Bool) : (clearFields s p).turn = s.turn := rfl
@[simp] theorem clearFields_ctxs (p : F → Nat → Bool) : (clearFields s p).ctxs = s.ctxs := rfl
@[simp] theorem clearFields_objs (p : F → Nat → Bool) : (clearFields s p).objs = s.objs := rfl
@[simp] theorem clearFields_fences (p : F → Nat → Bool) : (clearFields s p).fences = s.fences := rfl
@[simp] theorem clearFields_faults (p : F → Nat → Bool) : (clearFields s p).faults = s.faults := rfl
@[simp] theorem clearFields_hints (p : F → Nat → Bool) : (clearFields s p).hints = s.hints := rfl
@[simp] theorem clearFields_reqs (p : F → Nat → Bool) : (clearFields s p).reqs = s.reqs := rfl
@[simp] theorem clearFields_services (p : F → Nat → Bool) : (clearFields s p).services = s.services := rfl
@[simp] theorem clearFields_lentExt (p : F → Nat → Bool) : (clearFields s p).lentExt = s.lentExt := rfl
@[simp] theorem clearFields_chans (p : F → Nat → Bool) : (clearFields s p).chans = s.chans := rfl
@[simp] theorem clearFields_comp (p : F → Nat → Bool) : (clearFields s p).comp = s.comp := rfl
@[simp] theorem clearFields_notices (p : F → Nat → Bool) : (clearFields s p).notices = s.notices := rfl
@[simp] theorem clearFields_compOut (p : F → Nat → Bool) : (clearFields s p).compOut = s.compOut := rfl
@[simp] theorem clearFields_reads (p : F → Nat → Bool) : (clearFields s p).reads = s.reads := rfl
@[simp] theorem clearFields_measures (p : F → Nat → Bool) : (clearFields s p).measures = s.measures := rfl
@[simp] theorem clearFields_harts (p : F → Nat → Bool) : (clearFields s p).harts = s.harts := rfl
@[simp] theorem clearFields_sorts (p : F → Nat → Bool) : (clearFields s p).sorts = s.sorts := rfl
@[simp] theorem clearFields_dirPtr (p : F → Nat → Bool) : (clearFields s p).dirPtr = s.dirPtr := rfl
@[simp] theorem clearFields_dirPlru (p : F → Nat → Bool) : (clearFields s p).dirPlru = s.dirPlru := rfl
@[simp] theorem clearFields_dirHeld (p : F → Nat → Bool) : (clearFields s p).dirHeld = s.dirHeld := rfl
@[simp] theorem clearFields_power (p : F → Nat → Bool) : (clearFields s p).power = s.power := rfl
@[simp] theorem clearFields_rst (p : F → Nat → Bool) : (clearFields s p).rst = s.rst := rfl
@[simp] theorem clearFields_shuts (p : F → Nat → Bool) : (clearFields s p).shuts = s.shuts := rfl
@[simp] theorem clearFields_mod (p : F → Nat → Bool) : (clearFields s p).mod = s.mod := rfl

@[simp] theorem draw_pending : (draw s).2.pending = s.pending := rfl
@[simp] theorem draw_stalled : (draw s).2.stalled = s.stalled := rfl
@[simp] theorem draw_now : (draw s).2.now = s.now := rfl
@[simp] theorem draw_regs : (draw s).2.regs = s.regs := rfl
@[simp] theorem draw_mem : (draw s).2.mem = s.mem := rfl
@[simp] theorem draw_ueLines : (draw s).2.ueLines = s.ueLines := rfl
@[simp] theorem draw_cores : (draw s).2.cores = s.cores := rfl
@[simp] theorem draw_launches : (draw s).2.launches = s.launches := rfl
@[simp] theorem draw_heldAcc : (draw s).2.heldAcc = s.heldAcc := rfl
@[simp] theorem draw_answers : (draw s).2.answers = s.answers := rfl
@[simp] theorem draw_scache : (draw s).2.scache = s.scache := rfl
@[simp] theorem draw_scPlru : (draw s).2.scPlru = s.scPlru := rfl
@[simp] theorem draw_depot : (draw s).2.depot = s.depot := rfl
@[simp] theorem draw_depotPlru : (draw s).2.depotPlru = s.depotPlru := rfl
@[simp] theorem draw_mesh : (draw s).2.mesh = s.mesh := rfl
@[simp] theorem draw_watch : (draw s).2.watch = s.watch := rfl
@[simp] theorem draw_meshArb : (draw s).2.meshArb = s.meshArb := rfl
@[simp] theorem draw_ejected : (draw s).2.ejected = s.ejected := rfl
@[simp] theorem draw_sigs : (draw s).2.sigs = s.sigs := rfl
@[simp] theorem draw_mdSigs : (draw s).2.mdSigs = s.mdSigs := rfl
@[simp] theorem draw_stopSigs : (draw s).2.stopSigs = s.stopSigs := rfl
@[simp] theorem draw_rxq : (draw s).2.rxq = s.rxq := rfl
@[simp] theorem draw_kvgLanes : (draw s).2.kvgLanes = s.kvgLanes := rfl
@[simp] theorem draw_kvg : (draw s).2.kvg = s.kvg := rfl
@[simp] theorem draw_points : (draw s).2.points = s.points := rfl
@[simp] theorem draw_bls : (draw s).2.bls = s.bls := rfl
@[simp] theorem draw_routes : (draw s).2.routes = s.routes := rfl
@[simp] theorem draw_oldMaps : (draw s).2.oldMaps = s.oldMaps := rfl
@[simp] theorem draw_dill : (draw s).2.dill = s.dill := rfl
@[simp] theorem draw_declares : (draw s).2.declares = s.declares := rfl
@[simp] theorem draw_prefetches : (draw s).2.prefetches = s.prefetches := rfl
@[simp] theorem draw_scrubOf : (draw s).2.scrubOf = s.scrubOf := rfl
@[simp] theorem draw_missHist : (draw s).2.missHist = s.missHist := rfl
@[simp] theorem draw_regionClk : (draw s).2.regionClk = s.regionClk := rfl
@[simp] theorem draw_wins : (draw s).2.wins = s.wins := rfl
@[simp] theorem draw_winsNew : (draw s).2.winsNew = s.winsNew := rfl
@[simp] theorem draw_meters : (draw s).2.meters = s.meters := rfl
@[simp] theorem draw_troubles : (draw s).2.troubles = s.troubles := rfl
@[simp] theorem draw_portQ : (draw s).2.portQ = s.portQ := rfl
@[simp] theorem draw_portArb : (draw s).2.portArb = s.portArb := rfl
@[simp] theorem draw_unacked : (draw s).2.unacked = s.unacked := rfl
@[simp] theorem draw_remotes : (draw s).2.remotes = s.remotes := rfl
@[simp] theorem draw_links : (draw s).2.links = s.links := rfl
@[simp] theorem draw_flitOut : (draw s).2.flitOut = s.flitOut := rfl
@[simp] theorem draw_breaks : (draw s).2.breaks = s.breaks := rfl
@[simp] theorem draw_dirs : (draw s).2.dirs = s.dirs := rfl
@[simp] theorem draw_holders : (draw s).2.holders = s.holders := rfl
@[simp] theorem draw_nextId : (draw s).2.nextId = s.nextId := rfl
@[simp] theorem draw_funcs : (draw s).2.funcs = s.funcs := rfl
@[simp] theorem draw_msix : (draw s).2.msix = s.msix := rfl
@[simp] theorem draw_tlps : (draw s).2.tlps = s.tlps := rfl
@[simp] theorem draw_posted : (draw s).2.posted = s.posted := rfl
@[simp] theorem draw_atc : (draw s).2.atc = s.atc := rfl
@[simp] theorem draw_atsOut : (draw s).2.atsOut = s.atsOut := rfl
@[simp] theorem draw_hreads : (draw s).2.hreads = s.hreads := rfl
@[simp] theorem draw_invals : (draw s).2.invals = s.invals := rfl
@[simp] theorem draw_rings : (draw s).2.rings = s.rings := rfl
@[simp] theorem draw_cmds : (draw s).2.cmds = s.cmds := rfl
@[simp] theorem draw_intake : (draw s).2.intake = s.intake := rfl
@[simp] theorem draw_turn : (draw s).2.turn = s.turn := rfl
@[simp] theorem draw_ctxs : (draw s).2.ctxs = s.ctxs := rfl
@[simp] theorem draw_objs : (draw s).2.objs = s.objs := rfl
@[simp] theorem draw_fences : (draw s).2.fences = s.fences := rfl
@[simp] theorem draw_faults : (draw s).2.faults = s.faults := rfl
@[simp] theorem draw_hints : (draw s).2.hints = s.hints := rfl
@[simp] theorem draw_reqs : (draw s).2.reqs = s.reqs := rfl
@[simp] theorem draw_services : (draw s).2.services = s.services := rfl
@[simp] theorem draw_lentExt : (draw s).2.lentExt = s.lentExt := rfl
@[simp] theorem draw_chans : (draw s).2.chans = s.chans := rfl
@[simp] theorem draw_comp : (draw s).2.comp = s.comp := rfl
@[simp] theorem draw_notices : (draw s).2.notices = s.notices := rfl
@[simp] theorem draw_compOut : (draw s).2.compOut = s.compOut := rfl
@[simp] theorem draw_reads : (draw s).2.reads = s.reads := rfl
@[simp] theorem draw_measures : (draw s).2.measures = s.measures := rfl
@[simp] theorem draw_harts : (draw s).2.harts = s.harts := rfl
@[simp] theorem draw_sorts : (draw s).2.sorts = s.sorts := rfl
@[simp] theorem draw_dirPtr : (draw s).2.dirPtr = s.dirPtr := rfl
@[simp] theorem draw_dirPlru : (draw s).2.dirPlru = s.dirPlru := rfl
@[simp] theorem draw_dirHeld : (draw s).2.dirHeld = s.dirHeld := rfl
@[simp] theorem draw_power : (draw s).2.power = s.power := rfl
@[simp] theorem draw_rst : (draw s).2.rst = s.rst := rfl
@[simp] theorem draw_shuts : (draw s).2.shuts = s.shuts := rfl
@[simp] theorem draw_mod : (draw s).2.mod = s.mod := rfl
@[simp] theorem fget_draw (g : F) (j : Nat) : fget (draw s).2 g j = fget s g j := rfl

/-! Fields of registers: keys do not collide. -/

theorem F.ofNat_num (f : F) : F.ofNat f.num = f := by cases f <;> rfl

theorem F.num_inj {f g : F} (h : f.num = g.num) : f = g := by
  rw [← F.ofNat_num f, ← F.ofNat_num g, h]

theorem fkey_field (f : F) (i : Nat) : fkey f i / 65536 = f.num := by unfold fkey; omega

theorem fkey_inj {f g : F} {i j : Nat} (h : fkey f i = fkey g j) : f = g ∧ i % 65536 = j % 65536 := by
  unfold fkey at h
  exact ⟨F.num_inj (by omega), by omega⟩

/-- What was stored reads back, cut to the field's width. -/
@[simp] theorem fget_fset_same (f : F) (i v : Nat) : fget (fset s f i v) f i = v % 2 ^ f.spec.w := by
  simp [fget, fset]

/-- A store leaves every other field alone. -/
theorem fget_fset_key {f g : F} {i j : Nat} (v : Nat) (h : fkey g j ≠ fkey f i) :
    fget (fset s f i v) g j = fget s g j := by
  simp [fget, fset, SMap.get_set_other _ _ _ h]

@[simp] theorem fget_fset_field {f g : F} (i j v : Nat) (h : g ≠ f) : fget (fset s f i v) g j = fget s g j :=
  fget_fset_key s v (fun e => h (fkey_inj e).1)

theorem fget_fset_index (f : F) {i j : Nat} (v : Nat) (h : j % 65536 ≠ i % 65536) :
    fget (fset s f i v) f j = fget s f j :=
  fget_fset_key s v (fun e => h (fkey_inj e).2)

@[simp] theorem fbit_fset_field {f g : F} (i j v : Nat) (h : g ≠ f) : fbit (fset s f i v) g j = fbit s g j := by
  simp [fbit, h]

@[simp] theorem fget_finc_field {f g : F} (i j n : Nat) (h : g ≠ f) : fget (finc s f i n) g j = fget s g j := by
  simp [finc, h]

@[simp] theorem fget_fsat_field {f g : F} (i j n : Nat) (h : g ≠ f) : fget (fsat s f i n) g j = fget s g j := by
  simp [fsat, h]

@[simp] theorem fget_fsetBit_field {f g : F} (i j n : Nat) (b : Bool) (h : g ≠ f) :
    fget (fsetBit s f i n b) g j = fget s g j := by
  simp [fsetBit, h]

@[simp] theorem fget_finc_same (f : F) (i n : Nat) : fget (finc s f i n) f i = (fget s f i + n) % 2 ^ f.spec.w := by
  simp [finc]

@[simp] theorem fget_fsat_same (f : F) (i n : Nat) :
    fget (fsat s f i n) f i = min (fget s f i + n) (2 ^ f.spec.w - 1) := by
  have : min (fget s f i + n) (2 ^ f.spec.w - 1) < 2 ^ f.spec.w := by
    have := Nat.two_pow_pos f.spec.w; omega
  simp [fsat, Nat.mod_eq_of_lt this]

@[simp] theorem getCore_setCore_same (c : Nat) (x : Core) : getCore (setCore s c x) c = x := by
  simp [getCore, setCore]

theorem getCore_setCore_other {c d : Nat} (x : Core) (h : d ≠ c) : getCore (setCore s c x) d = getCore s d := by
  simp [getCore, setCore, SMap.get_set_other _ _ _ h]

@[simp] theorem getHart_setHart_same (g : Nat) (x : Hart) : getHart (setHart s g x) g = x := by
  simp [getHart, setHart]

@[simp] theorem getRing_setRing_same (r : Nat) (x : Ring) : getRing (setRing s r x) r = x := by
  simp [getRing, setRing]

@[simp] theorem getFence_setFence_same (p h : Nat) (x : Option Fence) : getFence (setFence s p h x) p h = x := by
  simp [getFence, setFence]

@[simp] theorem getObj_setObj_same (p h : Nat) (x : Option Obj) : getObj (setObj s p h x) p h = x := by
  simp [getObj, setObj]

@[simp] theorem getDir_setDir_same (line : Nat) (e : Option DirEntry) : getDir (setDir s line e) line = e := by
  simp [getDir, setDir]

@[simp] theorem getChan_setChan_same (n : Nat) (x : Chan) : getChan (setChan s n x) n = x := by
  simp [getChan, setChan]

end Sys2Proof.Machine
end

