-- ==== Sys2Proof/Laws/Homes.lean ====
section
/-! SUPPORT. What an access does at its home, once for all agents: which parts of the state and which register fields a
read, a write or an atomic can change (HomeStep), and that nothing else moves. -/
namespace Sys2Proof.Machine

/-- The state without the parts that an access can change. -/
def State.homeless (s : State) : State :=
  { s with regs := [], mem := [], ueLines := [], holders := [], harts := [], dirs := [], depot := [], depotPlru := [],
           stalled := false, meters := [], troubles := [], freeCtr := 0, scache := [], scPlru := [], missHist := [], dill := [],
           notices := [] }

/-- What an access can do to the state. -/
structure HomeStep (s t : State) : Prop where
  rest : t.homeless = s.homeless
  fields : ∀ f i, f ∉ homeFields → fget t f i = fget s f i

theorem HomeStep.refl (s : State) : HomeStep s s := ⟨rfl, fun _ _ _ => rfl⟩

theorem HomeStep.trans {s t u : State} (h : HomeStep s t) (h' : HomeStep t u) : HomeStep s u :=
  ⟨h'.rest.trans h.rest, fun f i hf => (h'.fields f i hf).trans (h.fields f i hf)⟩

/-- An update of the parts that an access can change, registers apart. -/
theorem HomeStep.of_rest {s t : State} (h : t.homeless = s.homeless) (hr : t.regs = s.regs) : HomeStep s t :=
  ⟨h, fun f i _ => by simp [fget, hr]⟩

theorem HomeStep.fset (s : State) {f : F} (i v : Nat) (h : f ∈ homeFields) : HomeStep s (fset s f i v) :=
  ⟨rfl, fun _ j hg => fget_fset_field s i j v (fun e => hg (e ▸ h))⟩

theorem HomeStep.finc (s : State) {f : F} (i n : Nat) (h : f ∈ homeFields) : HomeStep s (finc s f i n) :=
  HomeStep.fset s i _ h

theorem HomeStep.fsat (s : State) {f : F} (i n : Nat) (h : f ∈ homeFields) : HomeStep s (fsat s f i n) :=
  HomeStep.fset s i _ h

theorem HomeStep.foldl {α : Type} (f : State → α → State) (h : ∀ s a, HomeStep s (f s a)) (xs : List α) (s : State) :
    HomeStep s (xs.foldl f s) := by
  induction xs generalizing s with
  | nil => exact HomeStep.refl s
  | cons x xs ih => exact (h s x).trans (ih _)

theorem HomeStep.cores {s t : State} (h : HomeStep s t) : t.cores = s.cores := (congrArg State.cores h.rest :)
theorem HomeStep.mod {s t : State} (h : HomeStep s t) : t.mod = s.mod := (congrArg State.mod h.rest :)
theorem HomeStep.now {s t : State} (h : HomeStep s t) : t.now = s.now := (congrArg State.now h.rest :)

theorem HomeStep.getCore {s t : State} (h : HomeStep s t) (c : Nat) : getCore t c = getCore s c := by
  unfold Machine.getCore; rw [h.cores]

/-! Records and troubles. -/

theorem meter_home (s : State) (p : Nat) (o : Bool) (m n : Nat) : HomeStep s (meter s p o m n) := by
  unfold meter; split
  · exact HomeStep.refl s
  · exact HomeStep.of_rest rfl rfl

theorem raiseTrouble_home (s : State) (p : Option Nat) (o : Bool) (c : Trouble) : HomeStep s (raiseTrouble s p o c) := by
  unfold raiseTrouble
  cases p with
  | none => exact HomeStep.of_rest rfl rfl
  | some p =>
    exact (HomeStep.of_rest (s := s) (t := { s with troubles := s.troubles ++ [⟨some p, o, c⟩] }) rfl rfl).trans
      (HomeStep.fset _ (f := .TRB_PART_STICKY_EVENT) _ _ (by decide))

theorem recordViolations_home (s : State) (w : Who) (r : Right) (dev : Nat) (fs : List Nat) :
    HomeStep s (recordViolations s w r dev fs) := by
  unfold recordViolations
  cases fs with
  | nil => exact HomeStep.refl s
  | cons l ls =>
    have h1 : HomeStep s (Machine.fset s r.sticky w.part 1) := HomeStep.fset s _ _ (by cases r <;> decide)
    have h2 := h1.trans (HomeStep.fsat _ (f := .TRB_PART_VIOL_COUNT_COUNT) w.part (l :: ls).length (by decide))
    dsimp only
    split
    · exact h2
    · exact h2.trans <| (HomeStep.fset _ _ _ (by decide)).trans <| (HomeStep.fset _ _ _ (by decide)).trans <|
        (HomeStep.fset _ _ _ (by decide)).trans <| (HomeStep.fset _ _ _ (by decide)).trans <|
        (HomeStep.fset _ _ _ (by decide)).trans <| (HomeStep.fset _ _ _ (by decide)).trans <|
        HomeStep.fset _ _ _ (by decide)

theorem winTable_home (s : State) (p : Nat) : HomeStep s (winTable s p).2 := by
  unfold winTable
  dsimp only
  split
  · exact HomeStep.refl s
  · exact HomeStep.of_rest rfl rfl

theorem checkAccess_home (s : State) (w : Who) (r : Right) (ps : List Piece) : HomeStep s (checkAccess s w r ps).2 := by
  unfold checkAccess
  dsimp only
  split
  · exact winTable_home s _
  · exact (winTable_home s _).trans (recordViolations_home _ _ _ _ _)

theorem checkRemote_home (s : State) (w : Who) (r : Right) (dev : Nat) (ps : List Piece) :
    HomeStep s (checkRemote s w r dev ps).2 := by
  unfold checkRemote
  split
  · exact HomeStep.refl s
  exact (winTable_home s _).trans (recordViolations_home _ _ _ _ _)

/-! Homes. -/

theorem setUe_home (s : State) (l : Nat) (b : Bool) : HomeStep s (setUe s l b) := HomeStep.of_rest rfl rfl

theorem ueFound_home (s : State) (k line : Nat) (w : Bool) (kind : Nat) : HomeStep s (ueFound s k line w kind) := by
  unfold ueFound
  dsimp only
  refine HomeStep.trans ?_ (raiseTrouble_home _ _ _ _)
  split
  · exact HomeStep.fsat _ _ _ (by decide)
  · split
    · exact HomeStep.fsat _ _ _ (by decide)
    · exact (HomeStep.fsat _ _ _ (by decide)).trans <| (HomeStep.fset _ _ _ (by decide)).trans <|
        (HomeStep.fset _ _ _ (by decide)).trans <| HomeStep.fset _ _ _ (by decide)

theorem depotTouch_home (s : State) (k set way : Nat) : HomeStep s (depotTouch s k set way) := HomeStep.of_rest rfl rfl

theorem depotFill_home (s : State) (k a : Nat) : HomeStep s (depotFill s k a) := by
  unfold depotFill
  dsimp only
  split
  · exact HomeStep.refl s
  · split
    · exact HomeStep.refl s
    · next way _ =>
      exact (HomeStep.of_rest (s := s) (t := depotSet s k (a / 128 % 16384) way (some (a / 128))) rfl rfl).trans
        ((depotTouch_home _ _ _ _).trans (HomeStep.finc _ (f := .DEP_FILLS_COUNT) _ _ (by decide)))

theorem homeRead_home (s : State) (w : Who) (k : Nat) (p : Piece) (nt st : Bool) :
    HomeStep s (homeRead s w k p nt st).1 := by
  unfold homeRead
  dsimp only
  split
  · exact HomeStep.refl s
  · split
    · exact HomeStep.fsat _ _ _ (by decide)
    · split
      · exact (depotTouch_home _ _ _ _).trans ((HomeStep.finc _ _ _ (by decide)).trans (meter_home _ _ _ _ _))
      · have h : HomeStep s (meter (finc (finc s .DEP_MISSES_COUNT k) .HBM_READ_BYTES_COUNT (k / 16)) w.part w.oper
            mHbm 1) :=
          (HomeStep.finc _ _ _ (by decide)).trans ((HomeStep.finc _ _ _ (by decide)).trans (meter_home _ _ _ _ _))
        split
        · exact h.trans (ueFound_home _ _ _ _ _)
        · split
          · exact h.trans ((HomeStep.finc _ _ _ (by decide)).trans ((meter_home _ _ _ _ _).trans (depotFill_home _ _ _)))
          · exact h

theorem storeLine_home (s : State) (line : Nat) (d : LineData) : HomeStep s (storeLine s line d) := by
  unfold storeLine
  split
  · exact HomeStep.of_rest rfl rfl
  · exact HomeStep.of_rest rfl rfl

theorem homeWrite_home (s : State) (w : Who) (k line : Nat) (d : LineData) : HomeStep s (homeWrite s w k line d) := by
  unfold homeWrite
  split
  · exact HomeStep.refl s
  · split
    · exact HomeStep.fsat _ _ _ (by decide)
    · exact (HomeStep.finc _ _ _ (by decide)).trans <| (HomeStep.finc _ _ _ (by decide)).trans <|
        (meter_home _ _ _ _ _).trans (storeLine_home _ _ _)

theorem windowRead_home (s : State) (w : Who) (k off : Nat) (p : Piece) : HomeStep s (windowRead s w k off p).1 := by
  unfold windowRead
  dsimp only
  split
  · exact HomeStep.fsat _ _ _ (by decide)
  · split
    · exact HomeStep.refl s
    · have h : HomeStep s (meter (finc s .DEP_HITS_COUNT k) w.part w.oper mDepot 1) :=
        (HomeStep.finc _ _ _ (by decide)).trans (meter_home _ _ _ _ _)
      split
      · exact h.trans (ueFound_home _ _ _ _ _)
      · exact h

theorem windowWrite_home (s : State) (w : Who) (k off line : Nat) (d : LineData) :
    HomeStep s (windowWrite s w k off line d) := by
  unfold windowWrite
  split
  · exact HomeStep.fsat _ _ _ (by decide)
  · split
    · exact HomeStep.refl s
    · exact (HomeStep.finc _ _ _ (by decide)).trans ((meter_home _ _ _ _ _).trans (storeLine_home _ _ _))

theorem stationRead_home (s : State) (w : Who) (k off : Nat) (p : Piece) : HomeStep s (stationRead s w k off p).1 := by
  unfold stationRead
  dsimp only
  repeat' split
  all_goals first | exact HomeStep.refl s | exact HomeStep.fset _ _ _ (by decide)

theorem stationWrite_home (s : State) (w : Who) (k off : Nat) (d : LineData) :
    HomeStep s (stationWrite s w k off d) := by
  unfold stationWrite
  repeat' split
  all_goals first
    | exact HomeStep.refl s
    | exact HomeStep.fset _ _ _ (by decide)
    | exact HomeStep.of_rest rfl rfl

/-! Control memory. -/

theorem setDir_home (s : State) (l : Nat) (e : Option DirEntry) : HomeStep s (setDir s l e) := HomeStep.of_rest rfl rfl

theorem setHolder_home (s : State) (h l : Nat) (e : Option HLine) : HomeStep s (setHolder s h l e) := by
  unfold setHolder
  dsimp only
  split
  · exact HomeStep.of_rest rfl rfl
  · exact HomeStep.of_rest rfl rfl

theorem flushHolder_home (s : State) (h l : Nat) : HomeStep s (flushHolder s h l) := by
  unfold flushHolder
  split
  · exact (HomeStep.finc _ _ _ (by decide)).trans ((HomeStep.finc _ _ _ (by decide)).trans (storeLine_home _ _ _))
  · exact HomeStep.refl s

theorem dirInvalidate_home (s : State) (l : Nat) : HomeStep s (dirInvalidate s l) := by
  unfold dirInvalidate
  split
  · exact HomeStep.refl s
  · exact (HomeStep.foldl _ (fun s h => (flushHolder_home s h l).trans (setHolder_home _ _ _ _)) _ _).trans
      (setDir_home _ _ _)

theorem dirShare_home (s : State) (l : Nat) : HomeStep s (dirShare s l) := by
  unfold dirShare
  split
  · split
    · refine (HomeStep.foldl _ (fun s h => ?_) _ _).trans (setDir_home _ _ _)
      split
      · exact (flushHolder_home _ _ _).trans (setHolder_home _ _ _ _)
      · exact HomeStep.refl s
    · exact HomeStep.refl s
  · exact HomeStep.refl s

theorem dirRefuse_home (s : State) (p l : Nat) : HomeStep s (dirRefuse s p l) :=
  (HomeStep.fsat _ _ _ (by decide)).trans (HomeStep.fset _ _ _ (by decide))

theorem readNC_home (s : State) (w : Who) (p : Piece) : HomeStep s (readNC s w p).1 := by
  unfold readNC
  dsimp only
  split
  · exact HomeStep.refl s
  · split
    · exact dirRefuse_home _ _ _
    · have h : HomeStep s (meter (finc (finc (dirShare s (p.addr / 64)) .HBM_READ_BYTES_COUNT (p.addr / sliceBytes / 16))
          .DEP_MISSES_COUNT (p.addr / sliceBytes)) w.part w.oper mHbm 1) :=
        (dirShare_home _ _).trans ((HomeStep.finc _ _ _ (by decide)).trans ((HomeStep.finc _ _ _ (by decide)).trans
          (meter_home _ _ _ _ _)))
      split
      · exact h.trans (ueFound_home _ _ _ _ _)
      · exact h

theorem writeNC_home (s : State) (w : Who) (l : Nat) (d : LineData) : HomeStep s (writeNC s w l d) := by
  unfold writeNC
  dsimp only
  split
  · exact HomeStep.refl s
  · split
    · exact dirRefuse_home _ _ _
    · exact (dirInvalidate_home _ _).trans ((HomeStep.finc _ _ _ (by decide)).trans ((HomeStep.finc _ _ _ (by decide)).trans
        ((meter_home _ _ _ _ _).trans (storeLine_home _ _ _))))

theorem atomAt_home (s : State) (k a : Nat) (w : Bool) (x : AtomDo) : HomeStep s (atomAt s k a w x).1 := by
  unfold atomAt
  dsimp only
  have h : HomeStep s (if isUe s (a / 64) then ueFound s k (a / 64) w 0 else s) := by
    split
    · exact ueFound_home _ _ _ _ _
    · exact HomeStep.refl s
  split
  · exact h.trans (storeLine_home _ _ _)
  · exact h

theorem atomCount_home (s : State) (w : Who) (k : Nat) (b : Bool) : HomeStep s (atomCount s w k b) := by
  unfold atomCount
  dsimp only
  refine HomeStep.trans ((HomeStep.finc s (f := .DEP_MISSES_COUNT) k 1 (by decide)).trans
    (HomeStep.finc _ (f := .HBM_READ_BYTES_COUNT) (k / 16) 1 (by decide))) (HomeStep.trans ?_ (meter_home _ _ _ _ _))
  split
  · exact HomeStep.finc _ _ _ (by decide)
  · exact HomeStep.refl _

theorem atomicAt_home (s : State) (w : Who) (a : Nat) (x : AtomDo) : HomeStep s (atomicAt s w a x).1 := by
  unfold atomicAt
  split
  · split
    · exact HomeStep.refl s
    · split
      · exact HomeStep.fsat _ _ _ (by decide)
      · exact (atomAt_home _ _ _ _ _).trans (atomCount_home _ _ _ _)
  · split
    · exact HomeStep.refl s
    · split
      · exact dirRefuse_home _ _ _
      · exact (dirInvalidate_home _ _).trans ((atomAt_home _ _ _ _ _).trans (atomCount_home _ _ _ _))
  · split
    · exact HomeStep.fsat _ _ _ (by decide)
    · split
      · exact HomeStep.refl s
      · exact (HomeStep.finc _ _ _ (by decide)).trans <| (meter_home _ _ _ _ _).trans (atomAt_home _ _ _ _ _)
  · repeat' split
    all_goals first
      | exact HomeStep.refl s
      | exact HomeStep.fset _ _ _ (by decide)
      | (dsimp only; split
         · exact HomeStep.of_rest rfl rfl
         · exact HomeStep.refl s)
  · exact HomeStep.refl s
  · exact HomeStep.refl s

theorem readAt_home (s : State) (w : Who) (p : Piece) (nt st : Bool) : HomeStep s (readAt s w p nt st).1 := by
  unfold readAt
  split
  · exact homeRead_home _ _ _ _ _ _
  · exact readNC_home _ _ _
  · exact stationRead_home _ _ _ _ _
  · exact windowRead_home _ _ _ _ _
  · exact HomeStep.refl s
  · exact HomeStep.refl s

theorem writeAt_home (s : State) (w : Who) (l : Nat) (d : LineData) : HomeStep s (writeAt s w l d) := by
  unfold writeAt
  split
  · exact homeWrite_home _ _ _ _ _
  · exact writeNC_home _ _ _ _
  · exact stationWrite_home _ _ _ _ _
  · exact windowWrite_home _ _ _ _ _ _
  · exact HomeStep.refl s
  · exact HomeStep.refl s

/-! Station caches. -/

theorem scSet_home (s : State) (st set way : Nat) (l : Option CLine) : HomeStep s (scSet s st set way l) :=
  HomeStep.of_rest rfl rfl

theorem scTouch_home (s : State) (st set way : Nat) : HomeStep s (scTouch s st set way) := HomeStep.of_rest rfl rfl

theorem scWriteBack_home (s : State) (st : Nat) (l : CLine) : HomeStep s (scWriteBack s st l) := by
  unfold scWriteBack
  split
  · exact HomeStep.refl s
  · exact (writeAt_home _ _ _ _).trans (HomeStep.finc _ _ _ (by decide))

theorem scEvict_home (s : State) (st set way : Nat) : HomeStep s (scEvict s st set way) := by
  unfold scEvict
  split
  · exact (scWriteBack_home _ _ _).trans (scSet_home _ _ _ _ _)
  · exact HomeStep.refl s

theorem scInstall_home (s : State) (st : Nat) (l : CLine) : HomeStep s (scInstall s st l) :=
  (scEvict_home _ _ _ _).trans ((scSet_home _ _ _ _ _).trans (scTouch_home _ _ _ _))

theorem scRead_home (s : State) (w : Who) (st : Nat) (p : Piece) (nt str : Bool) :
    HomeStep s (scRead s w st p nt str).1 := by
  have hm : ∀ u : State, HomeStep u (finc u .SC_MISSES_COUNT st) := fun u => HomeStep.finc u st 1 (by decide)
  unfold scRead
  dsimp only
  split
  · next way l _ =>
    split
    · exact (scTouch_home _ _ _ _).trans ((HomeStep.finc _ _ _ (by decide)).trans (scSet_home _ _ _ _ _))
    · refine (scTouch_home s st (scIndex (p.addr / 64)) way).trans ((hm _).trans ?_)
      dsimp only
      split
      · exact readAt_home _ _ _ _ _
      · exact (readAt_home _ _ _ _ _).trans (scSet_home _ _ _ _ _)
  · refine (hm s).trans ?_
    split
    · exact readAt_home _ _ _ _ _
    · exact (readAt_home _ _ _ _ _).trans (scInstall_home _ _ _)

theorem scWrite_home (s : State) (w : Who) (st line : Nat) (d : LineData) (nt : Bool) :
    HomeStep s (scWrite s w st line d nt) := by
  unfold scWrite
  split
  · exact (HomeStep.finc _ _ _ (by decide)).trans ((scTouch_home _ _ _ _).trans (scSet_home _ _ _ _ _))
  · split
    · exact (HomeStep.finc _ _ _ (by decide)).trans (writeAt_home _ _ _ _)
    · exact (HomeStep.finc _ _ _ (by decide)).trans (scInstall_home _ _ _)

theorem scBypass_home (s : State) (st line : Nat) : HomeStep s (scBypass s st line) := by
  unfold scBypass
  split
  · exact scEvict_home _ _ _ _
  · exact HomeStep.refl s

theorem dillTake_home (s : State) (t : Stream) (r : Bool) : HomeStep s ((dillTake s t r).getD s) := by
  unfold dillTake
  split
  · exact HomeStep.of_rest rfl rfl
  · split
    · exact HomeStep.refl s
    · split
      · exact HomeStep.of_rest rfl rfl
      · exact HomeStep.refl s

theorem dillMiss_home (s : State) (w : Who) (st line : Nat) : HomeStep s (dillMiss s w st line) := by
  unfold dillMiss
  dsimp only
  generalize SMap.set _ s.missHist st _ = h
  refine HomeStep.trans (HomeStep.of_rest (s := s) (t := { s with missHist := h }) rfl rfl) ?_
  split
  · exact HomeStep.refl _
  · split
    · split
      · exact HomeStep.refl _
      · exact HomeStep.of_rest rfl rfl
    · split
      · split
        · exact dillTake_home _ _ _
        · exact HomeStep.refl _
      · exact HomeStep.refl _

theorem dillStream_home (s : State) (p sub core k rows : Nat) (st : Int) (base : Nat) :
    HomeStep s (dillStream s p sub core k rows st base) := by
  unfold dillStream
  dsimp only
  split
  · split
    · exact HomeStep.refl s
    · exact HomeStep.of_rest rfl rfl
  · exact dillTake_home _ _ _

theorem scPrefetch_home (s : State) (w : Who) (st line : Nat) : HomeStep s (scPrefetch s w st line) := by
  unfold scPrefetch
  dsimp only
  split
  · exact HomeStep.refl s
  · split
    · exact readAt_home _ _ _ _ _
    · exact (readAt_home _ _ _ _ _).trans (scInstall_home _ _ _)

/-! Agents' reads. -/

theorem noticeRead_home (s : State) : HomeStep s (noticeRead s).1 := by
  unfold noticeRead
  split
  · exact HomeStep.refl s
  · exact HomeStep.of_rest rfl rfl

theorem pieceRead_home (s : State) (w : Who) (st : Option Nat) (c nt str : Bool) (p : Piece) :
    HomeStep s (pieceRead s w st c nt str p).1 := by
  unfold pieceRead
  split
  · dsimp only [aliasAfter]
    split
    · exact noticeRead_home s
    · exact HomeStep.refl s
  · split
    · split
      · dsimp only
        split
        · exact scRead_home _ _ _ _ _ _
        · exact (scRead_home _ _ _ _ _ _).trans (dillMiss_home _ _ _ _)
      · exact (scBypass_home _ _ _).trans (readAt_home _ _ _ _ _)
    · exact readAt_home _ _ _ _ _
  · exact readAt_home _ _ _ _ _

theorem readPieces_home (w : Who) (st : Option Nat) (c nt str : Bool) (ok : Piece → Bool) (ps : List Piece) (s : State) :
    HomeStep s (readPieces w st c nt str ok ps s).1 := by
  induction ps generalizing s with
  | nil => exact HomeStep.refl s
  | cons p ps ih =>
    unfold readPieces
    dsimp only
    split
    · exact (pieceRead_home _ _ _ _ _ _ _).trans (ih _)
    · exact ih _

theorem reach_home (s : State) (ps : List Piece) : HomeStep s (reach s ps) := by
  unfold reach
  split
  · exact HomeStep.of_rest rfl rfl
  · exact HomeStep.refl s

/-- A checked read changes nothing but what a home may change. -/
theorem agentRead_home (s : State) (w : Who) (st : Option Nat) (c nt str : Bool) (a n : Nat) :
    HomeStep s (agentRead s w st c nt str a n).1 :=
  (reach_home _ _).trans ((checkAccess_home _ _ _ _).trans (readPieces_home _ _ _ _ _ _ _ _))

theorem devRead_home (s : State) (w : Who) (a n : Nat) : HomeStep s (devRead s w a n).1 := agentRead_home _ _ _ _ _ _ _ _

/-- A command of an agent none of whose accesses is held. -/
theorem patient_next {s t : State} {f : State → Out} (h : f { s with stalled := false } = .next t)
    (ht : t.stalled = false) : patient s f = .next t := by
  simp [patient, h, ht]

/-- One with an access that is held changes nothing. -/
theorem patient_held {s t : State} {f : State → Out} (h : f { s with stalled := false } = .next t)
    (ht : t.stalled = true) : patient s f = .next s := by
  simp [patient, h, ht]

/-! Agents' writes and atomics, registers apart. -/

/-- A piece lies outside the device registers. -/
abbrev Piece.plain (p : Piece) : Prop := ∀ off, regionOf p.addr ≠ .register off

theorem pieceWrite_home (s : State) (w : Who) (st : Option Nat) (c nt : Bool) (p : Piece) (bs : List Byte) (h : p.plain) :
    HomeStep s (pieceWrite s w st c nt p bs) := by
  unfold pieceWrite
  split
  · next hr => exact absurd hr (h _)
  · split
    · split
      · dsimp only
        split
        · exact scWrite_home _ _ _ _ _ _
        · exact (scWrite_home _ _ _ _ _ _).trans (dillMiss_home _ _ _ _)
      · exact (scBypass_home _ _ _).trans (writeAt_home _ _ _ _)
    · exact writeAt_home _ _ _ _
  · exact writeAt_home _ _ _ _

theorem writePieces_home (w : Who) (st : Option Nat) (c nt : Bool) (ok : Piece → Bool) (ps : List Piece) (bs : List Byte)
    (s : State) (h : ∀ p ∈ ps, p.plain) : HomeStep s (writePieces w st c nt ok ps bs s) := by
  induction ps generalizing s bs with
  | nil => exact HomeStep.refl s
  | cons p ps ih =>
    unfold writePieces
    split
    · exact (pieceWrite_home _ _ _ _ _ _ _ (h p (by simp))).trans (ih _ _ (fun q hq => h q (by simp [hq])))
    · exact ih _ _ (fun q hq => h q (by simp [hq]))

theorem devWrite_home (s : State) (w : Who) (a : Nat) (bs : List Byte) (h : ∀ p ∈ pieces a bs.length, p.plain) :
    HomeStep s (devWrite s w a bs) :=
  (reach_home _ _).trans ((checkAccess_home _ _ _ _).trans (writePieces_home _ _ _ _ _ _ _ _ h))

theorem agentAtomic_home (s : State) (w : Who) (st : Option Nat) (a : Nat) (x : AtomDo) :
    HomeStep s (agentAtomic s w st a x).1 := by
  unfold agentAtomic
  dsimp only
  refine (reach_home s (pieces a x.bytes)).trans ?_
  split
  · refine (checkAccess_home _ w .atomic (pieces a x.bytes)).trans (HomeStep.trans ?_ (atomicAt_home _ _ _ _))
    split
    · split
      · exact scBypass_home _ _ _
      · exact HomeStep.refl _
    · exact HomeStep.refl _
  · exact checkAccess_home _ _ _ _

end Sys2Proof.Machine
end

