-- ==== Sys2Proof/Laws/Memory.lean ====
section
/-! SUPPORT. Every operation that writes device memory keeps its canonical form, and the machine after reset has it. -/
namespace Sys2Proof.Machine

theorem meter_mem (s : State) (p : Nat) (o : Bool) (m n : Nat) : (meter s p o m n).mem = s.mem := by
  unfold meter; split <;> rfl

theorem raiseTrouble_mem (s : State) (p : Option Nat) (o : Bool) (c : Trouble) : (raiseTrouble s p o c).mem = s.mem := by
  unfold raiseTrouble; repeat' split
  all_goals rfl

theorem ueFound_mem (s : State) (k line : Nat) (w : Bool) (kind : Nat) : (ueFound s k line w kind).mem = s.mem := by
  unfold ueFound
  simp only [raiseTrouble_mem]
  split
  · rfl
  · split <;> rfl

theorem reset_memory_wf : Memory.wf State.reset.mem := by decide

theorem Memory.wf_putAll (m : Bytes) (ds : LineData) (h : Memory.wf m) : Memory.wf (Bytes.putAll m ds) := by
  unfold Bytes.putAll
  induction ds generalizing m with
  | nil => exact h
  | cons d ds ih => exact ih _ (Memory.wf_set m d.1 d.2 h)

theorem storeLine_memory (s : State) (line : Nat) (data : LineData) (h : Memory.wf s.mem) :
    Memory.wf (storeLine s line data).mem := by
  unfold storeLine
  split
  · exact Memory.wf_putAll _ _ (Memory.wf_write _ _ _ h)
  · exact Memory.wf_putAll _ _ h

theorem stationWrite_memory (s : State) (w : Who) (k off : Nat) (data : LineData) (h : Memory.wf s.mem) :
    Memory.wf (stationWrite s w k off data).mem := by
  unfold stationWrite
  repeat' split
  · exact h
  · exact h
  · exact h
  · exact Memory.wf_putAll _ _ h

theorem homeWrite_memory (s : State) (w : Who) (k line : Nat) (data : LineData) (h : Memory.wf s.mem) :
    Memory.wf (homeWrite s w k line data).mem := by
  unfold homeWrite
  repeat' split
  · exact h
  · exact h
  · refine storeLine_memory _ _ _ ?_
    simp only [meter_mem]
    exact h

theorem windowWrite_memory (s : State) (w : Who) (k off line : Nat) (data : LineData) (h : Memory.wf s.mem) :
    Memory.wf (windowWrite s w k off line data).mem := by
  unfold windowWrite
  repeat' split
  · exact h
  · exact h
  · refine storeLine_memory _ _ _ ?_
    simp only [meter_mem]
    exact h

theorem atomAt_memory (s : State) (k a : Nat) (window : Bool) (x : AtomDo) (h : Memory.wf s.mem) :
    Memory.wf (atomAt s k a window x).1.mem := by
  unfold atomAt
  have hs : ∀ b : Bool, Memory.wf (if b then ueFound s k (a / 64) window 0 else s).mem := by
    intro b; split
    · rw [ueFound_mem]; exact h
    · exact h
  dsimp only
  split
  · exact storeLine_memory _ _ _ (hs _)
  · exact hs _

theorem stnWrite_memory (s : State) (k off : Nat) (bs : List Byte) (h : Memory.wf s.mem) :
    Memory.wf (stnWrite s k off bs).mem := Memory.wf_write _ _ _ h

theorem clearMem_memory (s : State) (lo hi : Nat) (h : Memory.wf s.mem) : Memory.wf (clearMem s lo hi).mem :=
  SMap.wf_clear zeroByte s.mem (fun a => decide (lo ≤ a) && decide (a < hi)) h

theorem carry_reset_memory (s : State) : Memory.wf (carry s State.reset).mem := reset_memory_wf

theorem coldReset_memory (s : State) (why : OffCause) : Memory.wf (coldReset s why).mem := reset_memory_wf

end Sys2Proof.Machine
end

