-- ==== Sys2Proof/Laws/Sage.lean ====
section
/-! SUPPORT. What issuing an instruction of a Sage core does, once for all opcodes; and the laws of a core's register
files. -/
namespace Sys2Proof.Machine

/-! Frames of registers. -/

theorem SameRegs.refl (ks : List (F × Nat)) (s : State) : SameRegs ks s s := fun _ _ _ _ => rfl

theorem SameRegs.trans {ks : List (F × Nat)} {s t u : State} (h : SameRegs ks s t) (h' : SameRegs ks t u) :
    SameRegs ks s u := fun f i hi hn => (h' f i hi hn).trans (h f i hi hn)

/-- A store of a listed field is within the frame. -/
theorem SameRegs.fset {ks : List (F × Nat)} (s : State) {f : F} {i : Nat} (v : Nat) (hi : i < 65536)
    (hm : (f, i) ∈ ks) : SameRegs ks s (fset s f i v) := by
  intro g j hj hn
  refine fget_fset_key s v (fun e => hn ?_)
  obtain ⟨rfl, h2⟩ := fkey_inj e
  rw [Nat.mod_eq_of_lt hj, Nat.mod_eq_of_lt hi] at h2
  exact h2 ▸ hm

theorem SameRegs.of_regs {ks : List (F × Nat)} {s t : State} (h : t.regs = s.regs) : SameRegs ks s t := by
  intro f i _ _; simp [fget, h]

/-! Issue. -/

theorem nextInsn_of_issues {s : State} {c : Nat} {w : BitVec 128} (h : Issues s c w) :
    nextInsn s c = some (getCore s c, Insn.ofWord w, fget s .SAGE_PC_PC c) := by
  obtain ⟨h1, h2, h3, h4, h5, h6, h7, -⟩ := h
  simp [nextInsn, h1, h2, h3, h4, h5, h6, h7]

/-- The state in which the effect of an issuing instruction is computed: the corrected error is counted, and the
instruction has retired. -/
def issued (s : State) (c : Nat) (ecc : Ecc) : State :=
  retire (match ecc with | .corrected => fsat s .SAGE_ECC_COUNT_CORRECTED c | _ => s) c

theorem issue_eq {s : State} {c : Nat} {w : BitVec 128} {ecc : Ecc} {op : Nat}
    (eff : State → Core → Insn → Nat → Issue) (h : Issues s c w) (ho : (Insn.ofWord w).opc = op)
    (he : ecc ≠ .uncorrectable) :
    issue op c ecc s eff = .next
      (match eff (issued s c ecc) (getCore s c) (Insn.ofWord w) (fget s .SAGE_PC_PC c) with
       | .hold => (match ecc with | .corrected => fsat s .SAGE_ECC_COUNT_CORRECTED c | _ => s)
       | .fault code detail => faultCore (issued s c ecc) c code detail (fget s .SAGE_PC_PC c)
       | .seq u => goNext u c (Insn.ofWord w) (fget s .SAGE_PC_PC c)
       | .done u => u) := by
  have hl := h.2.2.2.2.2.2.2
  unfold issue
  rw [nextInsn_of_issues h]
  cases ecc with
  | uncorrectable => exact absurd rfl he
  | clean => simp_all [issueEcc, issued] <;> rfl
  | corrected => simp_all [issueEcc, issued] <;> rfl

theorem issued_cores (s : State) (c : Nat) (ecc : Ecc) : (issued s c ecc).cores = s.cores := by
  cases ecc <;> rfl

theorem issued_mem (s : State) (c : Nat) (ecc : Ecc) : (issued s c ecc).mem = s.mem := by
  cases ecc <;> rfl

theorem getCore_issued (s : State) (c : Nat) (ecc : Ecc) (d : Nat) : getCore (issued s c ecc) d = getCore s d := by
  unfold getCore; rw [issued_cores]

theorem fget_issued {s : State} {c : Nat} {ecc : Ecc} {f : F} (j : Nat) (h1 : f ≠ .SAGE_RETIRED_COUNT)
    (h2 : f ≠ .SAGE_ECC_COUNT_CORRECTED) : fget (issued s c ecc) f j = fget s f j := by
  cases ecc <;> simp [issued, retire, h1, h2]

theorem issued_retired (s : State) (c : Nat) (ecc : Ecc) :
    fget (issued s c ecc) .SAGE_RETIRED_COUNT c = (fget s .SAGE_RETIRED_COUNT c + 1) % 2 ^ 64 := by
  cases ecc <;> simp [issued, retire] <;> rfl

theorem sameRegs_issued (s : State) {c : Nat} (hc : c < 65536) (ecc : Ecc) :
    SameRegs [(.SAGE_PC_PC, c), (.SAGE_RETIRED_COUNT, c), (.SAGE_ECC_COUNT_CORRECTED, c)] s (issued s c ecc) := by
  have hr : ∀ u : State, SameRegs [(.SAGE_PC_PC, c), (.SAGE_RETIRED_COUNT, c), (.SAGE_ECC_COUNT_CORRECTED, c)] u (retire u c) :=
    fun u => SameRegs.fset u _ hc (by simp)
  cases ecc with
  | corrected => exact (SameRegs.fset s _ hc (by simp)).trans (hr _)
  | clean => exact hr s
  | uncorrectable => exact hr s

/-- An instruction whose effect is on its own core alone: the core's new state, and what goes on. -/
theorem issuePure_spec {s : State} {c : CoreId} {w : BitVec 128} {ecc : Ecc} {op : Nat} {f : Insn → Core → CoreRes}
    {k' : Core} (h : Issues s c w) (ho : (Insn.ofWord w).opc = op) (he : ecc ≠ .uncorrectable) (hp : Proceeds s c)
    (hf : f (Insn.ofWord w) (getCore s c) = .ok k') (hl : k'.loops = (getCore s c).loops)
    (hk : k'.code = (getCore s c).code) :
    ∃ t, issuePure op c ecc s f = .next t ∧ WentOn s t c ∧ OnlyCore s t c ∧
      getCore t c = { k' with loops := (nextOf s c).1 } := by
  have hc : c.val < 65536 := by have := c.isLt; omega
  refine ⟨_, issue_eq _ h ho he, ?_⟩
  simp only [hf]
  have hn : (seqPc (getCore (setCore (issued s c ecc) c k') c).loops (fget s .SAGE_PC_PC c + 1)) = nextOf s c := by
    rw [getCore_setCore_same, hl]
  unfold goNext
  simp only [hn]
  unfold goTo
  have hp' : (nextOf s c).2 < k'.code.length := by rw [hk]; exact hp
  simp only [getCore_setCore_same]
  rw [if_pos hp']
  refine ⟨⟨?_, ?_, ?_, ?_⟩, ⟨?_, ?_, ?_⟩, ?_⟩
  · simp [coreState, fget_issued]
  · simp; rfl
  · simp [getCore]
    simp [setCore]
  · rw [fget_fset_field _ _ _ _ (by simp)]; exact issued_retired s c ecc
  · exact ((sameRegs_issued s hc ecc).trans (SameRegs.of_regs rfl)).trans (SameRegs.fset _ _ hc (by simp))
  · intro a; simp [issued_mem]
  · intro d hd
    simp [getCore, setCore, SMap.get_set_other _ _ _ hd, issued_cores]
  · simp [getCore, setCore]

/-! Register files. -/

theorem accPut_acc (k : Core) (n r c : Nat) (vs : List W32) : ∃ m, k.accPut n r c vs = { k with acc := m } := by
  induction vs generalizing k c with
  | nil => exact ⟨k.acc, rfl⟩
  | cons v vs ih =>
    obtain ⟨m, hm⟩ := ih (k.accSet n r c v) (c + 1)
    exact ⟨m, by rw [Core.accPut, hm]; rfl⟩

theorem accGet_accSet (k : Core) (n r c : Nat) (v : W32) (n' r' c' : Nat) (hr : r < 64) (hc : c < 64) (hr' : r' < 64)
    (hc' : c' < 64) :
    (k.accSet n r c v).accGet n' r' c' = if n' = n ∧ r' = r ∧ c' = c then v else k.accGet n' r' c' := by
  unfold Core.accGet Core.accSet
  rw [SMap.get_set]
  by_cases h : n' = n ∧ r' = r ∧ c' = c
  · rw [if_pos h, if_pos (by omega)]
  · rw [if_neg h, if_neg (by omega)]

/-- What a row written from a column on reads as. -/
theorem accGet_accPut (k : Core) (n r c : Nat) (vs : List W32) (n' r' c' : Nat) (hr : r < 64) (hc : c + vs.length ≤ 64)
    (hr' : r' < 64) (hc' : c' < 64) :
    (k.accPut n r c vs).accGet n' r' c' =
      if n' = n ∧ r' = r ∧ c ≤ c' ∧ c' < c + vs.length then vs.getD (c' - c) 0 else k.accGet n' r' c' := by
  induction vs generalizing k c with
  | nil => rw [if_neg (by simp)]; rfl
  | cons v vs ih =>
    simp only [List.length_cons] at hc
    rw [Core.accPut, ih _ _ (by omega), accGet_accSet _ _ _ _ _ _ _ _ hr (by omega) hr' hc']
    by_cases h : n' = n ∧ r' = r ∧ c ≤ c' ∧ c' < c + (v :: vs).length
    · rw [if_pos h]
      obtain ⟨h1, h2, h3, h4⟩ := h
      simp only [List.length_cons] at h4
      by_cases he : c' = c
      · subst he; rw [if_neg (by omega), if_pos ⟨h1, h2, rfl⟩]; simp
      · rw [if_pos (by omega), show c' - c = (c' - (c + 1)) + 1 by omega]; simp
    · simp only [List.length_cons] at h
      rw [if_neg (by omega), if_neg (by omega), if_neg (by simp only [List.length_cons]; omega)]

theorem accRow_length (k : Core) (n r : Nat) : (k.accRow n r).length = 64 := by simp [Core.accRow]

theorem accRow_getD (k : Core) (n r c : Nat) (h : c < 64) : (k.accRow n r).getD c 0 = k.accGet n r c := by
  simp [Core.accRow, List.getD, h]

/-! The matrix unit. -/

/-- What a matrix instruction leaves in the accumulators: the rows of products in the output columns, all else kept. -/
theorem accGet_mmRows (n r0 c0 : Nat) (z : Bool) (b : List (List Num)) (as : List (List Num)) (r : Nat) (k : Core)
    (hr : r0 + r + as.length ≤ 64) (hc : c0 + b.length ≤ 64) (n' r' c' : Nat) (hr' : r' < 64) (hc' : c' < 64) :
    (mmRows n r0 c0 z b as r k).accGet n' r' c' =
      if n' = n ∧ (r0 + r ≤ r' ∧ r' < r0 + r + as.length) ∧ (c0 ≤ c' ∧ c' < c0 + b.length) then
        dot (if z then 0 else k.accGet n' r' c') (as.getD (r' - (r0 + r)) []) (b.getD (c' - c0) [])
      else k.accGet n' r' c' := by
  induction as generalizing r k with
  | nil => rw [mmRows, if_neg (by simp only [List.length_nil]; omega)]
  | cons a as ih =>
    simp only [List.length_cons] at hr
    rw [mmRows, ih _ _ (by omega)]
    have hl : ((b.zip (List.range b.length)).map (fun p =>
        dot (if z then 0 else k.accGet n (r0 + r) (c0 + p.2)) a p.1)).length = b.length := by simp
    simp only [accGet_accPut _ _ _ _ _ _ _ _ (show r0 + r < 64 by omega) (show c0 + _ ≤ 64 by rw [hl]; exact hc) hr' hc', hl]
    simp only [List.length_cons]
    by_cases h : n' = n ∧ (r0 + (r + 1) ≤ r' ∧ r' < r0 + (r + 1) + as.length) ∧ (c0 ≤ c' ∧ c' < c0 + b.length)
    · have h2 : ¬(n' = n ∧ r' = r0 + r ∧ c0 ≤ c' ∧ c' < c0 + b.length) := by omega
      have h3 : n' = n ∧ (r0 + r ≤ r' ∧ r' < r0 + r + (as.length + 1)) ∧ (c0 ≤ c' ∧ c' < c0 + b.length) := by omega
      simp only [if_pos h, if_neg h2, if_pos h3, show r' - (r0 + r) = (r' - (r0 + (r + 1))) + 1 by omega]
      simp
    · by_cases h2 : n' = n ∧ r' = r0 + r ∧ c0 ≤ c' ∧ c' < c0 + b.length
      · have h3 : n' = n ∧ (r0 + r ≤ r' ∧ r' < r0 + r + (as.length + 1)) ∧ (c0 ≤ c' ∧ c' < c0 + b.length) := by omega
        simp only [if_neg h, if_pos h2, if_pos h3]
        obtain ⟨rfl, rfl, h4, h5⟩ := h2
        have h6 : c' - c0 < b.length := by omega
        have h7 : c0 + (c' - c0) = c' := by omega
        simp [List.getD, h6, h7]
      · have h3 : ¬(n' = n ∧ (r0 + r ≤ r' ∧ r' < r0 + r + (as.length + 1)) ∧ (c0 ≤ c' ∧ c' < c0 + b.length)) := by
          omega
        simp only [if_neg h, if_neg h2, if_neg h3]

theorem mmRows_acc (n r0 c0 : Nat) (z : Bool) (b as : List (List Num)) (r : Nat) (k : Core) :
    ∃ m, mmRows n r0 c0 z b as r k = { k with acc := m } := by
  induction as generalizing r k with
  | nil => exact ⟨k.acc, rfl⟩
  | cons a as ih =>
    rw [mmRows]
    obtain ⟨m, hm⟩ := accPut_acc k n (r0 + r) c0 _
    obtain ⟨m', hm'⟩ := ih (r + 1) { k with acc := m }
    exact ⟨m', by rw [hm, hm']⟩

end Sys2Proof.Machine
end

