-- ==== Sys2Proof/WellFormed.lean ====
section
/-! DEFINITION. Which commands are well formed: operands within the widths the spec gives them.  The machine gives every
command a meaning whether it is well formed or not; the predicate says which ones a sender can send. -/
namespace Sys2Proof

/-- R111, R349, R515: a tag's fields are in range. -/
def Who.ok (w : Who) : Bool := decide (w.part < 64) && decide (w.sub < 5) && decide (w.kind < 16) && decide (w.die < 19)

/-- R241: an access stays within the 48-bit addresses and within one 64-byte line. -/
def Access.ok (a : Access) : Bool :=
  a.who.ok && decide (a.addr < 2 ^ 48) && (match a.op with
    | .read n => decide (1 ≤ n) && decide (a.addr % 64 + n ≤ 64)
    | .write d => d != [] && decide (a.addr % 64 + d.length ≤ 64)
    | .atomic op _ _ => decide (op < 9)
    | .cas _ _ _ => true)

/-- A store stays within its line. -/
def storeOk (store : Option (Nat × List Byte)) : Bool :=
  match store with
  | some x => decide (x.1 + x.2.length ≤ 64)
  | none => true

def DirAsk.ok : DirAsk → Bool
  | .gets _ part _ => decide (part < 64)
  | .getx _ part _ store => decide (part < 64) && storeOk store
  | .upgrade _ part _ store => decide (part < 64) && storeOk store
  | .nc a => a.ok

/-- R241: a line of the 48-bit addresses. -/
def DirLine.ok (l : DirLine) : Bool := decide (l.line < 2 ^ 42)

def DirWant.ok (w : DirWant) : Bool := storeOk w.store && w.rivals.all DirAsk.ok

def NcAsk.ok (q : NcAsk) : Bool := q.access.ok && q.rivals.all DirAsk.ok

/-- R115, R467: a mesh packet names junctions and a class. -/
def MeshPacket.ok (p : MeshPacket) : Bool := decide (p.srcDie < 16) && decide (p.dstDie < 16) && decide (p.src < 30) && decide (p.dst < 30) && decide (p.part < 64) && decide (p.cls < 8)

/-- R102-R104: a launch's operands are in range. -/
def LaunchReq.ok (r : LaunchReq) : Bool :=
  decide (r.part < 64) && decide (r.image < 2 ^ 48) && decide (r.rank < r.size) && decide (1 ≤ r.here) &&
  decide (r.here ≤ r.size) && decide (r.here ≤ 1536) && decide (r.label < 8)

/-- R365: the fields of a Belyan header are in range, and the payload is 0 to 256 bytes. -/
def Packet.ok (k : Packet) : Bool :=
  decide (1 ≤ k.typ) && decide (k.typ ≤ 9) && decide (k.vc < 4) && decide (k.dir < 2) && decide (k.dim < 3) &&
  decide (k.dst < 1024) && decide (k.src < 1024) && decide (k.part < 64) && decide (k.tc < 8) && decide (k.consist < 65536) &&
  decide (k.epoch < 65536) && decide (k.deadline < 65536) && decide (k.tag < 65536) && decide (k.addr < 2 ^ 48) &&
  decide (k.srcDie < 16) && decide (k.len ≤ 256) && decide (k.aop ≤ 9) && decide (k.hops < 256) &&
  decide (k.payload.length ≤ 256)

/-- The well-formed commands. -/
def Instr.wf : Instr → Bool
  | .registerWrite _ off bytes value => (bytes == 4 || bytes == 8) && off % bytes == 0 && decide (value < 2 ^ (8 * bytes))
  | .sageNop _ _ => true
  | .illegalOp _ _ => true
  | .tld _ _ => true
  | .tst _ _ => true
  | .ald _ _ => true
  | .ast _ _ => true
  | .sld _ _ => true
  | .sst _ _ => true
  | .pref _ _ => true
  | .mma _ _ => true
  | .mmax _ _ => true
  | .zeroReg _ _ => true
  | .tmov _ _ => true
  | .cvt _ _ => true
  | .dq _ _ => true
  | .vop _ _ => true
  | .vfma _ _ => true
  | .vun _ _ => true
  | .vact _ _ => true
  | .vsel _ _ => true
  | .vrot _ _ => true
  | .red _ _ => true
  | .smx _ _ => true
  | .smxf _ _ => true
  | .flush _ _ => true
  | .sageFence _ _ => true
  | .rel _ _ => true
  | .acq _ _ => true
  | .atom _ _ => true
  | .cas _ _ => true
  | .salu _ _ => true
  | .smov _ _ => true
  | .amov _ _ => true
  | .movsr _ _ => true
  | .br _ _ => true
  | .loopOp _ _ => true
  | .waitr _ _ => true
  | .waitrPollRead _ => true
  | .waitrTimeout _ => true
  | .bar _ _ => true
  | .barrierRelease _ _ => true
  | .endProg _ _ => true
  | .sageAccessComplete _ _ _ => true
  | .launchAssign _ r => r.ok
  | .loadComplete _ => true
  | .coreDrained _ => true
  | .coreFence _ => true
  | .coreRelease _ => true
  | .composeBindStation _ => true
  | .bindingReply _ => true
  | .stationMeshAccess _ a _ => a.ok
  | .meshPacketHop _ junction p _ => decide (junction < 30) && p.ok
  | .signalDeliver _ _ _ _ => true
  | .kvgDoorbell _ ring tail => decide (ring < 2) && decide (tail < 256)
  | .kvgFetch _ _ => true
  | .kvgWrite _ => true
  | .kvgMark _ => true
  | .kvgRseedWrite _ _ => true
  | .ptsDoorbell _ _ tail => decide (tail < 64)
  | .route _ _ _ _ => true
  | .pointsCombine _ _ _ _ => true
  | .partialTimeout _ _ _ _ => true
  | .blDoorbell _ _ tail => decide (tail < 64)
  | .build _ => true
  | .accept _ => true
  | .commit _ => true
  | .blCancel _ => true
  | .submit _ _ _ _ _ => true
  | .requestCancel _ => true
  | .stepBoundary _ _ _ _ _ => true
  | .grantRetry _ _ _ => true
  | .spillComplete _ _ _ _ _ => true
  | .importComplete _ _ => true
  | .exportComplete _ _ => true
  | .hbmAccess a cls queues _ _ => a.ok && decide (cls < 8) && decide (queues.length = 32) && queues.all (fun n => decide (n ≤ 64))
  | .fbLevelFall _ occupancy => decide (occupancy ≤ 64)
  | .patrolRead _ _ _ _ => true
  | .scrubStart _ => true
  | .scrubComplete _ => true
  | .pinWaysWrite _ ways => decide (ways < 32)
  | .dillDeclare _ w addr => w.ok && decide (addr < 2 ^ 48) && addr % 32 == 0
  | .warmStreamDone _ _ => true
  | .prefetchIssue _ _ => true
  | .prefetchFill _ => true
  | .laneRetire _ _ => true
  | .riscvInstruction _ _ _ => true
  | .fenceI _ => true
  | .conductorFence _ => true
  | .conductorAmo _ _ => true
  | .conductorLr _ _ => true
  | .conductorSc _ _ => true
  | .lrDeferExpire _ => true
  | .sigsend _ => true
  | .sigrecv _ => true
  | .wfs _ => true
  | .wfsTimeout _ => true
  | .psort _ => true
  | .sortComplete _ => true
  | .machineTimerInterrupt _ => true
  | .gets _ l part _ rivals => l.ok && decide (part < 64) && rivals.all DirAsk.ok
  | .getx _ l part _ want => l.ok && decide (part < 64) && want.ok
  | .upgrade _ l tag want => l.ok && decide (tag.part < 64) && want.ok
  | .putm _ l => l.ok
  | .putc _ l => l.ok
  | .readnc q => q.ok
  | .writenc q => q.ok
  | .atomicnc q => q.ok
  | .snoopResponse _ _ => true
  | .writebackRetired _ => true
  | .dirRetry _ => true
  | .cndSwitch _ => true
  | .cndRun _ _ => true
  | .ctlLock _ => true
  | .bind => true
  | .release => true
  | .form => true
  | .rebind => true
  | .rebindReady _ => true
  | .memberReady _ dev crc _ => decide (dev < 1024) && decide (crc < 2 ^ 32)
  | .epochSwitch _ => true
  | .epochDrained _ _ => true
  | .drainLimitExpire _ => true
  | .dissolve => true
  | .dissolveLimitExpire _ _ => true
  | .lend => true
  | .withdraw => true
  | .withdrawRecallTimeout => true
  | .role => true
  | .noticeReceive kind slice dev consist => decide (kind < 256) && decide (slice < 256) && decide (dev < 1024) && decide (consist < 65536)
  | .compNoticeRead => true
  | .blyLockWrite => true
  | .portEnable _ _ => true
  | .retrain _ => true
  | .presenceChange _ _ => true
  | .trainingComplete _ _ dev peer => decide (dev < 1024) && decide (peer < 6)
  | .trainingTimeout _ => true
  | .flitReceive _ _ => true
  | .replayTimeout _ => true
  | .lossOfSignal _ => true
  | .autoRetrain _ => true
  | .linkdown _ c => decide (c < 1024)
  | .linkup _ c => decide (c < 1024)
  | .packetForward _ k => k.ok
  | .blyRead _ k => k.ok
  | .blyWrite _ k => k.ok
  | .blyAtomic _ k => k.ok
  | .blyReadResp _ k => k.ok
  | .blyWriteAck _ k => k.ok
  | .blyAtomicResp _ k => k.ok
  | .blySignal _ k => k.ok
  | .remoteTimeout _ => true
  | .tagQuarantineEnd _ => true
  | .doorbell _ ring _ => decide (ring < 262144)
  | .ringConfigure _ => true
  | .ringDisable _ => true
  | .ringRead _ => true
  | .ringDrained _ => true
  | .descriptorFetch _ => true
  | .descriptorArrive _ _ => true
  | .qeNop _ => true
  | .copy _ => true
  | .copyChannelAssign _ => true
  | .launch _ => true
  | .serve _ _ => true
  | .stop _ => true
  | .hint _ => true
  | .interruptModerationTimer _ => true
  | .atsTranslationComplete _ _ size _ _ _ => decide (4096 ≤ size)
  | .invalidateRequest _ _ _ _ => true
  | .invalidateComplete _ => true
  | .hostReadCompletion _ _ => true
  | .completionTimeout _ => true
  | .flr _ => true
  | .d3hotEntry _ => true
  | .vfEnableClear => true
  | .hotReset => true
  | .surpriseLinkDown => true
  | .shutdownResume _ => true
  | .configRequest _ _ => true
  | .ctxCreate _ => true
  | .ctxDestroy _ => true
  | .ctxDestroyResume _ => true
  | .objCreate _ => true
  | .objMap _ => true
  | .objUnmap _ => true
  | .objectFreed _ _ => true
  | .forcedTeardownLimit _ _ => true
  | .fenceCreate _ => true
  | .fenceSignal _ => true
  | .fenceWait _ => true
  | .fenceWaitTimeout _ => true
  | .fenceDestroy _ => true
  | .ctxQuery _ => true
  | .contextSwapIn => true
  | .slotLoaded _ => true
  | .slotSaved _ => true
  | .faultRecordFlush _ => true
  | .chvOwnerWrite _ _ _ _ _ _ => true
  | .chvStart _ _ => true
  | .chvFetch _ _ => true
  | .chvStop _ _ => true
  | .chvResume _ _ => true
  | .chvAbort _ _ => true
  | .chvDescLoaded _ => true
  | .chvDescDone _ _ => true
  | .chvBusError _ _ _ _ _ => true
  | .chvCqHeadWrite _ _ _ => true
  | .tcModeWrite mode => mode != 3
  | .deadlineMiss _ => true
  | .winCommit _ => true
  | .winCommitDone _ => true
  | .meterSnap _ => true
  | .energyAttribution => true
  | .getCert _ => true
  | .unwrap _ => true
  | .unwrapComplete _ => true
  | .fwStage _ => true
  | .fwActivate _ => true
  | .fwCommit _ => true
  | .debugRead _ => true
  | .debugWrite _ => true
  | .getVersion _ _ => true
  | .getCapabilities _ _ => true
  | .negotiateAlgorithms _ _ => true
  | .getDigests _ _ => true
  | .getCertificate _ _ => true
  | .challenge _ _ => true
  | .getMeasurements _ _ => true
  | .spdmUnsupported _ _ => true
  | .powerSample est _ _ _ => est.length == 96
  | .controlAverage => true
  | .budgetShare est _ => est.length == 3
  | .pwrCapWrite _ => true
  | .grantRequest _ _ _ _ => true
  | .grantRelease _ _ => true
  | .grantExpire _ => true
  | .prefillStarve _ => true
  | .starveLift _ => true
  | .levelReport _ _ _ _ _ => true
  | .levelSet _ _ _ _ => true
  | .levelChange _ => true
  | .droop _ => true
  | .droopEnd _ => true
  | .thermalSample temps => temps.length == 96
  | .domainIdle _ => true
  | .domainNap _ _ => true
  | .domainDeep _ _ => true
  | .domainWake _ => true
  | .domainWakeDone _ => true
  | .domainOff _ => true
  | .domainPowerRestore _ => true
  | .holdOn _ _ => true
  | .offReq _ _ => true
  | .rstCmdStation _ => true
  | .rstCmdPartition _ => true
  | .rstCmdDevice => true
  | .partReqStation _ _ => true
  | .partReqPartition _ => true
  | .rstKick _ => true
  | .coreHang _ => true
  | .loadHang _ => true
  | .kvgHang _ => true
  | .stopHang _ => true
  | .cndHang _ => true
  | .unitHang _ => true
  | .troubleEvent => true
  | .stationResetDrained _ => true
  | .regionPowerCycle _ _ => true
  | .conductorResetOverrun _ => true
  | .partitionResetDone _ _ => true
  | .partOutClear _ => true
  | .perstAssert => true
  | .perstDeassert => true
  | .mreset => true
  | .inputApplied => true
  | .powerGood => true
  | .inputUndervoltage => true
  | .inputLow mv => decide (60000 ≤ mv) && decide (mv < 66000)
  | .inputOvervoltage => true
  | .inputRecovered => true
  | .enBreak => true
  | .railShort _ => true
  | .senseFallback _ => true
  | .coolantSample _ _ => true
  | .mclkLoss => true
  | .bootCheckDone => true
  | .hbmTrainDone _ _ => true
  | .pcieLinkUp => true
  | .firmwareStart _ => true
  | .bringupReady => true
  | .entdaa _ => true
  | .setdasa _ _ => true
  | .rstdaa => true
  | .getpid _ => true
  | .getbcr _ => true
  | .getdcr _ => true
  | .getstatus _ => true
  | .enec _ _ => true
  | .disec _ _ => true
  | .getState => true
  | .getTelemetry => true
  | .setCap _ => true
  | .warmReset => true
  | .clearAlert => true
  | .getFaultLog => true
  | .enMate => true
  | .mresetRelease => true
  | .composerPeerTimeout _ => true

end Sys2Proof
end

