-- ==== Sys2Proof/Tests/Slice0.lean ====
section
/-! SUPPORT. The model's own tests: small states, a witness for the hypotheses of every statement, ill-formed commands
that WellFormed refuses, and single steps whose results the spec states. -/
set_option maxRecDepth 100000
namespace Sys2Proof.Tests
open Sys2Proof Sys2Proof.Machine
/-- Register fields set: (field, register, value). -/
def withF (s : State) (l : List (F × Nat × Nat)) : State := l.foldl (fun s e => fset s e.1 e.2.1 e.2.2) s

/-- Slice 0 is ACTIVE for partition 0, whose window 0 grants all but the registers; its region is ON. -/
def base : State :=
  withF { State.reset with wins := [(0, ⟨true, true, true, true, false, 0, regBase, 0⟩)], freeCtr := 5 }
    [(.STN_STATUS_BOUND, 0, 1), (.PWR_DOM_STATUS_STATE, 0, 0), (.COMP_SLICE_STATUS_STATE, 0, 4)]

/-! Sage cores. -/

def sageRegs : Core :=
  { Core.reset with
    launch := some ⟨1, 0, 0, 2, 3, 5, 0, [7], 64, [1, 2], 4, 0⟩
    sregs := [(1, 5), (2, 7), (3, 0x3F800000), (9, 0)]
    aregs := [(1, 4096)]
    acc := [(0, 0x3F800000), (1, 0xBF800000), (64, 0x40000000), (130, 0x40400000), (4096, 0x3F000000)]
    rowSum := [(0, 0x3F800000), (64, 0x40000000)]
    tiles := [(0, 0x38), (1, 0x40), (2, 0xB8), (5, 0x7F), (33, 0x48), (2048, 0x7F), (2049, 0x80)]
    spad := [(3, 0x3F), (7, 0x40), (64, 1), (65, 2), (4099, 0xBF)] }

/-- Core 0, with a program, a loop, and a table. -/
def coreS (code : List (BitVec 128)) (f : Core → Core) : State :=
  withF (setCore base 0 (f { sageRegs with code := code })) [(.SAGE_STATUS_STATE, 0, stRunning)]

/-- Core 0 issues an instruction; two more follow. -/
def run (i : Insn) : State := coreS [i.toWord, 0, 0] id
def ins (opc dst s1 s2 s3 fa fb rnd mod imm : Nat) : Insn := ⟨opc, dst, s1, s2, s3, fa, fb, rnd, mod, imm⟩

def entry (slot : Nat) (sp : Space) (own : Bool) (p : Payload) : Entry :=
  { slot := slot, space := sp, ownStn := own, lo := 0, hi := 2, reads := true, writes := true, release := false,
    acquire := false, scope := 0, nt := false, stream := false, rows := 1, stride := 0, payload := p, done := 0, sent := false,
    await := 0, got := [] }
/-- Core 0 has one access in flight. -/
def flying (e : Entry) : State := coreS [0, 0] (fun k => { k with table := [e] })

/-- A polling WAITR that waits since cycle 0. -/
def polling (i : Insn) : State := coreS [i.toWord, 0, 0] (fun k => { k with wait := .poll 0 0 0 false, cycles := 100 })
def launch1 : Launch := ⟨1, 0, 0, 1, 1, [(0, .running)], false, none, none, false⟩
/-- Core 0 waits at a barrier, alone in its launch. -/
def atBarrier : State :=
  { coreS [0, 0, 0] (fun k => { k with wait := .bar 2 0 0 false }) with launches := [launch1] }

/-- A barrier of scope `scope` whose launch also holds core `other` and, on other modules, `far` cores. -/
def atWider (scope other far : Nat) : State :=
  { coreS [0, 0, 0] (fun k => { k with wait := .bar scope 0 0 false }) with
    launches := [{ launch1 with size := 2 + far, here := 2, cores := [(0, .running), (other, .running)] }] }
/-- The same, all of this module's cores having arrived. -/
def allAtWider (far : Nat) : State :=
  let s := atWider 3 1 far
  withF (setCore s 1 (getCore s 0)) [(.SAGE_STATUS_STATE, 1, stRunning)]

/-- A program image at address 256: one NOP. -/
def image : List Byte :=
  leBytes 4 0x53473759 ++ leBytes 4 1 ++ leBytes 4 64 ++ leBytes 4 1 ++ leBytes 4 0 ++ leBytes 4 0 ++ leBytes 4 0 ++
  leBytes 4 0 ++ leBytes 4 64 ++ leBytes 4 16 ++ leBytes 4 128 ++ leBytes 4 0xECBB4B55
def req1 : LaunchReq := ⟨7, 0, 0, 256, [1], 0, 1, 1, 4, 0⟩
def withImage : State := { base with mem := Bytes.write [] 256 image }
def loading : State := withF (coreS [0] id) [(.SAGE_STATUS_STATE, 0, stLoading)]
def ending0 : State := withF (coreS [0] id) [(.SAGE_STATUS_STATE, 0, stEnding)]
def fenced0 : State :=
  withF (coreS [0] id) [(.SAGE_STATUS_STATE, 0, stFenced), (.STN_CORE_FENCE_FENCE, 0, 1), (.STN_CORE_FENCE_FW, 0, 1)]

/-! Stations. -/

def filled (s : State) : State := { s with mem := [(3, 1), (stnAddr 0 8, 5), (stnAddr 1 0, 6), (pinBase + 1, 7)] }
def binding : State := withF (filled base) [(.COMP_SLICE_STATUS_STATE, 0, slBinding)]
def clearing : State := withF binding [(.STN_STATUS_CLEARING, 0, 1)]
def who0 : Who := ⟨0, 0, false, 1, 0, 0, false⟩
def who9 : Who := ⟨9, 0, false, 1, 0, 0, false⟩
def rd (w : Who) (a n : Nat) : Access := ⟨w, a, .read n, false, false⟩
def wr (w : Who) (a : Nat) (bs : List Byte) : Access := ⟨w, a, .write bs, false, false⟩
def packet1 : MeshPacket := ⟨0, 1, 0, 8, false, 0, false, 2, 9, [1, 2, 3]⟩
def signalling (stop : Nat) : State :=
  { base with sigs := [⟨0, 13, ⟨6, 1, stop, 3, false, [1]⟩⟩, ⟨1, 13, ⟨2, 1, 5, 0, false, []⟩⟩] }
/-- A packet in the mesh at a junction of die 0, bound for the stop `dst` of the die `die`. -/
def inMesh (at_ die dst : Nat) : InMesh := ⟨0, at_, 0, { packet1 with dstDie := die, dst := dst }⟩
def meshed (at_ die dst : Nat) : State := { base with mesh := [inMesh at_ die dst] }
/-- What is left in the mesh when a packet's turn has come. -/
def afterMesh (s : State) (e : InMesh) : State := match meshNext s (meshOut e) with
  | some r => r.2
  | none => s
def packet2 : MeshPacket := { packet1 with dstDie := 0, dst := 8 }
def entered (s : State) (p : MeshPacket) : State := afterMesh (meshEnter s p.srcDie p) ⟨p.srcDie, p.src, s.now, { p with deadline := runDown p.deadline (stopUnits s p.srcDie p.src) }⟩
/-- The COMPOSE message of a BIND is at station 0; the station's reply is at the composer. -/
def toBind (s : State) : State := { s with stopSigs := [(0, stnJunction 0, ⟨clsCompose, 0, stnJunction 0, 0, true, []⟩)] }
def bindReplied (s : State) : State := { s with mdSigs := [⟨clsCompose, 0, mdStop, 0, true, [0]⟩] }

/-! The units' command rings. -/

def put (s : State) (l : List (Nat × List Byte)) : State := { s with mem := l.foldl (fun m e => Bytes.write m e.1 e.2) s.mem }
def zeros (n : Nat) : List Byte := List.replicate n 0

/-- A KV gate's root at 4096: two tokens long, one layer, two planes; directory at 8192; both planes' tables at 12288,
their pages at 65536.  Plane 0 is FP8, plane 1 has no page. -/
def kvTables : List (Nat × List Byte) :=
  [(4096, leBytes 4 2 ++ leBytes 2 1 ++ leBytes 1 2 ++ leBytes 1 0 ++ leBytes 8 8192),
   (8192, leBytes 8 12288 ++ leBytes 4 1 ++ leBytes 1 0), (8208, leBytes 8 12288 ++ leBytes 4 0 ++ leBytes 1 0),
   (12288, leBytes 4 1 ++ leBytes 1 127 ++ leBytes 1 1), (65536, [0x38, 0x40, 0xB8])]
def kvBytes (op flags plane count buf : Nat) : List Byte :=
  leBytes 1 op ++ leBytes 1 flags ++ leBytes 2 0 ++ leBytes 1 plane ++ leBytes 3 0 ++ leBytes 4 0 ++ leBytes 4 count ++
  leBytes 8 4096 ++ leBytes 4 buf ++ leBytes 4 0
/-- The gate of station 0 finds the command in slot 0 of ring 0, which lies at station offset 0. -/
def kvS (c : List Byte) : State :=
  withF (put { base with kvg := [(0, ⟨1, 0, 1⟩)] } ((stnAddr 0 0, c) :: kvTables)) [(.KVG_CTRL_ENABLE, 0, 1)]
/-- The same, the root in station 4, whose stop holds its accesses while it clears. -/
def kvHeld (op : Nat) : State :=
  let c := kvBytes op 0 0 1 0x1000
  withF (kvS (c.take 16 ++ leBytes 8 (stnAddr 4 0) ++ c.drop 24)) [(.STN_STATUS_CLEARING, 4, 1)]
/-- A consist of partition 0 in slot 0, whose map holds slice 0 of this device. -/
def consist0 (s : State) : State :=
  withF s [(.COMP_CONSIST_ID_STATE, 0, ctActive), (.COMP_CONSIST_ID_ID, 0, 1), (.COMP_MAP_CUR_LEN, 0, 1)]
/-- Die 0's Points unit finds a ROUTE of one token to one expert at address 0x8000; the expert's buffer lies at
offset 0x2000 of station 0. -/
def routeMem (op ready : Nat) : List (Nat × List Byte) :=
  [(0x8000, leBytes 2 op ++ leBytes 2 1 ++ leBytes 4 0 ++ leBytes 8 0x9000 ++ leBytes 8 0x9200 ++ leBytes 8 0x9400 ++
      leBytes 8 0xA000 ++ leBytes 4 64 ++ leBytes 4 64),
   (0x9000, leBytes 2 1 ++ leBytes 1 1 ++ leBytes 1 2 ++ leBytes 4 0 ++ leBytes 4 0x3F800000 ++ leBytes 4 0 ++
      leBytes 8 0 ++ leBytes 8 0x9100),
   (0x9100, leBytes 2 0 ++ leBytes 1 1 ++ leBytes 1 1 ++ leBytes 4 0x2000), (0x9200, leBytes 4 0x40000000),
   (0x9400, [1, 2, 3]),
   (stnAddr 0 0x2000, leBytes 4 0 ++ leBytes 4 4 ++ leBytes 8 0xB000 ++ leBytes 8 0xC000 ++ leBytes 4 ready),
   (0xC000, leBytes 4 0x40400000)]
def routeS (op ready : Nat) : State :=
  withF (put { consist0 base with points := [(0, ⟨[1, 0, 0, 0], 3⟩)] } (routeMem op ready)) [(.PTS_RING_BASE_ADDR, 0, 0x200)]
def route0 : Route := ⟨0, 0, 0x8000, 0, 0, 1, 64, 0xA000, [⟨0, [(0, 0)], 0, 0x2000, 0x3F800000⟩], some ⟨0, 1, 0⟩, 0⟩
def routedS (ready : Nat) : State := { routeS 1 ready with routes := [{ route0 with ring := 1 }, route0, { route0 with die := 1 }] }
/-- Branch-line commands: BUILD, ACCEPT, COMMIT, CANCEL of the record at 0x9000 and the tree at 0xA000. -/
def blBytes (op x24 x32 x48 x52 x53 x54 x56 : Nat) : List Byte :=
  leBytes 8 op ++ leBytes 8 0x9000 ++ leBytes 8 0xA000 ++ leBytes 8 x24 ++ leBytes 8 x32 ++ leBytes 8 0 ++
  leBytes 4 x48 ++ leBytes 1 x52 ++ leBytes 1 x53 ++ leBytes 2 x54 ++ leBytes 4 x56 ++ leBytes 4 0
def buildC : List Byte := blBytes 1 0 0 0 4 2 3 0
def acceptC : List Byte := blBytes 2 0xB000 0xC000 64 0 0 0 0
def commitC (k : Nat) : List Byte := blBytes 3 0 0xC000 k 0 0 0 0
def blCancelC : List Byte := blBytes 4 0 0 0 0 0 0 0
/-- A history of three tokens, a tree of two nodes, their target lists, an accept record of one node. -/
def blMem (opened : Nat) : List (Nat × List Byte) :=
  [(0x9000, leBytes 4 3 ++ leBytes 4 8 ++ leBytes 8 0x9800 ++ leBytes 8 0 ++ [0, 0, 2, BitVec.ofNat 8 opened] ++
      leBytes 4 0 ++ leBytes 8 0x9C00 ++ leBytes 8 0x9C40),
   (0x9800, leBytes 4 5 ++ leBytes 4 6 ++ leBytes 4 7),
   (0x9C00, leBytes 4 3 ++ leBytes 2 1 ++ leBytes 2 1 ++ leBytes 8 0x9D00),
   (0x9C40, leBytes 4 3 ++ leBytes 2 1 ++ leBytes 2 1 ++ leBytes 8 0x9D40),
   (0x9D00, leBytes 8 0x9E00 ++ leBytes 4 1), (0x9D40, leBytes 8 0x9E40 ++ leBytes 4 1),
   (0x9E00, leBytes 4 1 ++ leBytes 1 127 ++ leBytes 1 1), (0x9E40, leBytes 4 2 ++ leBytes 1 127 ++ leBytes 1 1),
   (0xA000, leBytes 1 2 ++ leBytes 1 1 ++ leBytes 2 2 ++ leBytes 4 2),
   (0xA040, leBytes 4 7 ++ leBytes 2 255 ++ leBytes 1 3), (0xA050, leBytes 4 9 ++ leBytes 2 0 ++ leBytes 1 2),
   (0xB000, leBytes 16 1 ++ leBytes 4 9 ++ leBytes 4 0x3F800000), (0xB040, leBytes 16 1 ++ leBytes 4 4 ++ leBytes 4 0x3F800000),
   (0xC000, leBytes 4 1 ++ leBytes 4 4 ++ leBytes 1 1)]
def blS (c : List Byte) (opened : Nat) : State :=
  withF (put { base with bls := [(0, ⟨[1, 0, 0, 0], 3⟩)] } ((0x8000, c) :: blMem opened))
    [(.BL_CTRL_ENABLE, 0, 1), (.BL_RING_BASE_ADDR, 0, 0x200), (.BL_OPEN_COUNT, 0, opened)]
/-! The host's rings and the serving loop. -/

/-- Partition 0's rings: 0 commands, 1 completions, 2 requests, 3 output; context 0 is resident. -/
def hostS : State :=
  withF { consist0 base with
          rings := [(0, { Ring.reset with state := rEnabled, kind := kCommand, format := 3, sizeLog2 := 6, comp := 1 }),
            (1, { Ring.reset with state := rEnabled, kind := kCompletion, sizeLog2 := 6, base := 0x100000 }),
            (2, { Ring.reset with state := rEnabled, kind := kRequest, format := 3, sizeLog2 := 6, comp := 1 }),
            (3, { Ring.reset with state := rEnabled, kind := kOutput, sizeLog2 := 6, base := 0x200000 })]
          funcs := [(0, { Func.reset with bme := true })], nextId := 20 }
    [(.QE_PART_RINGS_COUNT, 0, 4), (.QE_CTX_SLOT_STATE, 0, csIdle), (.QE_PART_LIMITS_CONTEXTS, 0, 8),
     (.QE_PART_CFG_TRACKERS, 0, 8)]
def cmd0 (op : Nat) (args : List Nat) : Cmd :=
  ⟨7, 0, 0, op, 3, 0, 0x55, false, none, args, false, [], none, none, none, [], 0⟩
/-- Partition 0's first tracked command. -/
def hosting (op : Nat) (args : List Nat) : State := { hostS with cmds := [cmd0 op args] }
/-- The same from context 3, which is in the slot. -/
def cmd3 (op : Nat) (args : List Nat) : Cmd := { cmd0 op args with ctx := 3 }
def hosting3 (op : Nat) (args : List Nat) : State :=
  withF { hostS with cmds := [cmd3 op args], ctxs := [(3, some { Ctx.fresh0 with maps := [] })] } [(.QE_CTX_SLOT_CONTEXT, 0, 3)]

def loopCfg : List Byte :=
  leBytes 2 2 ++ leBytes 2 64 ++ leBytes 4 66 ++ leBytes 8 0x10000 ++ leBytes 4 16 ++ [0, 1, 1, 1] ++ leBytes 8 0 ++
  leBytes 8 0xE000 ++ leBytes 4 0 ++ [0, 10, 1] ++ zeros 17
def bundle0 : Bundle := ⟨true, false, false, [⟨0, 1, 64, 64, 0, 0, 0⟩], 1, 4096, [9], [], [], [1, 2]⟩
def service0 : Service :=
  { part := 0, sub := 0, bundle := bundle0, cfg := loopCfg, step := 0, inStep := false, launched := [],
    counters := List.replicate 14 0, extents := [], reread := false, recalled := [], rebind := none, stopping := none,
    ended := 0, spilling := [], waitGrant := none }
def req0 : Req :=
  { id := 3, ring := 2, part := 0, sub := 0, tag := 0x77, flags := 0, topK := 1, maxNew := 4, temp := 0, topP := f32one,
    minP := 0, rep := f32one, seed := 0, outRing := 3, prompt := [5, 6], stops := [], repWindow := 0, emitted := [],
    extDev := 0, extAddr := 0, st := .queued, outWait := false, length := 0, rows := 0, nodes := 1, reserved := 0,
    slots := [], pages := [], heap := [], tree := false, admitted := 0, waitNo := 0, cancel := false, outLost := false,
    lost := false, event := none, replay := false }
def serving (v : Service) (rs : List Req) : State := { hostS with services := [v], reqs := rs }
/-- A SUBMIT of two tokens at address 0xF000 to output ring `out`; a CANCEL. -/
def submitD (out : Nat) : List Byte :=
  [1, 0, 1, 0] ++ leBytes 4 2 ++ leBytes 8 0x77 ++ leBytes 8 0xF000 ++ leBytes 8 0 ++ leBytes 4 out ++ leBytes 4 4 ++
  leBytes 4 0 ++ leBytes 4 0x3F800000 ++ leBytes 4 0 ++ leBytes 4 0x3F800000 ++ leBytes 8 0
def cancelD : List Byte := leBytes 8 2 ++ leBytes 8 0x77 ++ zeros 48
def asking (d : List Byte) (rs : List Req) : State :=
  { serving service0 rs with intake := [⟨2, 0, d⟩], mem := Bytes.write [] 0xF000 (leBytes 4 5 ++ leBytes 4 6) }
/-- An image's header for a sequence of two tokens. -/
def kvImage0 : List Byte :=
  leBytes 4 0x4B564558 ++ zeros 60 ++ [1, 2] ++ zeros 62 ++ leBytes 4 2 ++ leBytes 2 1 ++ leBytes 2 2 ++ leBytes 4 2 ++
  leBytes 4 1
def bundle1 : Bundle := { bundle0 with digest := [1, 2] ++ zeros 62 }
/-- Both planes' entry of the first page, in the pool's first pages. -/
def slots0 : List Slot := [⟨0, 0, 0, false, none⟩, ⟨0, 1, 0, false, none⟩]
def plan0 : Plan := ⟨[], [], [], [], []⟩
def importing0 : Req := { req0 with st := .importing, emitted := [8] }
def exporting0 : Req := { req0 with st := .exporting, emitted := [8], extDev := 5 }
def decoding0 : Req := { req0 with st := .decode, length := 2, rows := 1, slots := slots0, heap := [0x30000] }
def prefilling0 : Req := { req0 with st := .prefill, rows := 2, slots := slots0, heap := [0x30000] }
def stepping0 : Service := { service0 with inStep := true, step := 5 }
def granting0 (n : Nat) : Service := { service0 with waitGrant := some n }
def spilling0 : Service := { service0 with spilling := [(3, 0), (3, 1)], extents := [(1, 0, 8)] }
/-! HBM, depot and prefetchers. -/

/-- Slice 0 with bytes in HBM, in its pinned window and beside them; red level of home 0 when `lvl` says so. -/
def hbmS (lvl : Nat) : State :=
  withF { filled base with mem := [(64, 9), (4096, 7), (sliceBytes - 1, 5), (sliceBytes, 6), (pinBase + 5, 7), (pinBase + 0x2000000, 8)] }
    [(.TC_FB_LEVEL_LEVEL, 0, lvl), (.TC_FB_THRESH_YELLOW, 0, 10), (.TC_FB_THRESH_ORANGE, 0, 20), (.TC_FB_THRESH_RED, 0, 30),
     (.HBM_PATROL_ENABLE, 0, 1), (.HBM_STATUS_TRAINED, 0, 1)]
/-- The COMPOSE message of slice 0's scrub is at its controller. -/
def toScrub (s : State) : State := { s with stopSigs := [(0, hbmStop 0, ⟨clsCompose, 0, hbmStop 0, 0, true, [0]⟩)] }
def warmRecord (base rowBytes rows done : Nat) : List Byte :=
  leBytes 8 base ++ leBytes 4 128 ++ leBytes 4 rowBytes ++ leBytes 4 rows ++ leBytes 4 0 ++ leBytes 8 done
def declaring (base rowBytes rows done : Nat) : State := put (hbmS 0) [(0x400, warmRecord base rowBytes rows done)]
def warm0 (done : Nat) : Stream := ⟨0, .warm who0 0x1000 128 128 done 0 none, 4, 128, 0, 0, []⟩
def lane0 : Lane := ⟨3, 0, 0x2000, some 64, [0x80, 0x80]⟩
def lanes0 : Stream := ⟨0, .lane, 2, 4096, 0, 0, [lane0, { lane0 with core := 4 }]⟩
def streaming (x : Stream) : State := { withF (hbmS 0) [(.DILL_CTRL_AHEAD, 0, 4)] with dill := [x] }
def prefetching : State := { streaming lanes0 with prefetches := [(0, laneWho lanes0 lane0, 0x80), (0, laneWho lanes0 lane0, 0x81)] }
/-! Conductor cores and their directory. -/

/-- Conductor 0 runs in machine mode at the first control-memory address; the instruction w stands there, and the next
line of control memory is in its hands. -/
def ctlLine : Nat := ctlOff / 64
def lineE : HLine := ⟨.E, (List.range 64).map (BitVec.ofNat 8)⟩
def hart0 : Hart := { Hart.reset with pc := BitVec.ofNat 64 ctlOff, x := [(1, BitVec.ofNat 64 (ctlOff + 72)), (2, 5)], mtvec := 0x400 }
def cndS (w : Nat) : State :=
  withF (put { base with
      harts := [(0, hart0)], holders := [(ctlLine + 1, some lineE)], dirs := [(ctlLine + 1, some ⟨true, 1, none, [], false, 0⟩)] }
    [(ctlOff, leBytes 4 w)]) [(.CND_STATUS_STATE, 0, cndRunning)]
def hartIs (s : State) (f : Hart → Hart) : State := { s with harts := [(0, f hart0)] }
def fetch0 : Fetched := ⟨.clean, []⟩
/-- The state after the fetch. -/
def fetchedS (s : State) : State := match cndFetch s 0 ⟨.clean, []⟩ with
  | .ok f _ _ => f
  | _ => s
def sigHead (cls n : Nat) : Nat := cls + 1 * 16 + 3 * 256 + n * 2 ^ 13
def sigS (w cls : Nat) (l : List SigMsg) : State :=
  { hartIs (cndS w) (fun h => { h with x := [(1, BitVec.ofNat 64 (sigHead cls 2)), (2, 7)] }) with sigs := l }
def sent2 (cls : Nat) : List SigMsg := List.replicate 2 ⟨0, ccStop, ⟨cls, 1, 3, 0, false, []⟩⟩
def sortJob0 : SortJob := ⟨0, 0, false, 0x4000⟩
/-- A sort of two values to two pairs. -/
def sorting : State :=
  put { cndS 0 with sorts := [(0, [sortJob0])] }
    [(0x4000, leBytes 8 0x4100 ++ leBytes 8 0x4200 ++ leBytes 4 2 ++ leBytes 4 2 ++ leBytes 8 (ctlOff + 128)),
     (0x4100, leBytes 4 0x3F800000 ++ leBytes 4 0x40000000)]
/-- Holder q has the line before conductor 0's. -/
def held (q : Nat) (l : HLine) (e : DirEntry) : State :=
  { put (withF base [(.STN_STATUS_PART, 0, 0)]) [(ctlOff, [9, 8, 7])] with
    holders := [(q * 2 ^ 34 + ctlLine, some l)], dirs := [(ctlLine, some e)] }
def dirEnt (q : Nat) : DirEntry := ⟨false, 2 ^ q, none, [], false, 0⟩
def waitX : DirWait := ⟨1, .getX, 0, false, 0, none⟩
/-- Holder 5's dirty line, snooped for holder 1. -/
def snooped : DirEntry := ⟨true, 2 ^ 5, some (waitX, 2 ^ 5), [], false, 0⟩
def settling (waiters : List DirWait) (wbOut : Bool) : DirEntry := ⟨false, 0, none, waiters, wbOut, 0⟩
/-! The composer. -/

/-- A composer command of 64 bytes: operation, GRACEFUL, partition, slot, role, the slices among the first 64, the
identifier, the members. -/
def compC (op graceful part slot role slices id members : Nat) : List Byte :=
  leBytes 1 op ++ leBytes 1 graceful ++ leBytes 1 part ++ leBytes 1 slot ++ leBytes 1 0 ++ leBytes 1 role ++
  leBytes 2 (if graceful = 1 then 5 else 0) ++ leBytes 8 slices ++ zeros 24 ++ leBytes 2 id ++ zeros 9 ++ leBytes 1 members ++ zeros 12
/-- FORM of slot 1 for partition 3 as consist 77. -/
def formC : List Byte := leBytes 2 3 ++ leBytes 1 3 ++ leBytes 1 1 ++ zeros 36 ++ leBytes 2 77 ++ leBytes 4 0xFFFFFFFF ++ zeros 5 ++ [1] ++ zeros 12
def lendC : List Byte := leBytes 8 6 ++ leBytes 8 6 ++ zeros 32 ++ leBytes 2 5 ++ leBytes 2 3 ++ leBytes 2 9 ++ zeros 10
def composing (c : List Byte) (l : List (F × Nat × Nat)) : State :=
  withF { base with comp := some ⟨c, false, [], []⟩ } l
/-- Slices 1 and 2 in a state. -/
def slices12 (st part : Nat) : List (F × Nat × Nat) :=
  [(.COMP_SLICE_STATUS_STATE, 1, st), (.COMP_SLICE_STATUS_PART, 1, part), (.COMP_SLICE_STATUS_STATE, 2, st),
   (.COMP_SLICE_STATUS_PART, 2, part)]
def recalling (c : List Byte) (recalled : List Nat) : State :=
  { composing c (slices12 slLent 0 ++ [(.COMP_LEND_VALID, 1, 1), (.COMP_LEND_VALID, 2, 1)]) with
    comp := some ⟨c, true, [], recalled⟩ }
/-- Slot 0 is an ACTIVE consist of partition 0 over slice 0, its next map slices 0 and 1, or those of devices given. -/
def consistS (st : Nat) (entries : List Nat) (j : Option CompJob) : State :=
  withF { consist0 base with comp := j }
    ([(.COMP_CONSIST_ID_STATE, 0, st), (.COMP_MAP_CUR_OFF, 0, 10), (.COMP_MAP_STORE_ENTRY, 10, 0), (.COMP_MAP_EPOCH_CUR, 0, 4),
      (.COMP_MAP_NEXT_LEN, 0, entries.length), (.COMP_MAP_NEXT_OFF, 0, 20), (.COMP_SLICE_STATUS_STATE, 1, slIdle)] ++
      ((List.range entries.length).map (fun n => (.COMP_MAP_STORE_ENTRY, 20 + n, entries.getD n 0))))
def rebindC : List Byte := compC 4 0 0 0 0 0 1 1
def staging (entries : List Nat) (ready : List (Nat × Nat)) (dev : Nat) : State :=
  withF { consistS ctStaging entries (some ⟨rebindC, true, ready, []⟩) with services := [{ service0 with step := 7 }] }
    [(.COMP_SLICE_STATUS_STATE, 1, slStaged), (.BLY_DEVICE_DEVNUM, 0, dev)]
def told7 : Service := { service0 with step := 7, rebind := some ([1], []) }
def switching7 : State :=
  withF (staging [0, 1] [] 0) [(.COMP_CONSIST_ID_STATE, 0, ctSwitching), (.COMP_SWITCH_STEP_STEP, 0, 8), (.COMP_INFLIGHT_CUR, 0, 3)]
def crcOf (entries : List Nat) : Nat := mapCrc entries
/-! Belyan links. -/

/-- Device 1 of a 4 × 1 × 1 fabric; ports 0 and 1 UP where `st` says so. -/
def bly (st0 st1 : Nat) : State :=
  { withF (consist0 base) [(.BLY_TOPO_SX, 0, 4), (.BLY_TOPO_SY, 0, 1), (.BLY_TOPO_SZ, 0, 1), (.BLY_DEVICE_DEVNUM, 0, 1),
      (.BLY_PORT_STATUS_STATE, 0, st0), (.BLY_PORT_STATUS_STATE, 1, st1), (.BLY_LOCK_LOCK, 0, 1),
      (.BLY_PORT_CTRL_ENABLE, 0, 1), (.BLY_PORT_CTRL_ALLOW_HALF, 0, 1), (.BLY_PORT_CTRL_AUTO_RETRAIN, 0, 1)] with
    mod := { Mod.reset with cables := [(0, true)] }, now := 200000000 }
def packet0 : Packet :=
  { typ := 1, vc := 0, dir := 0, dim := 0, oper := false, err := false, dst := 1, src := 2, part := 0, tc := 4, consist := 1,
    epoch := 0, deadline := 0, tag := 5, addr := 4096, srcDie := 2, len := 8, aop := 1, hops := 0, payload := [1, 2, 3, 4, 5, 6, 7, 8] }
def queued0 (s : State) : State :=
  { s with portQ := [⟨0, 0, 4, 0, packet0⟩, ⟨1, 0, 4, 0, packet0⟩, ⟨0, 0, 4, 0, { packet0 with tag := 6 }⟩] }
def remote0 (q w : Bool) : RemoteReq := ⟨2, 5, 0, 3, 4096, 8, w, q, none⟩
def entry0 (n : Nat) (pl : Payload) : Entry := { entry 3 (.remote 2) false pl with sent := true, await := n }
def awaiting (q w : Bool) (e : Entry) : State :=
  { bly pUp pUp with remotes := [remote0 q w], cores := [(0, { sageRegs with code := [0, 0], table := [e] })] }
/-! Descriptors, translations and faults. -/

/-- Function 0 selects ring r and describes a command ring of 64 entries with completion ring 1. -/
def selecting (r : Nat) : State :=
  withF hostS [(.QE_RING_SEL_RING, 0, r), (.QE_RING_CFG_KIND, 0, 1), (.QE_RING_CFG_FORMAT, 0, 3), (.QE_RING_CFG_SIZE_LOG2, 0, 6),
    (.QE_RING_CFG_COMPLETION, 0, 1), (.QE_RING_BASE_ADDR, 0, 9), (.QE_PART_RINGS_COUNT, 0, 5)]
def ringIs (r : Nat) (f : Ring → Ring) (s : State) : State := setRing s r (f (getRing s r))
def desc3 (op flags : Nat) : List Byte :=
  leBytes 1 op ++ leBytes 1 flags ++ leBytes 2 0 ++ leBytes 4 0 ++ leBytes 8 0x55 ++ leBytes 8 0 ++ leBytes 8 0 ++ leBytes 8 0 ++
  leBytes 8 0 ++ leBytes 8 0 ++ leBytes 4 1 ++ leBytes 4 9
def readsOf (h : HRead) (s : State) : State := { s with hreads := [h] }
def descRead (r n : Nat) : HRead := ⟨0, .descs r 0 n, 0x5000, 64 * n, true, false⟩
def argsRead (sent : Bool) : HRead := ⟨0, .args 7, 0x5010, 40, sent, false⟩
def atsS (h : List HRead) : State :=
  { withF (hosting 0 []) [(.QE_PF_ATC_QUOTA_ENTRIES, 0, 4)] with
    funcs := [(0, { Func.reset with bme := true, ats := true })], atsOut := [(0, 5)], hreads := h,
    atc := [(0, [⟨0x8000, 4096, 0x9000, true, true⟩, ⟨0x20000, 4096, 0xA000, true, true⟩])] }
def fault0 : HFault := ⟨0, 0x5000, 0, 1, 1, 1, 1, 0x55, 0, false⟩
/-- A FORMED consist's slice has free cores; a program stands at 256. -/
def launching (code cores : Nat) : State :=
  put (hosting3 2 [code, 0x300, cores * 2 ^ 16, 0, 0]) [(256, image)]
/-- A COPY of 300,000 bytes and the channels of partition 0. -/
def copying (len : Nat) : State :=
  withF (hosting 1 [0x1000, 0x2000, len, 0, 0]) [(.CHV_CH_OWNER_VALID, 3, 1)]
/-! Contexts, objects and fences. -/

def obj0 : Obj := ⟨0x100000, 2, 7, false, false⟩
def fence0 : Fence := ⟨5, false, 0, 0, false, some 0⟩
/-- Partition 0 with its first tracked command: objects, fences, the maps of contexts 0 and 3. -/
def ctxS (op ctx : Nat) (args : List Nat) (objs : List (Nat × Option Obj)) (fences : List (Nat × Option Fence)) (m0 m3 : List (Nat × Nat)) : State :=
  withF { hostS with cmds := [{ cmd0 op args with ctx := ctx }], objs := objs, fences := fences,
                     ctxs := [(0, some { Ctx.fresh0 with maps := m0 }), (3, some { Ctx.fresh0 with maps := m3 })] }
    [(.QE_PART_LIMITS_OBJECTS, 0, 8), (.QE_PART_LIMITS_FENCES, 0, 8), (.QE_PART_FENCE_BASE_ADDR, 0, 0x20)]
/-- The same with context 3 in the slot. -/
def ctxC (op ctx : Nat) (args : List Nat) (objs : List (Nat × Option Obj)) (fences : List (Nat × Option Fence)) (m3 m0 : List (Nat × Nat)) : State :=
  withF (ctxS op ctx args objs fences m0 m3) [(.QE_CTX_SLOT_CONTEXT, 0, 3)]
def cmdC (op ctx : Nat) (args : List Nat) : Cmd := { cmd0 op args with ctx := ctx }
def waiting0 : Cmd := { cmd0 0x17 [2, 7, 9, 0, 0] with id := 9, started := true }
/-- `startCmd`, its one write of a time told by the die's clock (whose skew no rule gives) made by `g`. -/
def startBy (g : SMap Nat → Nat → Nat → SMap Nat) (s : State) (c : Cmd) : State :=
  let s := passHint (setCmd s { c with started := true }) c
  let s := match getCtx s c.part c.ctx with
    | some x => setCtx s c.part c.ctx (some { x with lastRun := hostNs s, fresh := false })
    | none => s
  let s := match ctxSlot s c.part c.ctx with
    | some i =>
      { s with regs := g s.regs (fkey .QE_CTX_SLOT_LAST_RUN i) (hostNs s / 1000 % 2 ^ F.QE_CTX_SLOT_LAST_RUN.spec.w) }
    | none => s
  slotUpdate s c.part c.ctx

/-- The time is the register's reset value, which the map leaves out, or it stands in the map. -/
theorem start_cases (s : State) (c : Cmd) : startCmd s c = startBy (fun m k _ => SMap.erase k m) s c ∨
    startCmd s c = startBy (fun m k v => SMap.insert k v (SMap.erase k m)) s c := by
  have h0 : startCmd s c = startBy (SMap.set fdefault) s c := rfl
  rw [h0]
  unfold startBy
  dsimp only
  generalize (match getCtx (passHint (setCmd s { c with started := true }) c) c.part c.ctx with
    | some x => _
    | none => _ : State) = u
  cases ctxSlot u c.part c.ctx with
  | none => exact Or.inl rfl
  | some i =>
    dsimp only
    unfold SMap.set
    split
    · exact Or.inl rfl
    · exact Or.inr rfl

/-! Chervil channels. -/

/-- Channel 3 belongs to partition 0; its window 0 grants all. -/
def chanS (st : Nat) (l : List (F × Nat × Nat)) : State :=
  withF base ([(.CHV_CH_OWNER_VALID, 3, 1), (.CHV_CH_STATUS_STATE, 3, st), (.CHV_CH_CQ_BASE_ADDR, 3, 0x800),
    (.CHV_CH_CQ_CFG_SIZE_LOG2, 3, 2), (.CHV_CH_CQ_TAIL_TAIL, 3, 5), (.CHV_CH_CQ_HEAD_HEAD, 3, 4),
    (.CHV_CH_TAG_TAG, 3, 9), (.CHV_CH_SRC_ADDR, 3, 0x1000), (.CHV_CH_DST_ADDR, 3, 0x2000), (.CHV_CH_COUNT_BYTES, 3, 8)] ++ l)
def chanIs (f : Chan → Chan) (s : State) : State := setChan s 3 (f (getChan s 3))
def full3 : List (F × Nat × Nat) := [(.CHV_CH_CQ_HEAD_HEAD, 3, 1)]
def chDesc (src dst next count tag ctrl : Nat) : List Byte :=
  leBytes 8 src ++ leBytes 8 dst ++ leBytes 8 next ++ leBytes 4 count ++ leBytes 4 tag ++ leBytes 4 ctrl ++ zeros 28
/-! Shutdowns and configuration requests. -/

/-- The link is up, the device ready, and VF 2 exists. -/
def liveS (s : State) : State :=
  setMod { s with funcs := [(0, { Func.reset with bme := true, vfOn := true, numVfs := 3 })] }
    { s.mod with linkUp := true, ready := true }
def shutting (resets : Bool) (s : State) : State := { s with shuts := [⟨0, [0, 1], false, resets⟩] }
/-! Fuane, power, resets, the module. -/

/-- Function 0's mailbox runs a command. -/
def mailing (op a0 a1 : Nat) : State :=
  withF (liveS base) [(.FUA_MB_STATUS_BUSY, 0, 1), (.FUA_MB_CMD_OP, 0, op), (.FUA_MB_ARG_VALUE, 0, a0), (.FUA_MB_ARG_VALUE, 1, a1)]
def modIs (f : Mod → Mod) (s : State) : State := setMod s (f s.mod)
def powerIs (f : Power → Power) (s : State) : State := setPower s (f s.power)
def rstIs (f : Rst → Rst) (s : State) : State := setRst s (f s.rst)
def consIs (f : PwrConsist → PwrConsist) (s : State) : State := setCons s 0 (f (getCons s 0))
/-- A detector has seen its unit as it is now for 100 s (R549). -/
def watching (d : Detector) (i : Nat) (s : State) : State :=
  { s with watch := [(d.key i, (sight s d i).getD [], 0)], now := 10 ^ 11 }
/-- The last reset of station 0 ended just now (R559). -/
def soonAgain (s : State) : State := rstIs (fun r => { r with stnLast := [(0, some (s.now - 1))] }) s
def resetting (s : State) : State := rstIs (fun r => { r with stns := [⟨0, 1, 0, 0, false, false⟩] }) s
def unwrap0 : Unwrap := ⟨0, 0, 0x1000, 0x2000, false, 0, false, false, []⟩
def liveCons : State := consist0 base

/-! Chapter 01. -/
def s01a1 : State := run (ins 0x10 96 64 64 0 1 1 0 6 5)
def s01a4 : State := run (ins 0x11 96 64 64 0 7 11 0 0 3)
/-- Obligations.MatrixInstructionsAccumulate: its clauses' hypotheses, clause by clause. -/
theorem wit_MatrixInstructionsAccumulate :
    (Issues s01a1 0 (ins 16 96 64 64 0 1 1 0 6 5).toWord ∧ Proceeds s01a1 0 ∧ Ecc.clean ≠ Ecc.uncorrectable ∧
      (Insn.ofWord (ins 16 96 64 64 0 1 1 0 6 5).toWord).opc = 16) ∧
    (Issues s01a4 0 (ins 17 96 64 64 0 7 11 0 0 3).toWord ∧ Proceeds s01a4 0 ∧ (Insn.ofWord (ins 17 96 64 64 0 7 11
      0 0 3).toWord).opc = 17) := by
  refine ⟨?_, ?_⟩
  all_goals decide +kernel

def s01b1 : State := run (ins 0x18 96 0 0 0 0 0 0 0 0)
def s01b3 : State := run (ins 0x19 65 64 0 0 0 0 0 0 0)
/-- Obligations.ClearsAndCopiesWriteOneRegister: its clauses' hypotheses, clause by clause. -/
theorem wit_ClearsAndCopiesWriteOneRegister :
    (Issues s01b1 0 (ins 24 96 0 0 0 0 0 0 0 0).toWord ∧ Proceeds s01b1 0 ∧ Ecc.clean ≠ Ecc.uncorrectable ∧
      (Insn.ofWord (ins 24 96 0 0 0 0 0 0 0 0).toWord).opc = 24) ∧
    (Issues s01b3 0 (ins 25 65 64 0 0 0 0 0 0 0).toWord ∧ Proceeds s01b3 0 ∧ (Insn.ofWord (ins 25 65 64 0 0 0 0 0 0
      0).toWord).opc = 25) := by
  refine ⟨?_, ?_⟩
  all_goals decide +kernel

def s01c1 : State := run (ins 0x20 65 96 0xE0 0 1 0 0 6 5)
def s01c5 : State := run (ins 0x21 97 64 0 0 0 1 0 2 5)
/-- Obligations.ConversionsMoveValuesBetweenFiles: its clauses' hypotheses, clause by clause. -/
theorem wit_ConversionsMoveValuesBetweenFiles :
    (Issues s01c1 0 (ins 32 65 96 224 0 1 0 0 6 5).toWord ∧ Proceeds s01c1 0 ∧ Ecc.clean ≠ Ecc.uncorrectable ∧
      (Insn.ofWord (ins 32 65 96 224 0 1 0 0 6 5).toWord).opc = 32) ∧
    (Issues s01c5 0 (ins 33 97 64 0 0 0 1 0 2 5).toWord ∧ Proceeds s01c5 0 ∧ (Insn.ofWord (ins 33 97 64 0 0 0 1 0 2
      5).toWord).opc = 33) := by
  refine ⟨?_, ?_⟩
  all_goals decide +kernel

def s01d1 : State := run (ins 0x30 97 96 96 0 0 0 0 0 5)
def s01d3 : State := run (ins 0x31 97 96 96 96 0 0 0 0x201 0x105)
def s01d4 : State := run (ins 0x32 97 96 0 0 0 0 0 3 5)
def s01d6 : State := run (ins 0x33 97 96 0 0 0 0 0 1 5)
def s01d7 : State := run (ins 0x34 97 96 0 0 0 0 0 0x301 0x10005)
def s01d8 : State := run (ins 0x35 97 96 0 0 0 0 0 0 1)
/-- Obligations.ElementwiseInstructionsComputeEachElement: its clauses' hypotheses, clause by clause. -/
theorem wit_ElementwiseInstructionsComputeEachElement :
    (Issues s01d1 0 (ins 48 97 96 96 0 0 0 0 0 5).toWord ∧ Proceeds s01d1 0 ∧ Ecc.clean ≠ Ecc.uncorrectable ∧ (bits
      (Insn.ofWord (ins 48 97 96 96 0 0 0 0 0 5).toWord).mod 8 2 = 3 → BitVec.toNat ((getCore s01d1 0).ar (32 + bits
      (Insn.ofWord (ins 48 97 96 96 0 0 0 0 0 5).toWord).imm 16 4)) + 256 ≤ spadBytes) ∧ (Insn.ofWord (ins 48 97 96 96
      0 0 0 0 0 5).toWord).opc = 48) ∧
    (Issues s01d3 0 (ins 49 97 96 96 96 0 0 0 513 261).toWord ∧ Proceeds s01d3 0 ∧ (bits (Insn.ofWord (ins 49 97 96
      96 96 0 0 0 513 261).toWord).mod 8 2 = 3 → BitVec.toNat ((getCore s01d3 0).ar (32 + bits (Insn.ofWord (ins 49 97
      96 96 96 0 0 0 513 261).toWord).imm 16 4)) + 256 ≤ spadBytes) ∧ (Insn.ofWord (ins 49 97 96 96 96 0 0 0 513
      261).toWord).opc = 49) ∧
    (Issues s01d4 0 (ins 50 97 96 0 0 0 0 0 3 5).toWord ∧ Proceeds s01d4 0 ∧ (bits (Insn.ofWord (ins 50 97 96 0 0 0
      0 0 3 5).toWord).mod 8 2 = 3 → BitVec.toNat ((getCore s01d4 0).ar (32 + bits (Insn.ofWord (ins 50 97 96 0 0 0 0
      0 3 5).toWord).imm 16 4)) + 256 ≤ spadBytes) ∧ (Insn.ofWord (ins 50 97 96 0 0 0 0 0 3 5).toWord).opc = 50) ∧
    (Issues s01d6 0 (ins 51 97 96 0 0 0 0 0 1 5).toWord ∧ Proceeds s01d6 0 ∧ (bits (Insn.ofWord (ins 51 97 96 0 0 0
      0 0 1 5).toWord).mod 8 2 = 3 → BitVec.toNat ((getCore s01d6 0).ar (32 + bits (Insn.ofWord (ins 51 97 96 0 0 0 0
      0 1 5).toWord).imm 16 4)) + 256 ≤ spadBytes) ∧ (Insn.ofWord (ins 51 97 96 0 0 0 0 0 1 5).toWord).opc = 51) ∧
    (Issues s01d7 0 (ins 52 97 96 0 0 0 0 0 769 65541).toWord ∧ Proceeds s01d7 0 ∧ (bits (Insn.ofWord (ins 52 97 96
      0 0 0 0 0 769 65541).toWord).mod 8 2 = 3 → BitVec.toNat ((getCore s01d7 0).ar (32 + bits (Insn.ofWord (ins 52 97
      96 0 0 0 0 0 769 65541).toWord).imm 16 4)) + 256 ≤ spadBytes) ∧ (Insn.ofWord (ins 52 97 96 0 0 0 0 0 769
      65541).toWord).opc = 52) ∧
    (Issues s01d8 0 (ins 53 97 96 0 0 0 0 0 0 1).toWord ∧ Proceeds s01d8 0 ∧ (bits (Insn.ofWord (ins 53 97 96 0 0 0
      0 0 0 1).toWord).mod 8 2 = 3 → BitVec.toNat ((getCore s01d8 0).ar (32 + bits (Insn.ofWord (ins 53 97 96 0 0 0 0
      0 0 1).toWord).imm 16 4)) + 256 ≤ spadBytes) ∧ (Insn.ofWord (ins 53 97 96 0 0 0 0 0 0 1).toWord).opc = 53 ∧
      BitVec.toNat ((getCore s01d8 0).ar (32 + bits (Insn.ofWord (ins 53 97 96 0 0 0 0 0 0 1).toWord).imm 16 4)) + 256
      * (Insn.ofWord (ins 53 97 96 0 0 0 0 0 0 1).toWord).rows ≤ spadBytes) := by
  refine ⟨?_, ?_, ?_, ?_, ?_, ?_⟩
  all_goals decide +kernel

def s01e1 : State := run (ins 0x40 97 96 0 0 0 0 0 0 0x305)
/-- Obligations.ReductionsWriteOneRowOrColumn: its clauses' hypotheses, clause by clause. -/
theorem wit_ReductionsWriteOneRowOrColumn :
    (Issues s01e1 0 (ins 64 97 96 0 0 0 0 0 0 773).toWord ∧ Proceeds s01e1 0 ∧ Ecc.clean ≠ Ecc.uncorrectable ∧
      (Insn.ofWord (ins 64 97 96 0 0 0 0 0 0 773).toWord).opc = 64) := by
  decide +kernel

def s01f1 : State := run (ins 0x48 66 96 97 3 3 0 0 0 5)
def s01f4 : State := run (ins 0x49 96 0 0 0 0 0 0 0 5)
/-- Obligations.OnlineSoftmaxUpdatesStatistics: its clauses' hypotheses, clause by clause. -/
theorem wit_OnlineSoftmaxUpdatesStatistics :
    (Issues s01f1 0 (ins 72 66 96 97 3 3 0 0 0 5).toWord ∧ Proceeds s01f1 0 ∧ Ecc.clean ≠ Ecc.uncorrectable ∧
      (Insn.ofWord (ins 72 66 96 97 3 3 0 0 0 5).toWord).opc = 72 ∧ (bits (Insn.ofWord (ins 72 66 96 97 3 3 0 0 0
      5).toWord).mod 0 2 = 1 → BitVec.toNat ((getCore s01f1 0).ar (32 + bits (Insn.ofWord (ins 72 66 96 97 3 3 0 0 0
      5).toWord).imm 8 4)) + 8 * (Insn.ofWord (ins 72 66 96 97 3 3 0 0 0 5).toWord).rows ≤ spadBytes)) ∧
    (Issues s01f4 0 (ins 73 96 0 0 0 0 0 0 0 5).toWord ∧ Proceeds s01f4 0 ∧ (Insn.ofWord (ins 73 96 0 0 0 0 0 0 0
      5).toWord).opc = 73) := by
  refine ⟨?_, ?_⟩
  all_goals decide +kernel

def s01g1 : State := run (ins 0x00 0 0 0 0 0 0 0 0 0)
def s01g2 : State := run (ins 0x60 4 1 2 0 0 0 0 1 0)
def s01g4 : State := run (ins 0x61 5 0 0 0 0 0 0 0 12345)
def s01g6 : State := run (ins 0x62 34 33 1 0 0 0 0 0 64)
def s01g8 : State := run (ins 0x63 4 0 0 0 0 0 0 0 2)
/-- Obligations.ScalarInstructionsWriteOneRegister: its clauses' hypotheses, clause by clause. -/
theorem wit_ScalarInstructionsWriteOneRegister :
    (Issues s01g1 0 (ins 0 0 0 0 0 0 0 0 0 0).toWord ∧ Proceeds s01g1 0 ∧ Ecc.clean ≠ Ecc.uncorrectable ∧
      (Insn.ofWord (ins 0 0 0 0 0 0 0 0 0 0).toWord).opc = 0) ∧
    (Issues s01g2 0 (ins 96 4 1 2 0 0 0 0 1 0).toWord ∧ Proceeds s01g2 0 ∧ (Insn.ofWord (ins 96 4 1 2 0 0 0 0 1
      0).toWord).opc = 96) ∧
    (Issues s01g4 0 (ins 97 5 0 0 0 0 0 0 0 12345).toWord ∧ Proceeds s01g4 0 ∧ (Insn.ofWord (ins 97 5 0 0 0 0 0 0 0
      12345).toWord).opc = 97) ∧
    (Issues s01g6 0 (ins 98 34 33 1 0 0 0 0 0 64).toWord ∧ Proceeds s01g6 0 ∧ (Insn.ofWord (ins 98 34 33 1 0 0 0 0 0
      64).toWord).opc = 98) ∧
    (Issues s01g8 0 (ins 99 4 0 0 0 0 0 0 0 2).toWord ∧ Proceeds s01g8 0 ∧ (Insn.ofWord (ins 99 4 0 0 0 0 0 0 0
      2).toWord).opc = 99 ∧ (Insn.ofWord (ins 99 4 0 0 0 0 0 0 0 2).toWord).mod = 0) := by
  refine ⟨?_, ?_, ?_, ?_, ?_⟩
  all_goals decide +kernel

def s01h1 : State := run (ins 0x01 64 33 0xE0 0 1 0 0 0 3)
def s01h2 : State := run (ins 0x02 0 33 0xE0 64 1 0 0 0 3)
def s01h3 : State := run (ins 0x03 97 33 1 0 0 0 0 0 3)
def s01h4 : State := run (ins 0x04 0 33 0xE0 96 0 0 0 0 3)
def s01h5 : State := run (ins 0x05 4 33 0xE0 0 0 0 0 1 0)
def s01h6 : State := run (ins 0x06 0 33 0xE0 2 0 0 0 1 0)
def s01h7 : State := run (ins 0x52 0 33 0xE0 2 0 0 0 0x801 0)
def s01h8 : State := run (ins 0x53 4 33 0xE0 0 0 0 0 0x801 0x40)
def s01h9 : State := run (ins 0x58 4 33 0xE0 2 0 0 0 0x801 0x40)
def s01h10 : State := run (ins 0x59 4 33 0xE0 2 0 0 0 0x800 0x300000040)
def s01h11 : State := run (ins 0x50 0 33 2 0 0 0 0 0 0)
/-- Obligations.AccessesEnterTheRangeTable: its clauses' hypotheses, clause by clause. -/
theorem wit_AccessesEnterTheRangeTable :
    (Issues s01h1 0 (ins 1 64 33 224 0 1 0 0 0 3).toWord ∧ Proceeds s01h1 0 ∧ Ecc.clean ≠ Ecc.uncorrectable ∧
      tableRoom (devNum s01h1) (getCore s01h1 0).table = true ∧ (Insn.ofWord (ins 1 64 33 224 0 1 0 0 0 3).toWord).opc
      = 1 ∧ (fun n => rangeFault (Insn.ofWord (ins 1 64 33 224 0 1 0 0 0 3).toWord).space n (rowAddrs (getCore s01h1
      0) (Insn.ofWord (ins 1 64 33 224 0 1 0 0 0 3).toWord)) = none) (Insn.ofWord (ins 1 64 33 224 0 1 0 0 0
      3).toWord).rowLen) ∧
    (Issues s01h2 0 (ins 2 0 33 224 64 1 0 0 0 3).toWord ∧ Proceeds s01h2 0 ∧ tableRoom (devNum s01h2) (getCore
      s01h2 0).table = true ∧ (Insn.ofWord (ins 2 0 33 224 64 1 0 0 0 3).toWord).opc = 2 ∧ (fun n => rangeFault
      (Insn.ofWord (ins 2 0 33 224 64 1 0 0 0 3).toWord).space n (rowAddrs (getCore s01h2 0) (Insn.ofWord (ins 2 0 33
      224 64 1 0 0 0 3).toWord)) = none) (Insn.ofWord (ins 2 0 33 224 64 1 0 0 0 3).toWord).rowLen) ∧
    (Issues s01h3 0 (ins 3 97 33 1 0 0 0 0 0 3).toWord ∧ Proceeds s01h3 0 ∧ tableRoom (devNum s01h3) (getCore s01h3
      0).table = true ∧ (Insn.ofWord (ins 3 97 33 1 0 0 0 0 0 3).toWord).opc = 3 ∧ (fun n => rangeFault (Insn.ofWord
      (ins 3 97 33 1 0 0 0 0 0 3).toWord).space n (rowAddrs (getCore s01h3 0) (Insn.ofWord (ins 3 97 33 1 0 0 0 0 0
      3).toWord)) = none) 256) ∧
    (Issues s01h4 0 (ins 4 0 33 224 96 0 0 0 0 3).toWord ∧ Proceeds s01h4 0 ∧ tableRoom (devNum s01h4) (getCore
      s01h4 0).table = true ∧ (Insn.ofWord (ins 4 0 33 224 96 0 0 0 0 3).toWord).opc = 4 ∧ (fun n => rangeFault
      (Insn.ofWord (ins 4 0 33 224 96 0 0 0 0 3).toWord).space n (rowAddrs (getCore s01h4 0) (Insn.ofWord (ins 4 0 33
      224 96 0 0 0 0 3).toWord)) = none) 256) ∧
    (Issues s01h5 0 (ins 5 4 33 224 0 0 0 0 1 0).toWord ∧ Proceeds s01h5 0 ∧ tableRoom (devNum s01h5) (getCore s01h5
      0).table = true ∧ (Insn.ofWord (ins 5 4 33 224 0 0 0 0 1 0).toWord).opc = 5 ∧ ((fun n => memBase (getCore s01h5
      0) (Insn.ofWord (ins 5 4 33 224 0 0 0 0 1 0).toWord) % n = 0 ∧ rangeFault (Insn.ofWord (ins 5 4 33 224 0 0 0 0 1
      0).toWord).space n [↑(memBase (getCore s01h5 0) (Insn.ofWord (ins 5 4 33 224 0 0 0 0 1 0).toWord))] = none)
      (Insn.ofWord (ins 5 4 33 224 0 0 0 0 1 0).toWord).wordBytes)) ∧
    (Issues s01h6 0 (ins 6 0 33 224 2 0 0 0 1 0).toWord ∧ Proceeds s01h6 0 ∧ tableRoom (devNum s01h6) (getCore s01h6
      0).table = true ∧ (Insn.ofWord (ins 6 0 33 224 2 0 0 0 1 0).toWord).opc = 6 ∧ ((fun n => memBase (getCore s01h6
      0) (Insn.ofWord (ins 6 0 33 224 2 0 0 0 1 0).toWord) % n = 0 ∧ rangeFault (Insn.ofWord (ins 6 0 33 224 2 0 0 0 1
      0).toWord).space n [↑(memBase (getCore s01h6 0) (Insn.ofWord (ins 6 0 33 224 2 0 0 0 1 0).toWord))] = none)
      (Insn.ofWord (ins 6 0 33 224 2 0 0 0 1 0).toWord).wordBytes)) ∧
    (Issues s01h7 0 (ins 82 0 33 224 2 0 0 0 2049 0).toWord ∧ Proceeds s01h7 0 ∧ tableRoom (devNum s01h7) (getCore
      s01h7 0).table = true ∧ (Insn.ofWord (ins 82 0 33 224 2 0 0 0 2049 0).toWord).opc = 82 ∧ ((fun n => memBase
      (getCore s01h7 0) (Insn.ofWord (ins 82 0 33 224 2 0 0 0 2049 0).toWord) % n = 0 ∧ rangeFault (Insn.ofWord (ins
      82 0 33 224 2 0 0 0 2049 0).toWord).space n [↑(memBase (getCore s01h7 0) (Insn.ofWord (ins 82 0 33 224 2 0 0 0
      2049 0).toWord))] = none) (Insn.ofWord (ins 82 0 33 224 2 0 0 0 2049 0).toWord).wordBytes)) ∧
    (Issues s01h8 0 (ins 83 4 33 224 0 0 0 0 2049 64).toWord ∧ Proceeds s01h8 0 ∧ tableRoom (devNum s01h8) (getCore
      s01h8 0).table = true ∧ (Insn.ofWord (ins 83 4 33 224 0 0 0 0 2049 64).toWord).opc = 83 ∧ ((fun n => memBase
      (getCore s01h8 0) (Insn.ofWord (ins 83 4 33 224 0 0 0 0 2049 64).toWord) % n = 0 ∧ rangeFault (Insn.ofWord (ins
      83 4 33 224 0 0 0 0 2049 64).toWord).space n [↑(memBase (getCore s01h8 0) (Insn.ofWord (ins 83 4 33 224 0 0 0 0
      2049 64).toWord))] = none) (Insn.ofWord (ins 83 4 33 224 0 0 0 0 2049 64).toWord).wordBytes)) ∧
    (Issues s01h9 0 (ins 88 4 33 224 2 0 0 0 2049 64).toWord ∧ Proceeds s01h9 0 ∧ tableRoom (devNum s01h9) (getCore
      s01h9 0).table = true ∧ (Insn.ofWord (ins 88 4 33 224 2 0 0 0 2049 64).toWord).opc = 88 ∧ ((fun n => memBase
      (getCore s01h9 0) (Insn.ofWord (ins 88 4 33 224 2 0 0 0 2049 64).toWord) % n = 0 ∧ rangeFault (Insn.ofWord (ins
      88 4 33 224 2 0 0 0 2049 64).toWord).space n [↑(memBase (getCore s01h9 0) (Insn.ofWord (ins 88 4 33 224 2 0 0 0
      2049 64).toWord))] = none) (atomBytes (bits (Insn.ofWord (ins 88 4 33 224 2 0 0 0 2049 64).toWord).mod 0 4)))) ∧
    (Issues s01h10 0 (ins 89 4 33 224 2 0 0 0 2048 12884901952).toWord ∧ Proceeds s01h10 0 ∧ tableRoom (devNum
      s01h10) (getCore s01h10 0).table = true ∧ (Insn.ofWord (ins 89 4 33 224 2 0 0 0 2048 12884901952).toWord).opc =
      89 ∧ ((fun n => memBase (getCore s01h10 0) (Insn.ofWord (ins 89 4 33 224 2 0 0 0 2048 12884901952).toWord) % n =
      0 ∧ rangeFault (Insn.ofWord (ins 89 4 33 224 2 0 0 0 2048 12884901952).toWord).space n [↑(memBase (getCore
      s01h10 0) (Insn.ofWord (ins 89 4 33 224 2 0 0 0 2048 12884901952).toWord))] = none) 8)) ∧
    (Issues s01h11 0 (ins 80 0 33 2 0 0 0 0 0 0).toWord ∧ Proceeds s01h11 0 ∧ tableRoom (devNum s01h11) (getCore
      s01h11 0).table = true ∧ (Insn.ofWord (ins 80 0 33 2 0 0 0 0 0 0).toWord).opc = 80) := by
  refine ⟨?_, ?_, ?_, ?_, ?_, ?_, ?_, ?_, ?_, ?_, ?_⟩
  all_goals decide +kernel

def s01i1 : State := run (ins 0x70 0 0 0 0 0 0 0 0 1)
def s01i2 : State := run (ins 0x70 0 1 2 0 0 0 0 1 1)
def s01i4 : State := run (ins 0x71 0 0xE0 0 0 0 0 0 0 0x100000002)
def s01i6 : State := run (ins 0xFF 0 0 0 0 0 0 0 0 0)
def s01i7 : State := run (ins 0x79 0 0 0 0 0 0 0 0 1)
def s01i9 : State := run (ins 0x78 0 33 2 0 0 0 0 0 0)
def s01i10 : State := run (ins 0x71 0 9 0 0 0 0 0 0 0x100000000)
/-- Obligations.ControlInstructionsMoveTheProgram: its clauses' hypotheses, clause by clause. -/
theorem wit_ControlInstructionsMoveTheProgram :
    (Issues s01i1 0 (ins 112 0 0 0 0 0 0 0 0 1).toWord ∧ Ecc.clean ≠ Ecc.uncorrectable ∧ (Insn.ofWord (ins 112 0 0 0
      0 0 0 0 0 1).toWord).opc = 112 ∧ bits (Insn.ofWord (ins 112 0 0 0 0 0 0 0 0 1).toWord).mod 0 3 = 0 ∧ 0 ≤ ↑(fget
      s01i1 F.SAGE_PC_PC) + signed 16 (Insn.ofWord (ins 112 0 0 0 0 0 0 0 0 1).toWord).imm ∧ (↑(fget s01i1
      F.SAGE_PC_PC) + signed 16 (Insn.ofWord (ins 112 0 0 0 0 0 0 0 0 1).toWord).imm).toNat < (getCore s01i1
      0).code.length) ∧
    (Issues s01i2 0 (ins 112 0 1 2 0 0 0 0 1 1).toWord ∧ (Insn.ofWord (ins 112 0 1 2 0 0 0 0 1 1).toWord).opc = 112
      ∧ (bits (Insn.ofWord (ins 112 0 1 2 0 0 0 0 1 1).toWord).mod 0 3 = 1 ∧ (getCore s01i2 0).s 1 ≠ (getCore s01i2
      0).s 2) ∧ Proceeds s01i2 0) ∧
    (Issues s01i4 0 (ins 113 0 224 0 0 0 0 0 0 4294967298).toWord ∧ (Insn.ofWord (ins 113 0 224 0 0 0 0 0 0
      4294967298).toWord).opc = 113 ∧ (if isNo (Insn.ofWord (ins 113 0 224 0 0 0 0 0 0 4294967298).toWord).s1 = true
      then bits (Insn.ofWord (ins 113 0 224 0 0 0 0 0 0 4294967298).toWord).imm 0 32 else BitVec.toNat ((getCore s01i4
      0).s (Insn.ofWord (ins 113 0 224 0 0 0 0 0 0 4294967298).toWord).s1)) ≠ 0 ∧ (getCore s01i4 0).loops.length < 4 ∧
      fget s01i4 F.SAGE_PC_PC + 1 < (getCore s01i4 0).code.length) ∧
    (Issues s01i6 0 (ins 255 0 0 0 0 0 0 0 0 0).toWord ∧ (Insn.ofWord (ins 255 0 0 0 0 0 0 0 0 0).toWord).opc = 255) ∧
    (Issues s01i7 0 (ins 121 0 0 0 0 0 0 0 0 1).toWord ∧ (Insn.ofWord (ins 121 0 0 0 0 0 0 0 0 1).toWord).opc = 121
      ∧ ((Insn.ofWord (ins 121 0 0 0 0 0 0 0 0 1).toWord).scope = 0 ∨ (getCore s01i7 0).table.any (releaseWaits
      (Insn.ofWord (ins 121 0 0 0 0 0 0 0 0 1).toWord).scope) = false)) ∧
    (Issues s01i9 0 (ins 120 0 33 2 0 0 0 0 0 0).toWord ∧ (Insn.ofWord (ins 120 0 33 2 0 0 0 0 0 0).toWord).opc =
      120 ∧ bit (Insn.ofWord (ins 120 0 33 2 0 0 0 0 0 0).toWord).mod 0 = false ∧ Proceeds s01i9 0 ∧ (∀ e ∈ (getCore
      s01i9 0).table, Space.at (devNum s01i9) e.space ≠ Space.at (devNum s01i9) (accessSpace (Insn.ofWord (ins 120 0
      33 2 0 0 0 0 0 0).toWord)) ∨ placeAddr (Insn.ofWord (ins 120 0 33 2 0 0 0 0 0 0).toWord) 0 ↑(BitVec.toNat
      ((getCore s01i9 0).ar (Insn.ofWord (ins 120 0 33 2 0 0 0 0 0 0).toWord).s1)) + BitVec.toNat ((getCore s01i9 0).s
      (Insn.ofWord (ins 120 0 33 2 0 0 0 0 0 0).toWord).s2) ≤ 64 * e.lo ∨ 64 * e.hi ≤ placeAddr (Insn.ofWord (ins 120
      0 33 2 0 0 0 0 0 0).toWord) 0 ↑(BitVec.toNat ((getCore s01i9 0).ar (Insn.ofWord (ins 120 0 33 2 0 0 0 0 0
      0).toWord).s1)))) ∧
    (Issues s01i10 0 (ins 113 0 9 0 0 0 0 0 0 4294967296).toWord ∧ (Insn.ofWord (ins 113 0 9 0 0 0 0 0 0
      4294967296).toWord).opc = 113 ∧ (if isNo (Insn.ofWord (ins 113 0 9 0 0 0 0 0 0 4294967296).toWord).s1 = true
      then bits (Insn.ofWord (ins 113 0 9 0 0 0 0 0 0 4294967296).toWord).imm 0 32 else BitVec.toNat ((getCore s01i10
      0).s (Insn.ofWord (ins 113 0 9 0 0 0 0 0 0 4294967296).toWord).s1)) = 0 ∧ (seqPc (getCore s01i10 0).loops (fget
      s01i10 F.SAGE_PC_PC + 1 + bits (Insn.ofWord (ins 113 0 9 0 0 0 0 0 0 4294967296).toWord).imm 32 12)).2 <
      (getCore s01i10 0).code.length) := by
  refine ⟨?_, ?_, ?_, ?_, ?_, ?_, ?_⟩
  all_goals decide +kernel

def s01j1 : State := run (ins 0x78 4 33 2 0 0 0 0 1 0x40)
def s01j3 : State := polling (ins 0x78 4 33 2 0 0 0 0 3 0x400000040)
def s01j5 : State := polling (ins 0x78 4 33 2 0 0 0 0 1 0x20000000040)
/-- Obligations.PollingWaitsForTheWord: its clauses' hypotheses, clause by clause. -/
theorem wit_PollingWaitsForTheWord :
    (Issues s01j1 0 (ins 120 4 33 2 0 0 0 0 1 64).toWord ∧ Ecc.clean ≠ Ecc.uncorrectable ∧ Proceeds s01j1 0 ∧
      (Insn.ofWord (ins 120 4 33 2 0 0 0 0 1 64).toWord).opc = 120 ∧ bit (Insn.ofWord (ins 120 4 33 2 0 0 0 0 1
      64).toWord).mod 0 = true ∧ ((Insn.ofWord (ins 120 4 33 2 0 0 0 0 1 64).toWord).space = 1 ∧ (Insn.ofWord (ins 120
      4 33 2 0 0 0 0 1 64).toWord).remote = false ∧ BitVec.toNat ((getCore s01j1 0).ar (Insn.ofWord (ins 120 4 33 2 0
      0 0 0 1 64).toWord).s1) % 8 = 0 ∧ BitVec.toNat ((getCore s01j1 0).ar (Insn.ofWord (ins 120 4 33 2 0 0 0 0 1
      64).toWord).s1) + 8 ≤ 8388608 ∧ boundTo s01j1 (coreStn 0) = Option.map (fun x => x.part) (getCore s01j1
      0).launch ∧ boundTo s01j1 (coreStn 0) ≠ none ∧ ∀ f ∈ (getCore s01j1 0).table, blocks (devNum s01j1) f (pollEntry
      (Insn.ofWord (ins 120 4 33 2 0 0 0 0 1 64).toWord) (getCore s01j1 0) 0) = false)) ∧
    (coreState s01j3 0 = stRunning ∧ (getCore s01j3 0).fencing = false ∧ inReset s01j3 (coreStn 0) = false ∧
      (getCore s01j3 0).wait = Wait.poll 0 0 0 false ∧ (getCore s01j3 0).code[0]? = some (ins 120 4 33 2 0 0 0 0 3
      17179869248).toWord ∧ 0 + bits (Insn.ofWord (ins 120 4 33 2 0 0 0 0 3 17179869248).toWord).imm 32 32 ≤ (getCore
      s01j3 0).cycles) ∧
    (coreState s01j5 0 = stRunning ∧ (getCore s01j5 0).fencing = false ∧ inReset s01j5 (coreStn 0) = false ∧
      (getCore s01j5 0).wait = Wait.poll 0 0 0 false ∧ (getCore s01j5 0).code[0]? = some (ins 120 4 33 2 0 0 0 0 1
      2199023255616).toWord ∧ stnPower s01j5 (coreStn 0) = domOn ∧ 0 + 64 ≤ (getCore s01j5 0).cycles ∧ (getCore s01j5
      0).cycles < 0 + bits (Insn.ofWord (ins 120 4 33 2 0 0 0 0 1 2199023255616).toWord).imm 32 32 ∧ ((Insn.ofWord
      (ins 120 4 33 2 0 0 0 0 1 2199023255616).toWord).space = 1 ∧ (Insn.ofWord (ins 120 4 33 2 0 0 0 0 1
      2199023255616).toWord).remote = false ∧ BitVec.toNat ((getCore s01j5 0).ar (Insn.ofWord (ins 120 4 33 2 0 0 0 0
      1 2199023255616).toWord).s1) % 8 = 0 ∧ BitVec.toNat ((getCore s01j5 0).ar (Insn.ofWord (ins 120 4 33 2 0 0 0 0 1
      2199023255616).toWord).s1) + 8 ≤ 8388608 ∧ boundTo s01j5 (coreStn 0) = Option.map (fun x => x.part) (getCore
      s01j5 0).launch ∧ boundTo s01j5 (coreStn 0) ≠ none ∧ ∀ f ∈ (getCore s01j5 0).table, blocks (devNum s01j5) f
      (pollEntry (Insn.ofWord (ins 120 4 33 2 0 0 0 0 1 2199023255616).toWord) (getCore s01j5 0) 0) = false)) := by
  refine ⟨?_, ?_, ?_⟩
  all_goals decide +kernel

def s01k1 : State := run (ins 0x07 0 33 0xE0 0 1 0 0 0 0x80)
/-- Obligations.PrefetchesEnterNoTable: its clauses' hypotheses, clause by clause. -/
theorem wit_PrefetchesEnterNoTable :
    (Issues s01k1 0 (ins 7 0 33 224 0 1 0 0 0 128).toWord ∧ Proceeds s01k1 0 ∧ Ecc.clean ≠ Ecc.uncorrectable ∧
      (Insn.ofWord (ins 7 0 33 224 0 1 0 0 0 128).toWord).opc = 7) := by
  decide +kernel

def s01l1 : State := run (ins 0x51 0 0 0 0 0 0 0 0 0)
def s01l3 : CoreLaunch := (CoreLaunch.mk 1 0 0 2 3 5 0 [7] 64 [1, 2] 4 0)
def s01l4 : State := atWider 2 1 0
def s01l5 : Launch := {launch1 with size := 2 + 0, here := 2, cores := [(0, .running), (1, .running)]}
def s01l6 : State := allAtWider 1
def s01l7 : Launch := {launch1 with size := 2 + 1, here := 2, cores := [(0, .running), (1, .running)]}
def s01l8 : State := coreS [(ins 0x51 0 0 0 0 0 0 0 0x800 0).toWord,0] (fun k => {k with table := [entry 1 .spad false (.flush 0)]})
/-- Obligations.FencesAndBarriersOrderACore: its clauses' hypotheses, clause by clause. -/
theorem wit_FencesAndBarriersOrderACore :
    (Issues s01l1 0 (ins 81 0 0 0 0 0 0 0 0 0).toWord ∧ Ecc.clean ≠ Ecc.uncorrectable ∧ (Insn.ofWord (ins 81 0 0 0 0
      0 0 0 0 0).toWord).opc = 81 ∧ (∀ e ∈ (getCore s01l1 0).table, (Insn.ofWord (ins 81 0 0 0 0 0 0 0 0
      0).toWord).scope ≠ 4 ∧ e.isRemote = true) ∧ Proceeds s01l1 0) ∧
    ((getCore atBarrier 0).wait = Wait.bar 2 0 0 false ∧ (getCore atBarrier 0).launch = some s01l3 ∧ getLaunch
      atBarrier s01l3.id = some launch1 ∧ ((∀ p ∈ List.filter (fun p => inScope 2 0 p.1) launch1.cores, p.2 ≠
      CoreEnd.running ∨ coreState atBarrier p.1 = stFaulted ∨ (getCore atBarrier p.1).wait.barId 0 = true) ∧ (2 = 0 ∨
      launch1.cores.length = launch1.here)) ∧ (2 ≤ 2 ∨ launch1.here = launch1.size ∨ false = true)) ∧
    ((getCore s01l4 0).wait = Wait.bar 2 0 0 false ∧ (getCore s01l4 0).launch = some s01l3 ∧ getLaunch s01l4
      s01l3.id = some s01l5 ∧ (¬((∀ p ∈ List.filter (fun p => inScope 2 0 p.1) s01l5.cores, p.2 ≠ CoreEnd.running ∨
      coreState s01l4 p.1 = stFaulted ∨ (getCore s01l4 p.1).wait.barId 0 = true) ∧ (2 = 0 ∨ s01l5.cores.length =
      s01l5.here)))) ∧
    ((getCore s01l6 0).wait = Wait.bar 3 0 0 false ∧ (getCore s01l6 0).launch = some s01l3 ∧ getLaunch s01l6
      s01l3.id = some s01l7 ∧ ((∀ p ∈ List.filter (fun p => inScope 3 0 p.1) s01l7.cores, p.2 ≠ CoreEnd.running ∨
      coreState s01l6 p.1 = stFaulted ∨ (getCore s01l6 p.1).wait.barId 0 = true) ∧ (3 = 0 ∨ s01l7.cores.length =
      s01l7.here)) ∧ 2 < 3 ∧ s01l7.here ≠ s01l7.size ∧ false = false) ∧
    (Issues s01l8 0 (ins 81 0 0 0 0 0 0 0 2048 0).toWord ∧ (Insn.ofWord (ins 81 0 0 0 0 0 0 0 2048 0).toWord).opc =
      81 ∧ (∃ e ∈ (getCore s01l8 0).table, (Insn.ofWord (ins 81 0 0 0 0 0 0 0 2048 0).toWord).scope = 4 ∨ e.isRemote =
      false)) := by
  refine ⟨?_, ?_, ?_, ?_, ?_⟩
  all_goals decide +kernel

def s01m1 : State := flying (entry 3 .spad false (.store [(0,[1,2]),(1,[9,8])]))
def s01m2 : Entry := entry 3 .spad false (.store [(0,[1,2]),(1,[9,8])])
/-- Obligations.CompletedAccessesLeaveTheTable: its clauses' hypotheses, clause by clause. -/
theorem wit_CompletedAccessesLeaveTheTable :
    (List.find? (fun f => f.slot == s01m2.slot) (getCore s01m1 0).table = some s01m2 ∧ s01m2.sent = false ∧
      ((earlier (getCore s01m1 0).table s01m2.slot).any fun f => blocks (devNum s01m1) f s01m2) = false ∧ stnPower
      s01m1 (coreStn 0) = domOn ∧ s01m2.space = .spad) ∧
    ((s01m2.space = Space.spad ∨ s01m2.space = Space.device ∧ (s01m2.ownStn = true ∨ accessHeld s01m1
      s01m2.payload.pieces = false)) ∧ 0 < 1 ∧ 1 < s01m2.left.length) ∧
    s01m2.done = 0 := by
  refine ⟨?_, ?_, ?_⟩
  all_goals decide +kernel

def s01n1 : State := run (ins 0xEE 0 0 0 0 0 0 0 0 0)
/-- Obligations.SageFaultsAreRecorded: its clauses' hypotheses, clause by clause. -/
theorem wit_SageFaultsAreRecorded :
    (coreState s01n1 0 = stRunning ∧ (getCore s01n1 0).wait = Wait.none ∧ (getCore s01n1 0).fencing = false ∧
      stnPower s01n1 (coreStn 0) = domOn ∧ inReset s01n1 (coreStn 0) = false ∧ (getCore s01n1 0).code[fget s01n1
      F.SAGE_PC_PC]? = some (ins 238 0 0 0 0 0 0 0 0 0).toWord ∧ hazard (getCore s01n1 0) (Insn.ofWord (ins 238 0 0 0
      0 0 0 0 0 0).toWord) = false ∧ (Insn.ofWord (ins 238 0 0 0 0 0 0 0 0 0).toWord).legal = false ∧ Ecc.clean ≠
      Ecc.uncorrectable) := by
  decide +kernel

/-- Obligations.LaunchesTakeACoreThroughItsStates: its clauses' hypotheses, clause by clause. -/
theorem wit_LaunchesTakeACoreThroughItsStates :
    (coreState withImage 0 = stFree ∧ boundTo withImage (coreStn 0) = some req1.part ∧ stnPower withImage (coreStn
      0) = domOn ∧ inReset withImage (coreStn 0) = false ∧ getLaunch withImage req1.id = none ∧ imageOk (devRead
      (begun withImage) (launchWho req1) req1.image 64).2.1 (devRead (devRead (begun withImage) (launchWho req1)
      req1.image 64).1 (launchWho req1) (req1.image + imageField (devRead (begun withImage) (launchWho req1)
      req1.image 64).2.1 8 4) (16 * imageField (devRead (begun withImage) (launchWho req1) req1.image 64).2.1 12
      4)).2.1 req1.args.length = true ∧ Unheld (assignCore (begun withImage) 0 req1)) ∧
    (((getCore loading 0).launch).isSome = true ∧ coreState loading 0 = stLoading ∧ inReset loading (coreStn 0) =
      false) ∧
    ((getCore ending0 0).launch ≠ none ∧ (getCore ending0 0).table = [] ∧ coreState ending0 0 = stEnding ∧ bit (fget
      ending0 F.STN_CORE_FENCE_FENCE (coreStn 0)) (0 % 6) = false) := by
  refine ⟨?_, ?_, ?_⟩
  all_goals decide +kernel

/-- Obligations.FencedCoresAreHeldAndReleasedClear: its clauses' hypotheses, clause by clause. -/
theorem wit_FencedCoresAreHeldAndReleasedClear :
    (bit (fget base F.STN_CORE_FENCE_FENCE (coreStn 0)) (0 % 6) = false ∧ coreState base 0 ≠ stLoading) ∧
    (bit (fget loading F.STN_CORE_FENCE_FENCE (coreStn 0)) (0 % 6) = false ∧ coreState loading 0 = stLoading) ∧
    (bit (fget fenced0 F.STN_CORE_FENCE_FENCE (coreStn 0)) (0 % 6) = true ∧ coreState fenced0 0 = stFenced) := by
  refine ⟨?_, ?_, ?_⟩
  all_goals decide +kernel

def s01q1 : State := toBind binding
def s01q2 : State := toBind (withF binding [(.PWR_DOM_STATUS_STATE,0,2)])
def s01q3 : State := withF binding [(.PWR_DOM_STATUS_STATE,0,2)]
def s01q4 : State := bindReplied binding
/-- Obligations.BindingClearsAStation: its clauses' hypotheses, clause by clause. -/
theorem wit_BindingClearsAStation :
    (sliceState s01q1 0 = slBinding ∧ fbit s01q1 F.STN_STATUS_CLEARING = false ∧ stnPower s01q1 0 ≠ domOff ∧
      composeTake s01q1 (0 / 16) (stnJunction (0 % 16)) = some binding ∧ stnPower s01q1 0 = domOn) ∧
    (sliceState s01q2 0 = slBinding ∧ fbit s01q2 F.STN_STATUS_CLEARING = false ∧ stnPower s01q2 0 ≠ domOff ∧
      composeTake s01q2 (0 / 16) (stnJunction (0 % 16)) = some s01q3 ∧ stnPower s01q2 0 ≠ domOn) ∧
    (fbit clearing F.STN_STATUS_CLEARING = true ∧ (∀ e ∈ clearing.heldAcc, e.1 ≠ 0)) ∧
    (sliceState s01q4 0 = slBinding ∧ fbit s01q4 F.STN_STATUS_CLEARING = false ∧ replyTake s01q4 0 = some binding) := by
  refine ⟨?_, ?_, ?_, ?_⟩
  all_goals decide +kernel

def s01r1 : State := filled base
def s01r2 : Access := rd who0 (stnAddr 0 8) 8
def s01r3 : Access := rd who9 (stnAddr 0 8) 8
def s01r4 : Access := wr who0 (stnAddr 0 8) [7,8]
def s01r5 : Access := wr who9 (stnAddr 0 8) [7,8]
def s01r6 : List Byte := ([7,8]:List Byte)
def s01r7 : State := withF (filled base) [(.PWR_DOM_STATUS_STATE,0,4)]
def s01r8 : State := withF (filled base) [(.PWR_DOM_STATUS_STATE,0,2)]
/-- Obligations.StationStopsCheckAndServe: its clauses' hypotheses, clause by clause. -/
theorem wit_StationStopsCheckAndServe :
    (s01r2.addr = stnAddr 0 8 ∧ 8 < 8388608 ∧ s01r2.op = AccessOp.read 8 ∧ 1 ≤ 8 ∧ 8 % 64 + 8 ≤ 64 ∧ (stopHeld s01r1
      0 = false ∧ stnPower s01r1 0 ≠ domOff) ∧ (s01r2.who.oper = true ∨ boundTo s01r1 0 = some s01r2.who.part)) ∧
    (s01r3.addr = stnAddr 0 8 ∧ s01r3.op = AccessOp.read 8 ∧ (¬(s01r3.who.oper = true ∨ boundTo s01r1 0 = some
      s01r3.who.part))) ∧
    (s01r4.addr = stnAddr 0 8 ∧ s01r4.op = AccessOp.write s01r6 ∧ s01r6 ≠ [] ∧ 8 % 64 + s01r6.length ≤ 64 ∧
      (s01r4.who.oper = true ∨ boundTo s01r1 0 = some s01r4.who.part)) ∧
    (s01r5.addr = stnAddr 0 8 ∧ s01r5.op = AccessOp.write s01r6 ∧ (¬(s01r5.who.oper = true ∨ boundTo s01r1 0 = some
      s01r5.who.part))) ∧
    (stopHeld s01r7 0 = false ∧ stnPower s01r7 0 = domOff) ∧
    stopHeld s01r8 0 = true := by
  refine ⟨?_, ?_, ?_, ?_, ?_, ?_⟩
  all_goals decide +kernel

def s01s1 : State := meshed 1 0 8
def s01s2 : MeshPacket := {packet2 with data := [5]}
def s01s3 : State := meshed 8 0 8
def s01s4 : InMesh := inMesh 8 0 8
def s01s5 : State := afterMesh (meshed 8 0 8) (inMesh 8 0 8)
def s01s6 : MeshPacket := {packet1 with dstDie := 0, dst := 8}
def s01s23 : State := entered base packet2
def s01s24 : State := signalling 30
def s01s25 : SigMsg := (⟨0, 13, ⟨6, 1, 30, 3, false, [1]⟩⟩ : SigMsg)
def s01s26 : List SigMsg := [(⟨1, 13, ⟨2, 1, 5, 0, false, []⟩⟩:SigMsg)]
def s01s27 : State := signalling ccStop
def s01s28 : SigMsg := (⟨0, 13, ⟨6, 1, 13, 3, false, [1]⟩⟩ : SigMsg)
def s01s29 : State := signalling 2
def s01s30 : SigMsg := (⟨0, 13, ⟨6, 1, 2, 3, false, [1]⟩⟩ : SigMsg)
theorem not_turn {α β : Type} {o : Option (α × β)} {e : α} (h : o.map (fun r => r.1) ≠ some e) : ∀ v, o ≠ some (e, v) :=
  fun _ hv => h (congrArg (Option.map (fun r => r.1)) hv)
/-- Obligations.PacketsHopAndSignalsArrive: its clauses' hypotheses, clause by clause. -/
theorem wit_PacketsHopAndSignalsArrive :
    (List.find? (fun e => e.die == 0 && e.at_ == 1 && e.pkt == s01s2) s01s1.mesh = none ∧ 0 = s01s2.srcDie ∧
      s01s2.dstDie < 16 ∧ 1 = s01s2.src ∧ s01s2.src < 30 ∧ s01s2.dst < 30 ∧ s01s2.cls < 8) ∧
    (List.find? (fun e => e.die == 0 && e.at_ == 8 && e.pkt == s01s6) s01s3.mesh = some s01s4 ∧ meshNext s01s3
      (meshOut s01s4) = some (s01s4, s01s5)) ∧
    (List.find? (fun e => e.die == 0 && e.at_ == 1 && e.pkt == packet2) base.mesh = none ∧ 0 = packet2.srcDie ∧
      packet2.dstDie < 16 ∧ 1 = packet2.src ∧ packet2.src < 30 ∧ packet2.dst < 30 ∧ packet2.cls < 8 ∧ meshNext
      (meshEnter base 0 packet2) (meshOut
      { die := 0, at_ := 1, since := base.now, pkt := { srcDie := packet2.srcDie, src := packet2.src, dstDie := packet2.dstDie, dst := packet2.dst, response := packet2.response, part := packet2.part, oper := packet2.oper, cls := packet2.cls, deadline := runDown packet2.deadline (stopUnits base 0 1), data := packet2.data } })
      = some
      ({ die := 0, at_ := 1, since := base.now, pkt := { srcDie := packet2.srcDie, src := packet2.src, dstDie := packet2.dstDie, dst := packet2.dst, response := packet2.response, part := packet2.part, oper := packet2.oper, cls := packet2.cls, deadline := runDown packet2.deadline (stopUnits base 0 1), data := packet2.data } },
      s01s23)) ∧
    (s01s24.sigs = s01s25 :: s01s26 ∧ s01s25.msg.die < 16 ∧ 1 < 4 ∧ s01s25.msg.stop = mdStop ∧ s01s25.msg.cls ≠
      clsNotify) ∧
    (s01s27.sigs = s01s28 :: s01s26 ∧ s01s28.msg.die < 16 ∧ s01s28.msg.stop = ccStop ∧ fromComposer s01s28 = false ∧
      (getRxq s01s27 (4 * s01s28.msg.die + 1)).length < 16 ∧ cndState s01s27 (4 * s01s28.msg.die + 1) ≠ cndWaiting) ∧
    (s01s29.sigs = s01s30 :: s01s26 ∧ s01s30.msg.die < 16 ∧ 1 < 16 ∧ s01s30.msg.stop = stnJunction 1 ∧
      s01s30.msg.oper = false ∧ boundTo s01s29 (16 * s01s30.msg.die + 1) ≠ some s01s30.msg.part) ∧
    (∀ (v : State), meshNext (meshEnter s01s1 0 s01s2) (meshOut
      { die := 0, at_ := 1, since := s01s1.now, pkt := { srcDie := s01s2.srcDie, src := s01s2.src, dstDie := s01s2.dstDie, dst := s01s2.dst, response := s01s2.response, part := s01s2.part, oper := s01s2.oper, cls := s01s2.cls, deadline := runDown s01s2.deadline (stopUnits s01s1 0 1), data := s01s2.data } })
      ≠ some
      ({ die := 0, at_ := 1, since := s01s1.now, pkt := { srcDie := s01s2.srcDie, src := s01s2.src, dstDie := s01s2.dstDie, dst := s01s2.dst, response := s01s2.response, part := s01s2.part, oper := s01s2.oper, cls := s01s2.cls, deadline := runDown s01s2.deadline (stopUnits s01s1 0 1), data := s01s2.data } },
      v)) := by
  refine ⟨?_, ?_, ?_, ?_, ?_, ?_, (not_turn (by decide +kernel))⟩
  all_goals decide +kernel


/-! Chapter 05. -/
def s05a1 : State := kvS (kvBytes 1 0 0 4 0x1000)
def s05a2 : List (Option (List Byte)) := ([]:Peers)
def s05a3 : Plane := (⟨12288,1,64,.tokenFp8,false⟩:Plane)
def s05a6 : State := kvS (kvBytes 1 1 0 4 0x1000)
def s05a7 : State := kvS (kvBytes 2 0 0 2 0x1000)
def s05a9 : State := kvS (kvBytes 2 2 0 2 0x1000)
def s05a10 : State := kvS (kvBytes 3 0 0 2 0x1000)
def s05a12 : State := kvHeld 1
def s05a13 : State := kvHeld 2
/-- Obligations.KvGateCommandsEndWithAWord: its clauses' hypotheses, clause by clause. -/
theorem wit_KvGateCommandsEndWithAWord :
    (KvgTakes s05a1 0 0 1 ∧ (kvgCmd s05a1 0 0).formOk = true ∧ Unheld (kvgExec (begun s05a1) 0 (fun x => x == 1) fun
      s c => kvgRun s 0 c s05a2) ∧ (kvgPlane (epochStart (begun s05a1) (kvgWho s05a1 0).part (kvgWho s05a1 0).sub).2 0
      (kvgCmd s05a1 0 0)).2 = some (s05a3, 2)) ∧
    0 < 2 ∧
    (KvgTakes s05a6 0 0 1 ∧ (kvgCmd s05a6 0 0).formOk = false) ∧
    (KvgTakes s05a7 0 0 2 ∧ (kvgCmd s05a7 0 0).formOk = true ∧ Unheld (kvgExec (begun s05a7) 0 (fun x => x == 2) fun
      s c => kvgRun s 0 c []) ∧ (kvgPlane (epochStart (begun s05a7) (kvgWho s05a7 0).part (kvgWho s05a7 0).sub).2 0
      (kvgCmd s05a7 0 0)).2 = some (s05a3, 2)) ∧
    (KvgTakes s05a9 0 0 2 ∧ (kvgCmd s05a9 0 0).formOk = false) ∧
    KvgTakes s05a10 0 0 3 ∧
    (KvgTakes s05a12 0 0 1 ∧ ¬Unheld (kvgExec (begun s05a12) 0 (fun x => x == 1) fun s c => kvgRun s 0 c s05a2)) ∧
    (KvgTakes s05a13 0 0 2 ∧ ¬Unheld (kvgExec (begun s05a13) 0 (fun x => x == 2) fun s c => kvgRun s 0 c [])) := by
  refine ⟨?_, ?_, ?_, ?_, ?_, ?_, ?_, ?_⟩
  all_goals decide +kernel


/-! Chapter 06. -/
def s06a1 : State := routeS 1 0
def s06a2 : List (Option (List Byte)) := ([]:Peers)
def s06a3 : State := routeS 2 0
def s06a4 : State := routedS 1
def s06a5 : List Nat := ([]:List Nat)
def s06a6 : List Peers := ([]:List Peers)
def s06a7 : State := routedS 0
def s06a8 : State := { routedS 0 with now := 10 ^ 9 }
/-- The ROUTE that die 0 finds at its ring, as the unit reads it. -/
def routeFound (s : State) := routeCtx (epochStart (setPoints (fset (devRead (begun s) (ptsWho s 0 0 (0 % 4)) (64 * fget s F.PTS_RING_BASE_ADDR (4 * 0 + 0) + 64 * ptsHead s 0 0) 64).1 (ptsHeadF 0) 0 (ptsHead s 0 0 + 1)) 0 { getPoints s 0 with last := 0 }) (ptsWho s 0 0 (0 % 4)).part (ptsWho s 0 0 (0 % 4)).sub).2 (ptsWho s 0 0 (0 % 4)) 0 (routeCmdOf (devRead (begun s) (ptsWho s 0 0 (0 % 4)) (64 * fget s F.PTS_RING_BASE_ADDR (4 * 0 + 0) + 64 * ptsHead s 0 0) 64).2.1) (epochStart (setPoints (fset (devRead (begun s) (ptsWho s 0 0 (0 % 4)) (64 * fget s F.PTS_RING_BASE_ADDR (4 * 0 + 0) + 64 * ptsHead s 0 0) 64).1 (ptsHeadF 0) 0 (ptsHead s 0 0 + 1)) 0 { getPoints s 0 with last := 0 }) (ptsWho s 0 0 (0 % 4)).part (ptsWho s 0 0 (0 % 4)).sub).1
/-- Obligations.RoutesAreDispatchedAndCombined: its clauses' hypotheses, clause by clause. -/
theorem wit_RoutesAreDispatchedAndCombined :
    (ptsNext s06a1 0 = some 0 ∧ Unheld (routeRun 0 0 s06a2 (begun s06a1)) ∧ (routeFound s06a1).2.isSome = true) ∧
    (ptsNext s06a3 0 = some 0 ∧ Unheld (routeRun 0 0 s06a2 (begun s06a3)) ∧ (routeFound s06a3).2 = none ∧ 64 * fget
      s06a3 F.PTS_RING_BASE_ADDR (4 * 0 + 0) + 64 * ptsHead s06a3 0 0 + 64 ≤ regBase) ∧
    (List.findIdx? (fun y => y.die == 0 && y.ring == 0) s06a4.routes = some 1 ∧ s06a4.routes[1]? = some route0 ∧
      route0.outRows + route0.tokens * (4 * route0.hidden) ≤ regBase ∧ (∀ a ∈ route0.assigns, a.token < route0.tokens)
      ∧ route0.word + 8 ≤ regBase ∧ (readyOnes
      { part := route0.part, sub := route0.sub, oper := false, kind := 3, die := route0.die, index := 0, lent := false }
      (List.filterMap (fun j => Option.map (fun c => (c, s06a6.getD j [])) route0.contribs[j]?) (List.range
      route0.contribs.length)) (begun s06a4)).2.length = route0.contribs.length ∧ Unheld (combine (begun s06a4) 1
      route0 s06a5 s06a6 false)) ∧
    ¬route0.since + 1000 * fget s06a4 F.PTS_TIMEOUT_MICROSECONDS ≤ s06a4.now ∧
    (List.findIdx? (fun y => y.die == 0 && y.ring == 0) s06a7.routes = some 1 ∧ s06a7.routes[1]? = some route0 ∧
      ¬(readyOnes
      { part := route0.part, sub := route0.sub, oper := false, kind := 3, die := route0.die, index := 0, lent := false }
      (List.filterMap (fun j => Option.map (fun c => (c, s06a6.getD j [])) route0.contribs[j]?) (List.range
      route0.contribs.length)) (begun s06a7)).2.length = route0.contribs.length) ∧
    (List.findIdx? (fun y => y.die == 0 && y.ring == 0) s06a8.routes = some 1 ∧ s06a8.routes[1]? = some route0 ∧
      ¬(readyOnes
      { part := route0.part, sub := route0.sub, oper := false, kind := 3, die := route0.die, index := 0, lent := false }
      (List.filterMap (fun j => Option.map (fun c => (c, s06a6.getD j [])) route0.contribs[j]?) (List.range
      route0.contribs.length)) (begun s06a8)).2.length = route0.contribs.length ∧ route0.since + 1000 * fget s06a8
      F.PTS_TIMEOUT_MICROSECONDS ≤ s06a8.now ∧ Unheld (combine (begun s06a8) 1 route0 s06a5 s06a6 true)) := by
  refine ⟨?_, ?_, ?_, ?_, ?_, ?_⟩
  all_goals decide +kernel


/-! Chapter 07. -/
def s07a1 : State := blS buildC 0
def s07a2 : State := blS buildC 1
def s07a3 : State := blS acceptC 0
def s07a4 : State := blS acceptC 1
def s07a5 : State := blS (commitC 0) 0
def s07a6 : State := blS (commitC 0) 1
def s07a8 : State := blS blCancelC 0
def s07a9 : State := blS blCancelC 1
/-- Obligations.BranchLineCommandsEndInRingOrder: its clauses' hypotheses, clause by clause. -/
theorem wit_BranchLineCommandsEndInRingOrder :
    (BlTakes (begun s07a1) 0 0 1 ∧ (fun op late => Unheld (blExec (begun s07a1) 0 (fun x => x == op) late)) 1 false
      ∧ (specOf (blSpecAt (begun s07a1) 0 0).2).isOpen = false ∧ (specOf (blSpecAt (begun s07a1) 0 0).2).histLen ≠ 0 ∧
      bit (fieldAt (blCmdAt (begun s07a1) 0 0).2 1 1) 0 = false ∧ fieldAt (blCmdAt (begun s07a1) 0 0).2 16 8 + 131072
      ≤ regBase) ∧
    (BlTakes (begun s07a2) 0 0 1 ∧ (fun op late => Unheld (blExec (begun s07a2) 0 (fun x => x == op) late)) 1 false
      ∧ (specOf (blSpecAt (begun s07a2) 0 0).2).isOpen = true ∧ bit (fieldAt (blCmdAt (begun s07a2) 0 0).2 1 1) 0 =
      false) ∧
    (BlTakes (begun s07a3) 0 0 2 ∧ (fun op late => Unheld (blExec (begun s07a3) 0 (fun x => x == op) late)) 2 false
      ∧ (treeOf (blRead (blSpecAt (begun s07a3) 0 0).1 (blWho s07a3 0 0) (fieldAt (blCmdAt (begun s07a3) 0 0).2 16 8)
      1088).2).ok = true ∧ (specOf (blSpecAt (begun s07a3) 0 0).2).isOpen = false) ∧
    (BlTakes (begun s07a4) 0 0 2 ∧ (fun op late => Unheld (blExec (begun s07a4) 0 (fun x => x == op) late)) 2 false
      ∧ (treeOf (blRead (blSpecAt (begun s07a4) 0 0).1 (blWho s07a4 0 0) (fieldAt (blCmdAt (begun s07a4) 0 0).2 16 8)
      1088).2).ok = true ∧ (specOf (blSpecAt (begun s07a4) 0 0).2).isOpen = true ∧ (targetLists (blWho s07a4 0 0)
      (fieldAt (blCmdAt (begun s07a4) 0 0).2 24 8) (fieldAt (blCmdAt (begun s07a4) 0 0).2 48 4) (treeOf (blRead
      (blSpecAt (begun s07a4) 0 0).1 (blWho s07a4 0 0) (fieldAt (blCmdAt (begun s07a4) 0 0).2 16 8) 1088).2).n 0
      (blRead (blSpecAt (begun s07a4) 0 0).1 (blWho s07a4 0 0) (fieldAt (blCmdAt (begun s07a4) 0 0).2 16 8) 1088).1).2
      ≠ none ∧ fieldAt (blCmdAt (begun s07a4) 0 0).2 32 8 + 64 ≤ regBase) ∧
    (BlTakes (begun s07a5) 0 0 3 ∧ (fun op late => Unheld (blExec (begun s07a5) 0 (fun x => x == op) late)) 3 false
      ∧ (treeOf (blRead (blSpecAt (begun s07a5) 0 0).1 (blWho s07a5 0 0) (fieldAt (blCmdAt (begun s07a5) 0 0).2 16 8)
      1088).2).ok = true ∧ (specOf (blSpecAt (begun s07a5) 0 0).2).isOpen = false ∧ (fieldAt (blRead (blRead (blSpecAt
      (begun s07a5) 0 0).1 (blWho s07a5 0 0) (fieldAt (blCmdAt (begun s07a5) 0 0).2 16 8) 1088).1 (blWho s07a5 0 0)
      (fieldAt (blCmdAt (begun s07a5) 0 0).2 32 8) 64).2 0 1 ≤ 16 ∧ fieldAt (blCmdAt (begun s07a5) 0 0).2 48 4 ≤
      fieldAt (blRead (blRead (blSpecAt (begun s07a5) 0 0).1 (blWho s07a5 0 0) (fieldAt (blCmdAt (begun s07a5) 0 0).2
      16 8) 1088).1 (blWho s07a5 0 0) (fieldAt (blCmdAt (begun s07a5) 0 0).2 32 8) 64).2 0 1 ∧ ∀ i < fieldAt (blRead
      (blRead (blSpecAt (begun s07a5) 0 0).1 (blWho s07a5 0 0) (fieldAt (blCmdAt (begun s07a5) 0 0).2 16 8) 1088).1
      (blWho s07a5 0 0) (fieldAt (blCmdAt (begun s07a5) 0 0).2 32 8) 64).2 0 1, fieldAt (blRead (blRead (blSpecAt
      (begun s07a5) 0 0).1 (blWho s07a5 0 0) (fieldAt (blCmdAt (begun s07a5) 0 0).2 16 8) 1088).1 (blWho s07a5 0 0)
      (fieldAt (blCmdAt (begun s07a5) 0 0).2 32 8) 64).2 (8 + i) 1 < (treeOf (blRead (blSpecAt (begun s07a5) 0 0).1
      (blWho s07a5 0 0) (fieldAt (blCmdAt (begun s07a5) 0 0).2 16 8) 1088).2).n)) ∧
    (BlTakes (begun s07a6) 0 0 3 ∧ (fun op late => Unheld (blExec (begun s07a6) 0 (fun x => x == op) late)) 3 false
      ∧ (treeOf (blRead (blSpecAt (begun s07a6) 0 0).1 (blWho s07a6 0 0) (fieldAt (blCmdAt (begun s07a6) 0 0).2 16 8)
      1088).2).ok = true ∧ (specOf (blSpecAt (begun s07a6) 0 0).2).isOpen = true ∧ fieldAt (blCmdAt (begun s07a6) 0
      0).2 48 4 ≤ fieldAt (blRead (blRead (blSpecAt (begun s07a6) 0 0).1 (blWho s07a6 0 0) (fieldAt (blCmdAt (begun
      s07a6) 0 0).2 16 8) 1088).1 (blWho s07a6 0 0) (fieldAt (blCmdAt (begun s07a6) 0 0).2 32 8) 64).2 0 1 ∧ fieldAt
      (blRead (blRead (blSpecAt (begun s07a6) 0 0).1 (blWho s07a6 0 0) (fieldAt (blCmdAt (begun s07a6) 0 0).2 16 8)
      1088).1 (blWho s07a6 0 0) (fieldAt (blCmdAt (begun s07a6) 0 0).2 32 8) 64).2 0 1 ≤ 16 ∧ (∀ x ∈ List.map (fun i
      => fieldAt (blRead (blRead (blSpecAt (begun s07a6) 0 0).1 (blWho s07a6 0 0) (fieldAt (blCmdAt (begun s07a6) 0
      0).2 16 8) 1088).1 (blWho s07a6 0 0) (fieldAt (blCmdAt (begun s07a6) 0 0).2 32 8) 64).2 (8 + i) 1) (List.range
      (min (fieldAt (blRead (blRead (blSpecAt (begun s07a6) 0 0).1 (blWho s07a6 0 0) (fieldAt (blCmdAt (begun s07a6) 0
      0).2 16 8) 1088).1 (blWho s07a6 0 0) (fieldAt (blCmdAt (begun s07a6) 0 0).2 32 8) 64).2 0 1) 16)), x < (treeOf
      (blRead (blSpecAt (begun s07a6) 0 0).1 (blWho s07a6 0 0) (fieldAt (blCmdAt (begun s07a6) 0 0).2 16 8)
      1088).2).n) ∧ ListsBelow (rootPlanes (blRead (blRead (blSpecAt (begun s07a6) 0 0).1 (blWho s07a6 0 0) (fieldAt
      (blCmdAt (begun s07a6) 0 0).2 16 8) 1088).1 (blWho s07a6 0 0) (fieldAt (blCmdAt (begun s07a6) 0 0).2 32 8) 64).1
      (blWho s07a6 0 0) (specOf (blSpecAt (begun s07a6) 0 0).2).live).2 ∧ (lowestWay ((treeOf (blRead (blSpecAt (begun
      s07a6) 0 0).1 (blWho s07a6 0 0) (fieldAt (blCmdAt (begun s07a6) 0 0).2 16 8) 1088).2).mask (if fieldAt (blCmdAt
      (begun s07a6) 0 0).2 48 4 = 0 then 0 else (List.map (fun i => fieldAt (blRead (blRead (blSpecAt (begun s07a6) 0
      0).1 (blWho s07a6 0 0) (fieldAt (blCmdAt (begun s07a6) 0 0).2 16 8) 1088).1 (blWho s07a6 0 0) (fieldAt (blCmdAt
      (begun s07a6) 0 0).2 32 8) 64).2 (8 + i) 1) (List.range (min (fieldAt (blRead (blRead (blSpecAt (begun s07a6) 0
      0).1 (blWho s07a6 0 0) (fieldAt (blCmdAt (begun s07a6) 0 0).2 16 8) 1088).1 (blWho s07a6 0 0) (fieldAt (blCmdAt
      (begun s07a6) 0 0).2 32 8) 64).2 0 1) 16))).getD (fieldAt (blCmdAt (begun s07a6) 0 0).2 48 4 - 1) 0)) ≠ 0 → ∀ x
      ∈ (rootPlanes (blRead (blRead (blSpecAt (begun s07a6) 0 0).1 (blWho s07a6 0 0) (fieldAt (blCmdAt (begun s07a6) 0
      0).2 16 8) 1088).1 (blWho s07a6 0 0) (fieldAt (blCmdAt (begun s07a6) 0 0).2 32 8) 64).1 (blWho s07a6 0 0)
      (specOf (blSpecAt (begun s07a6) 0 0).2).live).2.zip (rootPlanes (rootPlanes (blRead (blRead (blSpecAt (begun
      s07a6) 0 0).1 (blWho s07a6 0 0) (fieldAt (blCmdAt (begun s07a6) 0 0).2 16 8) 1088).1 (blWho s07a6 0 0) (fieldAt
      (blCmdAt (begun s07a6) 0 0).2 32 8) 64).1 (blWho s07a6 0 0) (specOf (blSpecAt (begun s07a6) 0 0).2).live).1
      (blWho s07a6 0 0) ((specOf (blSpecAt (begun s07a6) 0 0).2).wayRoots.getD (lowestWay ((treeOf (blRead (blSpecAt
      (begun s07a6) 0 0).1 (blWho s07a6 0 0) (fieldAt (blCmdAt (begun s07a6) 0 0).2 16 8) 1088).2).mask (if fieldAt
      (blCmdAt (begun s07a6) 0 0).2 48 4 = 0 then 0 else (List.map (fun i => fieldAt (blRead (blRead (blSpecAt (begun
      s07a6) 0 0).1 (blWho s07a6 0 0) (fieldAt (blCmdAt (begun s07a6) 0 0).2 16 8) 1088).1 (blWho s07a6 0 0) (fieldAt
      (blCmdAt (begun s07a6) 0 0).2 32 8) 64).2 (8 + i) 1) (List.range (min (fieldAt (blRead (blRead (blSpecAt (begun
      s07a6) 0 0).1 (blWho s07a6 0 0) (fieldAt (blCmdAt (begun s07a6) 0 0).2 16 8) 1088).1 (blWho s07a6 0 0) (fieldAt
      (blCmdAt (begun s07a6) 0 0).2 32 8) 64).2 0 1) 16))).getD (fieldAt (blCmdAt (begun s07a6) 0 0).2 48 4 - 1) 0)) -
      1) 0)).2, x.2.1 + 16 * x.1.2.1 + 16 ≤ regBase) ∧ fieldAt (blCmdAt (begun s07a6) 0 0).2 32 8 + 64 ≤ regBase ∧
      fieldAt (blCmdAt (begun s07a6) 0 0).2 8 8 + 128 ≤ regBase ∧ (specOf (blSpecAt (begun s07a6) 0 0).2).hist + 4 *
      (specOf (blSpecAt (begun s07a6) 0 0).2).histCap ≤ regBase ∧ ((specOf (blSpecAt (begun s07a6) 0 0).2).ngN ≠ 0 →
      (specOf (blSpecAt (begun s07a6) 0 0).2).ng + 33554432 ≤ regBase)) ∧
    (BlTakes (begun s07a8) 0 0 4 ∧ (fun op late => Unheld (blExec (begun s07a8) 0 (fun x => x == op) late)) 4 false
      ∧ (treeOf (blRead (blSpecAt (begun s07a8) 0 0).1 (blWho s07a8 0 0) (fieldAt (blCmdAt (begun s07a8) 0 0).2 16 8)
      1088).2).ok = true ∧ (specOf (blSpecAt (begun s07a8) 0 0).2).isOpen = false) ∧
    (BlTakes (begun s07a9) 0 0 4 ∧ (fun op late => Unheld (blExec (begun s07a9) 0 (fun x => x == op) late)) 4 false
      ∧ (treeOf (blRead (blSpecAt (begun s07a9) 0 0).1 (blWho s07a9 0 0) (fieldAt (blCmdAt (begun s07a9) 0 0).2 16 8)
      1088).2).ok = true ∧ (specOf (blSpecAt (begun s07a9) 0 0).2).isOpen = true) ∧
    ((fun op late => Unheld (blExec (begun s07a4) 0 (fun x => x == op) late)) 2 true ∧ (blPlan (epochStart (blCmdAt
      (begun s07a4) 0 0).1 (blWho s07a4 0 0).part (blWho s07a4 0 0).sub).2 (blWho s07a4 0 0) (blCmdAt (begun s07a4) 0
      0).2).2.status = 0) := by
  refine ⟨?_, ?_, ?_, ?_, ?_, ?_, ?_, ?_, ?_⟩
  all_goals decide +kernel


/-! Chapter 08. -/
def s08a1 : State := asking (submitD 3) []
def s08a2 : Intake := (⟨2, 0, submitD 3⟩:Intake)
def s08a3 : List Byte := ([]:List Byte)
def s08a4 : List (Option (List Byte)) := ([]:Peers)
def s08a5 : State := asking (submitD 0) []
def s08a6 : Intake := (⟨2, 0, submitD 0⟩:Intake)
def s08a7 : State := asking cancelD [req0]
def s08a8 : Intake := (⟨2, 0, cancelD⟩:Intake)
def s08a9 : State := asking (2 :: 1 :: cancelD.drop 2) [req0]
def s08a10 : Intake := (⟨2, 0, 2 :: 1 :: cancelD.drop 2⟩:Intake)
def s08a11 : State := serving {service0 with bundle := bundle1} [importing0]
def s08a12 : Service := ({service0 with bundle := bundle1}:Service)
def s08a13 : List (Option (List Byte)) := ([some kvImage0]:Peers)
def s08a15 : State := {serving service0 [exporting0] with wins := [(0, ⟨true, true, true, true, true, 0, regBase, 5⟩)]}
/-- Obligations.RequestsJoinCancelImportAndExport: its clauses' hypotheses, clause by clause. -/
theorem wit_RequestsJoinCancelImportAndExport :
    (s08a1.intake[0]? = some s08a2 ∧ fieldAt s08a2.desc 0 1 ≠ 2 ∧ Unheld (submitData (begun s08a1) 0 s08a2 s08a3
      s08a3 s08a3).1 ∧ submitStatus (submitData (begun s08a1) 0 s08a2 s08a3 s08a3 s08a3).1 (reqOf (submitData (begun
      s08a1) 0 s08a2 s08a3 s08a3 s08a3).1 s08a2 (outRing s08a2.desc) (submitData (begun s08a1) 0 s08a2 s08a3 s08a3
      s08a3).2.1 (submitData (begun s08a1) 0 s08a2 s08a3 s08a3 s08a3).2.2.1 (submitData (begun s08a1) 0 s08a2 s08a3
      s08a3 s08a3).2.2.2) s08a2.desc (submitData (begun s08a1) 0 s08a2 s08a3 s08a3 s08a3).2.2.1 (outValid (submitData
      (begun s08a1) 0 s08a2 s08a3 s08a3 s08a3).1 s08a2.part s08a2.desc) = none) ∧
    (s08a5.intake[0]? = some s08a6 ∧ fieldAt s08a6.desc 0 1 ≠ 2 ∧ Unheld (submitData (begun s08a5) 0 s08a6 s08a3
      s08a3 s08a3).1 ∧ outValid (submitData (begun s08a5) 0 s08a6 s08a3 s08a3 s08a3).1 s08a6.part s08a6.desc = false) ∧
    (s08a7.intake[0]? = some s08a8 ∧ fieldAt s08a8.desc 0 1 = 2 ∧ (List.take 7 (List.drop 1 s08a8.desc) =
      List.replicate 7 0 ∧ ∀ b ∈ List.drop 16 s08a8.desc, b = 0)) ∧
    (s08a9.intake[0]? = some s08a10 ∧ fieldAt s08a10.desc 0 1 = 2 ∧ (¬(List.take 7 (List.drop 1 s08a10.desc) =
      List.replicate 7 0 ∧ ∀ b ∈ List.drop 16 s08a10.desc, b = 0)) ∧ (List.drop 1 s08a10.desc).length = 63) ∧
    (s08a11.reqs[0]? = some importing0 ∧ getService s08a11 importing0.part importing0.sub = some s08a12 ∧
      importing0.st = RState.importing ∧ importing0.event = none ∧ Unheld (importImage (begun s08a11) s08a12
      importing0 s08a13).1) ∧
    ((importing0.st ≠ RState.exporting ∨ importing0.event ≠ none)) ∧
    (s08a15.reqs[0]? = some exporting0 ∧ getService s08a15 exporting0.part exporting0.sub = some service0 ∧
      exporting0.st = RState.exporting ∧ exporting0.event = none ∧ Unheld (exportImage (begun s08a15) service0
      exporting0 s08a4).1) ∧
    ((exporting0.st ≠ RState.importing ∨ exporting0.event ≠ none)) := by
  refine ⟨?_, ?_, ?_, ?_, ?_, ?_, ?_, ?_⟩
  all_goals decide +kernel

def s08b1 : State := put (hosting3 3 [0, 0x4000, 0,0,0]) [(0x4000,loopCfg)]
def s08b2 : Cmd := (cmd3 3 [0, 0x4000, 0,0,0])
def s08b3 : Bundle := {bundle0 with decoder := false}
def s08b4 : State := put (hosting3 3 [0, 0x5000, 0,0,0]) [(0x4000,loopCfg)]
def s08b5 : Cmd := (cmd3 3 [0, 0x5000, 0,0,0])
def s08b6 : State := put {hosting3 3 [0, 0x4000, 0,0,0] with services := [service0]} [(0x4000,loopCfg)]
def s08b7 : State := hosting3 4 [0x100,0,0,0,0]
def s08b8 : Cmd := (cmd3 4 [0x100,0,0,0,0])
def s08b9 : State := {hosting3 4 [0x100,0,0,0,0] with services := [service0]}
def s08b10 : State := serving service0 []
def s08b11 : List (Nat × StepResult) := ([]:List (Nat×StepResult))
def s08b18 : State := serving (granting0 1) [prefilling0]
def s08b20 : State := serving {service0 with spilling := [(3,0)]} [decoding0]
def s08b21 : Service := ({service0 with spilling := [(3,0)]}:Service)
def s08b22 : Nat × Nat := ((3,0):Nat×Nat)
/-- Obligations.ServicesStartStepAndStop: its clauses' hypotheses, clause by clause. -/
theorem wit_ServicesStartStepAndStop :
    (Starts s08b1 0 3 s08b2 ∧ slotOf s08b1 s08b2.part (s08b2.arg 2 % 4) = some 0 ∧ slotState' s08b1 0 ≠ ctDissolving
      ∧ getService s08b1 s08b2.part (s08b2.arg 2 % 4) = none ∧ bundleOk bundle0 = true) ∧
    bundleOk s08b3 = false ∧
    (Starts s08b4 0 3 s08b5 ∧ slotOf s08b4 s08b5.part (s08b5.arg 2 % 4) = some 0 ∧ slotState' s08b4 0 ≠ ctDissolving
      ∧ getService s08b4 s08b5.part (s08b5.arg 2 % 4) = none) ∧
    (Starts s08b6 0 3 s08b2 ∧ slotOf s08b6 s08b2.part (s08b2.arg 2 % 4) = some 0 ∧ slotState' s08b6 0 ≠ ctDissolving
      ∧ getService s08b6 s08b2.part (s08b2.arg 2 % 4) ≠ none) ∧
    (Starts s08b7 0 4 s08b8 ∧ getService s08b7 s08b8.part (s08b8.arg 0 % 4) = none) ∧
    (Starts s08b9 0 4 s08b8 ∧ getService s08b9 s08b8.part (s08b8.arg 0 % 4) = some service0) ∧
    (getService s08b10 0 0 = some service0 ∧ (¬(service0.waitGrant ≠ none ∨ service0.spilling ≠ [] ∨ service0.inStep
      = true ∧ stepRuns s08b10 service0 = true)) ∧ Unheld (boundaryRun 0 0 s08b11 plan0 0 (begun s08b10) service0)) ∧
    (getService s08b18 0 0 = some (granting0 1) ∧ ((granting0 1).waitGrant ≠ none ∨ (granting0 1).spilling ≠ [] ∨
      (granting0 1).inStep = true ∧ stepRuns s08b18 (granting0 1) = true)) ∧
    ((granting0 1).waitGrant = some 1 ∧ (granting0 1).inStep = false ∧ Unheld (grantRun 0 0 plan0 1 (begun s08b18))) ∧
    (getService s08b20 0 0 = some s08b21 ∧ s08b21.spilling[0]? = some s08b22 ∧ s08b21.inStep = false ∧
      s08b21.waitGrant = none ∧ Unheld (spillRun 0 0 plan0 [] (begun s08b20)
      { part := s08b21.part, sub := s08b21.sub, bundle := s08b21.bundle, cfg := s08b21.cfg, step := s08b21.step, inStep := s08b21.inStep, launched := s08b21.launched, counters := s08b21.counters, extents := s08b21.extents, reread := s08b21.reread, recalled := s08b21.recalled, rebind := s08b21.rebind, stopping := s08b21.stopping, ended := s08b21.ended, spilling := s08b21.spilling.eraseIdx 0, waitGrant := s08b21.waitGrant }
      s08b22)) ∧
    (Unheld (serveCmd (startCmd (begun s08b1) s08b2)
      { id := s08b2.id, ring := s08b2.ring, part := s08b2.part, op := s08b2.op, format := s08b2.format, ctx := s08b2.ctx, tag := s08b2.tag, serial := s08b2.serial, hint := s08b2.hint, args := s08b2.args, started := true, refs := s08b2.refs, gone := s08b2.gone, chan := s08b2.chan, launch := s08b2.launch, waits := s08b2.waits, count := s08b2.count }
      bundle0)) ∧
    (s08b2.arg 1 % 64 = 0 ∧ configOk (fwRead (startCmd (begun s08b1) s08b2) (loopWho (startCmd (begun s08b1) s08b2)
      s08b2.part (s08b2.arg 2 % 4)) (s08b2.arg 1) 64).2.1 = true) ∧
    (fieldAt (fwRead (startCmd (begun s08b1) s08b2) (loopWho (startCmd (begun s08b1) s08b2) s08b2.part (s08b2.arg 2
      % 4)) (s08b2.arg 1) 64).2.1 32 8 + 128 ≤ regBase) ∧
    (Unheld (serveCmd (startCmd (begun s08b1) s08b2)
      { id := s08b2.id, ring := s08b2.ring, part := s08b2.part, op := s08b2.op, format := s08b2.format, ctx := s08b2.ctx, tag := s08b2.tag, serial := s08b2.serial, hint := s08b2.hint, args := s08b2.args, started := true, refs := s08b2.refs, gone := s08b2.gone, chan := s08b2.chan, launch := s08b2.launch, waits := s08b2.waits, count := s08b2.count }
      s08b3)) ∧
    (Unheld (serveCmd (startCmd (begun s08b4) s08b5)
      { id := s08b5.id, ring := s08b5.ring, part := s08b5.part, op := s08b5.op, format := s08b5.format, ctx := s08b5.ctx, tag := s08b5.tag, serial := s08b5.serial, hint := s08b5.hint, args := s08b5.args, started := true, refs := s08b5.refs, gone := s08b5.gone, chan := s08b5.chan, launch := s08b5.launch, waits := s08b5.waits, count := s08b5.count }
      bundle0)) ∧
    (¬(s08b5.arg 1 % 64 = 0 ∧ configOk (fwRead (startCmd (begun s08b4) s08b5) (loopWho (startCmd (begun s08b4)
      s08b5) s08b5.part (s08b5.arg 2 % 4)) (s08b5.arg 1) 64).2.1 = true)) ∧
    (Unheld (serveCmd (startCmd (begun s08b6) s08b2)
      { id := s08b2.id, ring := s08b2.ring, part := s08b2.part, op := s08b2.op, format := s08b2.format, ctx := s08b2.ctx, tag := s08b2.tag, serial := s08b2.serial, hint := s08b2.hint, args := s08b2.args, started := true, refs := s08b2.refs, gone := s08b2.gone, chan := s08b2.chan, launch := s08b2.launch, waits := s08b2.waits, count := s08b2.count }
      bundle0)) := by
  refine ⟨?_, ?_, ?_, ?_, ?_, ?_, ?_, ?_, ?_, ?_, (by rcases start_cases (begun s08b1) s08b2 with h | h <;> rw [h] <;> clear h <;> decide +kernel), (by rcases start_cases (begun s08b1) s08b2 with h | h <;> rw [h] <;> clear h <;> decide +kernel), (by rcases start_cases (begun s08b1) s08b2 with h | h <;> rw [h] <;> clear h <;> decide +kernel), (by rcases start_cases (begun s08b1) s08b2 with h | h <;> rw [h] <;> clear h <;> decide +kernel), (by rcases start_cases (begun s08b4) s08b5 with h | h <;> rw [h] <;> clear h <;> decide +kernel), (by rcases start_cases (begun s08b4) s08b5 with h | h <;> rw [h] <;> clear h <;> decide +kernel), (by rcases start_cases (begun s08b6) s08b2 with h | h <;> rw [h] <;> clear h <;> decide +kernel)⟩
  all_goals decide +kernel


/-! Chapter 09. -/
def s09a1 : State := hbmS 0
def s09a2 : Access := rd who0 4096 4
def s09a3 : List Byte := ([1,2,3,4]:List Byte)
def s09a4 : List Nat := ([]:List Nat)
def s09a5 : Access := wr who0 4096 [1,2,3,4]
def s09a6 : Access := rd who9 4096 4
def s09a7 : State := hbmS 3
def s09a9 : State := toScrub (withF (hbmS 0) [(.COMP_SLICE_STATUS_STATE,0,7),(.DEP_SLICE_CFG_PIN_WAYS,0,2)])
def s09a10 : State := withF (hbmS 0) [(.COMP_SLICE_STATUS_STATE,0,7),(.DEP_SLICE_CFG_PIN_WAYS,0,2)]
/-- Obligations.HomesServePatrolAndScrub: its clauses' hypotheses, clause by clause. -/
theorem wit_HomesServePatrolAndScrub :
    (regionOf s09a2.addr = Region.hbm 0 ∧ 1 ≤ 4 ∧ s09a2.addr % 64 + 4 ≤ 64 ∧ (¬(heldAt (max (getLevel s09a1 (homeOf
      0)) (fbLevel s09a1 (homeOccupancy (homeOf 0) s09a4))) (accessClass s09a1 s09a2.who 0) (ownExtent s09a2.who 0) =
      true ∧ false = false)) ∧ scrubbing s09a1 0 = false ∧ homeAccepts s09a1 s09a2.who 0 = true ∧ isUe s09a1
      (s09a2.addr / 64) = false ∧ s09a2.op = AccessOp.read 4) ∧
    depotWay s09a1 0 s09a2.addr = none ∧
    (regionOf s09a5.addr = Region.hbm 0 ∧ s09a5.addr % 64 + 4 ≤ 64 ∧ (¬(heldAt (max (getLevel s09a1 (homeOf 0))
      (fbLevel s09a1 (homeOccupancy (homeOf 0) s09a4))) (accessClass s09a1 s09a5.who 0) (ownExtent s09a5.who 0) = true
      ∧ false = false)) ∧ homeAccepts s09a1 s09a5.who 0 = true ∧ isUe s09a1 (s09a5.addr / 64) = false ∧ s09a5.op =
      AccessOp.write s09a3 ∧ s09a3.length = 4) ∧
    (regionOf s09a6.addr = Region.hbm 0 ∧ s09a6.addr % 64 + 4 ≤ 64 ∧ (¬(heldAt (max (getLevel s09a1 (homeOf 0))
      (fbLevel s09a1 (homeOccupancy (homeOf 0) s09a4))) (accessClass s09a1 s09a6.who 0) (ownExtent s09a6.who 0) = true
      ∧ false = false)) ∧ homeAccepts s09a1 s09a6.who 0 = false ∧ s09a6.op = AccessOp.read 4) ∧
    ((heldAt (max (getLevel s09a7 (homeOf 0)) (fbLevel s09a7 (homeOccupancy (homeOf 0) s09a4))) (accessClass s09a7
      s09a2.who 0) (ownExtent s09a2.who 0) = true ∧ false = false)) ∧
    (fget s09a1 F.HBM_PATROL_ENABLE = 1 ∧ 64 * 1 / sliceBytes / 16 = 0 ∧ fget s09a1 F.HBM_STATUS_TRAINED ≠ 0 ∧
      scrubbing s09a1 (64 * 1 / sliceBytes) = false) ∧
    isUe s09a1 1 = false ∧
    (sliceState s09a9 0 = slScrubbing ∧ scrubbing s09a9 0 = false ∧ scrubTake s09a9 0 ≠ none) ∧
    5 % 32 ≤ 16 ∧
    scrubTake s09a10 0 = none ∧
    16 < 17 % 32 := by
  refine ⟨?_, ?_, ?_, ?_, ?_, ?_, ?_, ?_, ?_, ?_, ?_⟩
  all_goals decide +kernel

def s09b1 : State := declaring 0x1000 128 4 0x800
def s09b2 : Who := {who0 with kind := 6}
def s09b3 : State := declaring 0x1000 127 4 0
def s09b4 : Who := {who0 with oper := true}
def s09b5 : State := declaring 0x1000 128 4 0
def s09b6 : Who := {who0 with kind := 1}
def s09b7 : State := streaming (warm0 0)
def s09b8 : Option EpochRef := (none:Option EpochRef)
def s09b9 : State := streaming lanes0
def s09b10 : Nat × Who × Nat := ((0, laneWho lanes0 lane0, 0x80):Nat × Who × Nat)
/-- Obligations.DillStreamsPrefetchAndWarm: its clauses' hypotheses, clause by clause. -/
theorem wit_DillStreamsPrefetchAndWarm :
    (s09b1.declares = [] ∧ (s09b2.oper = true ∨ s09b2.kind = 6) ∧ Unheld (warmDeclare (begun s09b1) 0 s09b2
      (alignDown 1024 32 % 2 ^ 48)) ∧ warmOk (devRead (begun s09b1) s09b2 (alignDown 1024 32 % 2 ^ 48) 32).1 0 s09b2
      (warmRecOf (devRead (begun s09b1) s09b2 (alignDown 1024 32 % 2 ^ 48) 32).2.1) = true ∧ (sliceStreams (devRead
      (begun s09b1) s09b2 (alignDown 1024 32 % 2 ^ 48) 32).1 ((warmRecOf (devRead (begun s09b1) s09b2 (alignDown 1024
      32 % 2 ^ 48) 32).2.1).base / sliceBytes)).length < 2) ∧
    (s09b3.declares = [] ∧ (s09b4.oper = true ∨ s09b4.kind = 6) ∧ Unheld (warmDeclare (begun s09b3) 0 s09b4
      (alignDown 1024 32 % 2 ^ 48)) ∧ warmOk (devRead (begun s09b3) s09b4 (alignDown 1024 32 % 2 ^ 48) 32).1 0 s09b4
      (warmRecOf (devRead (begun s09b3) s09b4 (alignDown 1024 32 % 2 ^ 48) 32).2.1) = false ∧ (warmRecOf (devRead
      (begun s09b3) s09b4 (alignDown 1024 32 % 2 ^ 48) 32).2.1).done = 0) ∧
    (s09b5.declares = [] ∧ (¬(s09b6.oper = true ∨ s09b6.kind = 6))) ∧
    (s09b7.dill[0]? = some (warm0 0) ∧ (warm0 0).kind = StreamKind.warm who0 4096 128 128 0 0 s09b8 ∧ 0 + 0 < (warm0
      0).rows) ∧
    ((warm0 0).rows ≤ 0 + 4096 ∧ 0 = 0) ∧
    (s09b9.dill[0]? = some lanes0 ∧ List.find? (fun m => m.core == 3) lanes0.lanes = some lane0 ∧ lane0.step = some
      64 ∧ aheadBytes s09b9 lane0.station < 512 * 1024) ∧
    lanes0.isWarm = false ∧
    prefetching.prefetches[0]? = some s09b10 := by
  refine ⟨?_, ?_, ?_, ?_, ?_, ?_, ?_, ?_⟩
  all_goals decide +kernel


/-! Chapter 10. -/
def s10a1 : State := cndS (0x37 + 3*128 + 0x12345*4096)
def s10a2 : State := fetchedS (cndS (0x37 + 3*128 + 0x12345*4096))
def s10a4 : State := cndS (0x17 + 3*128 + 0x80000*4096)
def s10a5 : State := fetchedS (cndS (0x17 + 3*128 + 0x80000*4096))
def s10a6 : State := cndS (0x6F+3*128)
def s10a7 : State := fetchedS (cndS (0x6F+3*128))
def s10a10 : State := cndS (encI 0x67 0 3 1 5)
def s10a11 : State := fetchedS (cndS (encI 0x67 0 3 1 5))
def s10a12 : State := cndS (encI 0x13 0 3 1 0xFFF)
def s10a13 : State := fetchedS (cndS (encI 0x13 0 3 1 0xFFF))
def s10a18 : State := cndS (encR 0x33 0 0 3 1 2)
def s10a19 : State := fetchedS (cndS (encR 0x33 0 0 3 1 2))
def s10a20 : State := cndS (encR 0x33 0 1 3 1 2)
def s10a21 : State := fetchedS (cndS (encR 0x33 0 1 3 1 2))
def s10a24 : State := cndS (encB 0 1 2 8)
def s10a25 : State := fetchedS (cndS (encB 0 1 2 8))
def s10a28 : State := cndS (encI 0x03 3 3 1 0)
def s10a29 : State := fetchedS (cndS (encI 0x03 3 3 1 0))
def s10a32 : State := cndS (encS 0x23 3 1 2 0)
def s10a33 : State := fetchedS (cndS (encS 0x23 3 1 2 0))
def s10a34 : State := cndS (0x73)
def s10a35 : State := fetchedS (cndS (0x73))
def s10a36 : State := cndS (0x100F)
def s10a37 : State := fetchedS (cndS (0x100F))
def s10a38 : State := cndS (0x0F)
def s10a39 : State := fetchedS (cndS (0x0F))
def s10a40 : State := cndS (encR 0x2F 3 0 3 1 2)
def s10a41 : State := fetchedS (cndS (encR 0x2F 3 0 3 1 2))
def s10a44 : State := cndS (encR 0x2F 3 0x08 3 1 0)
def s10a45 : State := fetchedS (cndS (encR 0x2F 3 0x08 3 1 0))
def s10a46 : State := cndS (encR 0x2F 3 0x0C 3 1 2)
def s10a47 : State := fetchedS (cndS (encR 0x2F 3 0x0C 3 1 2))
def s10a50 : State := hartIs (cndS (encR 0x2F 3 0x0C 3 1 2)) (fun h => {h with rsv := some (ctlLine+1), defer := 2})
def s10a51 : State := fetchedS (hartIs (cndS (encR 0x2F 3 0x0C 3 1 2)) (fun h => {h with rsv := some (ctlLine+1), defer := 2}))
/-- Obligations.ConductorsRunRiscVInstructions: its clauses' hypotheses, clause by clause. -/
theorem wit_ConductorsRunRiscVInstructions :
    (s10a2.declares = [] ∧ CndIssues s10a1 0 RvClass.ordinary fetch0 s10a2 (55 + 3 * 128 + 74565 * 4096) 4 (55 + 3 *
      128 + 74565 * 4096) ∧ bits (55 + 3 * 128 + 74565 * 4096) 0 7 = 55) ∧
    (s10a5.declares = [] ∧ CndIssues s10a4 0 RvClass.ordinary fetch0 s10a5 (23 + 3 * 128 + 524288 * 4096) 4 (23 + 3
      * 128 + 524288 * 4096) ∧ bits (23 + 3 * 128 + 524288 * 4096) 0 7 = 23) ∧
    (s10a7.declares = [] ∧ CndIssues s10a6 0 RvClass.ordinary fetch0 s10a7 (111 + 3 * 128) 4 (111 + 3 * 128) ∧ bits
      (111 + 3 * 128) 0 7 = 111) ∧
    (s10a11.declares = [] ∧ CndIssues s10a10 0 RvClass.ordinary fetch0 s10a11 (encI 103 0 3 1 5) 4 (encI 103 0 3 1
      5) ∧ bits (encI 103 0 3 1 5) 0 7 = 103 ∧ iF3 (encI 103 0 3 1 5) = 0) ∧
    (s10a13.declares = [] ∧ CndIssues s10a12 0 RvClass.ordinary fetch0 s10a13 (encI 19 0 3 1 4095) 4 (encI 19 0 3 1
      4095) ∧ bits (encI 19 0 3 1 4095) 0 7 = 19 ∧ iF3 (encI 19 0 3 1 4095) ≠ 1 ∧ iF3 (encI 19 0 3 1 4095) ≠ 5) ∧
    (s10a19.declares = [] ∧ CndIssues s10a18 0 RvClass.ordinary fetch0 s10a19 (encR 51 0 0 3 1 2) 4 (encR 51 0 0 3 1
      2) ∧ bits (encR 51 0 0 3 1 2) 0 7 = 51 ∧ iF7 (encR 51 0 0 3 1 2) = 0) ∧
    (s10a21.declares = [] ∧ CndIssues s10a20 0 RvClass.ordinary fetch0 s10a21 (encR 51 0 1 3 1 2) 4 (encR 51 0 1 3 1
      2) ∧ bits (encR 51 0 1 3 1 2) 0 7 = 51 ∧ iF7 (encR 51 0 1 3 1 2) = 1) ∧
    (s10a25.declares = [] ∧ CndIssues s10a24 0 RvClass.ordinary fetch0 s10a25 (encB 0 1 2 8) 4 (encB 0 1 2 8) ∧ bits
      (encB 0 1 2 8) 0 7 = 99 ∧ rvCond (iF3 (encB 0 1 2 8)) (hx (behind s10a24 s10a25 0 4) 0 (iRs1 (encB 0 1 2 8)))
      (hx (behind s10a24 s10a25 0 4) 0 (iRs2 (encB 0 1 2 8))) = some false) ∧
    (s10a29.declares = [] ∧ CndIssues s10a28 0 RvClass.ordinary fetch0 s10a29 (encI 3 3 3 1 0) 4 (encI 3 3 3 1 0) ∧
      bits (encI 3 3 3 1 0) 0 7 = 3 ∧ iF3 (encI 3 3 3 1 0) = 3 ∧ Owned s10a29 0 (BitVec.toNat (hx (behind s10a28
      s10a29 0 4) 0 (iRs1 (encI 3 3 3 1 0)) + immI (encI 3 3 3 1 0))) lineE ∧ BitVec.toNat (hx (behind s10a28 s10a29 0
      4) 0 (iRs1 (encI 3 3 3 1 0)) + immI (encI 3 3 3 1 0)) % 8 = 0 ∧ pmpOk (getHart (behind s10a28 s10a29 0 4) 0)
      (dataMode (getHart (behind s10a28 s10a29 0 4) 0)) 0 (BitVec.toNat (hx (behind s10a28 s10a29 0 4) 0 (iRs1 (encI 3
      3 3 1 0)) + immI (encI 3 3 3 1 0))) 8 = true) ∧
    (s10a33.declares = [] ∧ CndIssues s10a32 0 RvClass.ordinary fetch0 s10a33 (encS 35 3 1 2 0) 4 (encS 35 3 1 2 0)
      ∧ bits (encS 35 3 1 2 0) 0 7 = 35 ∧ iF3 (encS 35 3 1 2 0) = 3 ∧ Owned s10a33 0 (BitVec.toNat (hx (behind s10a32
      s10a33 0 4) 0 (iRs1 (encS 35 3 1 2 0)) + immS (encS 35 3 1 2 0))) lineE ∧ BitVec.toNat (hx (behind s10a32 s10a33
      0 4) 0 (iRs1 (encS 35 3 1 2 0)) + immS (encS 35 3 1 2 0)) % 8 = 0 ∧ pmpOk (getHart (behind s10a32 s10a33 0 4) 0)
      (dataMode (getHart (behind s10a32 s10a33 0 4) 0)) 1 (BitVec.toNat (hx (behind s10a32 s10a33 0 4) 0 (iRs1 (encS
      35 3 1 2 0)) + immS (encS 35 3 1 2 0))) 8 = true) ∧
    (s10a35.declares = [] ∧ CndIssues s10a34 0 RvClass.ordinary fetch0 s10a35 115 4 115 ∧ 115 = 115) ∧
    (s10a37.declares = [] ∧ CndIssues s10a36 0 RvClass.fenceI fetch0 s10a37 4111 4 4111) ∧
    (s10a39.declares = [] ∧ CndIssues s10a38 0 RvClass.fence fetch0 s10a39 15 4 15) ∧
    (s10a41.declares = [] ∧ Owned s10a41 0 (BitVec.toNat (hx (behind s10a40 s10a41 0 4) 0 (iRs1 (encR 47 3 0 3 1
      2)))) lineE ∧ CndIssues s10a40 0 RvClass.amo fetch0 s10a41 (encR 47 3 0 3 1 2) 4 (encR 47 3 0 3 1 2) ∧ ((fun
      reads writes => (iF3 (encR 47 3 0 3 1 2) = 2 ∨ iF3 (encR 47 3 0 3 1 2) = 3) ∧ amoCheck (behind s10a40 s10a41 0
      4) 0 (BitVec.toNat (hx (behind s10a40 s10a41 0 4) 0 (iRs1 (encR 47 3 0 3 1 2)))) (amoBytes (encR 47 3 0 3 1 2))
      reads writes = none) true true) ∧ amoResult (iRs3 (encR 47 3 0 3 1 2)) (amoBytes (encR 47 3 0 3 1 2)) (leNat
      (List.take (amoBytes (encR 47 3 0 3 1 2)) (List.drop (BitVec.toNat (hx (behind s10a40 s10a41 0 4) 0 (iRs1 (encR
      47 3 0 3 1 2))) % 64) lineE.data))) (BitVec.toNat (hx (behind s10a40 s10a41 0 4) 0 (iRs2 (encR 47 3 0 3 1 2))) %
      2 ^ (8 * amoBytes (encR 47 3 0 3 1 2))) = some (leNat (List.take 8 (List.drop 8 lineE.data)) + 5)) ∧
    (s10a45.declares = [] ∧ Owned s10a45 0 (BitVec.toNat (hx (behind s10a44 s10a45 0 4) 0 (iRs1 (encR 47 3 8 3 1
      0)))) lineE ∧ CndIssues s10a44 0 RvClass.lr fetch0 s10a45 (encR 47 3 8 3 1 0) 4 (encR 47 3 8 3 1 0) ∧ ((fun
      reads writes => (iF3 (encR 47 3 8 3 1 0) = 2 ∨ iF3 (encR 47 3 8 3 1 0) = 3) ∧ amoCheck (behind s10a44 s10a45 0
      4) 0 (BitVec.toNat (hx (behind s10a44 s10a45 0 4) 0 (iRs1 (encR 47 3 8 3 1 0)))) (amoBytes (encR 47 3 8 3 1 0))
      reads writes = none) true false) ∧ iRs2 (encR 47 3 8 3 1 0) = 0) ∧
    (s10a47.declares = [] ∧ Owned s10a47 0 (BitVec.toNat (hx (behind s10a46 s10a47 0 4) 0 (iRs1 (encR 47 3 12 3 1
      2)))) lineE ∧ CndIssues s10a46 0 RvClass.sc fetch0 s10a47 (encR 47 3 12 3 1 2) 4 (encR 47 3 12 3 1 2) ∧ ((fun
      reads writes => (iF3 (encR 47 3 12 3 1 2) = 2 ∨ iF3 (encR 47 3 12 3 1 2) = 3) ∧ amoCheck (behind s10a46 s10a47 0
      4) 0 (BitVec.toNat (hx (behind s10a46 s10a47 0 4) 0 (iRs1 (encR 47 3 12 3 1 2)))) (amoBytes (encR 47 3 12 3 1
      2)) reads writes = none) false true) ∧ (getHart s10a47 0).rsv ≠ some (BitVec.toNat (hx (behind s10a46 s10a47 0
      4) 0 (iRs1 (encR 47 3 12 3 1 2))) / 64)) ∧
    (s10a51.declares = [] ∧ Owned s10a51 0 (BitVec.toNat (hx (behind s10a50 s10a51 0 4) 0 (iRs1 (encR 47 3 12 3 1
      2)))) lineE ∧ CndIssues s10a50 0 RvClass.sc fetch0 s10a51 (encR 47 3 12 3 1 2) 4 (encR 47 3 12 3 1 2) ∧ ((fun
      reads writes => (iF3 (encR 47 3 12 3 1 2) = 2 ∨ iF3 (encR 47 3 12 3 1 2) = 3) ∧ amoCheck (behind s10a50 s10a51 0
      4) 0 (BitVec.toNat (hx (behind s10a50 s10a51 0 4) 0 (iRs1 (encR 47 3 12 3 1 2)))) (amoBytes (encR 47 3 12 3 1
      2)) reads writes = none) false true) ∧ (getHart s10a51 0).rsv = some (BitVec.toNat (hx (behind s10a50 s10a51 0
      4) 0 (iRs1 (encR 47 3 12 3 1 2))) / 64)) := by
  unfold CndIssues
  refine ⟨?_, ?_, ?_, ?_, ?_, ?_, ?_, ?_, ?_, ?_, ?_, ?_, ?_, ?_, ?_, ?_, ?_⟩
  all_goals decide +kernel

def s10b1 : State := sigS (0x0B + 3*128 + 1*2^15 + 2*2^20) 1 []
def s10b2 : State := fetchedS (sigS (0x0B + 3*128 + 1*2^15 + 2*2^20) 1 [])
def s10b3 : State := sigS (0x0B + 3*128 + 1*2^15 + 2*2^20) clsReset []
def s10b4 : State := fetchedS (sigS (0x0B + 3*128 + 1*2^15 + 2*2^20) clsReset [])
def s10b5 : State := sigS (0x0B + 3*128 + 1*2^15 + 2*2^20) 1 (sent2 1)
def s10b6 : State := fetchedS (sigS (0x0B + 3*128 + 1*2^15 + 2*2^20) 1 (sent2 1))
def s10b7 : State := cndS (0x0B+3*128+4096)
def s10b8 : State := fetchedS (cndS (0x0B+3*128+4096))
def s10b9 : State := {cndS (0x0B+3*128+4096) with rxq := [(0,[⟨6, 1, 3, 3, false, [1,2,3]⟩])]}
def s10b10 : State := fetchedS ({cndS (0x0B+3*128+4096) with rxq := [(0,[⟨6, 1, 3, 3, false, [1,2,3]⟩])]})
def s10b11 : Signal := (⟨6, 1, 3, 3, false, [1,2,3]⟩:Signal)
def s10b12 : List Signal := ([]:List Signal)
def s10b13 : State := cndS (0x0B+3*128+2*4096+1*2^15)
def s10b14 : State := fetchedS (cndS (0x0B+3*128+2*4096+1*2^15))
def s10b15 : State := {cndS (0x0B+3*128+2*4096+1*2^15) with rxq := [(0,[⟨6, 1, 3, 3, false, [1,2,3]⟩])]}
def s10b16 : State := fetchedS ({cndS (0x0B+3*128+2*4096+1*2^15) with rxq := [(0,[⟨6, 1, 3, 3, false, [1,2,3]⟩])]})
def s10b17 : State := cndS (0x0B+3*128+3*4096+1*2^15)
def s10b18 : State := fetchedS (cndS (0x0B+3*128+3*4096+1*2^15))
def s10b19 : State := {cndS (0x0B+3*128+3*4096+1*2^15) with sorts := [(0,List.replicate 8 sortJob0)]}
def s10b20 : State := fetchedS ({cndS (0x0B+3*128+3*4096+1*2^15) with sorts := [(0,List.replicate 8 sortJob0)]})
def s10b21 : State := withF (hartIs (cndS 0) (fun h => {h with wfs := some (3, 0)})) [(.CND_STATUS_STATE,0,cndWaiting)]
def s10b22 : List SortJob := ([]:List SortJob)
def s10b27 : State := held 5 ⟨.M, lineE.data⟩ snooped
/-- Obligations.ConductorsSignalSortAndSwitch: its clauses' hypotheses, clause by clause. -/
theorem wit_ConductorsSignalSortAndSwitch :
    (CndIssues s10b1 0 RvClass.sigsend fetch0 s10b2 (11 + 3 * 128 + 1 * 2 ^ 15 + 2 * 2 ^ 20) 4 (11 + 3 * 128 + 1 * 2
      ^ 15 + 2 * 2 ^ 20) ∧ (¬(fbit (behind s10b1 s10b2 0 4) F.CND_STATUS_OPER = false ∧ (bits (BitVec.toNat (hx
      (behind s10b1 s10b2 0 4) 0 (iRs1 (11 + 3 * 128 + 1 * 2 ^ 15 + 2 * 2 ^ 20)))) 0 4 = clsReset ∨ bits (BitVec.toNat
      (hx (behind s10b1 s10b2 0 4) 0 (iRs1 (11 + 3 * 128 + 1 * 2 ^ 15 + 2 * 2 ^ 20)))) 0 4 = clsCompose))) ∧
      (List.filter (fun m => m.srcDie == 0 / 4 && m.srcStop == ccStop && m.msg.cls == bits (BitVec.toNat (hx (behind
      s10b1 s10b2 0 4) 0 (iRs1 (11 + 3 * 128 + 1 * 2 ^ 15 + 2 * 2 ^ 20)))) 0 4) (behind s10b1 s10b2 0 4).sigs).length
      < 2) ∧
    cndOutstanding (cndSwitchStart s10b1 0) 0 = false ∧
    (CndIssues s10b3 0 RvClass.sigsend fetch0 s10b4 (11 + 3 * 128 + 1 * 2 ^ 15 + 2 * 2 ^ 20) 4 (11 + 3 * 128 + 1 * 2
      ^ 15 + 2 * 2 ^ 20) ∧ (fbit (behind s10b3 s10b4 0 4) F.CND_STATUS_OPER = false ∧ (bits (BitVec.toNat (hx (behind
      s10b3 s10b4 0 4) 0 (iRs1 (11 + 3 * 128 + 1 * 2 ^ 15 + 2 * 2 ^ 20)))) 0 4 = clsReset ∨ bits (BitVec.toNat (hx
      (behind s10b3 s10b4 0 4) 0 (iRs1 (11 + 3 * 128 + 1 * 2 ^ 15 + 2 * 2 ^ 20)))) 0 4 = clsCompose))) ∧
    (CndIssues s10b5 0 RvClass.sigsend fetch0 s10b6 (11 + 3 * 128 + 1 * 2 ^ 15 + 2 * 2 ^ 20) 4 (11 + 3 * 128 + 1 * 2
      ^ 15 + 2 * 2 ^ 20) ∧ (¬(fbit (behind s10b5 s10b6 0 4) F.CND_STATUS_OPER = false ∧ (bits (BitVec.toNat (hx
      (behind s10b5 s10b6 0 4) 0 (iRs1 (11 + 3 * 128 + 1 * 2 ^ 15 + 2 * 2 ^ 20)))) 0 4 = clsReset ∨ bits (BitVec.toNat
      (hx (behind s10b5 s10b6 0 4) 0 (iRs1 (11 + 3 * 128 + 1 * 2 ^ 15 + 2 * 2 ^ 20)))) 0 4 = clsCompose))) ∧ 2 ≤
      (List.filter (fun m => m.srcDie == 0 / 4 && m.srcStop == ccStop && m.msg.cls == bits (BitVec.toNat (hx (behind
      s10b5 s10b6 0 4) 0 (iRs1 (11 + 3 * 128 + 1 * 2 ^ 15 + 2 * 2 ^ 20)))) 0 4) (behind s10b5 s10b6 0 4).sigs).length) ∧
    (CndIssues s10b7 0 RvClass.sigrecv fetch0 s10b8 (11 + 3 * 128 + 4096) 4 (11 + 3 * 128 + 4096) ∧ getRxq s10b8 0 =
      []) ∧
    (CndIssues s10b9 0 RvClass.sigrecv fetch0 s10b10 (11 + 3 * 128 + 4096) 4 (11 + 3 * 128 + 4096) ∧ getRxq s10b10 0
      = s10b11 :: s10b12) ∧
    (CndIssues s10b13 0 RvClass.wfs fetch0 s10b14 (11 + 3 * 128 + 2 * 4096 + 1 * 2 ^ 15) 4 (11 + 3 * 128 + 2 * 4096
      + 1 * 2 ^ 15) ∧ getRxq s10b14 0 = []) ∧
    (CndIssues s10b15 0 RvClass.wfs fetch0 s10b16 (11 + 3 * 128 + 2 * 4096 + 1 * 2 ^ 15) 4 (11 + 3 * 128 + 2 * 4096
      + 1 * 2 ^ 15) ∧ getRxq s10b16 0 ≠ []) ∧
    (CndIssues s10b17 0 RvClass.psort fetch0 s10b18 (11 + 3 * 128 + 3 * 4096 + 1 * 2 ^ 15) 4 (11 + 3 * 128 + 3 *
      4096 + 1 * 2 ^ 15) ∧ (getSorts s10b18 (0 / 4)).length < 8) ∧
    (CndIssues s10b19 0 RvClass.psort fetch0 s10b20 (11 + 3 * 128 + 3 * 4096 + 1 * 2 ^ 15) 4 (11 + 3 * 128 + 3 *
      4096 + 1 * 2 ^ 15) ∧ 8 ≤ (getSorts s10b20 (0 / 4)).length) ∧
    ((getHart s10b21 0).wfs = some (3, 0) ∧ cndState s10b21 0 = cndWaiting ∧ 0 ≤ s10b21.now ∧ 3 < 32) ∧
    (getSorts sorting 0 = sortJob0 :: s10b22 ∧ sorting.declares = [] ∧ Unheld (sortRun (setSorts (begun sorting) 0
      s10b22) 0 sortJob0) ∧ 1 ≤ fieldAt (devRead (setSorts (begun sorting) 0 s10b22)
      { part := sortJob0.part, sub := 4, oper := sortJob0.oper, kind := 6, die := 0, index := sortJob0.cnd % 4, lent := false }
      sortJob0.addr 32).2.1 16 4 ∧ fieldAt (devRead (setSorts (begun sorting) 0 s10b22)
      { part := sortJob0.part, sub := 4, oper := sortJob0.oper, kind := 6, die := 0, index := sortJob0.cnd % 4, lent := false }
      sortJob0.addr 32).2.1 16 4 ≤ 262144 ∧ 1 ≤ fieldAt (devRead (setSorts (begun sorting) 0 s10b22)
      { part := sortJob0.part, sub := 4, oper := sortJob0.oper, kind := 6, die := 0, index := sortJob0.cnd % 4, lent := false }
      sortJob0.addr 32).2.1 20 2 ∧ fieldAt (devRead (setSorts (begun sorting) 0 s10b22)
      { part := sortJob0.part, sub := 4, oper := sortJob0.oper, kind := 6, die := 0, index := sortJob0.cnd % 4, lent := false }
      sortJob0.addr 32).2.1 20 2 ≤ 1024 ∧ fieldAt (devRead (setSorts (begun sorting) 0 s10b22)
      { part := sortJob0.part, sub := 4, oper := sortJob0.oper, kind := 6, die := 0, index := sortJob0.cnd % 4, lent := false }
      sortJob0.addr 32).2.1 22 2 = 0 ∧ target (fieldAt (devRead (setSorts (begun sorting) 0 s10b22)
      { part := sortJob0.part, sub := 4, oper := sortJob0.oper, kind := 6, die := 0, index := sortJob0.cnd % 4, lent := false }
      sortJob0.addr 32).2.1 24 8) = Target.control ∧ fieldAt (devRead (setSorts (begun sorting) 0 s10b22)
      { part := sortJob0.part, sub := 4, oper := sortJob0.oper, kind := 6, die := 0, index := sortJob0.cnd % 4, lent := false }
      sortJob0.addr 32).2.1 8 8 + 8 * fieldAt (devRead (setSorts (begun sorting) 0 s10b22)
      { part := sortJob0.part, sub := 4, oper := sortJob0.oper, kind := 6, die := 0, index := sortJob0.cnd % 4, lent := false }
      sortJob0.addr 32).2.1 20 2 ≤ regBase) ∧
    cndOutstanding (cndSwitchStart s10b27 1) 1 = true := by
  unfold CndIssues
  refine ⟨?_, ?_, ?_, ?_, ?_, ?_, ?_, ?_, ?_, ?_, ?_, ?_, ?_⟩
  all_goals decide +kernel

def s10c1 : State := cndS 0
def s10c3 : State := held 1 ⟨.E, lineE.data⟩ (dirEnt 1)
def s10c4 : HLine := (⟨.E, lineE.data⟩:HLine)
def s10c6 : State := held 1 ⟨.M, lineE.data⟩ (dirEnt 1)
def s10c7 : HLine := (⟨.M, lineE.data⟩:HLine)
def s10c9 : State := held 1 ⟨.S, lineE.data⟩ (dirEnt 1)
def s10c10 : HLine := (⟨.S, lineE.data⟩:HLine)
def s10c12 : State := held 5 ⟨.M, lineE.data⟩ snooped
def s10c13 : List Byte := lineE.data
def s10c14 : State := {held 5 ⟨.M, lineE.data⟩ snooped with harts := [(5, {hart0 with defer := 2, rsv := some ctlLine})]}
def s10c15 : State := held 5 ⟨.E, lineE.data⟩ (settling [] true)
def s10c16 : DirEntry := settling [] true
def s10c17 : State := held 5 ⟨.E, lineE.data⟩ (settling [waitX] true)
def s10c18 : DirEntry := settling [waitX] true
def s10c19 : State := held 5 ⟨.E, lineE.data⟩ (settling [waitX] false)
def s10c20 : DirEntry := settling [waitX] false
def s10c21 : State := cndS 0x13
def s10c22 : Access := (rd who0 (ctlOff+8) 4:Access)
def s10c23 : List Byte := ([1,2,3,4]:List Byte)
def s10c24 : Access := (wr who0 (ctlOff+8) [1,2,3,4]:Access)
def s10c25 : Access := (⟨who0, ctlOff+8, .atomic 0 0xFFFFFFFF false, false,false⟩:Access)
def s10c27 : Access := (⟨who0, ctlOff, .cas 0 5 false, false,false⟩:Access)
def s10c29 : State := held 1 ⟨.M, lineE.data⟩ ⟨true, 2^1, none, [], false, 0⟩
def s10c30 : Access := rd who0 (ctlOff+8) 4
def s10c32 : DirEntry := (⟨true, 2^1, none, [], false, 0⟩:DirEntry)
/-- Obligations.DirectoriesServeTheirHolders: its clauses' hypotheses, clause by clause. -/
theorem wit_DirectoriesServeTheirHolders :
    (LineFresh s10c1 0 ctlLine ∧ holderAllowed s10c1 0 (if 0 < 64 then (fget s10c1 F.CND_STATUS_PART, fbit s10c1
      F.CND_STATUS_OPER) else (ctlLine, false)).1 (if 0 < 64 then (fget s10c1 F.CND_STATUS_PART, fbit s10c1
      F.CND_STATUS_OPER) else (ctlLine, false)).2 false ctlLine = true) ∧
    holderAllowed s10c1 0 (if 0 < 64 then (fget s10c1 F.CND_STATUS_PART, fbit s10c1 F.CND_STATUS_OPER) else
      (ctlLine, false)).1 (if 0 < 64 then (fget s10c1 F.CND_STATUS_PART, fbit s10c1 F.CND_STATUS_OPER) else (ctlLine,
      false)).2 true ctlLine = true ∧
    (LineFresh s10c1 64 ctlLine ∧ holderAllowed s10c1 64 (if 64 < 64 then (fget s10c1 F.CND_STATUS_PART 64, fbit
      s10c1 F.CND_STATUS_OPER 64) else (ctlLine, false)).1 (if 64 < 64 then (fget s10c1 F.CND_STATUS_PART 64, fbit
      s10c1 F.CND_STATUS_OPER 64) else (ctlLine, false)).2 false ctlLine = false) ∧
    holderAllowed s10c1 64 (if 64 < 64 then (fget s10c1 F.CND_STATUS_PART 64, fbit s10c1 F.CND_STATUS_OPER 64) else
      (ctlLine, false)).1 (if 64 < 64 then (fget s10c1 F.CND_STATUS_PART 64, fbit s10c1 F.CND_STATUS_OPER 64) else
      (ctlLine, false)).2 true ctlLine = false ∧
    (0 ≠ 1 ∧ SetQuiet s10c3 ctlLine ∧ isControl ctlLine = true ∧ scrubbing s10c3 (ctlLine / 2 ^ 26) = false ∧ getDir
      s10c3 ctlLine = some (dirEnt 1) ∧ (dirEnt 1).active = false ∧ (dirEnt 1).holders = 2 ^ 1 ∧ getHolder s10c3 1
      ctlLine = some s10c4 ∧ getHolder s10c3 0 ctlLine = none ∧ holderAllowed s10c3 0 (if 0 < 64 then (fget s10c3
      F.CND_STATUS_PART, fbit s10c3 F.CND_STATUS_OPER) else (ctlLine, false)).1 (if 0 < 64 then (fget s10c3
      F.CND_STATUS_PART, fbit s10c3 F.CND_STATUS_OPER) else (ctlLine, false)).2 true ctlLine = true ∧ RoomFor s10c3 0
      ctlLine) ∧
    s10c4.st ≠ HState.M ∧
    (SetQuiet s10c6 ctlLine ∧ scrubbing s10c6 (ctlLine / 2 ^ 26) = false ∧ getDir s10c6 ctlLine = some (dirEnt 1) ∧
      getHolder s10c6 1 ctlLine = some s10c7 ∧ getHolder s10c6 0 ctlLine = none ∧ s10c7.st = HState.M ∧
      s10c7.data.length = 64 ∧ isUe s10c6 ctlLine = false) ∧
    (SetQuiet s10c9 ctlLine ∧ scrubbing s10c9 (ctlLine / 2 ^ 26) = false ∧ getDir s10c9 ctlLine = some (dirEnt 1) ∧
      getHolder s10c9 1 ctlLine = some s10c10 ∧ getHolder s10c9 0 ctlLine = none ∧ s10c10.st = HState.S ∧
      holderAllowed s10c9 1 (if 1 < 64 then fget s10c9 F.CND_STATUS_PART 1 else ctlLine) (if 1 < 64 then fbit s10c9
      F.CND_STATUS_OPER 1 else false) true ctlLine = true) ∧
    (SetQuiet s10c12 ctlLine ∧ getDir s10c12 ctlLine = some snooped ∧ snooped.owned = true ∧ snooped.wbOut = false ∧
      snooped.busy = some (waitX, 2 ^ 5) ∧ snooped.holders = 2 ^ 5 ∧ waitX.req = DirReq.getX ∧ waitX.holder < 72 ∧
      waitX.holder ≠ 5 ∧ getHolder s10c12 5 ctlLine = some { st := HState.M, data := s10c13 } ∧ ctlLine < 2 ^ 34 ∧
      (¬((getHart s10c12 5).defer ≠ 0 ∧ (getHart s10c12 5).rsv = some ctlLine))) ∧
    (SetQuiet s10c14 ctlLine ∧ getDir s10c14 ctlLine = some snooped ∧ getHolder s10c14 5 ctlLine = some
      { st := HState.M, data := s10c13 } ∧ ((getHart s10c14 5).defer ≠ 0 ∧ (getHart s10c14 5).rsv = some ctlLine)) ∧
    (SetQuiet s10c15 ctlLine ∧ getDir s10c15 ctlLine = some s10c16 ∧ s10c16.busy = none ∧ s10c16.wbOut = true ∧
      s10c16.waiters = []) ∧
    (SetQuiet s10c17 ctlLine ∧ getDir s10c17 ctlLine = some s10c18 ∧ s10c18.busy = none ∧ s10c18.waiters = [waitX] ∧
      s10c18.holders = 0 ∧ getHolder s10c17 waitX.holder ctlLine = none ∧ s10c18.wbOut = true) ∧
    (SetQuiet s10c19 ctlLine ∧ getDir s10c19 ctlLine = some s10c20 ∧ s10c20.busy = none ∧ s10c20.waiters = [waitX] ∧
      s10c20.holders = 0 ∧ getHolder s10c19 waitX.holder ctlLine = none ∧ s10c20.wbOut = false ∧ isUe s10c19 ctlLine =
      false) ∧
    (isControl (s10c22.addr / 64) = true ∧ scrubbing s10c21 (s10c22.addr / sliceBytes) = false ∧ isUe s10c21
      (s10c22.addr / 64) = false ∧ dirBusy s10c21 (s10c22.addr / 64) = false ∧ SetQuiet s10c21 (s10c22.addr / 64) ∧ 1
      ≤ 4 ∧ s10c22.addr % 64 + 4 ≤ 64 ∧ s10c22.op = AccessOp.read 4 ∧ dirAllows s10c21 s10c22.who.part s10c22.who.oper
      false (s10c22.addr / 64) = true ∧ getDir s10c21 (s10c22.addr / 64) = none) ∧
    (isControl (s10c24.addr / 64) = true ∧ scrubbing s10c21 (s10c24.addr / sliceBytes) = false ∧ isUe s10c21
      (s10c24.addr / 64) = false ∧ dirBusy s10c21 (s10c24.addr / 64) = false ∧ SetQuiet s10c21 (s10c24.addr / 64) ∧
      s10c24.addr % 64 + 4 ≤ 64 ∧ getDir s10c21 (s10c24.addr / 64) = none ∧ dirAllows s10c21 s10c24.who.part
      s10c24.who.oper true (s10c24.addr / 64) = true ∧ s10c24.op = AccessOp.write s10c23 ∧ s10c23.length = 4) ∧
    (isControl (s10c25.addr / 64) = true ∧ scrubbing s10c21 (s10c25.addr / sliceBytes) = false ∧ isUe s10c21
      (s10c25.addr / 64) = false ∧ dirBusy s10c21 (s10c25.addr / 64) = false ∧ SetQuiet s10c21 (s10c25.addr / 64) ∧
      s10c25.addr % 64 + 4 ≤ 64 ∧ getDir s10c21 (s10c25.addr / 64) = none ∧ dirAllows s10c21 s10c25.who.part
      s10c25.who.oper true (s10c25.addr / 64) = true ∧ s10c25.op = AccessOp.atomic 0 4294967295 false ∧ 4 = atomBytes
      0) ∧
    (isControl (s10c27.addr / 64) = true ∧ scrubbing s10c21 (s10c27.addr / sliceBytes) = false ∧ isUe s10c21
      (s10c27.addr / 64) = false ∧ dirBusy s10c21 (s10c27.addr / 64) = false ∧ SetQuiet s10c21 (s10c27.addr / 64) ∧ 1
      ≤ 8 ∧ s10c27.addr % 64 + 8 ≤ 64 ∧ getDir s10c21 (s10c27.addr / 64) = none ∧ dirAllows s10c21 s10c27.who.part
      s10c27.who.oper true (s10c27.addr / 64) = true ∧ s10c27.op = AccessOp.cas 0 5 false ∧ 8 = 8) ∧
    (isControl (s10c30.addr / 64) = true ∧ scrubbing s10c29 (s10c30.addr / sliceBytes) = false ∧ isUe s10c29
      (s10c30.addr / 64) = false ∧ dirBusy s10c29 (s10c30.addr / 64) = false ∧ SetQuiet s10c29 (s10c30.addr / 64) ∧
      s10c30.addr % 64 + 4 ≤ 64 ∧ s10c30.op = AccessOp.read 4 ∧ dirAllows s10c29 s10c30.who.part s10c30.who.oper false
      (s10c30.addr / 64) = true ∧ getDir s10c29 (s10c30.addr / 64) = some s10c32 ∧ s10c32.owned = true ∧
      s10c32.holders = 2 ^ 1 ∧ getHolder s10c29 1 (s10c30.addr / 64) = some { st := HState.M, data := s10c13 } ∧
      s10c13.length = 64) := by
  refine ⟨?_, ?_, ?_, ?_, ?_, ?_, ?_, ?_, ?_, ?_, ?_, ?_, ?_, ?_, ?_, ?_, ?_, ?_⟩
  all_goals decide +kernel


/-! Chapter 11. -/
def s11a1 : State := composing (compC 1 0 3 0 0 6 0 0) []
def s11a2 : List Byte := compC 1 0 3 0 0 6 0 0
def s11a3 : State := composing (compC 1 0 3 0 0 6 0 0) [(.COMP_ROLE_ROLE,0,1)]
def s11a4 : State := composing (compC 1 0 3 0 0 6 0 0) (slices12 slIdle 3)
def s11a5 : State := withF (composing (compC 2 0 3 0 0 6 0 0) (slices12 slIdle 3)) [(.STN_STATUS_BOUND,1,1),(.STN_STATUS_PART,1,3)]
def s11a6 : List Byte := compC 2 0 3 0 0 6 0 0
def s11a7 : State := composing (compC 2 0 3 0 0 6 0 0) (slices12 slIdle 4)
def s11a9 : State := composing lendC [(.COMP_ROLE_ROLE,0,2)]
def s11a10 : State := composing lendC []
def s11a12 : State := composing (compC 7 0 0 0 0 6 0 0) (slices12 slLent 0)
def s11a13 : List Byte := compC 7 0 0 0 0 6 0 0
def s11a14 : State := composing (compC 7 1 0 0 0 6 0 0) (slices12 slLent 0)
def s11a15 : List Byte := compC 7 1 0 0 0 6 0 0
def s11a16 : State := composing (compC 7 1 0 0 0 6 0 0) (slices12 slIdle 0)
def s11a17 : State := withF (composing (compC 8 0 0 0 1 0 0 0) []) [(.COMP_SLICE_STATUS_STATE, 0, 0)]
def s11a18 : List Byte := compC 8 0 0 0 1 0 0 0
def s11a20 : State := withF base [(.COMP_SLICE_STATUS_STATE,0,7),(.HBM_STATUS_SCRUBBING,0,1)]
def s11a21 : State := withF base [(.COMP_SLICE_STATUS_STATE,0,7)]
def s11a22 : State := bindReplied (withF base [(.COMP_SLICE_STATUS_STATE,0,7)])
def s11a23 : State := recalling (compC 7 1 0 0 0 6 0 0) []
def s11a24 : CompJob := (⟨compC 7 1 0 0 0 6 0 0, true, [], []⟩:CompJob)
def s11a25 : State := recalling (compC 7 1 0 0 0 6 0 0) [2]
def s11a26 : CompJob := (⟨compC 7 1 0 0 0 6 0 0, true, [], [2]⟩:CompJob)
/-- Obligations.ComposerBindsReleasesAndLends: its clauses' hypotheses, clause by clause. -/
theorem wit_ComposerBindsReleasesAndLends :
    (compNext s11a1 1 = some s11a2 ∧ role s11a1 ≠ 1 ∧ (∀ k ∈ cSlices s11a2, sliceState s11a1 k = slFree)) ∧
    ((withdrawWaits s11a1 = none ∨ 0 ≠ 3)) ∧
    (compNext s11a3 1 = some s11a2 ∧ role s11a3 = 1) ∧
    (compNext s11a4 1 = some s11a2 ∧ role s11a4 ≠ 1 ∧ (∃ k ∈ cSlices s11a2, sliceState s11a4 k ≠ slFree)) ∧
    (compNext s11a5 2 = some s11a6 ∧ (∀ k ∈ cSlices s11a6, sliceState s11a5 k = slIdle ∧ fget s11a5
      F.COMP_SLICE_STATUS_PART k = cPart s11a6)) ∧
    (compNext s11a7 2 = some s11a6 ∧ (∃ k ∈ cSlices s11a6, 1 ≤ sliceState s11a7 k ∧ sliceState s11a7 k ≤ 5 ∧ fget
      s11a7 F.COMP_SLICE_STATUS_PART k ≠ cPart s11a6)) ∧
    (compNext s11a9 6 = some lendC ∧ role s11a9 ≠ 0 ∧ (∀ k ∈ cSlices lendC, sliceState s11a9 k = slFree)) ∧
    (compNext s11a10 6 = some lendC ∧ role s11a10 = 0) ∧
    (compNext s11a12 7 = some s11a13 ∧ (∀ k ∈ cSlices s11a13, sliceState s11a12 k = slLent) ∧ cGraceful s11a13 =
      false) ∧
    (compNext s11a14 7 = some s11a15 ∧ (∀ k ∈ cSlices s11a15, sliceState s11a14 k = slLent) ∧ cGraceful s11a15 =
      true) ∧
    (compNext s11a16 7 = some s11a15 ∧ (∃ k ∈ cSlices s11a15, sliceState s11a16 k ≠ slLent)) ∧
    (compNext s11a17 8 = some s11a18 ∧ (∃ k < 256, roleAllows (cRole s11a18) (sliceState (composing s11a18 []) k) =
      false)) ∧
    ((∀ k < 256, roleAllows (cRole s11a18) (sliceState s11a17 k) = true)) ∧
    (sliceState s11a20 0 = slScrubbing ∧ scrubbing s11a20 0 = true) ∧
    (sliceState s11a21 0 = slScrubbing ∧ scrubbing s11a21 0 = false ∧ replyTake s11a21 0 = none) ∧
    (sliceState s11a22 0 = slScrubbing ∧ scrubbing s11a22 0 = false ∧ replyTake s11a22 0 ≠ none) ∧
    withdrawWaits s11a23 = some s11a24 ∧
    (withdrawWaits s11a25 = some s11a26 ∧ 1 ∈ cSlices s11a26.cmd ∧ (∀ k ∈ cSlices s11a26.cmd, k = 1 ∨ k ∈
      s11a26.recalled)) ∧
    (WordsBelow s11a5) := by
  refine ⟨?_, ?_, ?_, ?_, ?_, ?_, ?_, ?_, ?_, ?_, ?_, ?_, ?_, ?_, ?_, ?_, ?_, ?_, (fun _ h => absurd h List.not_mem_nil)⟩
  all_goals decide +kernel

def s11b1 : State := composing (formC) (slices12 slIdle 3 ++ [(.COMP_MAP_NEXT_OFF,1,30),(.COMP_MAP_NEXT_LEN,1,2),(.COMP_MAP_STORE_ENTRY,30,1),(.COMP_MAP_STORE_ENTRY,31,2)])
def s11b2 : State := composing (formC) (slices12 slFree 3 ++ [(.COMP_MAP_NEXT_OFF,1,30),(.COMP_MAP_NEXT_LEN,1,2),(.COMP_MAP_STORE_ENTRY,30,1),(.COMP_MAP_STORE_ENTRY,31,2)])
def s11b3 : State := consistS ctActive [0,1] (some ⟨rebindC,false,[],[]⟩)
def s11b4 : State := consistS ctDraining [0,1] (some ⟨rebindC,false,[],[]⟩)
def s11b5 : State := consistS ctActive [0,1] (some ⟨compC 5 0 0 0 0 0 0 0,false,[],[]⟩)
def s11b6 : List Byte := compC 5 0 0 0 0 0 0 0
def s11b7 : State := consistS ctFree [0,1] (some ⟨compC 5 0 0 0 0 0 0 0,false,[],[]⟩)
def s11b9 : State := staging [0,1] [] 0
def s11b10 : CompJob := (⟨rebindC, true, [], []⟩:CompJob)
def s11b11 : Service := ({service0 with step := 7}:Service)
def s11b12 : State := {staging [0,1] [] 0 with services := [told7]}
def s11b13 : State := {switching7 with mdSigs := [composerNote {service0 with step := 7} 0 cmSwitch []]}
def s11b16 : State := staging [256,0,1] [(1,crcOf [256,0,1])] 0
def s11b17 : CompJob := (⟨rebindC, true, [(1,crcOf [256,0,1])], []⟩:CompJob)
def s11b18 : State := staging [256,0,1] [(0,crcOf [256,0,1])] 0
def s11b19 : CompJob := (⟨rebindC, true, [(0,crcOf [256,0,1])], []⟩:CompJob)
def s11b20 : State := staging [256,0,1] [(0,5)] 0
def s11b21 : CompJob := (⟨rebindC, true, [(0,5)], []⟩:CompJob)
def s11b22 : State := staging [256,512] [(2,crcOf [256,512])] 2
def s11b23 : CompJob := (⟨rebindC, true, [(2,crcOf [256,512])], []⟩:CompJob)
def s11b25 : State := withF (consistS ctDraining [0,1] none) [(.COMP_SLICE_STATUS_STATE,1,5)]
def s11b27 : State := withF (consistS ctDissolving [0,1] none) [(.COMP_SLICE_STATUS_STATE,1,5)]
def s11b28 : State := serving {service0 with stopping := some (true,[3])} []
def s11b29 : Service := ({service0 with stopping := some (true,[3])}:Service)
def s11b30 : List Nat := ([3]:List Nat)
/-- Obligations.ConsistsFormRebindAndDissolve: its clauses' hypotheses, clause by clause. -/
theorem wit_ConsistsFormRebindAndDissolve :
    (compNext s11b1 3 = some formC ∧ formStatus s11b1 formC = 0) ∧
    (compNext s11b2 3 = some formC ∧ formStatus s11b2 formC ≠ 0) ∧
    (compNext s11b3 4 = some rebindC ∧ rebindStatus s11b3 rebindC = 0) ∧
    (compNext s11b4 4 = some rebindC ∧ rebindStatus s11b4 rebindC ≠ 0) ∧
    (compNext s11b5 5 = some s11b6 ∧ (slotState' s11b5 (cSlot s11b6) = ctActive ∨ slotState' s11b5 (cSlot s11b6) =
      ctDraining) ∧ fget s11b5 F.COMP_CONSIST_ID_PART (cSlot s11b6) = cPart s11b6) ∧
    (compNext s11b7 5 = some s11b6 ∧ (slotState' s11b7 (cSlot s11b6) = ctFree ∨ fget s11b7 F.COMP_CONSIST_ID_PART
      (cSlot s11b6) ≠ cPart s11b6)) ∧
    (rebindJob s11b9 0 = some s11b10 ∧ slotService s11b9 0 = some s11b11 ∧ (¬((∀ r ∈ s11b10.ready, r.1 ≠ devNum
      s11b9) ∧ s11b11.rebind ≠ none ∧ resharded s11b9 s11b11 = true))) ∧
    switchAsked s11b9 0 = none ∧
    1 ≠ fget s11b9 F.COMP_CONSIST_ID_MEMBERS ∧
    (rebindJob s11b12 0 = some s11b10 ∧ slotService s11b12 0 = some told7 ∧ ((∀ r ∈ s11b10.ready, r.1 ≠ devNum
      s11b12) ∧ told7.rebind ≠ none ∧ resharded s11b12 told7 = true)) ∧
    (s11b13.comp = some s11b10 ∧ slotState' s11b13 0 = ctSwitching ∧ cSlot s11b10.cmd = 0 ∧ (∀ (v : Service),
      slotService s11b13 0 = some v → v.inStep = false) ∧ switchAsked s11b13 0 ≠ none ∧ fget s11b13
      F.COMP_MAP_NEXT_OFF < 2 ^ 15 ∧ fget s11b13 F.COMP_MAP_NEXT_LEN < 2 ^ 12) ∧
    (rebindJob s11b16 0 = some s11b17 ∧ s11b17.ready ≠ []) ∧
    (rebindJob s11b18 0 = some s11b19 ∧ 1 ≠ devNum s11b18 ∧ 1 ∈ nextDevs s11b18 0 ∧ leadOf s11b18 0 = devNum s11b18
      ∧ (∀ r ∈ s11b19.ready, r.1 ≠ 1) ∧ (nextDevs s11b18 0).length = s11b19.ready.length + 1 ∧ (∀ r ∈ s11b19.ready,
      r.2 = mapCrc (mapEntries s11b18 (fget s11b18 F.COMP_MAP_NEXT_OFF) (fget s11b18 F.COMP_MAP_NEXT_LEN)))) ∧
    (rebindJob s11b20 0 = some s11b21 ∧ 1 ≠ devNum s11b20 ∧ 1 ∈ nextDevs s11b20 0 ∧ leadOf s11b20 0 = devNum s11b20
      ∧ (∀ r ∈ s11b21.ready, r.1 ≠ 1) ∧ (nextDevs s11b20 0).length = s11b21.ready.length + 1 ∧ (∃ r ∈ s11b21.ready,
      r.2 ≠ mapCrc (mapEntries s11b20 (fget s11b20 F.COMP_MAP_NEXT_OFF) (fget s11b20 F.COMP_MAP_NEXT_LEN)))) ∧
    (rebindJob s11b22 0 = some s11b23 ∧ 1 ≠ devNum s11b22 ∧ 1 ∈ nextDevs s11b22 0 ∧ leadOf s11b22 0 ≠ devNum s11b22
      ∧ 1 = leadOf s11b22 0 ∧ s11b23.ready ≠ [] ∧ (∀ r ∈ s11b23.ready, r.2 = mapCrc (mapEntries s11b22 (fget s11b22
      F.COMP_MAP_NEXT_OFF) (fget s11b22 F.COMP_MAP_NEXT_LEN)))) ∧
    (slotState' s11b25 0 = ctDraining ∧ fget s11b25 F.COMP_INFLIGHT_OLD = 0) ∧
    (slotState' s11b27 0 = ctDissolving ∧ slotService s11b27 0 = none ∧ fget s11b27 F.COMP_INFLIGHT_OLD = 0 ∧ fget
      s11b27 F.COMP_INFLIGHT_CUR = 0) ∧
    (getService s11b28 0 0 = some s11b29 ∧ s11b29.stopping = some (true, s11b30)) ∧
    (WordsBelow s11b25) ∧
    (WordsBelow s11b27) := by
  refine ⟨?_, ?_, ?_, ?_, ?_, ?_, ?_, ?_, ?_, ?_, ?_, ?_, ?_, ?_, ?_, ?_, ?_, ?_, (fun _ h => absurd h List.not_mem_nil), (fun _ h => absurd h List.not_mem_nil)⟩
  all_goals decide +kernel


/-! Chapter 12. -/
def s12a1 : State := withF (bly pDisabled pDisabled) [(.BLY_LOCK_LOCK,0,0)]
def s12a2 : State := withF (bly pDisabled pDisabled) [(.BLY_LOCK_LOCK,0,0),(.BLY_TOPO_SX,0,0)]
def s12a3 : State := queued0 (bly pUp pUp)
def s12a4 : Option Bool := some true
def s12a6 : State := {bly pUp pDown with breaks := [(0,1),(0,3),(1,1)]}
def s12a7 : State := queued0 (bly pDown pUp)
def s12a9 : State := queued0 (bly pTraining pUp)
def s12a16 : State := {queued0 (bly pUp pUp) with unacked := [(0,packet0)]}
def s12a17 : State := {queued0 (bly pUp pUp) with unacked := [(0,packet0)], links := [(0,⟨65535,8,0⟩)]}
/-- Obligations.PortsLockTrainAndBreak: its clauses' hypotheses, clause by clause. -/
theorem wit_PortsLockTrainAndBreak :
    (fbit s12a1 F.BLY_LOCK_LOCK = false ∧ ((∀ d < 3, 1 ≤ dimSize s12a1 d) ∧ fabricSize s12a1 ≤ 1024 ∧ devNum s12a1 <
      fabricSize s12a1)) ∧
    (fbit s12a2 F.BLY_LOCK_LOCK = false ∧ (¬((∀ d < 3, 1 ≤ dimSize s12a2 d) ∧ fabricSize s12a2 ≤ 1024 ∧ devNum s12a2
      < fabricSize s12a2))) ∧
    (portState s12a3 0 = pUp ∧ (getLink s12a3 0).rxSeq < 65536) ∧
    (0 / 2, 2) ∉ s12a3.breaks ∧
    (portState s12a6 0 = pUp ∧ (0 / 2, 1) ∈ s12a6.breaks) ∧
    ((portState s12a7 0 = pDown ∨ portState s12a7 0 = pMiscabled) ∧ cabled s12a7 0 = true) ∧
    (portState s12a7 0 = pDown ∧ fbit s12a7 F.BLY_PORT_CTRL_AUTO_RETRAIN = true ∧ (getLink s12a7 0).downSince +
      100000000 ≤ s12a7.now) ∧
    (portState s12a9 0 = pTraining ∧ (s12a4.isSome = true → fbit s12a9 F.BLY_PORT_CTRL_ALLOW_HALF = true) ∧ 2 < 1024
      ∧ 2 < 8 ∧ predicted s12a9 0 ≠ (2, 2)) ∧
    (1 < 8 ∧ predicted s12a9 0 = (2, 1)) ∧
    (portState s12a16 0 = pUp ∧ List.filter (fun e => e.1 == 0) s12a16.unacked ≠ [] ∧ (getLink s12a16 0).replays <
      8) ∧
    (portState s12a17 0 = pUp ∧ List.filter (fun e => e.1 == 0) s12a17.unacked ≠ [] ∧ 8 ≤ (getLink s12a17
      0).replays) := by
  refine ⟨?_, ?_, ?_, ?_, ?_, ?_, ?_, ?_, ?_, ?_, ?_⟩
  all_goals decide +kernel

def s12b1 : State := bly pUp pUp
def s12b2 : Packet := ({packet0 with dst := 3}:Packet)
def s12b11 : Packet := ({packet0 with typ := 1, consist := 1}:Packet)
def s12b12 : Who := (⟨0,0,false,8,2,0,false⟩:Who)
def s12b13 : Packet := ({packet0 with typ := 1, consist := 5}:Packet)
def s12b14 : Packet := ({packet0 with typ := 2, consist := 1}:Packet)
def s12b15 : Packet := ({packet0 with typ := 2, consist := 5}:Packet)
def s12b16 : Packet := ({packet0 with typ := 3, consist := 1}:Packet)
def s12b17 : Packet := ({packet0 with typ := 3, consist := 5}:Packet)
def s12b18 : Packet := ({packet0 with typ := 7, consist := 1}:Packet)
def s12b19 : Packet := ({packet0 with typ := 7, consist := 5}:Packet)
def s12b21 : Packet := ({packet0 with typ := 4}:Packet)
def s12b22 : State := awaiting false false (entry0 1 (.scalarLoad 4 4096 8))
def s12b23 : RemoteReq := remote0 false false
def s12b24 : Entry := entry0 1 (.scalarLoad 4 4096 8)
def s12b31 : Packet := ({packet0 with typ := 5}:Packet)
def s12b32 : Packet := ({packet0 with typ := 6}:Packet)
def s12b33 : State := awaiting true false (entry0 1 (.scalarLoad 4 4096 8))
def s12b34 : RemoteReq := remote0 true false
def s12b39 : State := {bly pUp pUp with breaks := [(0,1),(0,0)]}
def s12b40 : Packet := ({packet0 with dst := 3, dim := 1}:Packet)
/-- Obligations.PacketsAreForwardedServedAndAnswered: its clauses' hypotheses, clause by clause. -/
theorem wit_PacketsAreForwardedServedAndAnswered :
    (portState s12b1 0 = pUp ∧ s12b2.dst ≠ devNum s12b1 ∧ (routePacket s12b1 ({ s12b2 with hops := s12b2.hops + 1 }
      : Packet) false).isSome = true ∧ (routePacket s12b1 ({ s12b2 with hops := s12b2.hops + 1 } : Packet) false).any
      (fun r => portState s12b1 r.1 == pUp) = true) ∧
    (localTag s12b1 s12b11 = some s12b12 ∧ serves s12b1 0 s12b11 1 = true ∧ Unheld (agentRead (received (begun
      s12b1) 0 s12b11) s12b12 none false false false s12b11.addr s12b11.len).1) ∧
    (localTag s12b1 s12b13 = none ∧ serves s12b1 0 s12b13 1 = true) ∧
    (localTag s12b1 s12b14 = some s12b12 ∧ serves s12b1 0 s12b14 2 = true ∧ s12b1.declares = [] ∧
      s12b14.payload.length = 8 ∧ WordOpen s12b1 s12b12 s12b14.addr ∧ isUe s12b1 (s12b14.addr / 64) = false) ∧
    (localTag s12b1 s12b15 = none ∧ serves s12b1 0 s12b15 2 = true) ∧
    (localTag s12b1 s12b16 = some s12b12 ∧ serves s12b1 0 s12b16 3 = true ∧ Unheld (agentAtomic (accepted (received
      (begun s12b1) 0 s12b16) s12b12 s12b16.payload.length) s12b12 none s12b16.addr (if s12b16.aop = 9 then AtomDo.cas
      (fieldAt s12b16.payload 0 8) (fieldAt s12b16.payload 8 8) else AtomDo.op s12b16.aop (leNat s12b16.payload))).1) ∧
    (localTag s12b1 s12b17 = none ∧ serves s12b1 0 s12b17 3 = true) ∧
    (localTag s12b1 s12b18 = some s12b12 ∧ s12b18.dst = devNum s12b1 ∧ s12b18.typ = 7 ∧ 4 ≤ s12b18.payload.length) ∧
    (localTag s12b1 s12b19 = none ∧ s12b19.dst = devNum s12b1 ∧ s12b19.typ = 7 ∧ 4 ≤ s12b19.payload.length) ∧
    (s12b21.dst = devNum s12b1 ∧ List.find? (fun r => r.die == s12b21.srcDie && r.tag == s12b21.tag &&
      !r.quarantined) s12b1.remotes = none ∧ s12b21.typ = 4) ∧
    (portState s12b22 0 = pUp ∧ s12b21.dst = devNum s12b22 ∧ List.find? (fun r => r.die == s12b21.srcDie && r.tag ==
      s12b21.tag && !r.quarantined) s12b22.remotes = some s12b23 ∧ s12b23.slot ≠ pollSlot ∧ List.find? (fun e =>
      e.slot == s12b23.slot) (getCore s12b22 s12b23.core).table = some s12b24) ∧
    (s12b31.dst = devNum s12b1 ∧ List.find? (fun r => r.die == s12b31.srcDie && r.tag == s12b31.tag &&
      !r.quarantined) s12b1.remotes = none ∧ s12b31.typ = 5) ∧
    (s12b31.dst = devNum s12b22 ∧ List.find? (fun r => r.die == s12b31.srcDie && r.tag == s12b31.tag &&
      !r.quarantined) s12b22.remotes = some s12b23) ∧
    (s12b32.dst = devNum s12b1 ∧ List.find? (fun r => r.die == s12b32.srcDie && r.tag == s12b32.tag &&
      !r.quarantined) s12b1.remotes = none ∧ s12b32.typ = 6) ∧
    (s12b32.dst = devNum s12b22 ∧ List.find? (fun r => r.die == s12b32.srcDie && r.tag == s12b32.tag &&
      !r.quarantined) s12b22.remotes = some s12b23) ∧
    (s12b22.remotes[0]? = some s12b23 ∧ s12b23.quarantined = false) ∧
    (s12b33.remotes[0]? = some s12b34 ∧ s12b34.quarantined = true) ∧
    (portState s12b39 0 = pUp ∧ s12b40.dst ≠ devNum s12b39 ∧ routePacket s12b39
      ({ s12b40 with hops := s12b40.hops + 1 } : Packet) false = none) := by
  refine ⟨?_, ?_, ?_, ?_, ?_, ?_, ?_, ?_, ?_, ?_, ?_, ?_, ?_, ?_, ?_, ?_, ?_, ?_⟩
  all_goals decide +kernel


/-! Chapter 13. -/
def s13a1 : State := selecting 0
def s13a2 : State := selecting 1
def s13a4 : State := selecting 4
def s13a5 : State := selecting 9
def s13a6 : State := withF (selecting 4) [(.QE_RING_CFG_KIND,0,7)]
def s13a7 : State := withF (selecting 0) [(.QE_FUNC_STATUS_QUIESCING,0,1)]
def s13a9 : State := ringIs 0 (fun x => {x with state := rError}) hostS
def s13a10 : State := ringIs 1 (fun x => {x with tail := 5}) hostS
def s13a11 : State := ringIs 0 (fun x => {x with state := rDraining}) hostS
def s13a12 : State := {ringIs 1 (fun x => {x with irq := true, uncovered := 2, vector := 4}) hostS with funcs := [(0,{Func.reset with msixOn := true})], msix := [(4,⟨0x77000,5,false,false⟩)]}
/-- Obligations.RingsAreConfiguredRungAndDisabled: its clauses' hypotheses, clause by clause. -/
theorem wit_RingsAreConfiguredRungAndDisabled :
    (quiescing s13a1 0 = false ∧ selRing s13a1 0 = some 0 ∧ (getRing s13a1 0).state ≠ rDisabled) ∧
    ((¬((getRing s13a1 0).kind = kCompletion ∧ ringNamed s13a1 ((ringPart s13a1 0).getD 0) 0 = true))) ∧
    ((if 0 = 0 then 0 < 262144 else vfServes s13a1 (0 - 1) = true ∧ 0 < fget s13a1 F.QE_PART_RINGS_COUNT (0 - 1)) ∧
      ringPart s13a1 (if 0 = 0 then 0 else globalRing s13a1 (0 - 1) 0) = some 0 ∧ quiescing s13a1 (funcOf s13a1 0) =
      false ∧ fbit s13a1 F.RST_PART_STATUS_OUT = false ∧ ((getRing s13a1 (if 0 = 0 then 0 else globalRing s13a1 (0 -
      1) 0)).state ≠ rDisabled ∧ (getRing s13a1 (if 0 = 0 then 0 else globalRing s13a1 (0 - 1) 0)).state ≠ rError) ∧
      ((getRing s13a1 (if 0 = 0 then 0 else globalRing s13a1 (0 - 1) 0)).kind = kCommand ∨ (getRing s13a1 (if 0 = 0
      then 0 else globalRing s13a1 (0 - 1) 0)).kind = kRequest) ∧ ringGap 3 (getRing s13a1 (if 0 = 0 then 0 else
      globalRing s13a1 (0 - 1) 0)).head ≤ (getRing s13a1 (if 0 = 0 then 0 else globalRing s13a1 (0 - 1) 0)).size) ∧
    ((getRing s13a1 (if 0 = 0 then 0 else globalRing s13a1 (0 - 1) 0)).tail ≠ 100 ∧ (getRing s13a1 (if 0 = 0 then 0
      else globalRing s13a1 (0 - 1) 0)).size < ringGap 100 (getRing s13a1 (if 0 = 0 then 0 else globalRing s13a1 (0 -
      1) 0)).head) ∧
    (quiescing s13a2 0 = false ∧ selRing s13a2 0 = some 1 ∧ (getRing s13a2 1).state ≠ rDisabled ∧ ((getRing s13a2
      1).kind = kCompletion ∧ ringNamed s13a2 ((ringPart s13a2 1).getD 0) 1 = true)) ∧
    ((if 0 = 0 then 1 < 262144 else vfServes s13a2 (0 - 1) = true ∧ 1 < fget s13a2 F.QE_PART_RINGS_COUNT (0 - 1)) ∧
      ringPart s13a2 (if 0 = 0 then 1 else globalRing s13a2 (0 - 1) 1) = some 0 ∧ quiescing s13a2 (funcOf s13a2 0) =
      false ∧ fbit s13a2 F.RST_PART_STATUS_OUT = false ∧ ((getRing s13a2 (if 0 = 0 then 1 else globalRing s13a2 (0 -
      1) 1)).state ≠ rDisabled ∧ (getRing s13a2 (if 0 = 0 then 1 else globalRing s13a2 (0 - 1) 1)).state ≠ rError) ∧
      (¬((getRing s13a2 (if 0 = 0 then 1 else globalRing s13a2 (0 - 1) 1)).kind = kCommand ∨ (getRing s13a2 (if 0 = 0
      then 1 else globalRing s13a2 (0 - 1) 1)).kind = kRequest)) ∧ (getRing s13a2 (if 0 = 0 then 1 else globalRing
      s13a2 (0 - 1) 1)).head ≠ 3 ∧ (getRing s13a2 (if 0 = 0 then 1 else globalRing s13a2 (0 - 1) 1)).size < ringGap
      (getRing s13a2 (if 0 = 0 then 1 else globalRing s13a2 (0 - 1) 1)).tail 3) ∧
    (quiescing s13a4 0 = false ∧ selRing s13a4 0 = some 4 ∧ (getRing s13a4 4).state = rDisabled ∧ ringOk s13a4 0
      ((ringPart s13a4 4).getD 0) (setupRing s13a4 0) = true) ∧
    ((if 0 = 0 then 4 < 262144 else vfServes s13a4 (0 - 1) = true ∧ 4 < fget s13a4 F.QE_PART_RINGS_COUNT (0 - 1)) ∧
      ringPart s13a4 (if 0 = 0 then 4 else globalRing s13a4 (0 - 1) 4) = some 0 ∧ quiescing s13a4 (funcOf s13a4 0) =
      false ∧ fbit s13a4 F.RST_PART_STATUS_OUT = false ∧ (getRing s13a4 (if 0 = 0 then 4 else globalRing s13a4 (0 - 1)
      4)).state = rDisabled) ∧
    (quiescing s13a5 0 = false ∧ selRing s13a5 0 = none) ∧
    (quiescing s13a6 0 = false ∧ selRing s13a6 0 = some 4 ∧ (getRing s13a6 4).state = rDisabled ∧ ringOk s13a6 0
      ((ringPart s13a6 4).getD 0) (setupRing s13a6 0) = false) ∧
    quiescing s13a7 0 = true ∧
    ((if 0 = 0 then 0 < 262144 else vfServes s13a9 (0 - 1) = true ∧ 0 < fget s13a9 F.QE_PART_RINGS_COUNT (0 - 1)) ∧
      ringPart s13a9 (if 0 = 0 then 0 else globalRing s13a9 (0 - 1) 0) = some 0 ∧ quiescing s13a9 (funcOf s13a9 0) =
      false ∧ fbit s13a9 F.RST_PART_STATUS_OUT = false ∧ (getRing s13a9 (if 0 = 0 then 0 else globalRing s13a9 (0 - 1)
      0)).state = rError) ∧
    ((if 0 = 0 then 1 < 262144 else vfServes s13a10 (0 - 1) = true ∧ 1 < fget s13a10 F.QE_PART_RINGS_COUNT (0 - 1))
      ∧ ringPart s13a10 (if 0 = 0 then 1 else globalRing s13a10 (0 - 1) 1) = some 0 ∧ quiescing s13a10 (funcOf s13a10
      0) = false ∧ fbit s13a10 F.RST_PART_STATUS_OUT = false ∧ ((getRing s13a10 (if 0 = 0 then 1 else globalRing
      s13a10 (0 - 1) 1)).state ≠ rDisabled ∧ (getRing s13a10 (if 0 = 0 then 1 else globalRing s13a10 (0 - 1) 1)).state
      ≠ rError) ∧ (¬((getRing s13a10 (if 0 = 0 then 1 else globalRing s13a10 (0 - 1) 1)).kind = kCommand ∨ (getRing
      s13a10 (if 0 = 0 then 1 else globalRing s13a10 (0 - 1) 1)).kind = kRequest)) ∧ ringGap (getRing s13a10 (if 0 = 0
      then 1 else globalRing s13a10 (0 - 1) 1)).tail 3 ≤ (getRing s13a10 (if 0 = 0 then 1 else globalRing s13a10 (0 -
      1) 1)).size) ∧
    ((getRing s13a11 0).state = rDraining ∧ ringDone s13a11 ((Option.map (funcOf s13a11) (ringPart s13a11 0)).getD
      0) 0 = true) ∧
    ((ringPart s13a12 1).isSome = true ∧ (getRing s13a12 1).irq = true ∧ 0 < (getRing s13a12 1).uncovered ∧
      quiescing s13a12 ((Option.map (funcOf s13a12) (ringPart s13a12 1)).getD 0) = false ∧ getPosted s13a12
      ((Option.map (funcOf s13a12) (ringPart s13a12 1)).getD 0) = [] ∧ (getFunc s13a12 ((Option.map (funcOf s13a12)
      (ringPart s13a12 1)).getD 0)).msixOn = true ∧ (getFunc s13a12 ((Option.map (funcOf s13a12) (ringPart s13a12
      1)).getD 0)).msixMask = false ∧ (getMsix s13a12 ((Option.map (funcOf s13a12) (ringPart s13a12 1)).getD 0)
      (getRing s13a12 1).vector).masked = false) := by
  refine ⟨?_, ?_, ?_, ?_, ?_, ?_, ?_, ?_, ?_, ?_, ?_, ?_, ?_, ?_, ?_⟩
  all_goals decide +kernel

def s13b1 : State := ringIs 0 (fun x => {x with tail := 3}) hostS
def s13b3 : State := readsOf (descRead 2 2) hostS
def s13b4 : HRead := descRead 2 2
def s13b5 : List (List Byte) := [desc3 1 0, desc3 2 0]
def s13b6 : State := readsOf (descRead 0 1) hostS
def s13b7 : HRead := descRead 0 1
def s13b8 : List Byte := desc3 0 0
def s13b11 : List Byte := desc3 85 0
def s13b12 : List Byte := desc3 0 8
def s13b15 : State := readsOf (argsRead true) (hosting 0 [])
def s13b16 : HRead := argsRead true
def s13b17 : List Byte := zeros 40
/-- Obligations.DescriptorsAndArgumentsAreFetched: its clauses' hypotheses, clause by clause. -/
theorem wit_DescriptorsAndArgumentsAreFetched :
    (ringPart s13b1 0 = some 0 ∧ nextRing s13b1 = some 0 ∧ (getFunc s13b1 (funcOf s13b1 0)).ats = false) ∧
    (ringPart s13b1 1 = some 0 ∧ nextRing s13b1 ≠ some 1) ∧
    (s13b3.hreads[0]? = some s13b4 ∧ s13b4.why = ReadFor.descs 2 0 2 ∧ s13b4.sent = true ∧ ringPart s13b3 2 = some 0
      ∧ s13b5.length = 2 ∧ (∀ d ∈ s13b5, d.length = descBytes (getRing s13b3 2)) ∧ (getRing s13b3 2).kind = kRequest) ∧
    (s13b6.hreads[0]? = some s13b7 ∧ s13b7.why = ReadFor.descs 0 0 1 ∧ s13b7.sent = true ∧ ringPart s13b6 0 = some 0
      ∧ 1 = 1 ∧ s13b8.length = 64 ∧ (getRing s13b6 0).kind = kCommand ∧ (getRing s13b6 0).format = 3 ∧ (∀ c ∈
      s13b6.cmds, c.id ≠ s13b6.nextId) ∧ opKnown (fieldAt s13b8 0 1) 3 = true ∧ (fieldAt s13b8 1 1 < 4 ∧ fieldAt s13b8
      2 2 < 4096 ∧ fieldAt s13b8 4 4 = 0 ∧ fieldAt s13b8 56 1 < 4 ∧ fieldAt s13b8 58 2 = 0) ∧ (cmdRefused s13b6
      { id := s13b6.nextId, ring := 0, part := 0, op := fieldAt s13b8 0 1, format := 3, ctx := fieldAt s13b8 2 2 % 4096, tag := fieldAt s13b8 8 8, serial := bit (fieldAt s13b8 1 1) 0, hint := if bit (fieldAt s13b8 1 1) 1 = true ∨ fieldAt s13b8 0 1 = 7 then some (fieldAt s13b8 56 1 % 4, fieldAt s13b8 57 1, fieldAt s13b8 60 4) else none, args := List.map (fun k => fieldAt s13b8 (16 + 8 * k) 8) (List.range 5), started := false, refs := [], gone := none, chan := none, launch := none, waits := [], count := 0 }
      = none)) ∧
    (s13b11.length = 64 ∧ opKnown (fieldAt s13b11 0 1) 3 = false) ∧
    (s13b12.length = 64 ∧ opKnown (fieldAt s13b12 0 1) 3 = true ∧ (¬(fieldAt s13b12 1 1 < 4 ∧ fieldAt s13b12 2 2 <
      4096 ∧ fieldAt s13b12 4 4 = 0 ∧ fieldAt s13b12 56 1 < 4 ∧ fieldAt s13b12 58 2 = 0))) ∧
    (s13b15.hreads[0]? = some s13b16 ∧ s13b16.why = ReadFor.args (cmd0 0 []).id ∧ s13b16.sent = true ∧ getCmd s13b15
      (cmd0 0 []).id = some (cmd0 0 []) ∧ cmdRefused s13b15
      { id := (cmd0 0 []).id, ring := (cmd0 0 []).ring, part := (cmd0 0 []).part, op := (cmd0 0 []).op, format := (cmd0 0 []).format, ctx := (cmd0 0 []).ctx, tag := (cmd0 0 []).tag, serial := (cmd0 0 []).serial, hint := (cmd0 0 []).hint, args := List.map (fun k => fieldAt s13b17 (8 * k) 8) (List.range 5), started := (cmd0 0 []).started, refs := (cmd0 0 []).refs, gone := (cmd0 0 []).gone, chan := (cmd0 0 []).chan, launch := (cmd0 0 []).launch, waits := (cmd0 0 []).waits, count := (cmd0 0 []).count }
      = none) ∧
    s13b15.faults.length < 32 := by
  refine ⟨?_, ?_, ?_, ?_, ?_, ?_, ?_, ?_⟩
  all_goals decide +kernel

def s13c1 : State := atsS []
def s13c4 : State := atsS [argsRead false]
def s13c5 : HRead := argsRead false
def s13c6 : State := {atsS [{argsRead true with stale := true}] with invals := [(0,0x5000,4096,9)]}
def s13c7 : State := {atsS [argsRead true] with invals := [(0,0x5000,4096,9)]}
def s13c8 : State := {hostS with faults := [fault0]}
def s13c9 : State := withF {hostS with faults := [fault0]} [(.QE_FAULT_CFG_ENABLE,0,1),(.QE_FAULT_CFG_SIZE_LOG2,0,6),(.QE_FAULT_BASE_ADDR,0,7)]
/-- Obligations.TranslationsAndFaultRecords: its clauses' hypotheses, clause by clause. -/
theorem wit_TranslationsAndFaultRecords :
    (s13c1.atsOut.contains (0, 20480 / 4096) = true ∧ 4096 ≤ 20480 ∧ 20480 % 4096 = 0 ∧ getPosted s13c1 0 = [] ∧
      (true = true ∨ true = true) ∧ (∀ h ∈ s13c1.hreads, h.f ≠ 0 ∨ h.sent = true)) ∧
    (s13c4.atsOut.contains (0, 20480 / 4096) = true ∧ getPosted s13c4 0 = [] ∧ s13c4.hreads = [s13c5] ∧ s13c5.f = 0
      ∧ s13c5.sent = false ∧ (⟨20480, 20480, 20480, true, true⟩ : AtcEntry).covers s13c5.addr = true ∧ true = true ∧ 0
      < atcQuota s13c4 0 ∧ (getFunc s13c4 0).ats = true) ∧
    ((⟨20480, 20480, 20480, false, true⟩ : AtcEntry).covers s13c5.addr = true ∧ false = false ∧ s13c5.why =
      ReadFor.args (cmd0 0 []).id ∧ getCmd s13c4 (cmd0 0 []).id = some (cmd0 0 [])) ∧
    (s13c6.invals[0]? = some (0, 20480, 4096, 9) ∧ (∃ h ∈ s13c6.hreads, h.f = 0 ∧ h.stale = true ∧ overlaps h.addr
      h.n 20480 4096 = true)) ∧
    (s13c7.invals[0]? = some (0, 20480, 4096, 9) ∧ (∀ h ∈ s13c7.hreads, ¬(h.f = 0 ∧ h.stale = true ∧ overlaps h.addr
      h.n 20480 4096 = true))) ∧
    (s13c8.faults[0]? = some fault0 ∧ (fbit s13c8 F.QE_FAULT_CFG_ENABLE fault0.f = false ∨ 2 ^ fget s13c8
      F.QE_FAULT_CFG_SIZE_LOG2 fault0.f ≤ ringGap (fget s13c8 F.QE_FAULT_TAIL_TAIL fault0.f) (fget s13c8
      F.QE_FAULT_HEAD_HEAD fault0.f))) ∧
    (s13c9.faults[0]? = some fault0 ∧ fbit s13c9 F.QE_FAULT_CFG_ENABLE fault0.f = true ∧ ¬2 ^ fget s13c9
      F.QE_FAULT_CFG_SIZE_LOG2 fault0.f ≤ ringGap (fget s13c9 F.QE_FAULT_TAIL_TAIL fault0.f) (fget s13c9
      F.QE_FAULT_HEAD_HEAD fault0.f) ∧ quiescing s13c9 fault0.f = false ∧ getPosted s13c9 fault0.f = [] ∧ (getFunc
      s13c9 fault0.f).ats = false ∧ fbit s13c9 F.QE_FAULT_CFG_IRQ fault0.f = false) := by
  refine ⟨?_, ?_, ?_, ?_, ?_, ?_, ?_⟩
  all_goals decide +kernel

def s13d2 : State := hosting 0 [0,0,0,0,0]
def s13d3 : Cmd := cmd0 0 [0,0,0,0,0]
def s13d4 : State := {hostS with cmds := [{cmd0 7 [0] with hint := some (1,2,3)}]}
def s13d5 : Cmd := ({cmd0 7 [0] with hint := some (1,2,3)}:Cmd)
def s13d6 : Nat × Nat × Nat := ((1,2,3):Nat×Nat×Nat)
def s13d7 : State := copying 300000
def s13d8 : Cmd := cmd0 1 [0x1000, 0x2000, 300000, 0, 0]
def s13d9 : State := withF (copying 300000) [(.CHV_CH_STATUS_STATE,3,1)]
def s13d10 : State := {copying 300000 with cmds := [{cmd0 1 [0x1000, 0x2000, 300000, 0, 0] with started := true}]}
def s13d11 : Cmd := ({cmd0 1 [0x1000, 0x2000, 300000, 0, 0] with started := true}:Cmd)
def s13d12 : State := launching 256 1
def s13d13 : Cmd := cmd3 2 [256,0x300,1*2^16,0,0]
def s13d14 : State := launching 256 7
def s13d15 : Cmd := cmd3 2 [256,0x300,7*2^16,0,0]
def s13d20 : State := withF (launching 256 6) [(.SAGE_STATUS_STATE,2,stRunning)]
def s13d21 : Cmd := cmd3 2 [256,0x300,6*2^16,0,0]
def s13d22 : State := withF (hosting 0 [0,0,0,0,0]) [(.QE_CTX_SLOT_PART,0,9)]
def s13d23 : Nat × Nat := ((0,0):Nat×Nat)
def s13d24 : List (Nat × Nat) := ([]:List (Nat×Nat))
def s13d25 : State := withF (hosting 0 [0,0,0,0,0]) [(.QE_CTX_SLOT_STATE,0,1)]
def s13d26 : State := withF (hosting 0 [0,0,0,0,0]) [(.QE_CTX_SLOT_STATE,0,5)]
/-- Obligations.CommandsStartInTheirContexts: its clauses' hypotheses, clause by clause. -/
theorem wit_CommandsStartInTheirContexts :
    Starts s13d2 0 0 s13d3 ∧
    (s13d4.cmds[0]? = some s13d5 ∧ s13d5.op = 7 ∧ s13d5.gone = none ∧ s13d5.hint = some s13d6) ∧
    (s13d7.cmds[0]? = some s13d8 ∧ s13d8.op = 1 ∧ (∀ x ∈ s13d7.cmds, x.id = s13d8.id → x = s13d8) ∧ copyPick s13d7
      s13d8.part (bits (s13d8.arg 2) 28 2) (copySide s13d8.args) = some 3 ∧ s13d8.arg 2 % 2 ^ 24 ≠ 0 ∧ canStart s13d7
      s13d8 = true) ∧
    (s13d9.cmds[0]? = some s13d8 ∧ (∀ x ∈ s13d9.cmds, x.id = s13d8.id → x = s13d8) ∧ canStart s13d9 s13d8 = true ∧
      copyPick s13d9 s13d8.part (bits (s13d8.arg 2) 28 2) (copySide s13d8.args) = none) ∧
    (s13d10.cmds[0]? = some s13d11 ∧ s13d11.op = 1 ∧ (∀ x ∈ s13d10.cmds, x.id = s13d11.id → x = s13d11) ∧ copyPick
      s13d10 s13d11.part (bits (s13d11.arg 2) 28 2) (copySide s13d11.args) = some 3 ∧ s13d11.arg 2 % 2 ^ 24 ≠ 0 ∧
      s13d11.started = true ∧ s13d11.chan = none ∧ startsOpen s13d10 s13d11.part = true) ∧
    (Starts s13d12 0 2 s13d13 ∧ (∀ x ∈ s13d12.cmds, x.id = s13d13.id → x = s13d13) ∧ (∀ l ∈ s13d12.launches, l.id ≠
      s13d12.nextId) ∧ bits (s13d13.arg 2) 16 11 ≤ (List.filter (fun k => !coreFenced s13d12 k) (consistCores s13d12
      s13d13.part (bits (s13d13.arg 2) 28 2))).length ∧ bits (s13d13.arg 2) 16 11 ≤ (List.filter (coreFree s13d12)
      (consistCores s13d12 s13d13.part (bits (s13d13.arg 2) 28 2))).length) ∧
    (Starts s13d14 0 2 s13d15 ∧ (∀ x ∈ s13d14.cmds, x.id = s13d15.id → x = s13d15) ∧ (∀ l ∈ s13d14.launches, l.id ≠
      s13d14.nextId) ∧ (List.filter (fun k => !coreFenced s13d14 k) (consistCores s13d14 s13d15.part (bits (s13d15.arg
      2) 28 2))).length < bits (s13d15.arg 2) 16 11) ∧
    (Starts s13d20 0 2 s13d21 ∧ (∀ x ∈ s13d20.cmds, x.id = s13d21.id → x = s13d21) ∧ (∀ l ∈ s13d20.launches, l.id ≠
      s13d20.nextId) ∧ bits (s13d21.arg 2) 16 11 ≤ (List.filter (fun k => !coreFenced s13d20 k) (consistCores s13d20
      s13d21.part (bits (s13d21.arg 2) 28 2))).length ∧ (List.filter (coreFree s13d20) (consistCores s13d20
      s13d21.part (bits (s13d21.arg 2) 28 2))).length < bits (s13d21.arg 2) 16 11) ∧
    (wanting s13d22 = s13d23 :: s13d24 ∧ List.find? (fun k => slotState s13d22 k == csFree) (List.range 96) = some 1
      ∧ getCtx s13d22 s13d23.1 s13d23.2 = some Ctx.fresh0) ∧
    slotState s13d25 0 = csLoading ∧
    (slotState s13d26 0 = csSaving ∧ Unheld (ctxEntryPut (begun s13d26) (fget s13d26 F.QE_CTX_SLOT_PART) (fget
      s13d26 F.QE_CTX_SLOT_CONTEXT))) ∧
    (Unheld (launchCmd (startCmd (begun s13d12) s13d13)
      { id := s13d13.id, ring := s13d13.ring, part := s13d13.part, op := s13d13.op, format := s13d13.format, ctx := s13d13.ctx, tag := s13d13.tag, serial := s13d13.serial, hint := s13d13.hint, args := s13d13.args, started := true, refs := s13d13.refs, gone := s13d13.gone, chan := s13d13.chan, launch := s13d13.launch, waits := s13d13.waits, count := s13d13.count })) := by
  refine ⟨?_, ?_, ?_, ?_, ?_, ?_, ?_, ?_, ?_, ?_, ?_, (by rcases start_cases (begun s13d12) s13d13 with h | h <;> rw [h] <;> clear h <;> decide +kernel)⟩
  all_goals decide +kernel


/-! Chapter 14. -/
def s14a1 : State := ctxS 16 5 [3,0,0,0,0] [] [] [] []
def s14a2 : Cmd := cmdC 16 5 [3,0,0,0,0]
def s14a3 : Ctx := ({Ctx.fresh0 with maps := []}:Ctx)
def s14a4 : State := ctxS 16 3 [3,0,0,0,0] [] [] [] []
def s14a5 : Cmd := cmdC 16 3 [3,0,0,0,0]
def s14a6 : State := ctxC 18 3 [0x200000,1,196609,0,0] [] [] [] []
def s14a7 : Cmd := cmdC 18 3 [0x200000,1,196609,0,0]
def s14a8 : State := ctxC 18 3 [0x200000,1,196617,0,0] [] [] [] []
def s14a9 : Cmd := cmdC 18 3 [0x200000,1,196617,0,0]
def s14a10 : State := ctxC 18 3 [0x10000000000,1,196609,0,0] [] [] [] []
def s14a11 : Cmd := cmdC 18 3 [0x10000000000,1,196609,0,0]
def s14a12 : State := ctxC 18 3 [0x100000,1,196609,0,0] [(2,some obj0)] [] [] []
def s14a13 : Cmd := cmdC 18 3 [0x100000,1,196609,0,0]
def s14a14 : State := ctxC 18 3 [0x200000,1,196609,0,0] [] [] (List.replicate 240 (7,1)) []
def s14a15 : Ctx := ({Ctx.fresh0 with maps := (List.replicate 240 (7,1))}:Ctx)
def s14a16 : State := ctxC 19 3 [0,0,196610,0,0] [] [] [] []
def s14a17 : Cmd := cmdC 19 3 [0,0,196610,0,0]
def s14a18 : State := ctxC 19 3 [0,0,196610,0,0] [(2,some obj0)] [] [] []
def s14a19 : State := ctxC 19 3 [0,0,196610,0,0] [(2,some obj0)] [] [(2,1)] []
def s14a20 : Ctx := ({Ctx.fresh0 with maps := [(2,1)]}:Ctx)
def s14a21 : State := ctxC 19 3 [0,0,196610,0,0] [(2,some {obj0 with freeing:=true})] [] [] []
def s14a22 : Obj := ({obj0 with freeing:=true}:Obj)
def s14a23 : State := ctxC 19 3 [0,0,196610,0,0] [(2,some {obj0 with rights:=1})] [] [] []
def s14a24 : Obj := ({obj0 with rights:=1}:Obj)
def s14a25 : State := ctxC 19 3 [0,0,196610,0,0] [(2,some obj0)] [] (List.replicate 240 (7,1)) []
def s14a26 : State := ctxC 20 3 [0,0,2,0,0] [] [] [] []
def s14a27 : Cmd := cmdC 20 3 [0,0,2,0,0]
def s14a28 : State := ctxC 20 3 [0,0,2,0,0] [(2,some obj0)] [] [(2,1)] [(2,1)]
def s14a30 : State := (fun s : State => {s with cmds := s.cmds ++ [{cmd0 1 [] with id := 9, refs := [2], started := true}]}) (ctxC 20 3 [0,0,2,0,0] [(2,some obj0)] [] [(2,1)] [])
def s14a31 : State := {ctxS 1 0 [] [(2,some ({obj0 with freeing := true, forced := true}:Obj))] [] [] [] with cmds := [{cmd0 0x14 [0,0,2,0,0] with waits := [2]}, {cmd0 1 [] with id := 9, refs := [2]}]}
def s14a32 : Obj := ({obj0 with freeing := true, forced := true}:Obj)
def s14a33 : State := {ctxS 1 0 [] [(2,some ({obj0 with freeing := true, forced := true}:Obj))] [] [] [] with cmds := [{cmd0 0x14 [0,0,2,0,0] with waits := [2]}, {cmd0 1 [] with id := 9, refs := []}]}
def s14a34 : State := {ctxS 1 0 [] [(2,some ({obj0 with freeing := true, forced := false}:Obj))] [] [] [] with cmds := [{cmd0 0x14 [0,0,2,0,0] with waits := [2]}, {cmd0 1 [] with id := 9, refs := [2]}]}
def s14a35 : Obj := ({obj0 with freeing := true, forced := false}:Obj)
def s14a38 : Cmd := cmdC 17 3 [0,0,0,0,0]
def s14a40 : State := withF (ctxS 17 7 [0,0,0,0,0] [] [] [] []) [(.QE_CTX_SLOT_CONTEXT,0,7)]
def s14a41 : Cmd := cmdC 17 7 [0,0,0,0,0]
def s14a42 : State := withF ((fun s : State => {s with cmds := s.cmds ++ [{cmd0 1 [0] with id := 9, ctx := 3}, {waiting0 with id := 11, ctx := 3}]}) (ctxS 17 3 [0,0,0,0,0] [] [(2,some {fence0 with owner := some 3})] [] [])) [(.QE_CTX_SLOT_CONTEXT,0,3)]
def s14a43 : State := {ctxS 1 3 [] [(2,some obj0),(4,some obj0)] [] [(4,1)] [(2,1),(4,1)] with cmds := [{cmdC 0x11 3 [] with started := true}]}
def s14a44 : Cmd := ({cmdC 0x11 3 [] with started := true}:Cmd)
def s14a45 : Ctx := ({Ctx.fresh0 with maps := [(2,1),(4,1)]}:Ctx)
def s14a46 : State := ctxS 25 0 [0x400,3,0,0,0] [] [] [] [(2,1)]
def s14a47 : Cmd := cmdC 25 0 [0x400,3,0,0,0]
theorem maps_of_others {k : Nat} {y : Ctx} (hk : k < 4096) (h0 : k ≠ 3) (hy : getCtx s14a30 0 k = some y) : y.maps = [] := by
  rw [show getCtx s14a30 0 k = SMap.get ctxDefault
      [(0, some { Ctx.fresh0 with maps := [] }), (3, some { Ctx.fresh0 with maps := [(2, 1)] })] k by
    unfold getCtx ctxKey; rw [Nat.zero_mul, Nat.zero_add]; rfl] at hy
  simp only [SMap.get, ctxDefault, Nat.mod_eq_of_lt hk, h0, if_false] at hy
  split at hy
  · cases hy; rfl
  · cases hy
/-- Obligations.ContextsAndObjectsLiveAndGo: its clauses' hypotheses, clause by clause. -/
theorem wit_ContextsAndObjectsLiveAndGo :
    (Starts s14a1 0 16 s14a2 ∧ getCtx s14a1 s14a2.part s14a2.ctx = none) ∧
    (Starts s14a4 0 16 s14a5 ∧ (getCtx s14a4 s14a5.part s14a5.ctx).isSome = true) ∧
    (getCtx s14a6 s14a7.part s14a7.ctx = some s14a3 ∧ Starts s14a6 0 18 s14a7 ∧ (¬(fget s14a6
      F.QE_PART_LIMITS_OBJECTS s14a7.part ≤ s14a7.arg 2 % 65536 ∨ (getObj s14a6 s14a7.part (s14a7.arg 2 %
      65536)).isSome = true)) ∧ rangeGranted s14a6 s14a7.part (s14a7.arg 0) (s14a7.arg 1) (bits (s14a7.arg 2) 16 3) =
      true ∧ ((objsOf s14a6 s14a7.part).any fun e => overlaps (s14a7.arg 0) (Obj.mk (s14a7.arg 0) (s14a7.arg 1) 0
      false false).size e.2.base e.2.size) = false ∧ s14a3.maps.length < 240) ∧
    (getCtx s14a8 s14a9.part s14a9.ctx = some s14a3 ∧ Starts s14a8 0 18 s14a9 ∧ (fget s14a8 F.QE_PART_LIMITS_OBJECTS
      s14a9.part ≤ s14a9.arg 2 % 65536 ∨ (getObj s14a8 s14a9.part (s14a9.arg 2 % 65536)).isSome = true)) ∧
    (getCtx s14a10 s14a11.part s14a11.ctx = some s14a3 ∧ Starts s14a10 0 18 s14a11 ∧ (¬(fget s14a10
      F.QE_PART_LIMITS_OBJECTS s14a11.part ≤ s14a11.arg 2 % 65536 ∨ (getObj s14a10 s14a11.part (s14a11.arg 2 %
      65536)).isSome = true)) ∧ rangeGranted s14a10 s14a11.part (s14a11.arg 0) (s14a11.arg 1) (bits (s14a11.arg 2) 16
      3) = false) ∧
    (getCtx s14a12 s14a13.part s14a13.ctx = some s14a3 ∧ Starts s14a12 0 18 s14a13 ∧ (¬(fget s14a12
      F.QE_PART_LIMITS_OBJECTS s14a13.part ≤ s14a13.arg 2 % 65536 ∨ (getObj s14a12 s14a13.part (s14a13.arg 2 %
      65536)).isSome = true)) ∧ rangeGranted s14a12 s14a13.part (s14a13.arg 0) (s14a13.arg 1) (bits (s14a13.arg 2) 16
      3) = true ∧ ((objsOf s14a12 s14a13.part).any fun e => overlaps (s14a13.arg 0) (Obj.mk (s14a13.arg 0) (s14a13.arg
      1) 0 false false).size e.2.base e.2.size) = true) ∧
    (getCtx s14a14 s14a7.part s14a7.ctx = some s14a15 ∧ Starts s14a14 0 18 s14a7 ∧ (¬(fget s14a14
      F.QE_PART_LIMITS_OBJECTS s14a7.part ≤ s14a7.arg 2 % 65536 ∨ (getObj s14a14 s14a7.part (s14a7.arg 2 %
      65536)).isSome = true)) ∧ rangeGranted s14a14 s14a7.part (s14a7.arg 0) (s14a7.arg 1) (bits (s14a7.arg 2) 16 3) =
      true ∧ ((objsOf s14a14 s14a7.part).any fun e => overlaps (s14a7.arg 0) (Obj.mk (s14a7.arg 0) (s14a7.arg 1) 0
      false false).size e.2.base e.2.size) = false ∧ 240 ≤ s14a15.maps.length) ∧
    (getCtx s14a16 s14a17.part s14a17.ctx = some s14a3 ∧ Starts s14a16 0 19 s14a17 ∧ getObj s14a16 s14a17.part
      (s14a17.arg 2 % 65536) = none) ∧
    (getCtx s14a18 s14a17.part s14a17.ctx = some s14a3 ∧ Starts s14a18 0 19 s14a17 ∧ getObj s14a18 s14a17.part
      (s14a17.arg 2 % 65536) = some obj0 ∧ obj0.freeing = false ∧ (s14a3.maps.any fun m => m.1 == s14a17.arg 2 %
      65536) = false ∧ (bits (s14a17.arg 2) 16 3).land obj0.rights = bits (s14a17.arg 2) 16 3) ∧
    (getCtx s14a19 s14a17.part s14a17.ctx = some s14a20 ∧ Starts s14a19 0 19 s14a17 ∧ getObj s14a19 s14a17.part
      (s14a17.arg 2 % 65536) = some obj0 ∧ (s14a20.maps.any fun m => m.1 == s14a17.arg 2 % 65536) = true) ∧
    (getCtx s14a21 s14a17.part s14a17.ctx = some s14a3 ∧ Starts s14a21 0 19 s14a17 ∧ getObj s14a21 s14a17.part
      (s14a17.arg 2 % 65536) = some s14a22 ∧ s14a22.freeing = true) ∧
    (getCtx s14a23 s14a17.part s14a17.ctx = some s14a3 ∧ Starts s14a23 0 19 s14a17 ∧ getObj s14a23 s14a17.part
      (s14a17.arg 2 % 65536) = some s14a24 ∧ s14a24.freeing = false ∧ (bits (s14a17.arg 2) 16 3).land s14a24.rights ≠
      bits (s14a17.arg 2) 16 3) ∧
    (getCtx s14a25 s14a17.part s14a17.ctx = some s14a15 ∧ Starts s14a25 0 19 s14a17 ∧ getObj s14a25 s14a17.part
      (s14a17.arg 2 % 65536) = some obj0 ∧ (s14a15.maps.any fun m => m.1 == s14a17.arg 2 % 65536) = false) ∧
    (getCtx s14a26 s14a27.part s14a27.ctx = some s14a3 ∧ Starts s14a26 0 20 s14a27 ∧ s14a27.ctx < 4096 ∧
      (s14a3.maps.any fun m => m.1 == s14a27.arg 2 % 65536) = false) ∧
    (getCtx s14a28 s14a27.part s14a27.ctx = some s14a20 ∧ Starts s14a28 0 20 s14a27 ∧ (s14a20.maps.any fun m => m.1
      == s14a27.arg 2 % 65536) = true) ∧
    objHeld s14a28 s14a27.part (s14a27.arg 2 % 65536) = false ∧
    (getCtx s14a30 s14a27.part s14a27.ctx = some s14a20 ∧ Starts s14a30 0 20 s14a27 ∧ objHeld s14a30 s14a27.part
      (s14a27.arg 2 % 65536) = true ∧ s14a20.forced = false ∧ getObj s14a30 s14a27.part (s14a27.arg 2 % 65536) = some
      obj0) ∧
    (getObj s14a31 0 2 = some s14a32 ∧ s14a32.freeing = true ∧ s14a32.forced = true ∧ Unheld (objFree (begun s14a31)
      0 2)) ∧
    objHeld s14a31 0 2 = true ∧
    (getObj s14a33 0 2 = some s14a32 ∧ objHeld s14a33 0 2 = false ∧ Unheld (objFree (begun s14a33) 0 2)) ∧
    (getObj s14a34 0 2 = some s14a35 ∧ s14a35.freeing = true ∧ s14a35.forced = false) ∧
    (Starts s14a40 0 17 s14a41 ∧ getCtx s14a40 s14a41.part s14a41.ctx = none) ∧
    (Starts s14a42 0 17 s14a38 ∧ getCtx s14a42 s14a38.part s14a38.ctx = some s14a3 ∧ (∀ y ∈ s14a42.cmds, y.id =
      s14a38.id → y = s14a38) ∧ SMap.wf (fun x => none) s14a42.fences) ∧
    (s14a43.cmds[0]? = some s14a44 ∧ s14a44.op = 17 ∧ s14a44.started = true ∧ s14a44.gone = none ∧ s14a44.ctx < 4096
      ∧ getCtx s14a43 s14a44.part s14a44.ctx = some s14a45 ∧ s14a45.forced = false ∧ s14a44.waits = [] ∧ (∀ k ∈
      s14a43.cmds, k.part = s14a44.part → k.ctx = s14a44.ctx → k.id ≠ s14a44.id → k.started = false) ∧ (∀ m ∈
      s14a45.maps, objHeld s14a43 s14a44.part m.1 = false) ∧ Unheld (ctxDestroyResume (begun s14a43) s14a44)) ∧
    (Starts s14a46 0 25 s14a47 ∧ RecordClear s14a46 s14a47.part s14a47.ring) ∧
    (Unheld (reached s14a1 s14a2 ctxCreate)) ∧
    (Unheld (reached s14a6 s14a7 objCreate)) ∧
    (∃ k y, k < 4096 ∧ k ≠ s14a27.ctx ∧ getCtx s14a28 s14a27.part k = some y ∧ ∃ m ∈ y.maps, m.1 = s14a27.arg 2 %
      65536) ∧
    (Unheld (reached s14a28 s14a27 objUnmap)) ∧
    (¬∃ k y, k < 4096 ∧ k ≠ s14a27.ctx ∧ getCtx s14a30 s14a27.part k = some y ∧ ∃ m ∈ y.maps, m.1 = s14a27.arg 2 %
      65536) ∧
    (Unheld (reached s14a30 s14a27 objUnmap)) ∧
    (Unheld (reached s14a42 s14a38 ctxDestroy)) := by
  refine ⟨?_, ?_, ?_, ?_, ?_, ?_, ?_, ?_, ?_, ?_, ?_, ?_, ?_, ?_, ?_, ?_, ?_, ?_, ?_, ?_, ?_, ?_, ?_, ?_, ?_, (by unfold reached; rcases start_cases (begun s14a1) s14a2 with h | h <;> rw [h] <;> clear h <;> decide +kernel), (by unfold reached; rcases start_cases (begun s14a6) s14a7 with h | h <;> rw [h] <;> clear h <;> decide +kernel), ⟨0, _, by decide, by decide, rfl, (2, 1), by decide, by decide⟩, (by unfold reached; rcases start_cases (begun s14a28) s14a27 with h | h <;> rw [h] <;> clear h <;> decide +kernel), (fun ⟨_, _, hk, hne, hy, _, hm, _⟩ => List.not_mem_nil (maps_of_others hk hne hy ▸ hm)), (by unfold reached; rcases start_cases (begun s14a30) s14a27 with h | h <;> rw [h] <;> clear h <;> decide +kernel), (by unfold reached; rcases start_cases (begun s14a42) s14a38 with h | h <;> rw [h] <;> clear h <;> decide +kernel)⟩
  all_goals decide +kernel

def s14b1 : State := ctxC 21 3 [2,0,2053,77,0] [] [] [] []
def s14b2 : Cmd := cmdC 21 3 [2,0,2053,77,0]
def s14b4 : State := ctxC 21 3 [9,0,2053,77,0] [] [] [] []
def s14b5 : Cmd := cmdC 21 3 [9,0,2053,77,0]
def s14b7 : State := ctxC 22 3 [2,7,0,0,0] [] [] [] []
def s14b8 : Cmd := cmdC 22 3 [2,7,0,0,0]
def s14b9 : State := ctxC 23 3 [2,7,0,0,0] [] [] [] []
def s14b10 : Cmd := cmdC 23 3 [2,7,0,0,0]
def s14b11 : State := ctxC 24 3 [2,7,0,0,0] [] [] [] []
def s14b12 : Cmd := cmdC 24 3 [2,7,0,0,0]
def s14b13 : State := ctxC 22 3 [2,7,0,0,0] [] [(2,some fence0)] [] []
def s14b15 : State := ctxC 22 3 [2,7,0,0,0] [] [(2,some {fence0 with error := true})] [] []
def s14b16 : Fence := ({fence0 with error := true}:Fence)
def s14b28 : State := ctxC 23 3 [2,7,0,0,0] [] [(2,some fence0)] [] []
def s14b30 : State := ctxC 23 3 [2,7,0,0,0] [] [(2,some {fence0 with error := true})] [] []
def s14b34 : State := ctxC 23 3 [2,5,0,0,0] [] [(2,some fence0)] [] []
def s14b35 : Cmd := cmdC 23 3 [2,5,0,0,0]
def s14b41 : State := ctxC 24 3 [2,0,0,0,0] [] [(2,some fence0)] [] []
def s14b42 : Cmd := cmdC 24 3 [2,0,0,0,0]
def s14b48 : State := {hostS with cmds := [waiting0]}
/-- Obligations.FencesSignalWaitAndGo: its clauses' hypotheses, clause by clause. -/
theorem wit_FencesSignalWaitAndGo :
    (s14b1.cmds[0]? = some s14b2 ∧ s14b2.gone = none ∧ Starts s14b1 0 21 s14b2 ∧ (¬(fget s14b1
      F.QE_PART_LIMITS_FENCES s14b2.part ≤ s14b2.arg 0 ∨ (getFence s14b1 s14b2.part (s14b2.arg 0)).isSome = true))) ∧
    (s14b4.cmds[0]? = some s14b5 ∧ s14b5.gone = none ∧ Starts s14b4 0 21 s14b5 ∧ (fget s14b4 F.QE_PART_LIMITS_FENCES
      s14b5.part ≤ s14b5.arg 0 ∨ (getFence s14b4 s14b5.part (s14b5.arg 0)).isSome = true)) ∧
    (s14b7.cmds[0]? = some s14b8 ∧ s14b8.gone = none ∧ getFence s14b7 s14b8.part (s14b8.arg 0) = none ∧ Starts s14b7
      0 22 s14b8) ∧
    (s14b9.cmds[0]? = some s14b10 ∧ s14b10.gone = none ∧ getFence s14b9 s14b10.part (s14b10.arg 0) = none ∧ Starts
      s14b9 0 23 s14b10) ∧
    (s14b11.cmds[0]? = some s14b12 ∧ s14b12.gone = none ∧ getFence s14b11 s14b12.part (s14b12.arg 0) = none ∧ Starts
      s14b11 0 24 s14b12) ∧
    (s14b13.cmds[0]? = some s14b8 ∧ getFence s14b13 s14b8.part (s14b8.arg 0) = some fence0 ∧ Starts s14b13 0 22
      s14b8 ∧ fence0.error = false ∧ fence0.value < s14b8.arg 1 ∧ s14b8.arg 1 < 2 ^ 63) ∧
    (s14b15.cmds[0]? = some s14b8 ∧ getFence s14b15 s14b8.part (s14b8.arg 0) = some s14b16 ∧ Starts s14b15 0 22
      s14b8 ∧ (s14b16.error = true ∨ s14b8.arg 1 ≤ s14b16.value)) ∧
    (s14b28.cmds[0]? = some s14b10 ∧ getFence s14b28 s14b10.part (s14b10.arg 0) = some fence0 ∧ Starts s14b28 0 23
      s14b10 ∧ fence0.value < s14b10.arg 1) ∧
    (s14b30.cmds[0]? = some s14b10 ∧ getFence s14b30 s14b10.part (s14b10.arg 0) = some s14b16 ∧ Starts s14b30 0 23
      s14b10 ∧ s14b16.value < s14b10.arg 1 ∧ s14b16.error = true) ∧
    (s14b34.cmds[0]? = some s14b35 ∧ s14b35.gone = none ∧ getFence s14b34 s14b35.part (s14b35.arg 0) = some fence0 ∧
      Starts s14b34 0 23 s14b35 ∧ s14b35.arg 1 ≤ fence0.value) ∧
    (s14b41.cmds[0]? = some s14b42 ∧ s14b42.gone = none ∧ getFence s14b41 s14b42.part (s14b42.arg 0) = some fence0 ∧
      Starts s14b41 0 24 s14b42) ∧
    (s14b48.cmds[0]? = some waiting0 ∧ waiting0.gone = none ∧ waiting0.op = 23 ∧ waiting0.started = true ∧
      waiting0.arg 2 ≠ 0) ∧
    (Unheld (reached s14b1 s14b2 fenceCreate)) ∧
    (Unheld (reached s14b13 s14b8 fenceSignal)) := by
  refine ⟨?_, ?_, ?_, ?_, ?_, ?_, ?_, ?_, ?_, ?_, ?_, ?_, (by unfold reached; rcases start_cases (begun s14b1) s14b2 with h | h <;> rw [h] <;> clear h <;> decide +kernel), (by unfold reached; rcases start_cases (begun s14b13) s14b8 with h | h <;> rw [h] <;> clear h <;> decide +kernel)⟩
  all_goals decide +kernel


/-! Chapter 15. -/
def s15a1 : State := chanS 0 []
def s15a3 : State := chanS 0 [(.CHV_CH_COUNT_BYTES,3,0)]
def s15a5 : State := chanS 0 [(.CHV_CH_NEXT_ADDR,3,(0xFF000000/64))]
def s15a7 : State := chanS 2 []
def s15a8 : State := chanS 4 []
def s15a10 : State := chanIs (fun x => {x with dirty := true}) (chanS 4 [])
def s15a12 : State := put (chanS 1 [(.CHV_CH_NEXT_ADDR,3,0x40)]) [(0x1000, chDesc 64 128 0 8 5 0)]
def s15a13 : State := {chanS 1 [(.CHV_CH_NEXT_ADDR,3,0xFF000000/64)] with ueLines := [(0xFF000000/64, true)]}
def s15a14 : State := chanIs (fun x => {x with held := some (zeros 16, 0, true)}) (chanS 5 full3)
def s15a15 : List Byte := zeros 16
/-- Obligations.ChannelsFollowTheirGoCommands: its clauses' hypotheses, clause by clause. -/
theorem wit_ChannelsFollowTheirGoCommands :
    (RegPath.pf0 = RegPath.pf0 ∧ chState s15a1 3 = chIdle) ∧
    goOk s15a1 3 RegPath.pf0 [chRunning] = false ∧
    goOk s15a1 3 RegPath.pf0 [chHalted] = false ∧
    (goOk s15a1 3 RegPath.pf0 [chIdle] = true ∧ (regDesc s15a1 3).ok = true) ∧
    (inControl (regDesc s15a1 3).next = false ∧ Unheld (chvFetch (begun s15a1) 3 RegPath.pf0)) ∧
    (chAccepts s15a1 3 RegPath.pf0 = true ∧ chState s15a1 3 ≠ chCqWait) ∧
    (goOk s15a3 3 RegPath.pf0 [chIdle] = true ∧ (regDesc s15a3 3).ok = false ∧ Unheld (chvStart (begun s15a3) 3
      RegPath.pf0)) ∧
    (goOk s15a5 3 RegPath.pf0 [chIdle] = true ∧ inControl (regDesc s15a5 3).next = true) ∧
    ((RegPath.pf0 ≠ RegPath.pf0 ∨ chState s15a7 3 ≠ chIdle)) ∧
    goOk s15a7 3 RegPath.pf0 [chIdle] = false ∧
    goOk s15a7 3 RegPath.pf0 [chRunning] = true ∧
    chAccepts s15a7 3 RegPath.pf2 = false ∧
    goOk s15a8 3 RegPath.pf0 [chHalted] = true ∧
    ((getChan s15a8 3).copy = none ∧ (getChan s15a8 3).dirty = false ∧ Unheld (chvAbort (begun s15a8) 3
      RegPath.pf0)) ∧
    (goOk s15a10 3 RegPath.pf0 [chHalted] = true ∧ (getChan s15a10 3).copy = none ∧ (getChan s15a10 3).dirty = true) ∧
    (chState s15a12 3 = chLoading ∧ Unheld (loadNext (begun s15a12) 3) ∧ (chainRead (begun s15a12) 3).2.2 = false ∧
      (descOf (chainRead (begun s15a12) 3).2.1).1.ok = true ∧ (descOf (chainRead (begun s15a12) 3).2.1).2 = true) ∧
    (chState s15a13 3 = chLoading ∧ Unheld (loadNext (begun s15a13) 3) ∧ (chainRead (begun s15a13) 3).2.2 = true ∧
      (getChan s15a13 3).copy = none ∧ (getChan s15a13 3).dirty = false ∧ cqFull s15a13 3 = false) ∧
    (chAccepts s15a14 3 RegPath.pf0 = true ∧ chState s15a14 3 = chCqWait ∧ cqFull (fset s15a14 F.CHV_CH_CQ_HEAD_HEAD
      3 4) 3 = false ∧ Unheld (cqRoom (begun (fset s15a14 F.CHV_CH_CQ_HEAD_HEAD 3 4)) 3) ∧ (getChan s15a14 3).held =
      some (s15a15, 0, true)) := by
  refine ⟨?_, ?_, ?_, ?_, ?_, ?_, ?_, ?_, ?_, ?_, ?_, ?_, ?_, ?_, ?_, ?_, ?_, ?_⟩
  all_goals decide +kernel

def s15b1 : State := chanS 2 []
def s15b2 : List Byte := ([]:List Byte)
def s15b4 : State := chanS 2 full3
def s15b5 : State := chanS 2 [(.CHV_CH_CTRL_CTRL,3,1)]
/-- Obligations.DescriptorsMoveTheirBytes: its clauses' hypotheses, clause by clause. -/
theorem wit_DescriptorsMoveTheirBytes :
    ((getChan s15b1 3).copy = none ∧ (getChan s15b1 3).due = none ∧ (getChan s15b1 3).dirty = false ∧ (chState s15b1
      3 = chRunning ∨ chState s15b1 3 = chStopping) ∧ (regDesc s15b1 3).count = 8 ∧ (regDesc s15b1 3).next = 0 ∧
      (regDesc s15b1 3).ctrl % 16 = 0 ∧ bits (regDesc s15b1 3).ctrl 22 2 = 0 ∧ chvClash s15b1 3 = false ∧ (getChan
      s15b1 3).kill = false ∧ WordReads s15b1 (chvWho s15b1 3) (regDesc s15b1 3).src ∧ WordOpen s15b1 (chvWho s15b1 3)
      (regDesc s15b1 3).dst ∧ isUe s15b1 ((regDesc s15b1 3).dst / 64) = false ∧ cqFull s15b1 3 = false ∧ (fget s15b1
      F.CHV_CH_CQ_BASE_ADDR 3 * 64 + fget s15b1 F.CHV_CH_CQ_TAIL_TAIL 3 % 2 ^ fget s15b1 F.CHV_CH_CQ_CFG_SIZE_LOG2 3 *
      16 + 16 ≤ (regDesc s15b1 3).dst / 64 * 64 ∨ (regDesc s15b1 3).dst / 64 * 64 + 64 ≤ fget s15b1
      F.CHV_CH_CQ_BASE_ADDR 3 * 64 + fget s15b1 F.CHV_CH_CQ_TAIL_TAIL 3 % 2 ^ fget s15b1 F.CHV_CH_CQ_CFG_SIZE_LOG2 3 *
      16) ∧ fget s15b1 F.CHV_CH_CQ_BASE_ADDR 3 * 64 + fget s15b1 F.CHV_CH_CQ_TAIL_TAIL 3 % 2 ^ fget s15b1
      F.CHV_CH_CQ_CFG_SIZE_LOG2 3 * 16 + 16 ≤ regBase ∧ Unheld (chvOutcome 3 (chvRun (begun s15b1) 3 (2 ^ 24) s15b2))) ∧
    (1 < 2 ∧ 2 ≠ 5 ∧ bit (regDesc s15b1 3).ctrl (if true = true then 1 else 0) = false ∧ bit (regDesc s15b1 3).ctrl
      (if true = true then 3 else 2) = false) ∧
    ((getChan s15b4 3).copy = none ∧ (getChan s15b4 3).due = none ∧ (getChan s15b4 3).dirty = false ∧ (chState s15b4
      3 = chRunning ∨ chState s15b4 3 = chStopping) ∧ (regDesc s15b4 3).count = 8 ∧ (regDesc s15b4 3).next = 0 ∧
      (regDesc s15b4 3).ctrl % 16 = 0 ∧ bits (regDesc s15b4 3).ctrl 22 2 = 0 ∧ chvClash s15b4 3 = false ∧ (getChan
      s15b4 3).kill = false ∧ WordReads s15b4 (chvWho s15b4 3) (regDesc s15b4 3).src ∧ WordOpen s15b4 (chvWho s15b4 3)
      (regDesc s15b4 3).dst ∧ isUe s15b4 ((regDesc s15b4 3).dst / 64) = false ∧ cqFull s15b4 3 = true) ∧
    ((getChan s15b5 3).copy = none ∧ (getChan s15b5 3).due = none ∧ (getChan s15b5 3).dirty = false ∧ (chState s15b5
      3 = chRunning ∨ chState s15b5 3 = chStopping) ∧ (2 = 2 ∧ bit (regDesc s15b5 3).ctrl (if false = true then 1 else
      0) = true ∧ false = false ∨ 2 = 3 ∧ bit (regDesc s15b5 3).ctrl (if false = true then 1 else 0) = true ∨ 2 = 4 ∧
      bit (regDesc s15b5 3).ctrl (if false = true then 3 else 2) = true) ∧ (regDesc s15b5 3).count ≠ 0 ∧ Unheld
      (burstFails (begun s15b5) 3 2 0 false s15b2)) := by
  refine ⟨?_, ?_, ?_, ?_⟩
  all_goals decide +kernel


/-! Chapter 16. -/
def s16a1 : State := liveS (hosting 1 [0])
def s16a3 : State := setMod (hosting 1 []) {(hosting 1 []).mod with linkUp := false}
def s16a5 : State := setMod (hosting 1 []) {(hosting 1 []).mod with linkUp := true, ready := false}
def s16a6 : State := shutting false (liveS hostS)
def s16a7 : Shutdown := (⟨0, [0,1], false, false⟩:Shutdown)
def s16a8 : State := withF (shutting true (liveS hostS)) [(.RST_PART_STATUS_RESETTING,0,1)]
def s16a9 : Shutdown := (⟨0, [0,1], false, true⟩:Shutdown)
def s16a10 : State := {shutting true (liveS hostS) with invals := [(0,0x5000,4096,9)]}
/-- Obligations.FunctionsShutDownAndAnswer: its clauses' hypotheses, clause by clause. -/
theorem wit_FunctionsShutDownAndAnswer :
    (s16a1.mod.linkUp = true ∧ s16a1.mod.ready = true ∧ (s16a1.shuts.any fun x => x.retry) = false ∧ funcExists
      s16a1 0 = true) ∧
    s16a3.mod.linkUp = false ∧
    (s16a5.mod.linkUp = true ∧ (s16a5.mod.ready = false ∨ (s16a5.shuts.any fun x => x.retry) = true)) ∧
    funcExists s16a1 9 = false ∧
    ((ConfigReq.linkStatus = ConfigReq.linkStatus ∧ linkStatus (liveS (hosting 1 [0])) = linkStatus s16a1 ∨
      ConfigReq.linkStatus = ConfigReq.aerStatus ∧ linkStatus (liveS (hosting 1 [0])) = (getFunc s16a1 0).aer)) ∧
    (List.find? (fun y => y.f == 0) s16a6.shuts = some s16a7 ∧ s16a7.resets = false) ∧
    (List.find? (fun y => y.f == 0) s16a8.shuts = some s16a9 ∧ s16a9.resets = true ∧ (∃ p ∈ s16a9.parts, fbit s16a8
      F.RST_PART_STATUS_RESETTING p = true)) ∧
    (List.find? (fun y => y.f == 0) s16a10.shuts = some s16a9 ∧ (∀ p ∈ s16a9.parts, fbit s16a10
      F.RST_PART_STATUS_RESETTING p = false) ∧ Unheld (shutFinish (begun s16a10) s16a9)) ∧
    ((0 = 0 ∨ 0 = 3)) ∧
    ((1 = 1 ∨ 1 = 2)) := by
  refine ⟨?_, ?_, ?_, ?_, ?_, ?_, ?_, ?_, ?_, ?_⟩
  all_goals decide +kernel


/-! Chapter 17. -/
def s17a1 : List Win := List.replicate 32 Win.none
def s17a2 : State := {base with winsNew := [(0, List.replicate 32 Win.none)], now := 77}
def s17a3 : State := powerIs (fun x => {x with spanNj := [(0,5000000)], runCycles := [(0,9)]}) base
/-- Obligations.WindowsCommitAndMetersLatch: its clauses' hypotheses, clause by clause. -/
theorem wit_WindowsCommitAndMetersLatch :
    winPending base 0 = false ∧
    winPending s17a2 0 = true ∧
    (List.find? (fun e => e.1 == 0) s17a2.winsNew = some (0, s17a1) ∧ s17a1.length = 32) ∧
    (isRegion 0 = true ∧ 0 < 64 ∧ fbit s17a3 F.PART_CTRL_CLASS = false ∧ SMap.get (fun x => 0) s17a3.power.spanNj 0
      = 5000000 ∧ 0 < SMap.get (fun x => 0) s17a3.power.runCycles (64 * 0 + 0) ∧ (∀ q < 64, q ≠ 0 → SMap.get (fun x =>
      0) s17a3.power.runCycles (64 * 0 + q) = 0)) ∧
    (∀ (e : Nat), e ≠ 0 → SMap.get (fun x => 0) s17a3.power.spanNj e = 0) ∧
    (∀ (q : Nat), SMap.get (fun x => 0) s17a3.power.partNj q < 1000000) := by
  refine ⟨?_, ?_, ?_, ?_, (fun e h => by show SMap.get (fun _ => 0) [(0, 5000000)] e = 0; simp [SMap.get]; exact fun h0 => absurd h0 h), (fun _ => (by decide : (0 : Nat) < 1000000))⟩
  all_goals decide +kernel


/-! Chapter 18. -/
def s18a1 : State := mailing 1 0 5000
def s18a2 : State := mailing 1 0 16
def s18a3 : State := mailing 0x10 0 16
def s18a4 : State := mailing 0x10 33556480 16
def s18a5 : State := mailing 0x11 0 0
def s18a6 : State := mailing 0x12 0 0
def s18a7 : State := mailing 0x20 0x1000 8
def s18a8 : State := mailing 0x20 0x1000 5000
def s18a10 : State := mailing 0x21 0x1000 8
def s18a11 : State := mailing 0x21 0x1000 5000
def s18a12 : State := modIs (fun m => {m with unwraps := [unwrap0]}) (mailing 2 0 0)
def s18a13 : List Unwrap := ([]:List Unwrap)
def s18a14 : State := modIs (fun m => {m with unwraps := [{unwrap0 with src := 2^48}]}) (mailing 2 0 0)
def s18a15 : Unwrap := {unwrap0 with src := 2^48}
def s18a16 : State := modIs (fun m => {m with unwraps := [{unwrap0 with begun := true, bytes := 8}]}) (mailing 2 0 0)
def s18a17 : Unwrap := {unwrap0 with begun := true, bytes := 8}
def s18a18 : State := modIs (fun m => {m with unwraps := [{unwrap0 with begun := true, bytes := 8, tagOk := true}]}) (mailing 2 0 0)
def s18a19 : Unwrap := {unwrap0 with begun := true, bytes := 8, tagOk := true}
def s18a20 : State := modIs (fun m => {m with unwraps := [{unwrap0 with begun := true, bytes := 8, tagOk := true, digestOk := true}]}) (mailing 2 0 0)
def s18a21 : Unwrap := {unwrap0 with begun := true, bytes := 8, tagOk := true, digestOk := true}
def s18a22 : State := put (modIs (fun m => {m with unwraps := [unwrap0]}) (mailing 2 0 0)) [(0x1000, leBytes 4 0x4C594257 ++ leBytes 2 1 ++ leBytes 2 1)]
/-- Obligations.MailboxCommandsEndWithTheirStatus: its clauses' hypotheses, clause by clause. -/
theorem wit_MailboxCommandsEndWithTheirStatus :
    (mbRuns s18a1 0 1 = true ∧ (mbLenOk (mbArg s18a1 0 1) = false ∨ Config.certChain.length ≤ mbArg s18a1 0 0)) ∧
    (mbRuns s18a3 0 16 = true ∧ mbLenOk (mbArg s18a3 0 1) = true ∧ mbArg s18a3 0 0 + mbArg s18a3 0 1 ≤ 2048 +
      33554432) ∧
    (mbRuns s18a4 0 16 = true ∧ (mbLenOk (mbArg s18a4 0 1) = false ∨ 2048 + 33554432 < mbArg s18a4 0 0 + mbArg s18a4
      0 1)) ∧
    (mbRuns s18a5 0 17 = true ∧ (s18a5.mod.unwraps.any fun x => x.begun) = false ∧ imageValid s18a5 (1 - runBank
      s18a5) = false) ∧
    mbRuns s18a6 0 18 = true ∧
    (mbRuns s18a7 0 32 = true ∧ mbArg s18a7 0 1 = 8 ∧ (mbArg s18a7 0 0 % 8 = 0 ∧ mbArg s18a7 0 0 < 1099511627776 ∧
      mbArg s18a7 0 0 % sliceBytes < ctlOff ∧ scrubbing s18a7 (mbArg s18a7 0 0 / sliceBytes) = false ∧ isUe s18a7
      (mbArg s18a7 0 0 / 64) = false)) ∧
    (mbRuns s18a8 0 32 = true ∧ (mbLenOk (mbArg s18a8 0 1) = false ∨ 2 ^ 48 < mbArg s18a8 0 0 + mbArg s18a8 0 1)) ∧
    (mbRuns s18a10 0 33 = true ∧ mbArg s18a10 0 1 = 8 ∧ (mbArg s18a10 0 0 % 8 = 0 ∧ mbArg s18a10 0 0 < 1099511627776
      ∧ mbArg s18a10 0 0 % sliceBytes < ctlOff ∧ scrubbing s18a10 (mbArg s18a10 0 0 / sliceBytes) = false ∧ isUe
      s18a10 (mbArg s18a10 0 0 / 64) = false) ∧ s18a10.declares = []) ∧
    (mbRuns s18a11 0 33 = true ∧ (mbLenOk (mbArg s18a11 0 1) = false ∨ 2 ^ 48 < mbArg s18a11 0 0 + mbArg s18a11 0
      1)) ∧
    (s18a12.mod.unwraps = unwrap0 :: s18a13 ∧ unwrap0.f = 0 ∧ unwrap0.begun = false ∧ unwrap0.src < 2 ^ 48 ∧
      unwrap0.dst < 2 ^ 48 ∧ headerOk (heldRead (begun s18a12) (fuaneWho unwrap0.part false) hFuane unwrap0.src
      128).2.1 = false ∧ Unheld (heldRead (begun s18a12) (fuaneWho unwrap0.part false) hFuane unwrap0.src 128).1) ∧
    (s18a14.mod.unwraps = s18a15 :: s18a13 ∧ s18a15.f = 0 ∧ s18a15.begun = false ∧ (2 ^ 48 ≤ s18a15.src ∨ 2 ^ 48 ≤
      s18a15.dst)) ∧
    (s18a16.mod.unwraps = s18a17 :: s18a13 ∧ s18a17.f = 0 ∧ s18a17.begun = true ∧ s18a17.dst + s18a17.bytes ≤
      regBase ∧ s18a17.tagOk = false ∧ Unheld (heldWrite (unwrapPop (begun s18a16)) (fuaneWho s18a17.part false)
      hFuane s18a17.dst (List.replicate s18a17.bytes 0))) ∧
    (s18a18.mod.unwraps = s18a19 :: s18a13 ∧ s18a19.f = 0 ∧ s18a19.begun = true ∧ s18a19.dst + s18a19.bytes ≤
      regBase ∧ s18a19.tagOk = true ∧ s18a19.digestOk = false ∧ Unheld (heldWrite (unwrapPop (begun s18a18)) (fuaneWho
      s18a19.part false) hFuane s18a19.dst (List.replicate s18a19.bytes 0))) ∧
    (s18a20.mod.unwraps = s18a21 :: s18a13 ∧ s18a21.f = 0 ∧ s18a21.begun = true ∧ s18a21.dst + s18a21.bytes ≤
      regBase ∧ s18a21.tagOk = true ∧ s18a21.digestOk = true) ∧
    (s18a22.mod.unwraps = unwrap0 :: s18a13 ∧ headerOk (heldRead (begun s18a22) (fuaneWho unwrap0.part false) hFuane
      unwrap0.src 128).2.1 = true ∧ Unheld (heldRead (heldRead (begun s18a22) (fuaneWho unwrap0.part false) hFuane
      unwrap0.src 128).1 (fuaneWho unwrap0.part false) hFuane unwrap0.src (128 + 576 * fieldAt (heldRead (begun
      s18a22) (fuaneWho unwrap0.part false) hFuane unwrap0.src 128).2.1 6 2)).1) ∧
    ((mbRuns s18a2 0 1 = true ∧ mbLenOk (mbArg s18a2 0 1) = true)) := by
  refine ⟨?_, ?_, ?_, ?_, ?_, ?_, ?_, ?_, ?_, ?_, ?_, ?_, ?_, ?_, ?_, ?_⟩
  all_goals decide +kernel

def s18b1 : List Byte := ([]:List Byte)
def s18b2 : List Byte := ([0x10,0x84,0,0]:List Byte)
def s18b3 : State := modIs (fun m => {m with spdmState := [(65,1)]}) base
def s18b4 : List Byte := ([0x13,0xE1,0,0]:List Byte)
def s18b5 : State := modIs (fun m => {m with spdmState := [(65,2)]}) base
def s18b6 : List Byte := ([0x13,0xE3,0,0] ++ zeros 28:List Byte)
def s18b7 : State := modIs (fun m => {m with spdmState := [(65,3)]}) base
def s18b8 : List Byte := ([0x13,0x81,0,0]:List Byte)
def s18b10 : List Byte := ([0x13,0x83,0,0]++zeros 40:List Byte)
def s18b11 : List Byte := ([0x13,0xE0,1,0xFF]++zeros 41:List Byte)
def s18b12 : List Byte := ([0x13,0xE0,0,3]++zeros 8:List Byte)
/-- Obligations.EndpointsAnswerAttestationRequests: its clauses' hypotheses, clause by clause. -/
theorem wit_EndpointsAnswerAttestationRequests :
    (endpointOn base 65 = true ∧ (s18b1.length < 4 ∨ fieldAt s18b1 0 2 ≠ 33808)) ∧
    spdmCheck base 65 s18b1 225 4 1 = some 1 ∧
    spdmCheck base 65 s18b1 227 32 2 = some 1 ∧
    spdmCheck base 65 s18b1 129 4 3 = some 1 ∧
    spdmCheck base 65 s18b1 130 8 3 = some 1 ∧
    spdmCheck base 65 s18b1 131 44 3 = some 1 ∧
    spdmCheck base 65 s18b1 224 (if bit (fieldAt s18b1 2 1) 0 = true then 45 else 12) 3 = some 1 ∧
    (4 ≤ s18b2.length ∧ fieldAt s18b2 0 2 = 33808) ∧
    (endpointOn s18b3 65 = true ∧ spdmCheck s18b3 65 s18b4 225 4 1 = none) ∧
    (endpointOn s18b5 65 = true ∧ spdmCheck s18b5 65 s18b6 227 32 2 = none) ∧
    (endpointOn s18b7 65 = true ∧ spdmCheck s18b7 65 s18b8 129 4 3 = none) ∧
    (spdmCheck s18b7 65 s18b10 131 44 3 = none ∧ fieldAt s18b10 2 1 = 0 ∧ (fieldAt s18b10 3 1 = 0 ∨ fieldAt s18b10 3
      1 = 1 ∨ fieldAt s18b10 3 1 = 255)) ∧
    (spdmCheck s18b7 65 s18b11 224 (if bit (fieldAt s18b11 2 1) 0 = true then 45 else 12) 3 = none ∧ bit (fieldAt
      s18b11 2 1) 0 = true ∧ fieldAt s18b11 36 1 % 16 = 0 ∧ fieldAt s18b11 3 1 = 255) ∧
    (spdmCheck s18b7 65 s18b12 224 (if bit (fieldAt s18b12 2 1) 0 = true then 45 else 12) 3 = none ∧ bit (fieldAt
      s18b12 2 1) 0 = false ∧ fieldAt s18b12 3 1 ∈ visible 65 ∧ fieldAt s18b12 3 1 ≠ 255 ∧ fieldAt s18b12 3 1 ≠ 0) := by
  refine ⟨?_, ?_, ?_, ?_, ?_, ?_, ?_, ?_, ?_, ?_, ?_, ?_, ?_, ?_⟩
  all_goals decide +kernel


/-! Chapter 19. -/
def s19a1 : List Nat := List.replicate 96 (5:Nat)
def s19a2 : State := powerIs (fun x => {x with samples := 100, eSum := 4000000000, mSum := 3999000000}) base
/-- Obligations.PowerIsMeasuredAndShared: its clauses' hypotheses, clause by clause. -/
theorem wit_PowerIsMeasuredAndShared :
    s19a1.length = 96 ∧
    base.power.samples = 0 ∧
    ((3 < 1200 ∨ 3400 < 3)) ∧
    s19a2.power.samples ≠ 0 ∧
    (1200 ≤ 2000 ∧ 2000 ≤ 3400) := by
  refine ⟨?_, ?_, ?_, ?_, ?_⟩
  all_goals decide +kernel

def s19b1 : State := powerIs (fun x => {x with grants := [⟨0,1,300,2,5⟩]}) liveCons
def s19b2 : Grant := (⟨0,1,300,2,5⟩:Grant)
def s19b3 : State := consIs (fun c => {c with starve := some 0, prefillAt := some 0, prefill := 500}) {liveCons with now := 200000000}
/-- Obligations.GrantsFitWhatAConsistMayDraw: its clauses' hypotheses, clause by clause. -/
theorem wit_GrantsFitWhatAConsistMayDraw :
    fget base F.COMP_CONSIST_ID_STATE = 0 ∧
    List.find? (fun g => g.slot == 0) base.power.grants = none ∧
    (fget liveCons F.COMP_CONSIST_ID_STATE ≠ 0 ∧ 0 ≠ 3 ∧ availableTo liveCons 0 < expectedDraw liveCons 0 0 (3 %
      256) (stepLevel liveCons 0)) ∧
    expectedDraw liveCons 0 0 (0 % 256) (stepLevel liveCons 0) ≤ availableTo liveCons 0 ∧
    3 = 3 ∧
    List.find? (fun g => g.slot == 0) s19b1.power.grants = some s19b2 ∧
    ((getCons s19b3 0).starve = some 0 ∧ 1000000 * fget s19b3 F.PWR_GRANT_CFG_STARVE_MS ≤ s19b3.now - 0) ∧
    ((getCons s19b3 0).prefillAt = some 0 ∧ 100000000 ≤ s19b3.now - 0) := by
  refine ⟨?_, ?_, ?_, ?_, ?_, ?_, ?_, ?_⟩
  all_goals decide +kernel

def s19c1 : List Nat := [(3:Nat)]
def s19c2 : State := withF (consIs (fun c => {c with mine := 7}) liveCons) [(.BLY_DEVICE_DEVNUM,0,5)]
def s19c3 : State := consIs (fun c => {c with reports := [(3,2,7),(0,1,1)]}) liveCons
def s19c5 : State := consIs (fun c => {c with next := some (3,0)}) liveCons
def s19c6 : State := consIs (fun c => {c with next := some (3,9)}) liveCons
def s19c9 : List Nat := (List.range 96).map (fun d => 60 + d % 50)
def s19c12 : List Nat := (List.range 96).map (fun d => 60 + d % 90)
/-- Obligations.LevelsAreAgreedAndHeatActs: its clauses' hypotheses, clause by clause. -/
theorem wit_LevelsAreAgreedAndHeatActs :
    (fget liveCons F.COMP_CONSIST_ID_STATE ≠ 0 ∧ allowedLevel liveCons 0 = (getCons liveCons 0).mine) ∧
    (1 ≠ devNum liveCons ∧ levelLead liveCons 0 s19c1 = devNum liveCons) ∧
    (fget s19c2 F.COMP_CONSIST_ID_STATE ≠ 0 ∧ allowedLevel s19c2 0 ≠ (getCons s19c2 0).mine ∧ levelLead s19c2 0
      s19c1 ≠ devNum s19c2) ∧
    (fget s19c3 F.COMP_CONSIST_ID_STATE ≠ 0 ∧ levelLead s19c3 0 s19c1 = devNum s19c3 ∧ (getCons s19c3 0).reports ≠
      [] ∧ (match (getCons s19c3 0).next with | some x => x.1 | none => (getCons s19c3 0).agreed) ≠ List.foldl (fun l
      r => max l r.2.1) 0 (getCons s19c3 0).reports) ∧
    (fget s19c5 F.COMP_CONSIST_ID_STATE ≠ 0 ∧ (getCons s19c5 0).next = some (3, 0) ∧ 0 ≤ consStep s19c5 0 + 1 ∧ (∀ r
      ∈ consRegions s19c5 0, SMap.get (fun x => false) s19c5.power.droop r = false)) ∧
    (fget s19c6 F.COMP_CONSIST_ID_STATE ≠ 0 ∧ (getCons s19c6 0).next = some (3, 9) ∧ (consStep s19c6 0 + 1 < 9 ∨ ∃ r
      ∈ consRegions s19c6 0, SMap.get (fun x => false) s19c6.power.droop r = true)) ∧
    (isRegion 0 = true ∧ (fun u => SMap.get (fun x => false) u.power.droop 0) base = false) ∧
    ((isRegion 80 = false ∨ (fun u => SMap.get (fun x => false) u.power.droop 80) base = true)) ∧
    (s19c9.length = 96 ∧ (∀ t ∈ s19c9, t < 256) ∧ (∀ t ∈ s19c9, t < 115)) ∧
    (s19c12.length = 96 ∧ (∀ t ∈ s19c12, t < 256) ∧ (∃ t ∈ s19c12, 115 ≤ t) ∧ fbit base F.PWR_EVENTS_TRIP = false) := by
  refine ⟨?_, ?_, ?_, ?_, ?_, ?_, ?_, ?_, ?_, ?_⟩
  all_goals decide +kernel

def s19d3 : State := withF State.reset [(.PWR_DOM_STATUS_STATE,0,1)]
def s19d4 : State := withF State.reset [(.PWR_DOM_STATUS_STATE,0,2)]
def s19d6 : State := powerIs (fun x => {x with waking := [(0,true)]}) (withF State.reset [(.PWR_DOM_STATUS_STATE,0,2)])
def s19d7 : State := withF State.reset [(.PWR_DOM_STATUS_STATE,0,0),(.PWR_DOM_CTRL_OFF_REQ,0,1)]
def s19d8 : State := {modIs (fun m => {m with started := true}) (withF State.reset [(.PWR_DOM_STATUS_STATE,0,domOff)]) with mem := [(5,1),(stnAddr 0 9, 7)]}
/-- Obligations.DomainsSleepWakeAndLosePower: its clauses' hypotheses, clause by clause. -/
theorem wit_DomainsSleepWakeAndLosePower :
    (mayIdle 0 = true ∧ domState base 0 = 0 ∧ fbit base F.PWR_DOM_CTRL_HOLD_ON = false ∧ mayLeave base (kvgBusy
      base) 0 = true) ∧
    ((mayNap 0 = false ∨ (¬domState base 0 = if mayIdle 0 = true then 1 else 0) ∨ fbit base F.PWR_DOM_CTRL_HOLD_ON =
      true ∨ mayLeave base (kvgBusy base) 0 = false ∨ ¬(fget base F.PWR_SLEEP_CFG_NAP_DELAY ≤ 0 ∨ idleHint base 0 200
      = true))) ∧
    ((mayDeep 0 = false ∨ domState base 0 ≠ 2 ∨ fbit base F.PWR_DOM_CTRL_HOLD_ON = true ∨ mayLeave base (kvgBusy
      base) 0 = false ∨ ¬(10 * fget base F.PWR_SLEEP_CFG_DEEP_DELAY ≤ 0 ∨ idleHint base 0 2000 = true ∨ fget base
      F.COMP_ROLE_ROLE = 1))) ∧
    ((¬(domState base 0 = 1 ∨ domState base 0 = 2 ∨ domState base 0 = 3))) ∧
    waking base 0 = false ∧
    ((fbit base F.PWR_DOM_CTRL_OFF_REQ = false ∨ mayOff base 0 = false ∨ domState base 0 = domOff)) ∧
    ((isRegion 0 = false ∨ domState base 0 ≠ domOff ∨ base.mod.started = false ∨ fbit base F.PWR_EVENTS_TRIP = true
      ∨ restoreDue base 0 = false)) ∧
    isRegion 0 = true ∧
    ((mayIdle 0 = false ∨ domState State.reset 0 ≠ 0 ∨ fbit State.reset F.PWR_DOM_CTRL_HOLD_ON = true ∨ mayLeave
      State.reset (kvgBusy State.reset) 0 = false)) ∧
    isRegion 64 = false ∧
    (mayNap 0 = true ∧ (domState s19d3 0 = if mayIdle 0 = true then 1 else 0) ∧ fbit s19d3 F.PWR_DOM_CTRL_HOLD_ON =
      false ∧ mayLeave s19d3 (kvgBusy s19d3) 0 = true ∧ (fget s19d3 F.PWR_SLEEP_CFG_NAP_DELAY ≤ 100 ∨ idleHint s19d3 0
      200 = true)) ∧
    ((domState s19d3 0 = 1 ∨ domState s19d3 0 = 2 ∨ domState s19d3 0 = 3)) ∧
    (mayDeep 0 = true ∧ domState s19d4 0 = 2 ∧ fbit s19d4 F.PWR_DOM_CTRL_HOLD_ON = false ∧ mayLeave s19d4 (kvgBusy
      s19d4) 0 = true ∧ (10 * fget s19d4 F.PWR_SLEEP_CFG_DEEP_DELAY ≤ 1000 ∨ idleHint s19d4 0 2000 = true ∨ fget s19d4
      F.COMP_ROLE_ROLE = 1)) ∧
    (waking s19d6 0 = true ∧ s19d6.heldAcc = []) ∧
    (fbit s19d7 F.PWR_DOM_CTRL_OFF_REQ = true ∧ mayOff s19d7 0 = true ∧ domState s19d7 0 ≠ domOff ∧ s19d7.heldAcc =
      []) ∧
    (domState s19d8 0 = domOff ∧ s19d8.mod.started = true ∧ fbit s19d8 F.PWR_EVENTS_TRIP = false ∧ restoreDue s19d8
      0 = true) := by
  refine ⟨?_, ?_, ?_, ?_, ?_, ?_, ?_, ?_, ?_, ?_, ?_, ?_, ?_, ?_, ?_, ?_⟩
  all_goals decide +kernel


/-! Chapter 20. -/
def s20a1 : State := rstIs (fun r => {r with stns := [⟨0,1,0,0,false,false⟩]}) base
def s20a2 : State := rstIs (fun r => {r with stnLast := [(0,some 0)]}) {base with now := 5}
def s20a3 : State := withF base [(.RST_PART_STATUS_RESETTING,0,1)]
def s20a4 : State := rstIs (fun r => {r with dev := some (1,true)}) base
def s20a7 : State := {withF base [(.CND_STATUS_STATE,0,cndRunning),(.CND_STATUS_OPER,0,1)] with now := 90000000}
def s20a8 : State := {withF base [(.CND_STATUS_STATE,0,cndRunning),(.CND_STATUS_OPER,0,0)] with now := 90000000}
def s20a12 : State := {base with troubles := [⟨some 0, false, .meshUe⟩]}
def s20a13 : TroubleEv := (⟨some 0, false, .meshUe⟩:TroubleEv)
def s20a14 : List TroubleEv := ([]:List TroubleEv)
def s20a21 : State := routedS 1
def s20a22 : Route := ({route0 with ring := 1}:Route)
def s20a30 : State := rstIs (fun r => {r with dev := some (1,true)}) {withF base [(.CND_STATUS_STATE,0,cndRunning),(.CND_STATUS_OPER,0,1)] with now := 90000000}
def s20a31 : State := {withF base [(.CND_STATUS_STATE,0,cndRunning),(.CND_STATUS_OPER,0,0),(.RST_PART_STATUS_RESETTING,0,1)] with now := 90000000}
def s20a33 : State := watching .kvg 0 (kvS (kvBytes 1 0 0 4 0x1000))
def s20a34 : State := resetting (watching .kvg 0 (kvS (kvBytes 1 0 0 4 0x1000)))
def s20a35 : State := soonAgain (watching .kvg 0 (kvS (kvBytes 1 0 0 4 0x1000)))
def s20a36 : State := watching .stop 0 ({base with heldAcc := [(0, ⟨who0, 0, .read 4, false, false⟩)]})
def s20a37 : State := resetting (watching .stop 0 ({base with heldAcc := [(0, ⟨who0, 0, .read 4, false, false⟩)]}))
def s20a38 : State := soonAgain (watching .stop 0 ({base with heldAcc := [(0, ⟨who0, 0, .read 4, false, false⟩)]}))
def s20a39 : State := watching .core 0 (withF base [(.SAGE_STATUS_STATE,0,stRunning)])
def s20a40 : State := resetting (watching .core 0 (withF base [(.SAGE_STATUS_STATE,0,stRunning)]))
def s20a41 : State := soonAgain (watching .core 0 (withF base [(.SAGE_STATUS_STATE,0,stRunning)]))
def s20a42 : State := watching .load 0 (withF base [(.SAGE_STATUS_STATE,0,stLoading)])
def s20a43 : State := resetting (watching .load 0 (withF base [(.SAGE_STATUS_STATE,0,stLoading)]))
def s20a44 : State := soonAgain (watching .load 0 (withF base [(.SAGE_STATUS_STATE,0,stLoading)]))
def s20a45 : State := watching .branch 0 (blS buildC 0)
def s20a47 : State := watching .channel 3 (chanS 1 [])
def s20a48 : State := withF (watching .channel 3 (chanS 1 [])) [(.RST_PART_STATUS_RESETTING,0,1)]
def s20a51 : State := {routedS 1 with now := 10 ^ 11}
def s20a52 : State := withF ({routedS 1 with now := 10 ^ 11}) [(.RST_PART_STATUS_RESETTING,0,1)]
theorem soon_of {a b : Option Nat} {n m : Nat} (h : (a.isSome && b.any (fun t => decide (n < t + m))) = true) :
    ∃ p t0, a = some p ∧ b = some t0 ∧ n < t0 + m := by
  cases a <;> cases b <;> simp_all
theorem not_soon {a b : Option Nat} {n m : Nat} (h : (a.isSome && b.any (fun t => decide (n < t + m))) = false) :
    ¬∃ p t0, a = some p ∧ b = some t0 ∧ n < t0 + m := by
  rintro ⟨p, t0, rfl, rfl, hn⟩
  simp_all
/-- Obligations.ResetsBeginForTheirCauses: its clauses' hypotheses, clause by clause. -/
theorem wit_ResetsBeginForTheirCauses :
    inReset base 0 = false ∧
    boundTo base 0 = some 0 ∧
    boundTo base 0 ≠ some 5 ∧
    stuck base Detector.kvg 0 (fget base F.RST_HANG_CFG_KVG_MS) = false ∧
    stuck base Detector.stop 0 2 = false ∧
    fbit base F.RST_PART_STATUS_RESETTING = false ∧
    base.rst.dev = none ∧
    stuck base Detector.core 0 (fget base F.RST_HANG_CFG_CORE_MS) = false ∧
    stuck base Detector.load 0 1 = false ∧
    ((¬((cndState base 0 = cndRunning ∨ cndState base 0 = cndWaiting) ∧ SMap.get (fun x => 0) base.rst.kicks 0 +
      fget base F.RST_HANG_CFG_CND_MS * 1000000 ≤ base.now))) ∧
    stuck base Detector.branch 0 10 = false ∧
    ((stuck base Detector.channel 0 10 = false ∨ fbit base F.CHV_CH_OWNER_VALID = false ∨ fbit base
      F.CHV_CH_OWNER_OPER = true)) ∧
    base.troubles = [] ∧
    inReset s20a1 0 = true ∧
    boundTo s20a1 0 = some 0 ∧
    (inReset s20a2 0 = false ∧ boundTo s20a2 0 = some 0) ∧
    fbit s20a3 F.RST_PART_STATUS_RESETTING = true ∧
    s20a4.rst.dev ≠ none ∧
    (((cndState s20a7 0 = cndRunning ∨ cndState s20a7 0 = cndWaiting) ∧ SMap.get (fun x => 0) s20a7.rst.kicks 0 +
      fget s20a7 F.RST_HANG_CFG_CND_MS * 1000000 ≤ s20a7.now) ∧ fbit s20a7 F.CND_STATUS_OPER = true ∧ s20a7.rst.dev =
      none) ∧
    (((cndState s20a8 0 = cndRunning ∨ cndState s20a8 0 = cndWaiting) ∧ SMap.get (fun x => 0) s20a8.rst.kicks 0 +
      fget s20a8 F.RST_HANG_CFG_CND_MS * 1000000 ≤ s20a8.now) ∧ fbit s20a8 F.CND_STATUS_OPER = false ∧ fbit s20a8
      F.RST_PART_STATUS_RESETTING (fget s20a8 F.CND_STATUS_PART) = false) ∧
    s20a12.troubles = s20a13 :: s20a14 ∧
    (s20a21.routes[0]? = some s20a22 ∧ s20a21.now < s20a22.since + 1000 * fget s20a21 F.PTS_TIMEOUT_MICROSECONDS
      s20a22.die + 10000000) ∧
    (((cndState s20a30 0 = cndRunning ∨ cndState s20a30 0 = cndWaiting) ∧ SMap.get (fun x => 0) s20a30.rst.kicks 0 +
      fget s20a30 F.RST_HANG_CFG_CND_MS * 1000000 ≤ s20a30.now) ∧ fbit s20a30 F.CND_STATUS_OPER = true ∧
      s20a30.rst.dev ≠ none) ∧
    (((cndState s20a31 0 = cndRunning ∨ cndState s20a31 0 = cndWaiting) ∧ SMap.get (fun x => 0) s20a31.rst.kicks 0 +
      fget s20a31 F.RST_HANG_CFG_CND_MS * 1000000 ≤ s20a31.now) ∧ fbit s20a31 F.CND_STATUS_OPER = false ∧ fbit s20a31
      F.RST_PART_STATUS_RESETTING (fget s20a31 F.CND_STATUS_PART) = true) ∧
    (stuck s20a33 Detector.kvg 0 (fget s20a33 F.RST_HANG_CFG_KVG_MS) = true ∧ inReset s20a33 0 = false) ∧
    (stuck s20a34 Detector.kvg 0 (fget s20a34 F.RST_HANG_CFG_KVG_MS) = true ∧ inReset s20a34 0 = true) ∧
    (stuck s20a35 Detector.kvg 0 (fget s20a35 F.RST_HANG_CFG_KVG_MS) = true ∧ inReset s20a35 0 = false ∧ boundTo
      s20a35 0 = some 0) ∧
    (stuck s20a36 Detector.stop 0 2 = true ∧ inReset s20a36 0 = false) ∧
    (stuck s20a37 Detector.stop 0 2 = true ∧ inReset s20a37 0 = true) ∧
    (stuck s20a38 Detector.stop 0 2 = true ∧ inReset s20a38 0 = false ∧ boundTo s20a38 0 = some 0) ∧
    (stuck s20a39 Detector.core 0 (fget s20a39 F.RST_HANG_CFG_CORE_MS) = true ∧ inReset s20a39 (0 / 6) = false) ∧
    (stuck s20a40 Detector.core 0 (fget s20a40 F.RST_HANG_CFG_CORE_MS) = true ∧ inReset s20a40 (0 / 6) = true) ∧
    (stuck s20a41 Detector.core 0 (fget s20a41 F.RST_HANG_CFG_CORE_MS) = true ∧ inReset s20a41 (0 / 6) = false ∧
      boundTo s20a41 (0 / 6) = some 0) ∧
    (stuck s20a42 Detector.load 0 1 = true ∧ inReset s20a42 (0 / 6) = false) ∧
    (stuck s20a43 Detector.load 0 1 = true ∧ inReset s20a43 (0 / 6) = true) ∧
    (stuck s20a44 Detector.load 0 1 = true ∧ inReset s20a44 (0 / 6) = false ∧ boundTo s20a44 (0 / 6) = some 0) ∧
    (stuck s20a45 Detector.branch 0 10 = true ∧ fbit s20a45 F.RST_PART_STATUS_RESETTING = false) ∧
    (stuck s20a47 Detector.channel 3 10 = true ∧ fbit s20a47 F.CHV_CH_OWNER_VALID 3 = true ∧ fbit s20a47
      F.CHV_CH_OWNER_OPER 3 = false ∧ fbit s20a47 F.RST_PART_STATUS_RESETTING (chPart s20a47 3) = false) ∧
    (stuck s20a48 Detector.channel 3 10 = true ∧ fbit s20a48 F.CHV_CH_OWNER_VALID 3 = true ∧ fbit s20a48
      F.CHV_CH_OWNER_OPER 3 = false ∧ fbit s20a48 F.RST_PART_STATUS_RESETTING (chPart s20a48 3) = true) ∧
    (s20a51.routes[0]? = some s20a22 ∧ s20a22.since + 1000 * fget s20a51 F.PTS_TIMEOUT_MICROSECONDS s20a22.die +
      10000000 ≤ s20a51.now ∧ fbit s20a51 F.RST_PART_STATUS_RESETTING s20a22.part = false) ∧
    (s20a52.routes[0]? = some s20a22 ∧ s20a22.since + 1000 * fget s20a52 F.PTS_TIMEOUT_MICROSECONDS s20a22.die +
      10000000 ≤ s20a52.now ∧ fbit s20a52 F.RST_PART_STATUS_RESETTING s20a22.part = true) ∧
    inReset s20a2 0 = false ∧
    (¬∃ p t0, boundTo base 0 = some p ∧ SMap.get (fun x => none) base.rst.stnLast 0 = some t0 ∧ base.now < t0 +
      1000000000) ∧
    (∃ p t0, boundTo s20a2 0 = some p ∧ SMap.get (fun x => none) s20a2.rst.stnLast 0 = some t0 ∧ s20a2.now < t0 +
      1000000000) ∧
    (¬∃ p t0, boundTo s20a33 0 = some p ∧ SMap.get (fun x => none) s20a33.rst.stnLast 0 = some t0 ∧ s20a33.now < t0
      + 1000000000) ∧
    (∃ p t0, boundTo s20a35 0 = some p ∧ SMap.get (fun x => none) s20a35.rst.stnLast 0 = some t0 ∧ s20a35.now < t0 +
      1000000000) ∧
    (¬∃ p t0, boundTo s20a36 0 = some p ∧ SMap.get (fun x => none) s20a36.rst.stnLast 0 = some t0 ∧ s20a36.now < t0
      + 1000000000) ∧
    (∃ p t0, boundTo s20a38 0 = some p ∧ SMap.get (fun x => none) s20a38.rst.stnLast 0 = some t0 ∧ s20a38.now < t0 +
      1000000000) ∧
    (¬∃ p t0, boundTo s20a39 (0 / 6) = some p ∧ SMap.get (fun x => none) s20a39.rst.stnLast (0 / 6) = some t0 ∧
      s20a39.now < t0 + 1000000000) ∧
    (∃ p t0, boundTo s20a41 (0 / 6) = some p ∧ SMap.get (fun x => none) s20a41.rst.stnLast (0 / 6) = some t0 ∧
      s20a41.now < t0 + 1000000000) ∧
    (¬∃ p t0, boundTo s20a42 (0 / 6) = some p ∧ SMap.get (fun x => none) s20a42.rst.stnLast (0 / 6) = some t0 ∧
      s20a42.now < t0 + 1000000000) ∧
    (∃ p t0, boundTo s20a44 (0 / 6) = some p ∧ SMap.get (fun x => none) s20a44.rst.stnLast (0 / 6) = some t0 ∧
      s20a44.now < t0 + 1000000000) := by
  refine ⟨?_, ?_, ?_, ?_, ?_, ?_, ?_, ?_, ?_, ?_, ?_, ?_, ?_, ?_, ?_, ?_, ?_, ?_, ?_, ?_, ?_, ?_, ?_, ?_, ?_, ?_, ?_, ?_, ?_, ?_, ?_, ?_, ?_, ?_, ?_, ?_, ?_, ?_, ?_, ?_, ?_, ?_, (not_soon (by decide +kernel)), (soon_of (by decide +kernel)), (not_soon (by decide +kernel)), (soon_of (by decide +kernel)), (not_soon (by decide +kernel)), (soon_of (by decide +kernel)), (not_soon (by decide +kernel)), (soon_of (by decide +kernel)), (not_soon (by decide +kernel)), (soon_of (by decide +kernel))⟩
  all_goals decide +kernel

def s20b1 : State := rstIs (fun r => {r with stns := [⟨0,1,0,0,false,false⟩]}) {coreS [0] id with now := 5}
def s20b2 : StnJob := (⟨0,1,0,0,false,false⟩:StnJob)
def s20b5 : State := rstIs (fun r => {r with parts := [⟨0,1,true,false,false,false,[]⟩]}) (withF base ((.CND_STATUS_STATE,0,cndSwitching) :: (List.range 64).map (fun p => (.RST_PART_STATUS_RESETTING,p,1))))
def s20b6 : PartJob := (⟨0,1,true,false,false,false,[]⟩:PartJob)
def s20b10 : State := rstIs (fun r => {r with stns := [⟨0,1,1,0,false,true⟩], parts := [⟨0,1,true,false,false,false,[]⟩]}) base
def s20b11 : State := withF base [(.RST_STATUS_DEV_OUT,0,1),(.RST_PART_STATUS_OUT,0,1)]
/-- Obligations.ResetsEndAndEscalate: its clauses' hypotheses, clause by clause. -/
theorem wit_ResetsEndAndEscalate :
    inReset base 0 = false ∧
    cndState base 0 ≠ cndSwitching ∧
    ((∀ j ∈ base.rst.parts, j.part ≠ 0)) ∧
    fbit base F.RST_STATUS_DEV_OUT = false ∧
    (List.find? (fun j => j.stn == 0) s20b1.rst.stns = some s20b2 ∧ Unheld (stnDrain (begun s20b1) s20b2 0 0)) ∧
    boundTo s20b1 0 = some 0 ∧
    (cndState s20b5 0 = cndSwitching ∧ fbit s20b5 F.CND_STATUS_OPER = false ∧ (s20b5.rst.parts.any fun j => j.part
      == fget s20b5 F.CND_STATUS_PART) = true) ∧
    (List.find? (fun j => j.part == 0) s20b5.rst.parts = some s20b6 ∧ s20b6.device = false ∧ s20b5.rst.dev = none ∧
      Unheld (partEscalate (begun s20b5) s20b6)) ∧
    ((s20b5.rst.stns.any fun x => boundTo s20b5 x.stn == some 0) = false ∧ Unheld (partDone (begun s20b5) s20b6
      false 0)) ∧
    (List.find? (fun j => j.part == 0) s20b10.rst.parts = some s20b6 ∧ (s20b10.rst.stns.any fun x => boundTo s20b10
      x.stn == some 0) = true) ∧
    fbit s20b11 F.RST_STATUS_DEV_OUT = true := by
  refine ⟨?_, ?_, ?_, ?_, ?_, ?_, ?_, ?_, ?_, ?_, ?_⟩
  all_goals decide +kernel


/-! Chapter 21. -/
def s21a1 : State := modIs (fun m => {m with en := true}) State.reset
def s21a2 : State := modIs (fun m => {m with input := true}) State.reset
def s21a3 : State := modIs (fun m => {m with input := true, en := true}) State.reset
def s21a4 : State := modIs (fun m => {m with supply := .ramping}) State.reset
def s21a6 : State := modIs (fun m => {m with supply := .good, off := .noInput, perst := true, input := true, en := true}) base
/-- Obligations.ModuleInputsRailsAndResetsAct: its clauses' hypotheses, clause by clause. -/
theorem wit_ModuleInputsRailsAndResetsAct :
    ((s21a1.mod.supply = Supply.off ∧ s21a1.mod.off ≠ OffCause.trip ∧ s21a1.mod.off ≠ OffCause.railShort ∧
      s21a1.mod.off ≠ OffCause.latched) ∧ (¬(s21a1.mod.off = OffCause.underVolt ∨ s21a1.mod.off = OffCause.overVolt))
      ∧ s21a1.mod.en = true ∧ s21a1.mod.mreset = false) ∧
    ((s21a2.mod.supply = Supply.off ∧ s21a2.mod.off ≠ OffCause.trip ∧ s21a2.mod.off ≠ OffCause.railShort ∧
      s21a2.mod.off ≠ OffCause.latched) ∧ (¬(s21a2.mod.off = OffCause.underVolt ∨ s21a2.mod.off = OffCause.overVolt))
      ∧ s21a2.mod.input = true ∧ s21a2.mod.mreset = false) ∧
    ((s21a3.mod.supply = Supply.off ∧ s21a3.mod.off ≠ OffCause.trip ∧ s21a3.mod.off ≠ OffCause.railShort ∧
      s21a3.mod.off ≠ OffCause.latched) ∧ s21a3.mod.input = true ∧ s21a3.mod.en = true) ∧
    s21a4.mod.supply = Supply.ramping ∧
    mgmtUp s21a4 = true ∧
    (s21a6.mod.supply ≠ Supply.off ∧ 60000 ≤ 63000 ∧ 63000 < 66000) ∧
    (mgmtUp s21a6 = true ∧ 112 = 112) ∧
    7 ≠ 112 ∧
    (s21a6.mod.supply = Supply.good ∧ fbit s21a6 F.PWR_EVENTS_TRIP = false ∧ s21a6.mod.railFault = false) := by
  refine ⟨?_, ?_, ?_, ?_, ?_, ?_, ?_, ?_, ?_⟩
  all_goals decide +kernel

def s21b1 : State := withF (modIs (fun m => {m with supply := .good, perst := false}) base) [(.MOD_STATUS_STATE,0,msBooting)]
def s21b2 : State := withF (modIs (fun m => {m with supply := .good, perst := false, tries := [(0,1)]}) base) [(.MOD_STATUS_STATE,0,msBooting)]
def s21b4 : State := withF (modIs (fun m => {m with supply := .good, perst := false, romBank := some 0, faultLog := [(1,2,3)]}) base) ([(.MOD_STATUS_STATE,0,msBooting)] ++ (List.range 16).map (fun h => (.HBM_STATUS_TRAINED,h,1)))
def s21b8 : State := withF (modIs (fun m => {m with supply := .good, perst := false}) base) [(.MOD_STATUS_STATE,0,msScrubbing)]
def s21b9 : State := withF (modIs (fun m => {m with supply := .good, perst := false}) base) [(.MOD_STATUS_STATE,0,msHeldHot),(.PWR_DOM_STATUS_HOT,3,1),(.PWR_DOM_STATUS_TEMP,3,110)]
/-- Obligations.BringUpReachesReady: its clauses' hypotheses, clause by clause. -/
theorem wit_BringUpReachesReady :
    (modState s21b1 = msBooting ∧ s21b1.mod.romBank = none ∧ s21b1.mod.romFailed = false ∧ imageValid s21b1
      (pickBank s21b1).mod.bootBank = false ∧ imageValid s21b1 (1 - (pickBank s21b1).mod.bootBank) = false) ∧
    fbit s21b1 F.HBM_STATUS_TRAINED = false ∧
    stackTries s21b1 0 = 0 ∧
    (s21b1.mod.supply = Supply.good ∧ s21b1.mod.perst = false ∧ modState s21b1 ≠ msBootFailed) ∧
    (modState s21b2 = msBooting ∧ fbit s21b2 F.HBM_STATUS_TRAINED = false ∧ 1 ≤ stackTries s21b2 0) ∧
    ((modState s21b4 = msBooting ∧ s21b4.mod.romBank ≠ none ∧ s21b4.mod.started = false ∧ ∀ h < 16, fbit s21b4
      F.HBM_STATUS_TRAINED h = true)) ∧
    ((modState s21b8 = msScrubbing ∨ modState s21b8 = msHeldHot) ∧ anyHot s21b8 = false) ∧
    ((modState s21b9 = msScrubbing ∨ modState s21b9 = msHeldHot) ∧ anyHot s21b9 = true) ∧
    ((¬(modState base = msBooting ∧ base.mod.romBank ≠ none ∧ base.mod.started = false ∧ ∀ h < 16, fbit base
      F.HBM_STATUS_TRAINED h = true))) := by
  refine ⟨?_, ?_, ?_, ?_, ?_, ?_, ?_, ?_, ?_⟩
  all_goals decide +kernel

def s21c1 : State := modIs (fun m => {m with supply := .good, off := .noInput, perst := true, input := true, en := true}) base
def s21c2 : State := modIs (fun m => {m with supply := .good, perst := false, input := true, en := true, i3cAddr := some 8, alert := true, railFault := true, faultLog := [(1,2,3)]}) base
def s21c3 : Option (Fin 128) := (some 8:Option (Fin 128))
def s21c5 : State := modIs (fun m => {m with supply := .good, perst := false, input := true, en := true, i3cAddr := some 8, alert := true}) base
/-- Obligations.TheManagementPortAnswers: its clauses' hypotheses, clause by clause. -/
theorem wit_TheManagementPortAnswers :
    State.reset.mod.i3cAddr ≠ some 8 ∧
    (mgmtUp s21c1 = true ∧ s21c1.mod.i3cAddr = none) ∧
    8 ≠ 48 + s21c1.mod.straps % 4 ∧
    51 = 48 + s21c1.mod.straps % 4 ∧
    s21c1.mod.perst = true ∧
    s21c2.mod.i3cAddr ≠ none ∧
    (mgmtUp s21c2 = true ∧ s21c2.mod.i3cAddr = some 8) ∧
    ((s21c3 = none ∨ s21c3 = some 8 ∧ s21c2.mod.i3cAddr = some 8) ∧ bit 1 0 = true) ∧
    (mgmtUp s21c5 = true ∧ s21c5.mod.perst = false ∧ s21c5.mod.supply = Supply.good ∧ s21c5.mod.railFault = false ∧
      fbit s21c5 F.PWR_EVENTS_TRIP = false) := by
  refine ⟨?_, ?_, ?_, ?_, ?_, ?_, ?_, ?_, ?_⟩
  all_goals decide +kernel


/-! The statements of chapter 00 and 22. -/

/-- Obligations.AnIdleStepIsOneTick. -/
theorem wit_AnIdleStepIsOneTick : State.reset.pending = [] ∧ coreState State.reset 7 = stFree := by decide +kernel

/-- Obligations.RegisterWritesFollowTheirAccessTypes: PWR_SLEEP_CFG by the physical function, ring 0's slot of PF BAR2, a
host without a ready module. -/
theorem wit_RegisterWritesFollowTheirAccessTypes :
    (hostOk (liveS base) 0 = true ∧ (liveS base).declares = [] ∧
      findReg pfRows 0x500060 =
        some (⟨0x500060, [], 4, 1, 0, [.PWR_SLEEP_CFG_NAP_DELAY, .PWR_SLEEP_CFG_DEEP_DELAY]⟩, 0, 0) ∧
      ∀ f ∈ ([.PWR_SLEEP_CFG_NAP_DELAY, .PWR_SLEEP_CFG_DEEP_DELAY] : List F), f ∉ actingRegs) ∧
    hostOk State.reset 0 = false ∧ hostOk State.reset 3 = false := by
  refine ⟨?_, ?_, ?_⟩
  all_goals decide +kernel

/-- Obligations.TileInstructionsEncodeAndLoad. -/
theorem wit_TileInstructionsEncodeAndLoad : (ins 0x10 96 64 65 0xE0 1 2 3 0x1FFF 0xFFFFFFFFFFFFFFFF).fits = true := by
  decide +kernel

/-- Obligations.FusesNeverFall: a step that answers a next state. -/
theorem wit_FusesNeverFall : ∃ t, step State.reset = .next t ∧ State.reset.mod.fuses ≤ 64 := ⟨_, rfl, by decide⟩

/-! Ill-formed commands, one for each check of Instr.wf. -/

theorem test_wf_register_width : (Instr.registerWrite .pf0 0 2 0).wf = false ∧ (Instr.registerWrite .pf0 2 4 0).wf = false ∧
    (Instr.registerWrite .pf0 0 4 (2 ^ 32)).wf = false ∧ (Instr.registerWrite .pf0 8 8 (2 ^ 64 - 1)).wf = true := by
  decide +kernel
theorem test_wf_launch : (Instr.launchAssign 0 { req1 with part := 64 }).wf = false ∧
    (Instr.launchAssign 0 { req1 with image := 2 ^ 48 }).wf = false ∧
    (Instr.launchAssign 0 { req1 with rank := 4 }).wf = false ∧
    (Instr.launchAssign 0 { req1 with here := 5 }).wf = false ∧
    (Instr.launchAssign 0 { req1 with label := 8 }).wf = false ∧ (Instr.launchAssign 0 req1).wf = true := by
  decide +kernel
theorem test_wf_access :
    (Instr.stationMeshAccess 0 (rd { who0 with part := 64 } 0 4) false).wf = false ∧
    (Instr.stationMeshAccess 0 (rd { who0 with sub := 5 } 0 4) false).wf = false ∧
    (Instr.stationMeshAccess 0 (rd { who0 with kind := 16 } 0 4) false).wf = false ∧
    (Instr.stationMeshAccess 0 (rd { who0 with die := 19 } 0 4) false).wf = false ∧
    (Instr.stationMeshAccess 0 (rd who0 (2 ^ 48) 4) false).wf = false ∧
    (Instr.stationMeshAccess 0 (rd who0 62 4) false).wf = false ∧
    (Instr.stationMeshAccess 0 (rd who0 0 0) false).wf = false ∧
    (Instr.stationMeshAccess 0 (wr who0 63 [1, 2]) false).wf = false ∧
    (Instr.stationMeshAccess 0 (wr who0 0 []) false).wf = false ∧
    (Instr.stationMeshAccess 0 ⟨who0, 0, .atomic 9 0 false, false, false⟩ false).wf = false ∧
    (Instr.readnc ⟨rd who0 62 4, .clean, []⟩).wf = false ∧ (Instr.writenc ⟨rd who0 62 4, .clean, []⟩).wf = false ∧
    (Instr.atomicnc ⟨rd who0 62 4, .clean, []⟩).wf = false ∧ (Instr.stationMeshAccess 0 (rd who0 60 4) false).wf = true := by
  decide +kernel
theorem test_wf_mesh : (Instr.meshPacketHop 0 30 packet1 .clean).wf = false ∧
    (Instr.meshPacketHop 0 1 { packet1 with src := 30 } .clean).wf = false ∧
    (Instr.meshPacketHop 0 1 { packet1 with dst := 30 } .clean).wf = false ∧
    (Instr.meshPacketHop 0 1 { packet1 with part := 64 } .clean).wf = false ∧
    (Instr.meshPacketHop 0 1 { packet1 with srcDie := 16 } .clean).wf = false ∧
    (Instr.meshPacketHop 0 1 { packet1 with dstDie := 16 } .clean).wf = false ∧
    (Instr.meshPacketHop 0 1 { packet1 with cls := 8 } .clean).wf = false ∧
    (Instr.meshPacketHop 0 1 packet1 .clean).wf = true := by decide +kernel
theorem test_wf_doorbells : (Instr.kvgDoorbell 0 2 0).wf = false ∧ (Instr.kvgDoorbell 0 0 256).wf = false ∧
    (Instr.ptsDoorbell 0 0 64).wf = false ∧ (Instr.blDoorbell 0 0 64).wf = false ∧
    (Instr.doorbell 0 262144 0).wf = false := by decide +kernel
theorem test_wf_homes : 
    (Instr.hbmAccess (rd who0 0 4) 8 (List.replicate 32 0) false .clean).wf = false ∧
    (Instr.hbmAccess (rd who0 0 4) 0 (List.replicate 32 65) false .clean).wf = false ∧
    (Instr.hbmAccess (rd who0 0 4) 0 [] false .clean).wf = false ∧
    (Instr.hbmAccess (rd who0 62 4) 0 (List.replicate 32 0) false .clean).wf = false ∧
    (Instr.fbLevelFall 0 65).wf = false ∧ (Instr.pinWaysWrite 0 32).wf = false ∧
    (Instr.dillDeclare 0 who0 (2 ^ 48)).wf = false ∧ (Instr.dillDeclare 0 who0 16).wf = false := by decide +kernel
theorem test_wf_directory : (Instr.gets 0 ⟨2 ^ 42, .clean⟩ 0 false []).wf = false ∧
    (Instr.gets 0 ⟨0, .clean⟩ 64 false []).wf = false ∧ (Instr.gets 0 ⟨0, .clean⟩ 0 false [.gets 1 64 false]).wf = false ∧
    (Instr.getx 0 ⟨0, .clean⟩ 0 false ⟨some (63, [1, 2]), []⟩).wf = false ∧
    (Instr.getx 0 ⟨0, .clean⟩ 0 false ⟨some (62, [1, 2]), []⟩).wf = true := by decide +kernel
theorem test_wf_packets : (Instr.blyRead 0 { packet0 with typ := 10 }).wf = false ∧
    (Instr.blyRead 0 { packet0 with dst := 1024 }).wf = false ∧ (Instr.blyRead 0 { packet0 with tc := 8 }).wf = false ∧
    (Instr.blyRead 0 { packet0 with payload := zeros 257 }).wf = false := by decide +kernel
theorem test_wf_power : (Instr.powerSample [] 0 0 0).wf = false ∧ (Instr.budgetShare [] 0).wf = false ∧
    (Instr.thermalSample []).wf = false ∧ (Instr.inputLow 59999).wf = false ∧ (Instr.inputLow 66000).wf = false ∧
    (Instr.tcModeWrite 3).wf = false := by decide +kernel

/-! Values and single steps. -/

/-- What a step's next state holds; d where it has none. -/
def after {α : Type} (o : Out) (d : α) (f : State → α) : α :=
  match o with
  | .next t => f t
  | _ => d

/-- The table gives no row bits. -/
theorem test_table_words : decodeTableWord 32 0 = none := by decide
/-- The CRC of R102 and R337 is the IEEE 802.3 one: its published check value. -/
theorem test_crc32 : crc32 [0x31, 0x32, 0x33, 0x34, 0x35, 0x36, 0x37, 0x38, 0x39] = 0xCBF43926 := by decide +kernel
/-- R34: E4M3's largest value is 448. -/
theorem test_e4m3_max : f32enc (Enc.e4m3.decode 0x7E) = 0x43E00000 := by decide +kernel
/-- R40: a tie goes to even. -/
theorem test_fp32_tie : fadd 0x3F800000 0x33800000 = 0x3F800000 ∧ fadd 0x3F800001 0x33800000 = 0x3F800002 := by
  decide +kernel
/-- R5: compressed RISC-V instructions stand for the base ones: c.li a0, 0; ret; c.addi sp, −16. -/
theorem test_compressed : rvc 0x4501 = some 0x00000513 ∧ rvc 0x8082 = some 0x00008067 ∧ rvc 0x1141 = some 0xFF010113 := by
  decide +kernel
/-- R80: 5 + 7 on scalars. -/
theorem test_salu_adds : after (execSalu 0 .clean (run (ins 0x60 4 1 2 0 0 0 0 0 0))) 0 (fun t => (getCore t 0).s 4) = 12 := by
  decide +kernel
/-- R72: 1 + 2 in a VOP's first element would be 3; R77: ZERO clears an accumulator's element. -/
theorem test_zero_clears : after (execZeroReg 0 .clean (run (ins 0x18 96 0 0 0 0 0 0 0 0))) 1
    (fun t => (getCore t 0).accGet 0 0 0) = 0 := by decide +kernel
/-- R525: a cap outside 1200 to 3400 W is ignored. -/
theorem test_cap_range : after (execPwrCapWrite 1199 State.reset) 0 (fun t => fget t .PWR_CAP_WATTS) = 3000 ∧
    after (execPwrCapWrite 1200 State.reset) 0 (fun t => fget t .PWR_CAP_WATTS) = 1200 := by decide +kernel
/-- R387, R12: a write of a read-only field is ignored. -/
theorem test_device_id_is_read_only :
    after (execRegisterWrite .pf0 0 8 0 (liveS base)) 0 (fun t => fget t .DEV_ID_VENDOR) = 0x1F7E := by decide +kernel
/-- R435: a FENCE_WAIT whose timeout passes leaves its tracker. -/
theorem test_fence_wait_timeout :
    after (execFenceWaitTimeout 0 { hostS with cmds := [waiting0] }) false (fun t => t.cmds.isEmpty) = true := by decide +kernel
/-- R462: a running channel stops; a STOP of an IDLE one is ignored and counted. -/
theorem test_channel_stop : after (execChvStop 3 .pf0 (chanS 2 [])) 0 (fun t => chState t 3) = chStopping ∧
    after (execChvStop 3 .pf0 (chanS 0 [])) 0 (fun t => fget t .CHV_CH_IGNORED_COUNT 3) = 1 := by decide +kernel
/-- R499: with both banks empty the boot fails with code 1. -/
theorem test_boot_without_firmware :
    after (execBootCheckDone (withF (modIs (fun m => { m with supply := .good, perst := false }) base)
      [(.MOD_STATUS_STATE, 0, msBooting)])) 0 (fun t => t.mod.failCode) = 1 := by decide +kernel
/-- A queued command leaves the queue and acts. -/
theorem test_step_takes_the_front :
    after (step { State.reset with pending := [.perstDeassert] }) true (fun t => t.mod.perst) = false := by decide +kernel

end Sys2Proof.Tests
end

section
/-! PROOFS. Register writes from the host: what a write of a whole register by its fields' access types leaves (R12),
the fields of the map lying apart within their registers (R10, R590), and the three paths of a write (R386, R395, R582). -/
namespace Sys2Proof.Machine

/-! Writes of all the bits of a field. -/

/-- Overlaying all w bits takes the new value, whatever stood above them. -/
theorem merged_whole {old w x : Nat} (hx : x < 2 ^ w) : merged old (2 ^ w - 1) x % 2 ^ w = x := by
  have above : old - old % 2 ^ w = 2 ^ w * (old / 2 ^ w) := by
    have := Nat.div_add_mod old (2 ^ w); omega
  have all : Nat.land x (2 ^ w - 1) = x := Nat.and_two_pow_sub_one_of_lt_two_pow hx
  have low : Nat.land old (2 ^ w - 1) = old % 2 ^ w := Nat.and_two_pow_sub_one_eq_mod old w
  have join : Nat.lor (2 ^ w * (old / 2 ^ w)) x = 2 ^ w * (old / 2 ^ w) + x :=
    (Nat.two_pow_add_eq_or_of_lt hx _).symm
  rw [merged, low, above, all, join, Nat.mul_add_mod, Nat.mod_eq_of_lt hx]

/-- The bits of a mask of N ones that a field within them sees are all ones. -/
theorem bits_ones {N lo w : Nat} (h : lo + w ≤ N) : bits (2 ^ N - 1) lo w = 2 ^ w - 1 := by
  refine Nat.eq_of_testBit_eq fun j => ?_
  simp only [bits, Nat.testBit_mod_two_pow, Nat.testBit_div_two_pow, Nat.testBit_two_pow_sub_one]
  by_cases hj : j < w
  · simp [hj]; omega
  · simp [hj]

theorem bits_lt (x lo w : Nat) : bits x lo w < 2 ^ w := Nat.mod_lt _ (Nat.two_pow_pos w)

/-! A write by a field's access type alone (R12). -/

/-- Such a write leaves the state or stores the field. -/
theorem plainWrite_cases (s : State) (f : F) (i mask v : Nat) :
    plainWrite s f i mask v = s ∨ ∃ x, plainWrite s f i mask v = fset s f i x := by
  unfold plainWrite
  cases f.spec.acc with
  | ro | wo => exact .inl rfl
  | rw | rws | w1c | w1s => exact .inr ⟨_, rfl⟩
  | rwl =>
    cases h : fieldLocked s f i with
    | true => exact .inl (if_pos rfl)
    | false => exact .inr ⟨_, if_neg Bool.false_ne_true⟩

/-- A reading of the state that no store of a field changes, such a write does not change. -/
theorem plainWrite_keeps {α : Type} (g : State → α) (hg : ∀ t f j x, g (fset t f j x) = g t) (s : State) (f : F)
    (i mask v : Nat) : g (plainWrite s f i mask v) = g s := by
  obtain h | ⟨x, h⟩ := plainWrite_cases s f i mask v <;> rw [h]
  exact hg s f i x

theorem fget_plainWrite_field (s : State) {f g : F} (i j mask v : Nat) (hg : g ≠ f) :
    fget (plainWrite s f i mask v) g j = fget s g j := by
  obtain h | ⟨x, h⟩ := plainWrite_cases s f i mask v <;> rw [h]
  exact fget_fset_field s i j x hg

theorem plainWrite_sameRegs (s : State) {f : F} {i : Nat} {ks : List (F × Nat)} (mask v : Nat) (hi : i < 65536)
    (hm : (f, i) ∈ ks) : SameRegs ks s (plainWrite s f i mask v) := by
  obtain h | ⟨x, h⟩ := plainWrite_cases s f i mask v <;> rw [h]
  · exact SameRegs.refl ks s
  · exact SameRegs.fset s x hi hm

/-- A write of all of a field's bits leaves what its access type says. -/
theorem fget_plainWrite_whole (s : State) (f : F) (i : Nat) {x : Nat} (hx : x < 2 ^ f.spec.w) :
    fget (plainWrite s f i (2 ^ f.spec.w - 1) x) f i = accessResult s f i x := by
  have all : Nat.land x (2 ^ f.spec.w - 1) = x := Nat.and_two_pow_sub_one_of_lt_two_pow hx
  unfold plainWrite accessResult
  cases f.spec.acc with
  | ro | wo => rfl
  | rw | rws => simp only [fget_fset_same, merged_whole hx]
  | w1c | w1s => simp only [fget_fset_same, all]
  | rwl => cases h : fieldLocked s f i <;> simp [merged_whole hx]

/-- What a write leaves in a field depends on the field, and where it is lockable, on the two locks. -/
theorem accessResult_congr {s t : State} {f : F} {i : Nat} (x : Nat) (hf : fget t f i = fget s f i)
    (hl : f.spec.acc = .rwl → ∀ l j, l = .CTL_LOCK_LOCK ∨ l = .BLY_LOCK_LOCK → fget t l j = fget s l j) :
    accessResult t f i x = accessResult s f i x := by
  have locked (h : f.spec.acc = .rwl) : fieldLocked t f i = fieldLocked s f i := by
    unfold fieldLocked fbit
    rw [hl h _ _ (.inl rfl), hl h _ _ (.inr rfl)]
  unfold accessResult
  cases hacc : f.spec.acc with
  | ro | wo | rw | rws | w1c | w1s => simp only [hf]
  | rwl => simp only [hf, locked hacc]

/-! A write of all of a register's fields. -/

/-- Each of a register's fields is written whole, by its access type alone. -/
def wholeWrites (s : State) (i v : Nat) (fs : List F) : State :=
  fs.foldl (fun s f => plainWrite s f i (2 ^ f.spec.w - 1) (bits v f.spec.lo f.spec.w)) s

theorem wholeWrites_keeps {α : Type} (g : State → α) (hg : ∀ t f j x, g (fset t f j x) = g t) (i v : Nat)
    (fs : List F) (s : State) : g (wholeWrites s i v fs) = g s := by
  induction fs generalizing s with
  | nil => rfl
  | cons f fs ih => exact (ih _).trans (plainWrite_keeps g hg s f i _ _)

theorem wholeWrites_sameRegs {i : Nat} (v : Nat) (hi : i < 65536) {ks : List (F × Nat)} (fs : List F) (s : State)
    (hks : ∀ f ∈ fs, (f, i) ∈ ks) : SameRegs ks s (wholeWrites s i v fs) := by
  induction fs generalizing s with
  | nil => exact SameRegs.refl ks s
  | cons g gs ih =>
    exact (plainWrite_sameRegs s _ _ hi (hks g List.mem_cons_self)).trans
      (ih _ fun f hf => hks f (List.mem_cons_of_mem g hf))

theorem fget_wholeWrites_field (i j v : Nat) {f : F} (fs : List F) (s : State) (hf : f ∉ fs) :
    fget (wholeWrites s i v fs) f j = fget s f j := by
  induction fs generalizing s with
  | nil => rfl
  | cons g gs ih =>
    rw [List.mem_cons, not_or] at hf
    exact (ih _ hf.2).trans (fget_plainWrite_field s i j _ _ hf.1)

/-- A lockable field does not share its register with a lock. -/
def locksApart (fs : List F) : Prop :=
  ∀ f ∈ fs, f.spec.acc = .rwl → .CTL_LOCK_LOCK ∉ fs ∧ .BLY_LOCK_LOCK ∉ fs

theorem locksApart_tail {g : F} {gs : List F} (h : locksApart (g :: gs)) : locksApart gs := fun f hf hacc =>
  (h f (List.mem_cons_of_mem g hf) hacc).imp List.not_mem_of_not_mem_cons List.not_mem_of_not_mem_cons

/-- Each field of the register ends as its access type says of the state before the write. -/
theorem fget_wholeWrites (i v : Nat) (fs : List F) (s : State) (hd : fs.Nodup) (hl : locksApart fs) :
    ∀ f ∈ fs, fget (wholeWrites s i v fs) f i = accessResult s f i (bits v f.spec.lo f.spec.w) := by
  induction fs generalizing s with
  | nil => exact fun _ h => absurd h List.not_mem_nil
  | cons g gs ih =>
    obtain ⟨hg, hd⟩ := List.nodup_cons.1 hd
    intro f hf
    obtain rfl | hgs := List.mem_cons.1 hf
    · exact (fget_wholeWrites_field i i v gs _ hg).trans (fget_plainWrite_whole s f i (bits_lt _ _ _))
    · have hfg : f ≠ g := fun e => hg (e ▸ hgs)
      refine (ih _ hd (locksApart_tail hl) f hgs).trans
        (accessResult_congr _ (fget_plainWrite_field s i i _ _ hfg) fun hacc l j hlock => ?_)
      obtain ⟨hctl, hbly⟩ := hl f hf hacc
      refine fget_plainWrite_field s i j _ _ ?_
      rintro rfl
      obtain rfl | rfl := hlock
      · exact hctl List.mem_cons_self
      · exact hbly List.mem_cons_self

/-! The register map: the fields of a register lie within it, and apart. -/

theorem findReg_mem {rs : List RegRow} {off : Nat} {x : RegRow × Nat × Nat} (h : findReg rs off = some x) :
    x.1 ∈ rs := by
  induction rs with
  | nil => simp [findReg] at h
  | cons r rs ih =>
    rw [findReg] at h
    split at h
    · split at h
      · cases h; exact List.mem_cons_self
      · exact List.mem_cons_of_mem r (ih h)
    · exact List.mem_cons_of_mem r (ih h)

section
set_option maxRecDepth 2000

theorem pfRows_nodup : ∀ r ∈ pfRows, r.fields.Nodup := by decide

theorem pfRows_fit : ∀ r ∈ pfRows, ∀ f ∈ r.fields, 0 < f.spec.w ∧ f.spec.lo + f.spec.w ≤ 8 * r.bytes := by
  decide

theorem pfRows_locksApart : ∀ r ∈ pfRows, locksApart r.fields := by
  unfold locksApart
  decide

end

/-! Registers none of whose fields acts. -/

theorem fieldWrite_eq_plainWrite (s : State) {f : F} (i mask v : Nat) (h : f ∉ actingRegs) :
    fieldWrite s f i mask v = plainWrite s f i mask v := by
  unfold fieldWrite
  split
  on_goal -1 => rfl
  all_goals exact absurd (by decide) h

theorem eachField_congr {g h : State → F → Nat → Nat → State} (s : State) {r : RegRow} (mask v : Nat)
    (hgh : ∀ s, ∀ f ∈ r.fields, g s f (bits mask f.spec.lo f.spec.w) (bits v f.spec.lo f.spec.w) =
      h s f (bits mask f.spec.lo f.spec.w) (bits v f.spec.lo f.spec.w)) :
    eachField s r mask v g = eachField s r mask v h :=
  List.foldl_ext _ _ _ fun s f hf => by simp only [hgh s f hf]

/-- Its fields are written by their access types alone. -/
theorem regWrite_eq_writeAll (s : State) (path : RegPath) {r : RegRow} (i mask v : Nat)
    (h : ∀ f ∈ r.fields, f ∉ actingRegs) : regWrite s path r i mask v = writeAll s r i mask v := by
  unfold regWrite
  split
  on_goal -1 => exact eachField_congr s mask v fun s f hf => fieldWrite_eq_plainWrite s i _ _ (h f hf)
  all_goals
    rename_i hhead
    exact absurd (by decide) (h _ (List.mem_of_head? hhead))

/-- A write of all of a register's bits reaches all the bits of each of its fields. -/
theorem writeAll_ones (s : State) {r : RegRow} (i v : Nat) {N : Nat}
    (hfit : ∀ f ∈ r.fields, 0 < f.spec.w ∧ f.spec.lo + f.spec.w ≤ N) :
    writeAll s r i (2 ^ N - 1) v = wholeWrites s i v r.fields := by
  refine List.foldl_ext _ _ _ fun s f hf => ?_
  obtain ⟨hw, hlo⟩ := hfit f hf
  have reached : 2 ^ f.spec.w - 1 ≠ 0 := by
    have := Nat.one_lt_two_pow hw.ne'
    omega
  simp only [bits_ones hlo, if_neg reached]

/-- An aligned write of a whole register of PF BAR0 whose fields do not act. -/
theorem writePf_whole (s : State) (path : RegPath) {off n v i : Nat} {r : RegRow}
    (hbuf : off < 0x11000 ∨ 0x12000 ≤ off) (hr : findReg pfRows off = some (r, i, 0)) (hn : n = r.bytes)
    (hal : off % n = 0) (hact : ∀ f ∈ r.fields, f ∉ actingRegs) (hv : v < 2 ^ (8 * n)) :
    writePf s path off n v = wholeWrites s i v r.fields := by
  subst hn
  have outside : ¬(0x11000 ≤ off ∧ off < 0x12000) := by omega
  have taken : sizeOk r off 0 r.bytes = true := by simp [sizeOk, hal]
  simp only [writePf, if_neg outside, hr, taken, if_true, regFieldsWrite, Nat.mul_zero, Nat.pow_zero, Nat.mul_one,
    Nat.mod_eq_of_lt hv]
  rw [regWrite_eq_writeAll s path i _ v hact, writeAll_ones s i v (pfRows_fit r (findReg_mem hr))]

/-! The host's paths (R386, R395, R582). -/

theorem settle_nil {s : State} (h : s.declares = []) : settle s = { s with declares := [] } := by
  rw [settle, h, List.foldl_nil]

/-- A host's write of PF BAR0 outside the MSI-X table, where it makes no access that waits. -/
theorem exec_registerWrite_pf0 {s t : State} {off n v : Nat} (hok : hostOk s 0 = true) (hoff : off < 0x900000)
    (ht : writePf (begun s) .pf0 off n v = t) (hs : t.stalled = false) (hd : t.declares = []) :
    exec (.registerWrite .pf0 off n v) s = .next { t with declares := [] } := by
  subst ht
  have noTable : ¬(0x900000 ≤ off ∧ off < 0x908000) := by omega
  have run : execRegisterWrite .pf0 off n v s = patient s (fun s => .next (settle (writePf s .pf0 off n v))) := by
    simp only [execRegisterWrite, hok, Bool.true_eq_false, if_false, noTable]
  refine run.trans (patient_next ?_ ?_)
  · rw [settle_nil hd]
  · exact hs

/-- A write of 4 bytes at the start of a ring's slot of PF BAR2 rings its doorbell. -/
theorem exec_registerWrite_pf2 {s : State} (ring v : Nat) (hok : hostOk s 0 = true) :
    exec (.registerWrite .pf2 (64 * ring) 4 v) s = .next (doorbellOf s 0 ring (v % 2 ^ 32)) := by
  have slot : slotWrite s 0 (64 * ring / 64) (64 * ring) 4 v = doorbellOf s 0 ring (v % 2 ^ 32) := by
    simp [slotWrite]
  simp only [exec, execRegisterWrite, hok, if_true, slot]

theorem exec_doorbell_pf (s : State) (ring : Nat) (value : W32) :
    exec (.doorbell 0 ring value) s = .next (doorbellOf s 0 ring value.toNat) := rfl

/-- The function whose register space a host's path reaches; none for a device agent's. -/
def pathFunc : RegPath → Option Nat
  | .pf0 | .pf2 => some 0
  | .vf p => some (p + 1)
  | .device _ => none

/-- An endpoint that does not take a function's requests drops its writes. -/
theorem exec_registerWrite_notOk {s : State} {path : RegPath} {f : Nat} (hf : pathFunc path = some f)
    (h : hostOk s f = false) (off n v : Nat) : exec (.registerWrite path off n v) s = .next s := by
  cases path with
  | pf0 | pf2 | vf =>
    cases hf
    simp [exec, execRegisterWrite, h]
  | device => cases hf

/-- Settles O45: a whole register's write is one write of each field by its access type, whose frame is the register's
fields; a slot's write is the doorbell itself; and each host path asks first whether the endpoint takes the request. -/
theorem registerWritesFollowTheirAccessTypes : Obligations.RegisterWritesFollowTheirAccessTypes := by
  unfold Obligations.RegisterWritesFollowTheirAccessTypes
  refine ⟨?_, ?_, ?_⟩
  · intro s off n v i r hok hd hoff hr hn hal _ hi hbuf hact hv
    have row : r ∈ pfRows := findReg_mem hr
    have whole := writePf_whole (begun s) .pf0 hbuf hr hn hal hact hv
    have stalled := wholeWrites_keeps State.stalled (fun _ _ _ _ => rfl) i v r.fields (begun s)
    have declares := wholeWrites_keeps State.declares (fun _ _ _ _ => rfl) i v r.fields (begun s)
    have mem := wholeWrites_keeps State.mem (fun _ _ _ _ => rfl) i v r.fields (begun s)
    refine ⟨_, exec_registerWrite_pf0 hok hoff whole stalled (declares.trans hd), ?_, ?_, ?_⟩
    · exact fun a => congrArg (Bytes.get · a) mem
    · exact wholeWrites_sameRegs v hi r.fields (begun s) fun f hf => List.mem_map_of_mem hf
    · exact fget_wholeWrites i v r.fields (begun s) (pfRows_nodup r row) (pfRows_locksApart r row)
  · intro s ring v hok _ _
    refine ⟨_, exec_registerWrite_pf2 ring v hok, ?_⟩
    rw [exec_doorbell_pf, BitVec.toNat_ofNat]
  · intro s off n v
    refine ⟨fun h => ⟨⟨s, ?_, rfl⟩, ⟨s, ?_, rfl⟩⟩, fun p h => ⟨s, ?_, rfl⟩⟩
    all_goals exact exec_registerWrite_notOk rfl h off n v

end Sys2Proof.Machine
end

section
/-! PROOFS. The encoding of a Sage core's instructions (R61, R102): a word and its ten fields determine each other, and a
program and its bytes. -/
namespace Sys2Proof.Machine

/-- A number below the next field is what lies below this one, and this field in its place. -/
theorem mod_add_bits (x lo w : Nat) : x % 2 ^ (lo + w) = x % 2 ^ lo + bits x lo w * 2 ^ lo := by
  rw [pow_add, Nat.mod_mul, bits, Nat.mul_comm (2 ^ lo)]

/-- The ten fields of an instruction, each in its place, as a number (R61). -/
def Insn.number (i : Insn) : Nat :=
  i.opc + i.dst * 2 ^ 8 + i.s1 * 2 ^ 16 + i.s2 * 2 ^ 24 + i.s3 * 2 ^ 32 + i.fa * 2 ^ 40 + i.fb * 2 ^ 44 + i.rnd * 2 ^ 48 +
    i.mod * 2 ^ 50 + i.imm * 2 ^ 64

theorem Insn.toWord_eq (i : Insn) : i.toWord = BitVec.ofNat 128 i.number := rfl

theorem Insn.fits_iff (i : Insn) : i.fits = true ↔
    i.opc < 2 ^ 8 ∧ i.dst < 2 ^ 8 ∧ i.s1 < 2 ^ 8 ∧ i.s2 < 2 ^ 8 ∧ i.s3 < 2 ^ 8 ∧ i.fa < 2 ^ 4 ∧ i.fb < 2 ^ 4 ∧
      i.rnd < 2 ^ 2 ∧ i.mod < 2 ^ 14 ∧ i.imm < 2 ^ 64 := by
  simp only [Insn.fits, Bool.and_eq_true, decide_eq_true_eq, and_assoc]

theorem Insn.number_lt {i : Insn} (h : i.fits = true) : i.number < 2 ^ 128 := by
  rw [Insn.fits_iff] at h
  unfold Insn.number
  omega

/-- The word read back field by field gives the instruction. -/
theorem Insn.ofWord_toWord {i : Insn} (h : i.fits = true) : Insn.ofWord i.toWord = i := by
  have number : i.toWord.toNat = i.number := by
    rw [Insn.toWord_eq, BitVec.toNat_ofNat, Nat.mod_eq_of_lt (Insn.number_lt h)]
  rw [Insn.fits_iff] at h
  obtain ⟨opc, dst, s1, s2, s3, fa, fb, rnd, mod, imm⟩ := i
  simp only [Insn.ofWord, number, Insn.number, bits, Insn.mk.injEq] at h ⊢
  omega

/-- The ten fields of a word tile it: 8 + 8 + 8 + 8 + 8 + 4 + 4 + 2 + 14 + 64 = 128 bits. -/
theorem Insn.number_ofWord (w : BitVec 128) : (Insn.ofWord w).number = w.toNat := by
  have whole : w.toNat % 2 ^ 128 = w.toNat := Nat.mod_eq_of_lt w.isLt
  have opc := mod_add_bits w.toNat 0 8
  have dst := mod_add_bits w.toNat 8 8
  have s1 := mod_add_bits w.toNat 16 8
  have s2 := mod_add_bits w.toNat 24 8
  have s3 := mod_add_bits w.toNat 32 8
  have fa := mod_add_bits w.toNat 40 4
  have fb := mod_add_bits w.toNat 44 4
  have rnd := mod_add_bits w.toNat 48 2
  have mod := mod_add_bits w.toNat 50 14
  have imm := mod_add_bits w.toNat 64 64
  simp only [Insn.number, Insn.ofWord]
  omega

theorem Insn.toWord_ofWord (w : BitVec 128) : (Insn.ofWord w).toWord = w := by
  rw [Insn.toWord_eq, Insn.number_ofWord, BitVec.ofNat_toNat, BitVec.setWidth_eq]

theorem Insn.ofWord_fits (w : BitVec 128) : (Insn.ofWord w).fits = true := by
  rw [Insn.fits_iff]
  exact ⟨bits_lt _ _ _, bits_lt _ _ _, bits_lt _ _ _, bits_lt _ _ _, bits_lt _ _ _, bits_lt _ _ _, bits_lt _ _ _,
    bits_lt _ _ _, bits_lt _ _ _, bits_lt _ _ _⟩

/-! Programs. -/

/-- The bytes of a program: each word in 16 little-endian bytes (R102). -/
def programBytes (prog : List Insn) : List Byte := prog.flatMap (fun i => leBytes 16 i.toWord.toNat)

theorem programBytes_length (prog : List Insn) : (programBytes prog).length = 16 * prog.length := by
  simp [programBytes, List.length_flatMap, leBytes_length, Nat.mul_comm]

/-- The first word of a byte string that begins with the 16 bytes of a word is that word. -/
theorem codeWords_leBytes_append (n : Nat) (w : BitVec 128) (bs : List Byte) :
    codeWords (n + 1) (leBytes 16 w.toNat ++ bs) = w :: codeWords n bs := by
  have first : BitVec.ofNat 128 (leNat (leBytes 16 w.toNat)) = w := by
    rw [leNat_leBytes, show 256 ^ 16 = 2 ^ 128 by norm_num, Nat.mod_eq_of_lt w.isLt, BitVec.ofNat_toNat, BitVec.setWidth_eq]
  rw [codeWords, List.take_left' (leBytes_length 16 _), List.drop_left' (leBytes_length 16 _), first]

/-- The loader cuts a program's bytes into its words. -/
theorem codeWords_programBytes (prog : List Insn) :
    codeWords prog.length (programBytes prog) = prog.map Insn.toWord := by
  induction prog with
  | nil => rfl
  | cons i prog ih =>
    have cut := codeWords_leBytes_append prog.length i.toWord (programBytes prog)
    rw [ih] at cut
    exact cut

/-- Settles O58: the ten fields tile the word, so each determines the other; a program's bytes are its words' bytes, one
after the other, and memory gives back what was written. -/
theorem tileInstructionsEncodeAndLoad : Obligations.TileInstructionsEncodeAndLoad := by
  unfold Obligations.TileInstructionsEncodeAndLoad
  refine ⟨fun i h => Insn.ofWord_toWord h, fun w => ⟨Insn.toWord_ofWord w, Insn.ofWord_fits w⟩, fun prog m a fit => ⟨?_, ?_⟩⟩
  · change (codeWords prog.length (programBytes prog)).map Insn.ofWord = prog
    rw [codeWords_programBytes, List.map_map]
    exact (List.map_congr_left fun i hi => Insn.ofWord_toWord (fit i hi)).trans (List.map_id prog)
  · change Bytes.read (Bytes.write m a (programBytes prog)) a (16 * prog.length) = programBytes prog
    rw [← programBytes_length]
    exact Bytes.read_write m a (programBytes prog)

end Sys2Proof.Machine
end

section
/-! PROOFS. The instructions of a Sage core that act on its own core alone: how their statements follow from the effect on
the core, and the laws of its register files that they need. -/
namespace Sys2Proof.Machine

/-- A core whose program goes on with other loops active. -/
def Core.withLoops (k : Core) (ls : List Loop) : Core := { k with loops := ls }

@[simp] theorem withLoops_accGet (k : Core) (ls : List Loop) : (k.withLoops ls).accGet = k.accGet := rfl
@[simp] theorem withLoops_ar (k : Core) (ls : List Loop) : (k.withLoops ls).ar = k.ar := rfl

/-- An instruction whose effect is on its own core completes with that effect, the core going on in sequence. -/
theorem Completes.of_pure {ins : Instr} {s : State} {c : CoreId} {w : BitVec 128} {ecc : Ecc} {op : Nat}
    {f : Insn → Core → CoreRes} {P : State → Prop} {k' : Core}
    (hi : Issues s c w) (hop : (Insn.ofWord w).opc = op) (he : ecc ≠ .uncorrectable) (hgo : Proceeds s c)
    (hf : f (Insn.ofWord w) (getCore s c) = .ok k') (hl : k'.loops = (getCore s c).loops)
    (hk : k'.code = (getCore s c).code) (hrun : exec ins s = issuePure op c ecc s f)
    (hP : ∀ t, WentOn s t c → OnlyCore s t c → getCore t c = k'.withLoops (nextOf s c).1 → P t) :
    Completes ins s P := by
  obtain ⟨t, ht, went, only, core⟩ := issuePure_spec hi hop he hgo hf hl hk
  exact ⟨t, hrun.trans ht, hP t went only core⟩

theorem getD_map_range {α : Type} {n j : Nat} (f : Nat → α) (d : α) (h : j < n) :
    ((List.range n).map f).getD j d = f j := by
  simp [List.getD, h]

/-! Rows, halves and files. -/

theorem Insn.rows_le (i : Insn) : i.rows ≤ 64 := by
  have := bits_lt i.imm 0 6
  unfold Insn.rows
  omega

theorem bits_one_le (x lo : Nat) : bits x lo 1 ≤ 1 := Nat.le_of_lt_succ (bits_lt x lo 1)

/-- The files of the register operands do not meet (R62). -/
theorem isT_ne_isAcc {b : Nat} (h : isT b = true) : isAcc b = false := by
  simp only [isT, isAcc, isFile, Bool.and_eq_true, beq_iff_eq, decide_eq_true_eq] at h ⊢
  simp [h.1]

end Sys2Proof.Machine
end

section
/-! PROOFS. The matrix unit: MMA and MMAX (R66-R68). -/
namespace Sys2Proof.Machine

/-- R66: a legal MMA's rows of A and columns of B fit their half of the accumulator. -/
theorem Insn.rows_of_legal_mma {i : Insn} (hop : i.opc = 0x10) (h : i.legal = true) :
    i.rows ≤ if i.fmtA.width = 16 then 32 else 64 := by
  have rows : i.rows ≤ i.fmtA.tileRows false := by
    simp only [Insn.legal, hop, Bool.and_eq_true, decide_eq_true_eq] at h
    exact h.2.2
  simpa [Fmt.tileRows] using rows

theorem opMma_acc (i : Insn) (k : Core) : ∃ m, opMma i k = .ok { k with acc := m } :=
  (mmRows_acc ..).imp fun _ => congrArg CoreRes.ok

theorem opMmax_acc (i : Insn) (k : Core) : ∃ m, opMmax i k = .ok { k with acc := m } :=
  (mmRows_acc ..).imp fun _ => congrArg CoreRes.ok

/-- What MMA leaves in the accumulators. -/
theorem accGet_opMma {i : Insn} {k k' : Core} (hrows : i.rows ≤ if i.fmtA.width = 16 then 32 else 64)
    (h : opMma i k = .ok k') (n : Nat) {r j : Nat} (hr : r < 64) (hj : j < 64) :
    let r0 := if i.fmtA.width = 16 then 32 * bits i.mod 1 1 else 0
    let c0 := if i.fmtA.width = 16 then 32 * bits i.mod 2 1 else 0
    k'.accGet n r j =
      if n = opIx i.dst ∧ (r0 ≤ r ∧ r < r0 + i.rows) ∧ (c0 ≤ j ∧ j < c0 + if i.fmtA.width = 16 then 32 else 64) then
        dot (if bit i.mod 0 then 0 else k.accGet n r j) (k.tileRow i.fmtA (opIx i.s1) (r - r0))
          (k.tileRow i.fmtB (opIx i.s2) (j - c0))
      else k.accGet n r j := by
  have row := bits_one_le i.mod 1
  have col := bits_one_le i.mod 2
  simp only [opMma, CoreRes.ok.injEq] at h
  subst h
  have rows : (if i.fmtA.width = 16 then 32 * bits i.mod 1 1 else 0) + i.rows ≤ 64 := by
    split_ifs at hrows ⊢ <;> omega
  have cols : (if i.fmtA.width = 16 then 32 * bits i.mod 2 1 else 0) + (if i.fmtA.width = 16 then 32 else 64) ≤ 64 := by
    split_ifs <;> omega
  rw [accGet_mmRows _ _ _ _ _ _ _ _ (by simpa using rows) (by simpa using cols) _ _ _ hr hj]
  simp only [beq_iff_eq, Nat.add_zero, List.length_map, List.length_range]
  refine if_ctx_congr Iff.rfl (fun written => ?_) fun _ => rfl
  obtain ⟨-, ⟨_, _⟩, _, _⟩ := written
  rw [getD_map_range _ _ (by omega), getD_map_range _ _ (by omega)]

/-- What MMAX leaves in the accumulators: as MMA, each row of A taken from a pair of tiles. -/
theorem accGet_opMmax {i : Insn} {k k' : Core} (h : opMmax i k = .ok k') (n : Nat) {r j : Nat} (hr : r < 64) (hj : j < 64) :
    k'.accGet n r j =
      if n = opIx i.dst ∧ r < i.rows then
        dot (if bit i.mod 0 then 0 else k.accGet n r j)
          (k.tileRow i.fmtA (opIx i.s1) r ++ k.tileRow i.fmtA (opIx i.s1 + 1) r) (k.tileRow i.fmtB (opIx i.s2) j)
      else k.accGet n r j := by
  have rows := i.rows_le
  simp only [opMmax, CoreRes.ok.injEq] at h
  subst h
  rw [accGet_mmRows _ _ _ _ _ _ _ _ (by simpa using rows) (by simp) _ _ _ hr hj]
  simp only [Nat.add_zero, Nat.zero_add, Nat.sub_zero, Nat.zero_le, true_and, List.length_map, List.length_range, hj, and_true]
  refine if_ctx_congr Iff.rfl (fun written => ?_) fun _ => rfl
  rw [getD_map_range _ _ written.2, getD_map_range _ _ hj]

/-- Settles O3: each output element is one dot product on the previous value, and nothing but the accumulators is
written. -/
theorem matrixInstructionsAccumulate : Obligations.MatrixInstructionsAccumulate := by
  unfold Obligations.MatrixInstructionsAccumulate
  intro s c w ecc hi hgo he
  have legal : (Insn.ofWord w).legal = true := hi.2.2.2.2.2.2.2
  dsimp only
  refine ⟨fun hop => ?_, fun hop => ?_⟩
  · obtain ⟨m, hm⟩ := opMma_acc (Insn.ofWord w) (getCore s c)
    refine Completes.of_pure hi hop he hgo hm rfl rfl rfl
      fun t went only core => ⟨went, only, by rw [core]; rfl, fun n r j _ hr hj => ?_⟩
    rw [core, withLoops_accGet]
    refine (accGet_opMma (Insn.rows_of_legal_mma hop legal) hm n hr hj).trans ?_
    simp only [dot, apply_ite f32dec]
  · obtain ⟨m, hm⟩ := opMmax_acc (Insn.ofWord w) (getCore s c)
    refine Completes.of_pure hi hop he hgo hm rfl rfl rfl
      fun t went only core => ⟨went, only, by rw [core]; rfl, fun n r j _ hr hj => ?_⟩
    rw [core, withLoops_accGet]
    refine (accGet_opMmax hm n hr hj).trans ?_
    simp only [dot, apply_ite f32dec]

end Sys2Proof.Machine
end

section
/-! PROOFS. ZERO and TMOV (R77): clearing and copying one register of a sparse map that holds several. -/
namespace Sys2Proof.Machine

variable {α : Type}

theorem SMap.get_of_absent (d : Nat → α) {m : SMap α} {k : Nat} (h : ∀ e ∈ m, e.1 ≠ k) : SMap.get d m k = d k := by
  induction m with
  | nil => rfl
  | cons e m ih =>
    obtain ⟨he, hm⟩ := List.forall_mem_cons.1 h
    rw [SMap.get, if_neg (Ne.symm he), ih hm]

theorem SMap.get_append_of_absent_left (d : Nat → α) {a b : SMap α} {k : Nat} (h : ∀ e ∈ a, e.1 ≠ k) :
    SMap.get d (a ++ b) k = SMap.get d b k := by
  induction a with
  | nil => rfl
  | cons e a ih =>
    obtain ⟨he, ha⟩ := List.forall_mem_cons.1 h
    rw [List.cons_append, SMap.get, if_neg (Ne.symm he), ih ha]

theorem SMap.get_append_of_absent_right (d : Nat → α) {a b : SMap α} {k : Nat} (h : ∀ e ∈ b, e.1 ≠ k) :
    SMap.get d (a ++ b) k = SMap.get d a k := by
  induction a with
  | nil => exact SMap.get_of_absent d h
  | cons e a ih => rw [List.cons_append, SMap.get, SMap.get, ih]

/-- Dropping entries of other keys does not change what a key reads as. -/
theorem SMap.get_filter (d : Nat → α) {m : SMap α} {p : Nat × α → Bool} {k : Nat} (h : ∀ v, p (k, v) = true) :
    SMap.get d (m.filter p) k = SMap.get d m k := by
  induction m with
  | nil => rfl
  | cons e m ih =>
    by_cases hp : p e = true
    · rw [List.filter_cons_of_pos hp, SMap.get, SMap.get, ih]
    · have hk : k ≠ e.1 := by
        rintro rfl
        exact hp (h e.2)
      rw [List.filter_cons_of_neg hp, ih, SMap.get, if_neg hk]

/-- The keys of register `src` moved to register `dst`: there each reads as it did. -/
theorem SMap.get_moved (v : α) {size : Nat} (hs : 0 < size) (dst src : Nat) (m : SMap α) {k : Nat} (hk : k / size = dst) :
    SMap.get (fun _ => v) ((m.filter (fun e => e.1 / size == src)).map (fun e => (e.1 % size + size * dst, e.2))) k =
      SMap.get (fun _ => v) m (k % size + size * src) := by
  induction m with
  | nil => rfl
  | cons e m ih =>
    have split : e.1 % size + size * (e.1 / size) = e.1 := Nat.mod_add_div _ _
    have split' : k % size + size * (k / size) = k := Nat.mod_add_div _ _
    by_cases he : e.1 / size = src
    · have same : k = e.1 % size + size * dst ↔ k % size + size * src = e.1 := by
        rw [hk] at split'
        rw [he] at split
        omega
      rw [List.filter_cons_of_pos (by simpa using he), List.map_cons, SMap.get, SMap.get, ih]
      simp only [same]
    · rw [List.filter_cons_of_neg (by simpa using he), ih, SMap.get, if_neg]
      intro hk
      rw [← hk, Nat.add_mul_div_left _ _ hs, Nat.div_eq_of_lt (Nat.mod_lt _ hs), Nat.zero_add] at he
      exact he rfl

/-- Copying register `src` to register `dst`: keys of `dst` read as those of `src`, all others as before. -/
theorem SMap.get_copyReg (v : α) {size : Nat} (hs : 0 < size) (dst src : Nat) (m : SMap α) (k : Nat) :
    SMap.get (fun _ => v) (copyReg size dst src m) k =
      SMap.get (fun _ => v) m (if k / size = dst then k % size + size * src else k) := by
  have inReg : ∀ e ∈ (m.filter (fun e => e.1 / size == src)).map (fun e => (e.1 % size + size * dst, e.2)),
      e.1 / size = dst := by
    rintro _ he
    obtain ⟨x, -, rfl⟩ := List.mem_map.1 he
    simp [Nat.add_mul_div_left _ _ hs, Nat.div_eq_of_lt (Nat.mod_lt _ hs)]
  have below : ∀ e ∈ (m.filter (fun e => e.1 / size != dst)).filter (fun e => decide (e.1 / size < dst)),
      e.1 / size < dst := fun e he => by simpa using (List.mem_filter.1 he).2
  have above : ∀ e ∈ (m.filter (fun e => e.1 / size != dst)).filter (fun e => decide (dst < e.1 / size)),
      dst < e.1 / size := fun e he => by simpa using (List.mem_filter.1 he).2
  unfold copyReg
  obtain hlt | heq | hgt := Nat.lt_trichotomy (k / size) dst
  · rw [if_neg hlt.ne, SMap.get_append_of_absent_right, SMap.get_append_of_absent_right, SMap.get_filter, SMap.get_filter]
    · simp [hlt.ne]
    · simp [hlt]
    · rintro e he rfl
      exact hlt.ne (inReg e he)
    · rintro e he rfl
      exact (above e he).not_gt hlt
  · rw [if_pos heq, SMap.get_append_of_absent_right, SMap.get_append_of_absent_left, SMap.get_moved v hs dst src m heq]
    · rintro e he rfl
      exact (below e he).ne heq
    · rintro e he rfl
      exact (above e he).ne' heq
  · rw [if_neg hgt.ne', SMap.get_append_of_absent_left, SMap.get_filter, SMap.get_filter]
    · simp [hgt.ne']
    · simp [hgt]
    · rintro e he rfl
      obtain he | he := List.mem_append.1 he
      · exact (below e he).not_gt hgt
      · exact hgt.ne' (inReg e he)

theorem div_key {size n x : Nat} (hx : x < size) : (size * n + x) / size = n := by
  rw [Nat.mul_add_div (by omega), Nat.div_eq_of_lt hx, Nat.add_zero]

/-- A key of register n after the copy. -/
theorem SMap.get_copyReg_key (v : α) {size : Nat} (dst src : Nat) (m : SMap α) (n : Nat) {x : Nat} (hx : x < size) :
    SMap.get (fun _ => v) (copyReg size dst src m) (size * n + x) =
      SMap.get (fun _ => v) m (size * (if n = dst then src else n) + x) := by
  rw [SMap.get_copyReg v (by omega), div_key hx]
  congr 1
  split_ifs
  · rw [Nat.mul_add_mod, Nat.mod_eq_of_lt hx, Nat.add_comm]
  · rfl

/-- A key of register n after register d is cleared. -/
theorem SMap.get_clear_key (v : α) {size : Nat} (d : Nat) (m : SMap α) (n : Nat) {x : Nat} (hx : x < size) :
    SMap.get (fun _ => v) (SMap.clear (fun e => e / size == d) m) (size * n + x) =
      if n = d then v else SMap.get (fun _ => v) m (size * n + x) := by
  rw [SMap.get_clear, div_key hx]
  simp only [beq_iff_eq]

theorem accGet_eq (k : Core) (n r j : Nat) : k.accGet n r j = SMap.get (fun _ => 0) k.acc (4096 * n + (64 * r + j)) := by
  rw [Core.accGet, Nat.add_assoc]

theorem tileByte_eq (k : Core) (n b : Nat) : k.tileByte n b = (SMap.get (fun _ => (0 : Byte)) k.tiles (4096 * n + b)).toNat :=
  rfl

/-- R77: what ZERO leaves in the files: the destination cleared. -/
theorem exists_opZero (i : Insn) (k : Core) (hdst : isT i.dst = true ∨ isAcc i.dst = true) :
    ∃ k', opZero i k = .ok k' ∧
      k' = { k with tiles := k'.tiles, acc := k'.acc, rowMax := k'.rowMax, rowSum := k'.rowSum } ∧
      (∀ n b, b < 4096 → k'.tileByte n b = if isT i.dst ∧ n = opIx i.dst then 0 else k.tileByte n b) ∧
      (∀ n r j, r < 64 → j < 64 → k'.accGet n r j = if isAcc i.dst ∧ n = opIx i.dst then 0 else k.accGet n r j) ∧
      (∀ n r, r < 64 → k'.maxGet n r = (if isAcc i.dst ∧ n = opIx i.dst then f32ninf else k.maxGet n r) ∧
        k'.sumGet n r = if isAcc i.dst ∧ n = opIx i.dst then 0 else k.sumGet n r) := by
  by_cases tile : isT i.dst = true
  · refine ⟨_, if_pos tile, rfl, fun n b hb => ?_, fun n r j _ _ => ?_, fun n r _ => ?_⟩
    · rw [tileByte_eq, clearReg, SMap.get_clear_key 0 _ _ _ hb, apply_ite BitVec.toNat]
      simp only [tile, true_and]
      rfl
    · simp [isT_ne_isAcc tile]; rfl
    · simp [isT_ne_isAcc tile]; exact ⟨rfl, rfl⟩
  · have acc : isAcc i.dst = true := hdst.resolve_left tile
    refine ⟨_, if_neg tile, rfl, fun n b _ => ?_, fun n r j hr hj => ?_, fun n r hr => ⟨?_, ?_⟩⟩
    · simp [tile]; rfl
    · rw [accGet_eq, clearReg, SMap.get_clear_key 0 _ _ _ (by omega), ← accGet_eq]
      simp only [acc, true_and]
    · rw [Core.maxGet, SMap.get_clear_key f32ninf _ _ _ hr]
      simp only [acc, true_and]
      rfl
    · rw [Core.sumGet, SMap.get_clear_key 0 _ _ _ hr]
      simp only [acc, true_and]
      rfl

/-- R77: what TMOV leaves in the files: the destination as the source. -/
theorem exists_opTmov (i : Insn) (k : Core) (hfile : isT i.dst = true ∨ isAcc i.dst = true) :
    ∃ k', opTmov i k = .ok k' ∧
      k' = { k with tiles := k'.tiles, acc := k'.acc, rowMax := k'.rowMax, rowSum := k'.rowSum } ∧
      (∀ n b, b < 4096 → k'.tileByte n b = k.tileByte (if isT i.dst ∧ n = opIx i.dst then opIx i.s1 else n) b) ∧
      (∀ n r j, r < 64 → j < 64 →
        k'.accGet n r j = k.accGet (if isAcc i.dst ∧ n = opIx i.dst then opIx i.s1 else n) r j) ∧
      (∀ n r, r < 64 → k'.maxGet n r = k.maxGet (if isAcc i.dst ∧ n = opIx i.dst then opIx i.s1 else n) r ∧
        k'.sumGet n r = k.sumGet (if isAcc i.dst ∧ n = opIx i.dst then opIx i.s1 else n) r) := by
  by_cases same : opIx i.dst = opIx i.s1
  · have self (p : Prop) [Decidable p] (n : Nat) : (if p ∧ n = opIx i.dst then opIx i.s1 else n) = n := by
      split_ifs with h
      · rw [h.2, same]
      · rfl
    refine ⟨k, if_pos same, rfl, fun n b _ => ?_, fun n r j _ _ => ?_, fun n r _ => ⟨?_, ?_⟩⟩
    all_goals rw [self]
  by_cases tile : isT i.dst = true
  · refine ⟨_, (if_neg same).trans (if_pos tile), rfl, fun n b hb => ?_, fun n r j _ _ => ?_, fun n r _ => ?_⟩
    · rw [tileByte_eq, SMap.get_copyReg_key 0 _ _ _ _ hb]
      simp only [tile, true_and]
      rfl
    · simp [isT_ne_isAcc tile]; rfl
    · simp [isT_ne_isAcc tile]; exact ⟨rfl, rfl⟩
  · have acc : isAcc i.dst = true := hfile.resolve_left tile
    refine ⟨_, (if_neg same).trans (if_neg tile), rfl, fun n b _ => ?_, fun n r j hr hj => ?_, fun n r hr => ⟨?_, ?_⟩⟩
    · simp [tile]; rfl
    · rw [accGet_eq, SMap.get_copyReg_key 0 _ _ _ _ (by omega), ← accGet_eq]
      simp only [acc, true_and]
    · rw [Core.maxGet, SMap.get_copyReg_key f32ninf _ _ _ _ hr]
      simp only [acc, true_and]
      rfl
    · rw [Core.sumGet, SMap.get_copyReg_key 0 _ _ _ _ hr]
      simp only [acc, true_and]
      rfl

theorem Insn.dst_of_legal_zero {i : Insn} (hop : i.opc = 0x18) (h : i.legal = true) :
    isT i.dst = true ∨ isAcc i.dst = true := by
  simp only [Insn.legal, hop, Bool.and_eq_true, Bool.or_eq_true] at h
  exact h.2.1

theorem Insn.dst_of_legal_tmov {i : Insn} (hop : i.opc = 0x19) (h : i.legal = true) :
    isT i.dst = true ∨ isAcc i.dst = true := by
  simp only [Insn.legal, hop, Bool.and_eq_true, Bool.or_eq_true] at h
  exact h.2.1.imp And.left And.left

/-- Settles O4: both rewrite one register's keys of each map, whole. -/
theorem clearsAndCopiesWriteOneRegister : Obligations.ClearsAndCopiesWriteOneRegister := by
  unfold Obligations.ClearsAndCopiesWriteOneRegister
  intro s c w ecc hi hgo he
  have legal : (Insn.ofWord w).legal = true := hi.2.2.2.2.2.2.2
  dsimp only
  refine ⟨fun hop => ?_, fun hop => ?_⟩
  · obtain ⟨k', hk, frame, tiles, acc, vecs⟩ :=
      exists_opZero (Insn.ofWord w) (getCore s c) (Insn.dst_of_legal_zero hop legal)
    refine Completes.of_pure hi hop he hgo hk (by rw [frame]) (by rw [frame]) rfl fun t went only core => ?_
    rw [core]
    refine ⟨went, only, ?_, tiles, acc, vecs⟩
    rw [frame]; rfl
  · obtain ⟨k', hk, frame, tiles, acc, vecs⟩ :=
      exists_opTmov (Insn.ofWord w) (getCore s c) (Insn.dst_of_legal_tmov hop legal)
    refine Completes.of_pure hi hop he hgo hk (by rw [frame]) (by rw [frame]) rfl fun t went only core => ?_
    rw [core]
    refine ⟨went, only, ?_, tiles, acc, vecs⟩
    rw [frame]; rfl

end Sys2Proof.Machine
end

section
/-! PROOFS. The scalar instructions (R58, R65, R97, R98): each writes one register of a file. -/
namespace Sys2Proof.Machine

theorem lt_of_isS {b : Nat} (h : isS b = true) : b < 32 := by
  simp only [isS, isFile, Bool.and_eq_true, beq_iff_eq, decide_eq_true_eq] at h
  omega

theorem isS_of_lt {b : Nat} (h : b < 32) : isS b = true := by
  simp only [isS, isFile, Bool.and_eq_true, beq_iff_eq, decide_eq_true_eq]
  omega

theorem opIx_of_lt {b : Nat} (h : b < 32) : opIx b = b := Nat.mod_eq_of_lt h

theorem setS_sregs (k : Core) (b : Nat) (v : W64) : k.setS b v = { k with sregs := (k.setS b v).sregs } := by
  unfold Core.setS
  split_ifs <;> rfl

/-- A scalar register after a write of one: S0 keeps its value (R58). -/
theorem s_setS (k : Core) {b : Nat} (v : W64) (hb : b < 32) {n : Nat} (hn : n < 32) :
    (k.setS b v).s n = if n = b ∧ n ≠ 0 then v else k.s n := by
  unfold Core.setS
  simp only [isS_of_lt hb, opIx_of_lt hb, true_and]
  by_cases zero : b = 0
  · simp [zero]
  · have written : n = b ↔ n = b ∧ n ≠ 0 := by omega
    simp only [if_pos zero, Core.s, isS_of_lt hn, if_true, opIx_of_lt hn, SMap.get_set, ← written]

theorem setAR_aregs (k : Core) (b : Nat) (v : W48) : k.setAR b v = { k with aregs := (k.setAR b v).aregs } := by
  unfold Core.setAR
  split_ifs <;> rfl

theorem isAR_iff {b : Nat} : isAR b = true ↔ 32 ≤ b ∧ b < 48 := by
  simp only [isAR, isFile, Bool.and_eq_true, beq_iff_eq, decide_eq_true_eq]
  omega

/-- An address register after a write of one. -/
theorem ar_setAR (k : Core) {b : Nat} (v : W48) (hb : isAR b = true) {n : Nat} (hn : n < 16) :
    (k.setAR b v).ar (32 + n) = if 32 + n = b then v else k.ar (32 + n) := by
  have reg : isAR (32 + n) = true := isAR_iff.2 (by omega)
  have same : opIx (32 + n) = opIx b ↔ 32 + n = b := by
    rw [isAR_iff] at hb
    unfold opIx
    omega
  simp only [Core.setAR, hb, if_true, Core.ar, reg, SMap.get_set, same]

/-- R97: SALU's operation by its code, the comparisons signed and unsigned. -/
theorem salu_eq (op : Nat) (a b : W64) : salu op a b =
    (match op with
     | 0 => a + b | 1 => a - b | 2 => a * b | 3 => a &&& b | 4 => a ||| b | 5 => a ^^^ b
     | 6 => a <<< (b.toNat % 64) | 7 => a >>> (b.toNat % 64) | 8 => a.sshiftRight (b.toNat % 64)
     | 9 => if a.toInt < b.toInt then a else b
     | 10 => if a.toInt < b.toInt then b else a
     | 11 => if a.toInt < b.toInt then 1 else 0
     | 12 => if a.toNat < b.toNat then 1 else 0
     | 13 => (fadd (a.setWidth 32) (b.setWidth 32)).setWidth 64
     | 14 => (fmul (a.setWidth 32) (b.setWidth 32)).setWidth 64
     | _ => (f32enc (.ofInt a.toInt)).setWidth 64) := by
  have shift : (b &&& 63).toNat = b.toNat % 64 := by
    rw [BitVec.toNat_and]
    exact Nat.and_two_pow_sub_one_eq_mod b.toNat 6
  unfold salu
  simp only [shift, BitVec.slt, BitVec.ult, decide_eq_true_eq, fpResult] <;> rfl

/-! What the fields of a legal scalar instruction name. -/

theorem Insn.dst_of_legal_salu {i : Insn} (hop : i.opc = 0x60) (h : i.legal = true) : i.dst < 32 := by
  simp only [Insn.legal, hop, Bool.and_eq_true] at h
  exact lt_of_isS h.2.1.1.1.1.1

theorem Insn.dst_of_legal_smov {i : Insn} (hop : i.opc = 0x61) (h : i.legal = true) : i.dst < 32 := by
  simp only [Insn.legal, hop, Bool.and_eq_true] at h
  exact lt_of_isS h.2.1

theorem Insn.dst_of_legal_amov {i : Insn} (hop : i.opc = 0x62) (h : i.legal = true) : isAR i.dst = true := by
  simp only [Insn.legal, hop, Bool.and_eq_true] at h
  exact h.2.1.1.1.1

theorem Insn.dst_of_legal_movsr {i : Insn} (hop : i.opc = 0x63) (hmod : i.mod = 0) (h : i.legal = true) : i.dst < 32 := by
  simp only [Insn.legal, hop, hmod, Bool.and_eq_true] at h
  exact lt_of_isS h.2.2.1.1

/-- An instruction that writes one scalar register. -/
theorem Completes.of_setS {ins : Instr} {s : State} {c : CoreId} {w : BitVec 128} {ecc : Ecc} {op : Nat}
    {f : Insn → Core → CoreRes} {v v' : W64} (hi : Issues s c w) (hop : (Insn.ofWord w).opc = op)
    (he : ecc ≠ .uncorrectable) (hgo : Proceeds s c) (hdst : (Insn.ofWord w).dst < 32)
    (hf : f (Insn.ofWord w) (getCore s c) = .ok ((getCore s c).setS (Insn.ofWord w).dst v')) (hv : v' = v)
    (hrun : exec ins s = issuePure op c ecc s f) :
    Completes ins s (fun t =>
      let k' := getCore t c
      WentOn s t c ∧ OnlyCore s t c ∧ k' = { getCore s c with sregs := k'.sregs, loops := k'.loops } ∧
      ∀ n, n < 32 → k'.s n = if n = (Insn.ofWord w).dst ∧ n ≠ 0 then v else (getCore s c).s n) := by
  subst hv
  have frame := setS_sregs (getCore s c) (Insn.ofWord w).dst v'
  refine Completes.of_pure hi hop he hgo hf (by rw [frame]) (by rw [frame]) hrun fun t went only core => ?_
  dsimp only
  rw [core]
  refine ⟨went, only, ?_, fun n hn => s_setS _ _ hdst hn⟩
  rw [frame]; rfl

/-- Settles O9: each of them is one write of a register file, or none. -/
theorem scalarInstructionsWriteOneRegister : Obligations.ScalarInstructionsWriteOneRegister := by
  unfold Obligations.ScalarInstructionsWriteOneRegister
  intro s c w ecc hi hgo he
  have legal : (Insn.ofWord w).legal = true := hi.2.2.2.2.2.2.2
  refine ⟨fun hop => ?_, fun hop => ?_, fun hop => ?_, fun hop => ?_, fun hop hmod => ?_, fun hop hmod => ?_⟩
  · exact Completes.of_pure hi hop he hgo (f := fun _ k => .ok k) rfl rfl rfl rfl
      fun t went only core => ⟨went, only, by rw [core]; rfl⟩
  · exact Completes.of_setS hi hop he hgo (Insn.dst_of_legal_salu hop legal) (f := opSalu) rfl (salu_eq _ _ _) rfl
  · exact Completes.of_setS hi hop he hgo (Insn.dst_of_legal_smov hop legal) (f := opSmov) rfl rfl rfl
  · have dst := Insn.dst_of_legal_amov hop legal
    have frame (v : W48) := setAR_aregs (getCore s c) (Insn.ofWord w).dst v
    refine Completes.of_pure hi hop he hgo (f := opAmov) rfl (by rw [frame]) (by rw [frame]) rfl
      fun t went only core => ?_
    dsimp only
    rw [core]
    refine ⟨went, only, by rw [frame]; rfl, fun n hn => ?_⟩
    rw [withLoops_ar, ar_setAR _ _ dst hn, apply_ite BitVec.toNat]
    simp only [BitVec.toNat_add, BitVec.toNat_setWidth, BitVec.toNat_ofNat, Nat.mod_add_mod, Nat.add_mod_mod]
  · have read : opMovsr c (Insn.ofWord w) (getCore s c) =
        .ok ((getCore s c).setS (Insn.ofWord w).dst (special (getCore s c) c (Insn.ofWord w).imm)) :=
      if_neg (by rw [hmod]; decide)
    exact Completes.of_setS hi hop he hgo (Insn.dst_of_legal_movsr hop hmod legal) (f := opMovsr c) read rfl rfl
  · have write : opMovsr c (Insn.ofWord w) (getCore s c) =
        .ok { getCore s c with seed := (getCore s c).s (Insn.ofWord w).s1, lanes := genSeed ((getCore s c).s (Insn.ofWord w).s1) } :=
      if_pos hmod
    exact Completes.of_pure hi hop he hgo write rfl rfl rfl
      fun t went only core => ⟨went, only, by rw [core]; rfl⟩

end Sys2Proof.Machine
end

section
/-! PROOFS. RED (R76): a column of row reductions, or a row of column reductions. -/
namespace Sys2Proof.Machine

/-- Column `pos` of an accumulator, its first n rows written. -/
def accColumn (dst pos : Nat) (val : Nat → W32) (n : Nat) (k : Core) : Core :=
  (List.range n).foldl (fun k r => k.accSet dst r pos (val r)) k

theorem accColumn_succ (dst pos : Nat) (val : Nat → W32) (n : Nat) (k : Core) :
    accColumn dst pos val (n + 1) k = (accColumn dst pos val n k).accSet dst n pos (val n) := by
  simp [accColumn, List.range_succ]

theorem accColumn_acc (dst pos : Nat) (val : Nat → W32) (n : Nat) (k : Core) :
    ∃ m, accColumn dst pos val n k = { k with acc := m } := by
  induction n with
  | zero => exact ⟨k.acc, rfl⟩
  | succ n ih =>
    obtain ⟨m, hm⟩ := ih
    exact ⟨_, by rw [accColumn_succ, hm]; rfl⟩

theorem accGet_accColumn {dst pos : Nat} (val : Nat → W32) {n : Nat} (k : Core) (hpos : pos < 64) (hn : n ≤ 64) (n' : Nat)
    {r j : Nat} (hr : r < 64) (hj : j < 64) :
    (accColumn dst pos val n k).accGet n' r j = if n' = dst ∧ r < n ∧ j = pos then val r else k.accGet n' r j := by
  induction n with
  | zero => simp [accColumn]
  | succ n ih =>
    rw [accColumn_succ, accGet_accSet _ _ _ _ _ _ _ _ (by omega) hpos hr hj, ih (by omega)]
    by_cases last : n' = dst ∧ r = n ∧ j = pos
    · obtain ⟨rfl, rfl, rfl⟩ := last
      simp
    · have earlier : (n' = dst ∧ r < n + 1 ∧ j = pos) ↔ (n' = dst ∧ r < n ∧ j = pos) := by omega
      simp only [if_neg last, earlier]

/-- With AXIS 0 RED writes a column. -/
theorem opRed_column {i : Insn} (k : Core) (h : bit i.mod 4 = false) : opRed i k =
    .ok (accColumn (opIx i.dst) (bits i.imm 8 6) (fun r => reduce (bits i.mod 0 3) (k.accRow (opIx i.s1) r)) i.rows k) := by
  have pairs (val : Nat → W32) : ((List.range i.rows).map val).zip (List.range i.rows) =
      (List.range i.rows).map (fun r => (val r, r)) := by
    simpa using List.zip_map' (f := val) (g := id) (l := List.range i.rows)
  simp only [opRed, h, Bool.false_eq_true, if_false, pairs, List.foldl_map]
  rfl

/-- With AXIS 1 it writes a row. -/
theorem opRed_row {i : Insn} (k : Core) (h : bit i.mod 4 = true) : opRed i k =
    .ok (k.accPut (opIx i.dst) (bits i.imm 8 6) 0 ((List.range 64).map (fun c =>
      reduce (bits i.mod 0 3) ((List.range i.rows).map (fun r => k.accGet (opIx i.s1) r c))))) := by
  simp only [opRed, h, if_true]

theorem exists_opRed (i : Insn) (k : Core) :
    ∃ m, opRed i k = .ok { k with acc := m } ∧ ∀ n r j, r < 64 → j < 64 → Core.accGet { k with acc := m } n r j =
      if n = opIx i.dst ∧ bit i.mod 4 = false ∧ r < i.rows ∧ j = bits i.imm 8 6 then
        reduce (bits i.mod 0 3) (k.accRow (opIx i.s1) r)
      else if n = opIx i.dst ∧ bit i.mod 4 = true ∧ r = bits i.imm 8 6 then
        reduce (bits i.mod 0 3) ((List.range i.rows).map (fun x => k.accGet (opIx i.s1) x j))
      else k.accGet n r j := by
  have pos : bits i.imm 8 6 < 64 := bits_lt i.imm 8 6
  cases axis : bit i.mod 4 with
  | false =>
    obtain ⟨m, hm⟩ := accColumn_acc (opIx i.dst) (bits i.imm 8 6)
      (fun r => reduce (bits i.mod 0 3) (k.accRow (opIx i.s1) r)) i.rows k
    refine ⟨m, (opRed_column k axis).trans (congrArg _ hm), fun n r j hr hj => ?_⟩
    rw [← hm, accGet_accColumn _ k pos i.rows_le n hr hj]
    simp
  | true =>
    obtain ⟨m, hm⟩ := accPut_acc k (opIx i.dst) (bits i.imm 8 6) 0 ((List.range 64).map (fun c =>
      reduce (bits i.mod 0 3) ((List.range i.rows).map (fun r => k.accGet (opIx i.s1) r c))))
    refine ⟨m, (opRed_row k axis).trans (congrArg _ hm), fun n r j hr hj => ?_⟩
    rw [← hm, accGet_accPut _ _ _ _ _ _ _ _ pos (by simp) hr hj, Nat.sub_zero, getD_map_range _ _ hj]
    simp [hj]

/-- Settles O7: the results are computed from the source as it stood, then written in one column or one row. -/
theorem reductionsWriteOneRowOrColumn : Obligations.ReductionsWriteOneRowOrColumn := by
  unfold Obligations.ReductionsWriteOneRowOrColumn
  intro s c w ecc hi hgo he
  dsimp only
  intro hop
  obtain ⟨m, hm, elements⟩ := exists_opRed (Insn.ofWord w) (getCore s c)
  refine Completes.of_pure hi hop he hgo hm rfl rfl rfl fun t went only core => ?_
  rw [core, withLoops_accGet]
  exact ⟨went, only, rfl, fun n r j _ => elements n r j⟩

end Sys2Proof.Machine
end

section
/-! PROOFS. CVT and DQ (R70, R71, R43): rows between the accumulators and the tiles. -/
namespace Sys2Proof.Machine

/-- A byte of a memory after a byte string is written into it. -/
theorem Bytes.get_write (m : Bytes) (a : Nat) (bs : List Byte) (x : Nat) :
    Bytes.get (Bytes.write m a bs) x = if a ≤ x ∧ x < a + bs.length then bs.getD (x - a) 0 else Bytes.get m x := by
  by_cases within : a ≤ x ∧ x < a + bs.length
  · have i : x - a < bs.length := by omega
    rw [if_pos within, ← List.getElem_eq_getD (h := i) 0, ← Bytes.get_write_same m a bs _ i, Nat.add_sub_cancel' within.1]
  · rw [if_neg within, Bytes.get_write_other m a bs x (by omega)]

/-! DQ: rows of values into an accumulator. -/

theorem putRows_acc (n r0 c0 : Nat) (rows : List (List W32)) (r : Nat) (k : Core) :
    ∃ m, putRows n r0 c0 rows r k = { k with acc := m } := by
  induction rows generalizing r k with
  | nil => exact ⟨k.acc, rfl⟩
  | cons xs rows ih =>
    obtain ⟨m, hm⟩ := accPut_acc k n (r0 + r) c0 xs
    obtain ⟨m', hm'⟩ := ih (r + 1) { k with acc := m }
    exact ⟨m', by rw [putRows, hm, hm']⟩

theorem accGet_putRows (n r0 c0 : Nat) {len : Nat} (rows : List (List W32)) (r : Nat) (k : Core)
    (hlen : ∀ xs ∈ rows, xs.length = len) (hr : r0 + r + rows.length ≤ 64) (hc : c0 + len ≤ 64) (n' : Nat) {r' c' : Nat}
    (hr' : r' < 64) (hc' : c' < 64) :
    (putRows n r0 c0 rows r k).accGet n' r' c' =
      if n' = n ∧ (r0 + r ≤ r' ∧ r' < r0 + r + rows.length) ∧ (c0 ≤ c' ∧ c' < c0 + len) then
        (rows.getD (r' - (r0 + r)) []).getD (c' - c0) 0
      else k.accGet n' r' c' := by
  induction rows generalizing r k with
  | nil => rw [putRows, if_neg (by simp only [List.length_nil]; omega)]
  | cons xs rows ih =>
    obtain ⟨hxs, hrows⟩ := List.forall_mem_cons.1 hlen
    simp only [List.length_cons] at hr ⊢
    rw [putRows, ih _ _ hrows (by omega), accGet_accPut _ _ _ _ _ _ _ _ (by omega) (by omega) hr' hc', hxs]
    by_cases later : n' = n ∧ (r0 + (r + 1) ≤ r' ∧ r' < r0 + (r + 1) + rows.length) ∧ (c0 ≤ c' ∧ c' < c0 + len)
    · rw [if_pos later, if_pos (by omega), show r' - (r0 + r) = r' - (r0 + (r + 1)) + 1 by omega, List.getD_cons_succ]
    · rw [if_neg later]
      by_cases here : n' = n ∧ r' = r0 + r ∧ c0 ≤ c' ∧ c' < c0 + len
      · rw [if_pos here, if_pos (by omega), here.2.1, Nat.sub_self, List.getD_cons_zero]
      · rw [if_neg here, if_neg (by omega)]

/-- The half of an accumulator that a tile stands for lies within it (R60, R70, R71). -/
theorem halfRow_add_rows_le {f : Fmt} {rows : Nat} (mod : Nat) (h : rows ≤ f.tileRows false) :
    halfRow f mod + rows ≤ 64 := by
  have half := bits_one_le mod 1
  simp only [Fmt.tileRows, Bool.false_or] at h
  unfold halfRow
  split_ifs at h ⊢ <;> omega

theorem halfCol_add_cols_le (f : Fmt) (mod : Nat) : halfCol f mod + f.cols ≤ 64 := by
  have half := bits_one_le mod 2
  unfold halfCol Fmt.cols
  split_ifs <;> omega

theorem Insn.rows_of_legal_dq {i : Insn} (hop : i.opc = 0x21) (h : i.legal = true) : i.rows ≤ i.fmtB.tileRows false := by
  simp only [Insn.legal, hop, Bool.and_eq_true, decide_eq_true_eq] at h
  exact h.2.2

theorem Insn.rows_of_legal_cvt {i : Insn} (hop : i.opc = 0x20) (h : i.legal = true) : i.rows ≤ i.fmtA.tileRows false := by
  simp only [Insn.legal, hop, Bool.and_eq_true, decide_eq_true_eq] at h
  exact h.2.2

/-- What DQ leaves in the accumulators. -/
theorem exists_opDq {i : Insn} (k : Core) (hrows : i.rows ≤ i.fmtB.tileRows false) :
    ∃ m, opDq i k = .ok { k with acc := m } ∧ ∀ n r j, r < 64 → j < 64 → Core.accGet { k with acc := m } n r j =
      if n = opIx i.dst ∧ (halfRow i.fmtB i.mod ≤ r ∧ r < halfRow i.fmtB i.mod + i.rows) ∧
          (halfCol i.fmtB i.mod ≤ j ∧ j < halfCol i.fmtB i.mod + i.fmtB.cols) then
        ((k.tileRow i.fmtB (opIx i.s1) (r - halfRow i.fmtB i.mod)).map f32enc).getD (j - halfCol i.fmtB i.mod) 0
      else k.accGet n r j := by
  obtain ⟨m, hm⟩ := putRows_acc (opIx i.dst) (halfRow i.fmtB i.mod) (halfCol i.fmtB i.mod)
    ((List.range i.rows).map (fun r => (k.tileRow i.fmtB (opIx i.s1) r).map f32enc)) 0 k
  have rows := halfRow_add_rows_le i.mod hrows
  have cols := halfCol_add_cols_le i.fmtB i.mod
  refine ⟨m, congrArg CoreRes.ok hm, fun n r j hr hj => ?_⟩
  rw [← hm, accGet_putRows (len := i.fmtB.cols) _ _ _ _ _ _ (by simp [Core.tileRow]) (by simpa using rows) cols n hr hj]
  simp only [Nat.add_zero, List.length_map, List.length_range]
  refine if_ctx_congr Iff.rfl (fun written => ?_) fun _ => rfl
  obtain ⟨-, ⟨_, _⟩, _⟩ := written
  rw [getD_map_range _ _ (by omega)]

/-! CVT: rows of values into a tile. -/

/-- The element bytes of a tile's rows lie below its scale store (R60). -/
theorem Fmt.elemRow_mul_le (f : Fmt) {r : Nat} (hr : r < f.tileRows false) : f.elemRow * r + f.elemRow ≤ 2048 := by
  simp only [Fmt.tileRows, Bool.false_or] at hr
  unfold Fmt.elemRow
  split_ifs at hr ⊢ <;> omega

theorem Fmt.tileRows_le (f : Fmt) (tr : Bool) : f.tileRows tr ≤ 64 := by
  unfold Fmt.tileRows
  split_ifs <;> omega

/-- Different rows have different element bytes. -/
theorem Fmt.elemRow_apart (f : Fmt) {q r : Nat} (h : q ≠ r) :
    f.elemRow * q + f.elemRow ≤ f.elemRow * r ∨ f.elemRow * r + f.elemRow ≤ f.elemRow * q := by
  obtain h | h := Nat.lt_or_gt_of_ne h
  · exact .inl (Nat.mul_le_mul_left f.elemRow h)
  · exact .inr (Nat.mul_le_mul_left f.elemRow h)

theorem getD_take {α : Type} (l : List α) (d : α) {n j : Nat} (h : j < n) : (l.take n).getD j d = l.getD j d := by
  simp [List.getD, h]

/-- Padding with the default changes no reading with that default. -/
theorem getD_append_replicate {α : Type} (l : List α) (d : α) (n j : Nat) : (l ++ List.replicate n d).getD j d = l.getD j d := by
  by_cases h : j < l.length
  · exact List.getD_append l _ d j h
  · rw [List.getD_append_right l _ d j (by omega), List.getD_eq_default l d (by omega)]
    simp only [List.getD, List.getElem?_replicate]
    split_ifs <;> rfl

/-- A tile's byte after one of its rows is written (R60): the row's element bytes, its scale bytes, all others kept. -/
theorem tileByte_putTileRow (k : Core) (f : Fmt) (n : Nat) {r : Nat} (elems scales : List Byte) (hr : r < f.tileRows false)
    (n' : Nat) {b : Nat} (hb : b < 4096) :
    (k.putTileRow f n r elems scales).tileByte n' b =
      if n' = n ∧ 2048 + 3 * r ≤ b ∧ b < 2048 + 3 * r + 3 then (scales.getD (b - (2048 + 3 * r)) 0).toNat
      else if n' = n ∧ f.elemRow * r ≤ b ∧ b < f.elemRow * r + min f.elemRow elems.length then
        (elems.getD (b - f.elemRow * r) 0).toNat
      else k.tileByte n' b := by
  have elem := f.elemRow_mul_le hr
  have rows := f.tileRows_le false
  have len : ((scales ++ [0, 0, 0]).take 3).length = 3 := by simp
  have at3 {x : Nat} (hx : x < 3) : ((scales ++ [0, 0, 0]).take 3).getD x 0 = scales.getD x 0 :=
    (getD_take _ _ hx).trans (getD_append_replicate scales 0 3 x)
  simp only [Core.tileByte, Core.putTileRow, Bytes.get_write, len, List.length_take]
  by_cases inScale : n' = n ∧ 2048 + 3 * r ≤ b ∧ b < 2048 + 3 * r + 3
  · obtain ⟨rfl, lo, hi⟩ := inScale
    rw [if_pos (by omega), if_pos ⟨rfl, lo, hi⟩, ← at3 (by omega),
      show 4096 * n' + b - (4096 * n' + 2048 + 3 * r) = b - (2048 + 3 * r) by omega]
  · rw [if_neg (by omega), if_neg inScale]
    by_cases inElem : n' = n ∧ f.elemRow * r ≤ b ∧ b < f.elemRow * r + min f.elemRow elems.length
    · obtain ⟨rfl, lo, hi⟩ := inElem
      rw [if_pos (by omega), if_pos ⟨rfl, lo, hi⟩, show 4096 * n' + b - (4096 * n' + f.elemRow * r) = b - f.elemRow * r by omega,
        getD_take _ _ (by omega)]
    · rw [if_neg (by omega), if_neg inElem]

/-- Row q of a tile holds a converted block: its element codes packed, then its scale bytes (R30, R60). -/
def RowHolds (k : Core) (f : Fmt) (n q : Nat) (blk : Block) : Prop :=
  (∀ b v, b < f.elemRow → (f.packCodes blk.codes)[b]? = some v → k.tileByte n (f.elemRow * q + b) = v.toNat) ∧
  ∀ b, b < 3 → k.tileByte n (2048 + 3 * q + b) = (blk.scales.map (· % 256)).getD b 0

/-- A block written into a row of a tile (R43, R70). -/
abbrev putBlock (f : Fmt) (n r : Nat) (blk : Block) (k : Core) : Core :=
  k.putTileRow f n r (f.packCodes blk.codes) (blk.scales.map (BitVec.ofNat 8))

theorem tileByte_putBlock_other (f : Fmt) {n r : Nat} (blk : Block) (k : Core) (hr : r < f.tileRows false) {n' b : Nat}
    (hn : n' ≠ n) (hb : b < 4096) : (putBlock f n r blk k).tileByte n' b = k.tileByte n' b := by
  rw [tileByte_putTileRow k f n _ _ hr n' hb, if_neg (fun h => hn h.1), if_neg (fun h => hn h.1)]

theorem rowHolds_putBlock_same (f : Fmt) (n : Nat) {r : Nat} (blk : Block) (k : Core) (hr : r < f.tileRows false) :
    RowHolds (putBlock f n r blk k) f n r blk := by
  have elem := f.elemRow_mul_le hr
  have rows := f.tileRows_le false
  refine ⟨fun b v hb hv => ?_, fun b hb => ?_⟩
  · have len : b < (f.packCodes blk.codes).length := (List.getElem?_eq_some_iff.1 hv).1
    rw [tileByte_putTileRow k f n _ _ hr n (by omega), if_neg (by omega), if_pos (by omega), Nat.add_sub_cancel_left,
      List.getD, hv, Option.getD_some]
  · rw [tileByte_putTileRow k f n _ _ hr n (by omega), if_pos (by omega), Nat.add_sub_cancel_left]
    simp only [List.getD, List.getElem?_map]
    cases blk.scales[b]? <;> simp

theorem rowHolds_putBlock_other {f : Fmt} {n r q : Nat} {blk blk' : Block} {k : Core} (hr : r < f.tileRows false)
    (hq : q < f.tileRows false) (hne : q ≠ r) (h : RowHolds k f n q blk') : RowHolds (putBlock f n r blk k) f n q blk' := by
  have elem := f.elemRow_mul_le hr
  have elem' := f.elemRow_mul_le hq
  have apart := f.elemRow_apart hne
  have rows := f.tileRows_le false
  obtain ⟨elems, scales⟩ := h
  refine ⟨fun b v hb hv => ?_, fun b hb => ?_⟩
  · rw [← elems b v hb hv, tileByte_putTileRow k f n _ _ hr n (by omega), if_neg (by omega), if_neg (by omega)]
  · rw [← scales b hb, tileByte_putTileRow k f n _ _ hr n (by omega), if_neg (by omega), if_neg (by omega)]

/-- The rows of values from the first on, converted one after the other: each row takes the next draws (R43). -/
theorem convertRows_cons (f : Fmt) (n r : Nat) (xs : List Num) (rows : List (List Num)) (rs : List Rnd) (k : Core) :
    convertRows f n (xs :: rows) r rs k =
      convertRows f n rows (r + 1) (rs.drop xs.length) (putBlock f n r (convertRow f (rs.take xs.length) xs) k) := rfl

theorem convertRows_tiles (f : Fmt) (n : Nat) (rows : List (List Num)) (r : Nat) (rs : List Rnd) (k : Core) :
    ∃ m, convertRows f n rows r rs k = { k with tiles := m } := by
  induction rows generalizing r rs k with
  | nil => exact ⟨k.tiles, rfl⟩
  | cons xs rows ih => exact ih _ _ (putBlock f n r (convertRow f (rs.take xs.length) xs) k)

theorem tileByte_convertRows_other (f : Fmt) {n : Nat} (rows : List (List Num)) (r : Nat) (rs : List Rnd) (k : Core)
    (hr : r + rows.length ≤ f.tileRows false) {n' b : Nat} (hn : n' ≠ n) (hb : b < 4096) :
    (convertRows f n rows r rs k).tileByte n' b = k.tileByte n' b := by
  induction rows generalizing r rs k with
  | nil => rfl
  | cons xs rows ih =>
    rw [List.length_cons] at hr
    rw [convertRows_cons, ih _ _ _ (by omega), tileByte_putBlock_other f _ k (by omega) hn hb]

theorem rowHolds_convertRows_above {f : Fmt} {n q : Nat} {blk : Block} (rows : List (List Num)) (r : Nat) (rs : List Rnd)
    (k : Core) (hr : r + rows.length ≤ f.tileRows false) (hq : q < r) (h : RowHolds k f n q blk) :
    RowHolds (convertRows f n rows r rs k) f n q blk := by
  induction rows generalizing r rs k with
  | nil => exact h
  | cons xs rows ih =>
    rw [List.length_cons] at hr
    exact ih _ _ _ (by omega) (by omega) (rowHolds_putBlock_other (by omega) (by omega) (by omega) h)

/-- Each row holds its values, converted under its own draws. -/
theorem rowHolds_convertRows {f : Fmt} (n : Nat) {len : Nat} (rows : List (List Num)) (r : Nat) (rs : List Rnd) (k : Core)
    (hlen : ∀ xs ∈ rows, xs.length = len) (hr : r + rows.length ≤ f.tileRows false) {q : Nat} (hq : q < rows.length) :
    RowHolds (convertRows f n rows r rs k) f n (r + q)
      (convertRow f ((rs.drop (q * len)).take len) (rows.getD q [])) := by
  induction rows generalizing r rs k q with
  | nil => exact absurd hq (Nat.not_lt_zero q)
  | cons xs rows ih =>
    obtain ⟨hxs, hrows⟩ := List.forall_mem_cons.1 hlen
    rw [List.length_cons] at hr hq
    rw [convertRows_cons, hxs]
    cases q with
    | zero =>
      rw [Nat.zero_mul, List.drop_zero, List.getD_cons_zero]
      exact rowHolds_convertRows_above _ _ _ _ (by omega) (by omega) (rowHolds_putBlock_same f n _ k (by omega))
    | succ q =>
      have rest := ih (r + 1) (rs.drop len) (putBlock f n r (convertRow f (rs.take len) xs) k) hrows (by omega)
        (q := q) (by omega)
      rw [List.drop_drop, show len + q * len = (q + 1) * len by ring, show r + 1 + q = r + (q + 1) by omega] at rest
      rwa [List.getD_cons_succ]

/-- The values that CVT reads for a row of its tile (R46, R70). -/
def cvtSource (i : Insn) (k : Core) (r : Nat) : List Num :=
  withMult (if isNo i.s2 then none else some (f32dec (k.f i.s2)))
    (((k.accRow (opIx i.s1) (halfRow i.fmtA i.mod + r)).drop (halfCol i.fmtA i.mod)).take i.fmtA.cols |>.map f32dec)

theorem withMult_length (m : Option Num) (xs : List Num) : (withMult m xs).length = xs.length := by
  cases m <;> simp [withMult]

theorem cvtSource_length (i : Insn) (k : Core) (r : Nat) : (cvtSource i k r).length = i.fmtA.cols := by
  have cols := halfCol_add_cols_le i.fmtA i.mod
  rw [cvtSource, withMult_length]
  simp only [List.length_map, List.length_take, List.length_drop, accRow_length]
  omega

/-- What CVT leaves in the tiles. -/
theorem exists_opCvt {i : Insn} (k : Core) (hrows : i.rows ≤ i.fmtA.tileRows false) :
    let g := roundings (i.rnd == 1) k.lanes (i.rows * i.fmtA.cols)
    ∃ m, opCvt i k = .ok { k with lanes := g.1, tiles := m } ∧
      (∀ n b, b < 4096 → n ≠ opIx i.dst → Core.tileByte { k with lanes := g.1, tiles := m } n b = k.tileByte n b) ∧
      ∀ r, r < i.rows → RowHolds { k with lanes := g.1, tiles := m } i.fmtA (opIx i.dst) r
        (convertRow i.fmtA ((g.2.drop (r * i.fmtA.cols)).take i.fmtA.cols) (cvtSource i k r)) := by
  intro g
  obtain ⟨m, hm⟩ := convertRows_tiles i.fmtA (opIx i.dst) ((List.range i.rows).map (cvtSource i k)) 0 g.2
    { k with lanes := g.1 }
  refine ⟨m, congrArg CoreRes.ok hm, fun n b hb hn => ?_, fun r hr => ?_⟩
  · exact hm ▸ tileByte_convertRows_other i.fmtA _ _ _ _ (by simpa using hrows) hn hb
  · have row := rowHolds_convertRows (opIx i.dst) (len := i.fmtA.cols) ((List.range i.rows).map (cvtSource i k)) 0 g.2
      { k with lanes := g.1 } (by simp [cvtSource_length]) (by simpa using hrows) (q := r) (by simpa using hr)
    rwa [hm, Nat.zero_add, getD_map_range _ _ hr] at row

/-- Settles O5: each row is one block in a tile, or one run of elements in an accumulator. -/
theorem conversionsMoveValuesBetweenFiles : Obligations.ConversionsMoveValuesBetweenFiles := by
  unfold Obligations.ConversionsMoveValuesBetweenFiles
  intro s c w ecc hi hgo he
  have legal : (Insn.ofWord w).legal = true := hi.2.2.2.2.2.2.2
  dsimp only
  refine ⟨fun hop => ?_, fun hop => ?_⟩
  · obtain ⟨m, hm, others, rows⟩ := exists_opCvt (getCore s c) (Insn.rows_of_legal_cvt hop legal)
    refine Completes.of_pure hi hop he hgo hm rfl rfl rfl fun t went only core => ?_
    rw [core]
    exact ⟨went, only, rfl, others, rows⟩
  · obtain ⟨m, hm, elements⟩ := exists_opDq (getCore s c) (Insn.rows_of_legal_dq hop legal)
    refine Completes.of_pure hi hop he hgo hm rfl rfl rfl fun t went only core => ?_
    rw [core, withLoops_accGet]
    exact ⟨went, only, rfl, fun n r j _ => elements n r j⟩

end Sys2Proof.Machine
end

section
/-! PROOFS. The elementwise instructions (R72, R73, R75): rows computed one after the other, each from its own row alone. -/
namespace Sys2Proof.Machine

/-! Rows of an accumulator written in order, each from the core as it then stands. -/

/-- n rows of accumulator dst, from row r on, each the values that `g` gives of it. -/
def fillRows (dst : Nat) (g : Core → Nat → List W32) : Nat → Nat → Core → Core
  | 0, _, k => k
  | n + 1, r, k => fillRows dst g n (r + 1) (k.accPut dst r 0 (g k r))

/-- A row's values are 64, and depend on no other row of the accumulators. -/
structure RowLocal (g : Core → Nat → List W32) : Prop where
  length : ∀ k r, (g k r).length = 64
  reads : ∀ k m r, (∀ n j, j < 64 → Core.accGet { k with acc := m } n r j = k.accGet n r j) →
    g { k with acc := m } r = g k r

theorem fillRows_acc (dst : Nat) (g : Core → Nat → List W32) (n r : Nat) (k : Core) :
    ∃ m, fillRows dst g n r k = { k with acc := m } := by
  induction n generalizing r k with
  | zero => exact ⟨k.acc, rfl⟩
  | succ n ih =>
    obtain ⟨m, hm⟩ := accPut_acc k dst r 0 (g k r)
    obtain ⟨m', hm'⟩ := ih (r + 1) { k with acc := m }
    exact ⟨m', by rw [fillRows, hm, hm']⟩

/-- Each row holds what `g` gives of the core as it stood before the first: earlier rows are other rows. -/
theorem accGet_fillRows (dst : Nat) {g : Core → Nat → List W32} (hg : RowLocal g) {n r : Nat} (k : Core) (hr : r + n ≤ 64)
    (n' : Nat) {r' j : Nat} (hr' : r' < 64) (hj : j < 64) :
    (fillRows dst g n r k).accGet n' r' j =
      if n' = dst ∧ r ≤ r' ∧ r' < r + n then (g k r').getD j 0 else k.accGet n' r' j := by
  induction n generalizing r k with
  | zero => rw [fillRows, if_neg (by omega)]
  | succ n ih =>
    have first (n' : Nat) {r' j : Nat} (hr' : r' < 64) (hj : j < 64) : (k.accPut dst r 0 (g k r)).accGet n' r' j =
        if n' = dst ∧ r' = r then (g k r).getD j 0 else k.accGet n' r' j := by
      rw [accGet_accPut _ _ _ _ _ _ _ _ (by omega) (by rw [hg.length]) hr' hj, hg.length]
      simp [hj]
    rw [fillRows, ih _ (by omega), first n' hr' hj]
    by_cases later : n' = dst ∧ r + 1 ≤ r' ∧ r' < r + 1 + n
    · obtain ⟨m, hm⟩ := accPut_acc k dst r 0 (g k r)
      have same : g (k.accPut dst r 0 (g k r)) r' = g k r' := by
        rw [hm] at first ⊢
        refine hg.reads k m r' fun a x hx => ?_
        rw [first a hr' hx, if_neg (by omega)]
      rw [if_pos later, if_pos (by omega), same]
    · rw [if_neg later]
      by_cases here : n' = dst ∧ r' = r
      · rw [if_pos here, if_pos (by omega), here.2]
      · rw [if_neg here, if_neg (by omega)]

theorem accRow_congr {k : Core} {m : SMap W32} {r : Nat}
    (h : ∀ n j, j < 64 → Core.accGet { k with acc := m } n r j = k.accGet n r j) (n : Nat) :
    Core.accRow { k with acc := m } n r = k.accRow n r :=
  List.map_congr_left fun j hj => h n j (List.mem_range.1 hj)

/-! The vector unit's operands. -/

theorem getD_map_zip_zip {α β γ δ : Type} {as : List α} {bs : List β} {cs : List γ} {n j : Nat} (f : α → β → γ → δ) (a : α) (b : β)
    (c : γ) (d : δ) (ha : as.length = n) (hb : bs.length = n) (hc : cs.length = n) (hj : j < n) :
    (((as.zip bs).zip cs).map (fun p => f p.1.1 p.1.2 p.2)).getD j d = f (as.getD j a) (bs.getD j b) (cs.getD j c) := by
  have ia : j < as.length := by omega
  have ib : j < bs.length := by omega
  have ic : j < cs.length := by omega
  simp [List.getD, ia, ib, ic]

/-- R72: element j of operand b or c for row r. -/
def vecElem (i : Insn) (k : Core) (b r j : Nat) : W32 :=
  match bits i.mod 8 2 with
  | 0 => k.accGet (opIx b) r j
  | 1 => k.f b
  | 2 => k.accGet (opIx b) r (bits i.imm 8 6)
  | _ => k.spadF (vecBase i k + 4 * j)

theorem vecOperand_length (i : Insn) (k : Core) (b r : Nat) : (vecOperand i k b r).length = 64 := by
  unfold vecOperand
  split <;> simp [Core.accRow]

theorem vecOperand_getD (i : Insn) (k : Core) (b r : Nat) {j : Nat} (hj : j < 64) :
    (vecOperand i k b r).getD j 0 = vecElem i k b r j := by
  have replicated (x : W32) : (List.replicate 64 x).getD j 0 = x := by
    rw [List.getD, List.getElem?_replicate_of_lt hj, Option.getD_some]
  obtain sel | sel | sel | sel : bits i.mod 8 2 = 0 ∨ bits i.mod 8 2 = 1 ∨ bits i.mod 8 2 = 2 ∨ bits i.mod 8 2 = 3 := by
    have := bits_lt i.mod 8 2
    omega
  all_goals simp only [vecOperand, vecElem, sel]
  · exact accRow_getD k _ r j hj
  · exact replicated _
  · exact replicated _
  · exact getD_map_range _ _ hj

theorem vecOperand_congr (i : Insn) {k : Core} {m : SMap W32} {r : Nat}
    (h : ∀ n j, j < 64 → Core.accGet { k with acc := m } n r j = k.accGet n r j) (b : Nat) :
    vecOperand i { k with acc := m } b r = vecOperand i k b r := by
  unfold vecOperand
  split
  · exact accRow_congr h _
  · rfl
  · rw [h _ _ (bits_lt i.imm 8 6)]
  · rfl

/-- The values of a row of an elementwise instruction. -/
def vecRow (i : Insn) (fn : W32 → W32 → W32 → W32) (k : Core) (r : Nat) : List W32 :=
  (((k.accRow (opIx i.s1) r).zip (vecOperand i k i.s2 r)).zip (vecOperand i k i.s3 r)).map (fun p => fn p.1.1 p.1.2 p.2)

theorem vecRow_local (i : Insn) (fn : W32 → W32 → W32 → W32) : RowLocal (vecRow i fn) where
  length k r := by simp [vecRow, vecOperand_length, accRow_length]
  reads k m r h := by rw [vecRow, accRow_congr h, vecOperand_congr i h, vecOperand_congr i h, vecRow]

theorem vecRows_eq_fillRows (i : Insn) (fn : W32 → W32 → W32 → W32) (n r : Nat) (k : Core) :
    vecRows i fn n r k = fillRows (opIx i.dst) (vecRow i fn) n r k := by
  induction n generalizing r k with
  | zero => rfl
  | succ n ih => exact ih _ _

/-- A range within the scratchpad raises no fault (R107). -/
theorem needSpad_fits {base step n count : Nat} (res : CoreRes) (h : ∀ x, x < count → base + step * x + n ≤ spadBytes) :
    needSpad base step n count res = res := by
  have none : (List.range count).find? (fun x => decide (spadBytes < base + step * x + n)) = none := by
    simpa using h
  rw [needSpad, none]

/-- What an elementwise instruction leaves in the accumulators. -/
theorem exists_vecRun (i : Insn) (k : Core) (fn : W32 → W32 → W32 → W32)
    (hspad : bits i.mod 8 2 = 3 → vecBase i k + 256 ≤ spadBytes) :
    ∃ m, vecRun i k fn = .ok { k with acc := m } ∧ ∀ n r j, r < 64 → j < 64 → Core.accGet { k with acc := m } n r j =
      if n = opIx i.dst ∧ r < i.rows then fn (k.accGet (opIx i.s1) r j) (vecElem i k i.s2 r j) (vecElem i k i.s3 r j)
      else k.accGet n r j := by
  obtain ⟨m, hm⟩ := fillRows_acc (opIx i.dst) (vecRow i fn) i.rows 0 k
  have run : vecRun i k fn = .ok { k with acc := m } := by
    unfold vecRun
    rw [vecRows_eq_fillRows, hm]
    split_ifs with vector
    · exact needSpad_fits _ fun x hx => by have := hspad vector; omega
    · rfl
  refine ⟨m, run, fun n r j hr hj => ?_⟩
  rw [← hm, accGet_fillRows _ (vecRow_local i fn) k (by simpa using i.rows_le) n hr hj]
  simp only [Nat.zero_le, true_and, Nat.zero_add]
  rw [vecRow, getD_map_zip_zip fn 0 0 0 0 (accRow_length _ _ _) (vecOperand_length _ _ _ _) (vecOperand_length _ _ _ _) hj,
    accRow_getD _ _ _ _ hj, vecOperand_getD _ _ _ _ hj, vecOperand_getD _ _ _ _ hj]

/-! VROT. -/

/-- Element j of a list of pairs laid out in order. -/
theorem getD_flatMap_pair {α : Type} (a b : Nat → α) (d : α) {n j : Nat} (hj : j < 2 * n) :
    ((List.range n).flatMap (fun x => [a x, b x])).getD j d = if j % 2 = 0 then a (j / 2) else b (j / 2) := by
  induction n with
  | zero => omega
  | succ n ih =>
    have len : ((List.range n).flatMap (fun x => [a x, b x])).length = 2 * n := by
      simp [List.length_flatMap, Nat.mul_comm]
    rw [List.range_succ, List.flatMap_append]
    by_cases h : j < 2 * n
    · rw [List.getD_append _ _ _ _ (by omega), ih h]
    · rw [List.getD_append_right _ _ _ _ (by omega), len]
      obtain rfl | rfl : j = 2 * n ∨ j = 2 * n + 1 := by omega
      · simp
      · simp [Nat.mul_add_div]

/-- Element j of row r of VROT (R75): co and si are the pair's entries of the table. -/
def rotElem (i : Insn) (k : Core) (r j : Nat) : W32 :=
  let x := k.accGet (opIx i.s1) r (j / 2 * 2)
  let y := k.accGet (opIx i.s1) r (j / 2 * 2 + 1)
  let co := k.spadF (vecBase i k + 8 * (32 * r + j / 2))
  let si := k.spadF (vecBase i k + 8 * (32 * r + j / 2) + 4)
  if j % 2 = 0 then f32enc (.sum [(f32dec x).mul (f32dec co), (f32dec (fmul y si)).negate]) else ffma x si (fmul y co)

/-- The values of a row of VROT. -/
def vrotRow (i : Insn) (k : Core) (r : Nat) : List W32 := rotRow k (vecBase i k + 256 * r) (k.accRow (opIx i.s1) r)

theorem vrotRow_local (i : Insn) : RowLocal (vrotRow i) where
  length k r := by simp [vrotRow, rotRow, rotPair, List.length_flatMap]
  reads k m r h := by rw [vrotRow, accRow_congr h]; rfl

theorem rotRows_eq_fillRows (i : Insn) (n r : Nat) (k : Core) :
    rotRows i n r k = fillRows (opIx i.dst) (vrotRow i) n r k := by
  induction n generalizing r k with
  | zero => rfl
  | succ n ih => exact ih _ _

theorem vrotRow_getD (i : Insn) (k : Core) (r : Nat) {j : Nat} (hj : j < 64) : (vrotRow i k r).getD j 0 = rotElem i k r j := by
  have entry : vecBase i k + 256 * r + 8 * (j / 2) = vecBase i k + 8 * (32 * r + j / 2) := by omega
  have even : (k.accRow (opIx i.s1) r).getD (2 * (j / 2)) 0 = k.accGet (opIx i.s1) r (j / 2 * 2) := by
    rw [accRow_getD _ _ _ _ (by omega), Nat.mul_comm]
  have odd : (k.accRow (opIx i.s1) r).getD (2 * (j / 2) + 1) 0 = k.accGet (opIx i.s1) r (j / 2 * 2 + 1) := by
    rw [accRow_getD _ _ _ _ (by omega), Nat.mul_comm]
  unfold vrotRow rotRow rotPair
  rw [getD_flatMap_pair _ _ _ (by omega), entry, even, odd]
  rfl

theorem exists_opVrot (i : Insn) (k : Core) (hspad : vecBase i k + 256 * i.rows ≤ spadBytes) :
    ∃ m, opVrot i k = .ok { k with acc := m } ∧ ∀ n r j, r < 64 → j < 64 → Core.accGet { k with acc := m } n r j =
      if n = opIx i.dst ∧ r < i.rows then rotElem i k r j else k.accGet n r j := by
  obtain ⟨m, hm⟩ := fillRows_acc (opIx i.dst) (vrotRow i) i.rows 0 k
  have run : opVrot i k = .ok { k with acc := m } := by
    rw [opVrot, rotRows_eq_fillRows, hm]
    exact needSpad_fits _ fun x hx => by omega
  refine ⟨m, run, fun n r j hr hj => ?_⟩
  rw [← hm, accGet_fillRows _ (vrotRow_local i) k (by simpa using i.rows_le) n hr hj, vrotRow_getD i k r hj]
  simp only [Nat.zero_le, true_and, Nat.zero_add]

/-! The statement. -/

/-- An instruction that writes elements of the accumulators alone. -/
theorem Completes.of_elements {ins : Instr} {s : State} {c : CoreId} {w : BitVec 128} {ecc : Ecc} {op : Nat}
    {f : Insn → Core → CoreRes} {value value' : Nat → Nat → W32} (hi : Issues s c w) (hop : (Insn.ofWord w).opc = op)
    (he : ecc ≠ .uncorrectable) (hgo : Proceeds s c)
    (hf : ∃ m, f (Insn.ofWord w) (getCore s c) = .ok { getCore s c with acc := m } ∧
      ∀ n r j, r < 64 → j < 64 → Core.accGet { getCore s c with acc := m } n r j =
        if n = opIx (Insn.ofWord w).dst ∧ r < (Insn.ofWord w).rows then value' r j else (getCore s c).accGet n r j)
    (hv : ∀ r j, value' r j = value r j) (hrun : exec ins s = issuePure op c ecc s f) :
    Completes ins s (fun t => WentOn s t c ∧ OnlyCore s t c ∧
      getCore t c = { getCore s c with acc := (getCore t c).acc, loops := (getCore t c).loops } ∧
      ∀ n r j, n < 4 → r < 64 → j < 64 → (getCore t c).accGet n r j =
        if n = opIx (Insn.ofWord w).dst ∧ r < (Insn.ofWord w).rows then value r j else (getCore s c).accGet n r j) := by
  obtain ⟨m, hm, elements⟩ := hf
  refine Completes.of_pure hi hop he hgo hm rfl rfl hrun fun t went only core => ?_
  rw [core, withLoops_accGet]
  refine ⟨went, only, rfl, fun n r j _ hr hj => ?_⟩
  rw [elements n r j hr hj, hv]

theorem unary_eq (sub : Nat) (a : W32) : unary sub a =
    if sub = 0 then fabs a else if sub = 1 then fneg a else if sub = 2 then fexp2 a else if sub = 3 then frcp a
    else if sub = 4 then frsqrt a else if sub = 5 then fsqrt a else flog2 a := by
  unfold unary
  split <;> simp_all

/-- VOP's operation by its code. -/
def vopFn (sub : Nat) (a b : W32) : W32 :=
  if sub = 0 then fadd a b else if sub = 1 then fsub a b else if sub = 2 then fmul a b
  else if sub = 3 then fmax a b else fmin a b

theorem opVop_eq (i : Insn) (k : Core) : opVop i k = vecRun i k (fun a b _ => vopFn (bits i.mod 0 6) a b) := by
  have fn : (fun a b (_ : W32) => vopFn (bits i.mod 0 6) a b) = fun a b _ => match bits i.mod 0 6 with
    | 0 => fadd a b | 1 => fsub a b | 2 => fmul a b | 3 => fmax a b | _ => fmin a b := by
    funext a b _
    generalize bits i.mod 0 6 = sub
    match sub with
    | 0 | 1 | 2 | 3 => rfl
    | n + 4 => simp [vopFn]
  rw [fn]
  rfl

/-- Settles O6: an element depends on its own row alone, and each row is read before it is written. -/
theorem elementwiseInstructionsComputeEachElement : Obligations.ElementwiseInstructionsComputeEachElement := by
  unfold Obligations.ElementwiseInstructionsComputeEachElement
  intro s c w ecc hi hgo he
  dsimp only
  intro hspad
  have run (fn : W32 → W32 → W32 → W32) := exists_vecRun (Insn.ofWord w) (getCore s c) fn hspad
  refine ⟨fun hop => ?_, fun hop => ?_, fun hop => ?_, fun hop => ?_, fun hop => ?_, fun hop htable => ?_⟩
  · exact Completes.of_elements hi hop he hgo (f := opVop) (by rw [opVop_eq]; exact run _) (fun _ _ => rfl) rfl
  · refine Completes.of_elements hi hop he hgo (f := opVfma) (run _) (fun r j => ?_) rfl
    split_ifs <;> rfl
  · exact Completes.of_elements hi hop he hgo (f := opVun) (run _) (fun _ _ => unary_eq _ _) rfl
  · exact Completes.of_elements hi hop he hgo (f := opVact) (run _) (fun _ _ => rfl) rfl
  · exact Completes.of_elements hi hop he hgo (f := opVsel) (run _) (fun _ _ => rfl) rfl
  · exact Completes.of_elements hi hop he hgo (exists_opVrot _ _ htable) (fun _ _ => rfl) rfl

end Sys2Proof.Machine
end

section
/-! PROOFS. The online softmax (R78-R81): SMX and SMXF, row after row. -/
namespace Sys2Proof.Machine

/-! Row maxima and sums. -/

theorem maxGet_maxSet (k : Core) (n r : Nat) (v : W32) (n' : Nat) {r' : Nat} (hr : r < 64) (hr' : r' < 64) :
    (k.maxSet n r v).maxGet n' r' = if n' = n ∧ r' = r then v else k.maxGet n' r' := by
  have key : 64 * n' + r' = 64 * n + r ↔ n' = n ∧ r' = r := by omega
  simp only [Core.maxGet, Core.maxSet, SMap.get_set, key]

theorem sumGet_sumSet (k : Core) (n r : Nat) (v : W32) (n' : Nat) {r' : Nat} (hr : r < 64) (hr' : r' < 64) :
    (k.sumSet n r v).sumGet n' r' = if n' = n ∧ r' = r then v else k.sumGet n' r' := by
  have key : 64 * n' + r' = 64 * n + r ↔ n' = n ∧ r' = r := by omega
  simp only [Core.sumGet, Core.sumSet, SMap.get_set, key]

/-- Elements written into a row, as a map. -/
def accPutMap (n r : Nat) : Nat → List W32 → SMap W32 → SMap W32
  | _, [], m => m
  | c, v :: vs, m => accPutMap n r (c + 1) vs (SMap.set (fun _ => 0) m (4096 * n + 64 * r + c) v)

theorem accPut_eq (k : Core) (n r c : Nat) (vs : List W32) :
    k.accPut n r c vs = { k with acc := accPutMap n r c vs k.acc } := by
  induction vs generalizing k c with
  | nil => rfl
  | cons v vs ih => exact ih _ _

/-- A row of an accumulator with its elements, maximum and sum written. -/
def Core.putRow (k : Core) (n r : Nat) (vs : List W32) (mx sm : W32) : Core :=
  { k with acc := accPutMap n r 0 vs k.acc, rowMax := (k.maxSet n r mx).rowMax, rowSum := (k.sumSet n r sm).rowSum }

theorem accGet_putRow (k : Core) (n : Nat) {r : Nat} {vs : List W32} (mx sm : W32) (hlen : vs.length = 64) (hr : r < 64)
    (n' : Nat) {r' j : Nat} (hr' : r' < 64) (hj : j < 64) :
    (k.putRow n r vs mx sm).accGet n' r' j = if n' = n ∧ r' = r then vs.getD j 0 else k.accGet n' r' j := by
  have put := accGet_accPut k n r 0 vs n' r' j hr (by omega) hr' hj
  rw [accPut_eq, hlen] at put
  refine put.trans ?_
  simp [hj]

theorem maxGet_putRow (k : Core) (n : Nat) {r : Nat} (vs : List W32) (mx sm : W32) (hr : r < 64) (n' : Nat) {r' : Nat}
    (hr' : r' < 64) : (k.putRow n r vs mx sm).maxGet n' r' = if n' = n ∧ r' = r then mx else k.maxGet n' r' :=
  maxGet_maxSet k n r mx n' hr hr'

theorem sumGet_putRow (k : Core) (n : Nat) {r : Nat} (vs : List W32) (mx sm : W32) (hr : r < 64) (n' : Nat) {r' : Nat}
    (hr' : r' < 64) : (k.putRow n r vs mx sm).sumGet n' r' = if n' = n ∧ r' = r then sm else k.sumGet n' r' :=
  sumGet_sumSet k n r sm n' hr hr'

theorem accRow_map_getD (k : Core) (n r : Nat) (f : W32 → W32) {j : Nat} (hj : j < 64) :
    ((k.accRow n r).map f).getD j 0 = f (k.accGet n r j) := by
  rw [Core.accRow, List.map_map, getD_map_range _ _ hj, Function.comp]

/-! SMX: what a row comes to, in terms of the core before it. -/

/-- The masked and scaled score. -/
def smxScore (i : Insn) (k : Core) (r j : Nat) : W32 :=
  if smxAllowed i k r j then fmul (k.accGet (opIx i.s1) r j) (k.f i.s3) else f32ninf
/-- The new maximum. -/
def smxTop (i : Insn) (k : Core) (r : Nat) : W32 := ((List.range 64).map (smxScore i k r)).foldl fmax (k.maxGet (opIx i.s2) r)
/-- The correction of what the row has gathered. -/
def smxCorr (i : Insn) (k : Core) (r : Nat) : W32 :=
  if smxTop i k r = f32ninf then f32one else fexp2 (fsub (k.maxGet (opIx i.s2) r) (smxTop i k r))
/-- The probabilities. -/
def smxProb (i : Insn) (k : Core) (r j : Nat) : W32 :=
  if smxTop i k r = f32ninf then 0 else fexp2 (fsub (smxScore i k r j) (smxTop i k r))
/-- The new sum. -/
def smxSum (i : Insn) (k : Core) (r : Nat) : W32 :=
  ffma (k.sumGet (opIx i.s2) r) (smxCorr i k r) (treeSum 6 ((List.range 64).map (smxProb i k r)))

/-- The output row, corrected. -/
def smxVals (i : Insn) (k : Core) (r : Nat) : List W32 := (k.accRow (opIx i.s2) r).map (fun x => fmul x (smxCorr i k r))

/-- The model's row in these terms. -/
theorem smxRow_eq (i : Insn) (k : Core) (r : Nat) : smxRow i k r =
    (k.putRow (opIx i.s2) r (smxVals i k r) (smxTop i k r) (smxSum i k r),
      (List.range 64).map (smxProb i k r)) := by
  have scores : ((k.accRow (opIx i.s1) r).zip (List.range 64)).map (fun p =>
      if smxAllowed i k r p.2 then fmul p.1 (k.f i.s3) else f32ninf) = (List.range 64).map (smxScore i k r) := by
    have pairs : (k.accRow (opIx i.s1) r).zip (List.range 64) = (List.range 64).map (fun j => (k.accGet (opIx i.s1) r j, j)) := by
      simpa [Core.accRow] using List.zip_map' (f := k.accGet (opIx i.s1) r) (g := id) (l := List.range 64)
    rw [pairs, List.map_map]
    rfl
  have top : ((List.range 64).map (smxScore i k r)).foldl fmax (k.maxGet (opIx i.s2) r) = smxTop i k r := rfl
  have probs : (if smxTop i k r = f32ninf then List.replicate 64 0
      else ((List.range 64).map (smxScore i k r)).map (fun x => fexp2 (fsub x (smxTop i k r)))) =
      (List.range 64).map (smxProb i k r) := by
    by_cases none : smxTop i k r = f32ninf
    · have zero : smxProb i k r = fun _ => 0 := by
        funext j
        exact if_pos none
      rw [if_pos none, zero, List.map_const', List.length_range]
    · rw [if_neg none, List.map_map]
      refine List.map_congr_left fun j _ => ?_
      rw [smxProb, if_neg none, Function.comp]
  unfold smxRow
  simp only [scores, top, probs, accPut_eq]
  rfl

/-- Rows r to r + n - 1 of SMX have been computed from the core k: what each file reads, and that the rest is kept. -/
structure SmxDone (i : Insn) (k : Core) (r n : Nat) (k' : Core) : Prop where
  frame : k' = { k with tiles := k'.tiles, acc := k'.acc, rowMax := k'.rowMax, rowSum := k'.rowSum }
  max : ∀ n' r', r' < 64 →
    k'.maxGet n' r' = if n' = opIx i.s2 ∧ r ≤ r' ∧ r' < r + n then smxTop i k r' else k.maxGet n' r'
  sum : ∀ n' r', r' < 64 →
    k'.sumGet n' r' = if n' = opIx i.s2 ∧ r ≤ r' ∧ r' < r + n then smxSum i k r' else k.sumGet n' r'
  acc : ∀ n' r' j, r' < 64 → j < 64 → k'.accGet n' r' j =
    if n' = opIx i.s2 ∧ r ≤ r' ∧ r' < r + n then fmul (k.accGet n' r' j) (smxCorr i k r') else k.accGet n' r' j
  tiles : ∀ n' b, b < 4096 → n' ≠ opIx i.dst → n' ≠ opIx i.dst + 1 → k'.tileByte n' b = k.tileByte n' b

theorem SmxDone.none (i : Insn) (k : Core) (r : Nat) : SmxDone i k r 0 k where
  frame := rfl
  max n' r' _ := by rw [if_neg (by omega)]
  sum n' r' _ := by rw [if_neg (by omega)]
  acc n' r' j _ _ := by rw [if_neg (by omega)]
  tiles _ _ _ _ _ := rfl

/-- A row outside those done is still as it was, so what SMX makes of it is too. -/
theorem SmxDone.later {i : Insn} {k k' : Core} {r n : Nat} (h : SmxDone i k r n k') {r' : Nat} (hr' : r' < 64)
    (hlate : r + n ≤ r') : smxTop i k' r' = smxTop i k r' ∧ smxCorr i k' r' = smxCorr i k r' ∧
      smxSum i k' r' = smxSum i k r' := by
  have max : k'.maxGet (opIx i.s2) r' = k.maxGet (opIx i.s2) r' := by rw [h.max _ _ hr', if_neg (by omega)]
  have sum : k'.sumGet (opIx i.s2) r' = k.sumGet (opIx i.s2) r' := by rw [h.sum _ _ hr', if_neg (by omega)]
  have files : smxAllowed i k' r' = smxAllowed i k r' ∧ k'.f i.s3 = k.f i.s3 := by
    rw [h.frame]
    exact ⟨rfl, rfl⟩
  have score (j : Nat) (hj : j < 64) : smxScore i k' r' j = smxScore i k r' j := by
    have acc : k'.accGet (opIx i.s1) r' j = k.accGet (opIx i.s1) r' j := by rw [h.acc _ _ _ hr' hj, if_neg (by omega)]
    rw [smxScore, smxScore, files.1, files.2, acc]
  have scores : (List.range 64).map (smxScore i k' r') = (List.range 64).map (smxScore i k r') :=
    List.map_congr_left fun j hj => score j (List.mem_range.1 hj)
  have top : smxTop i k' r' = smxTop i k r' := by rw [smxTop, scores, max, smxTop]
  have corr : smxCorr i k' r' = smxCorr i k r' := by rw [smxCorr, top, max, smxCorr]
  have probs : (List.range 64).map (smxProb i k' r') = (List.range 64).map (smxProb i k r') :=
    List.map_congr_left fun j hj => by rw [smxProb, top, score j (List.mem_range.1 hj), smxProb]
  exact ⟨top, corr, by rw [smxSum, sum, corr, probs, smxSum]⟩

/-- One row after those done. -/
theorem SmxDone.trans {i : Insn} {k k₁ k' : Core} {r n m : Nat} (h : SmxDone i k r n k₁) (h' : SmxDone i k₁ (r + n) m k') :
    SmxDone i k r (n + m) k' where
  frame := by rw [h'.frame, h.frame]
  max n' r' hr' := by
    rw [h'.max n' r' hr', h.max n' r' hr']
    by_cases late : n' = opIx i.s2 ∧ r + n ≤ r' ∧ r' < r + n + m
    · rw [if_pos late, if_pos (by omega), (h.later hr' late.2.1).1]
    · rw [if_neg late]
      exact if_congr (by omega) rfl rfl
  sum n' r' hr' := by
    rw [h'.sum n' r' hr', h.sum n' r' hr']
    by_cases late : n' = opIx i.s2 ∧ r + n ≤ r' ∧ r' < r + n + m
    · rw [if_pos late, if_pos (by omega), (h.later hr' late.2.1).2.2]
    · rw [if_neg late]
      exact if_congr (by omega) rfl rfl
  acc n' r' j hr' hj := by
    rw [h'.acc n' r' j hr' hj, h.acc n' r' j hr' hj]
    by_cases late : n' = opIx i.s2 ∧ r + n ≤ r' ∧ r' < r + n + m
    · rw [if_pos late, if_neg (by omega), if_pos (by omega), (h.later hr' late.2.1).2.1]
    · rw [if_neg late]
      exact if_congr (by omega) rfl rfl
  tiles n' b hb h1 h2 := (h'.tiles n' b hb h1 h2).trans (h.tiles n' b hb h1 h2)

/-- The probabilities converted into the tile pair (R78). -/
def smxTiles (i : Insn) (r : Nat) (rs : List Rnd) (ps : List Num) (k : Core) : Core :=
  if i.fmtA.width == 4 then convertRows i.fmtA (opIx i.dst) [ps] r (rs.take 64) k
  else convertRows i.fmtA (opIx i.dst + 1) [ps.drop 32] r ((rs.drop 32).take 32)
    (convertRows i.fmtA (opIx i.dst) [ps.take 32] r (rs.take 32) k)

theorem smxRows_succ (i : Insn) (n r : Nat) (rs : List Rnd) (k : Core) : smxRows i (n + 1) r rs k =
    smxRows i n (r + 1) (rs.drop 64) (smxTiles i r rs ((smxRow i k r).2.map f32dec) (smxRow i k r).1) := rfl

theorem smxTiles_tiles (i : Insn) (r : Nat) (rs : List Rnd) (ps : List Num) (k : Core) :
    ∃ m, smxTiles i r rs ps k = { k with tiles := m } := by
  unfold smxTiles
  split_ifs
  · exact convertRows_tiles ..
  · obtain ⟨m, hm⟩ := convertRows_tiles i.fmtA (opIx i.dst) [ps.take 32] r (rs.take 32) k
    obtain ⟨m', hm'⟩ := convertRows_tiles i.fmtA (opIx i.dst + 1) [ps.drop 32] r ((rs.drop 32).take 32) { k with tiles := m }
    exact ⟨m', by rw [hm, hm']⟩

theorem tileByte_smxTiles (i : Insn) {r : Nat} (rs : List Rnd) (ps : List Num) (k : Core) (hr : r < i.fmtA.tileRows false)
    {n b : Nat} (hb : b < 4096) (h1 : n ≠ opIx i.dst) (h2 : n ≠ opIx i.dst + 1) :
    (smxTiles i r rs ps k).tileByte n b = k.tileByte n b := by
  unfold smxTiles
  split_ifs
  · exact tileByte_convertRows_other _ _ _ _ _ hr h1 hb
  · rw [tileByte_convertRows_other _ _ _ _ _ hr h2 hb, tileByte_convertRows_other _ _ _ _ _ hr h1 hb]

/-- One row. -/
theorem smxDone_row (i : Insn) {r : Nat} (rs : List Rnd) (k : Core) (hr : r < 64) (hrows : r < i.fmtA.tileRows false) :
    SmxDone i k r 1 (smxTiles i r rs ((smxRow i k r).2.map f32dec) (smxRow i k r).1) := by
  obtain ⟨m, hm⟩ := smxTiles_tiles i r rs ((smxRow i k r).2.map f32dec) (smxRow i k r).1
  have here (n' r' : Nat) : n' = opIx i.s2 ∧ r ≤ r' ∧ r' < r + 1 ↔ n' = opIx i.s2 ∧ r' = r := by omega
  refine ⟨?_, fun n' r' hr' => ?_, fun n' r' hr' => ?_, fun n' r' j hr' hj => ?_, fun n' b hb h1 h2 => ?_⟩
  · rw [hm, smxRow_eq]
    rfl
  · rw [hm, smxRow_eq]
    refine (maxGet_putRow k _ (smxVals i k r) _ (smxSum i k r) hr n' hr').trans (if_ctx_congr (here n' r').symm (fun this => ?_) fun _ => rfl)
    rw [((here n' r').1 this).2]
  · rw [hm, smxRow_eq]
    refine (sumGet_putRow k _ (smxVals i k r) (smxTop i k r) _ hr n' hr').trans (if_ctx_congr (here n' r').symm (fun this => ?_) fun _ => rfl)
    rw [((here n' r').1 this).2]
  · have row := accGet_putRow k (opIx i.s2) (vs := smxVals i k r) (smxTop i k r) (smxSum i k r)
      (by simp [smxVals, accRow_length]) hr n' hr' hj
    rw [smxVals, accRow_map_getD k _ _ _ hj] at row
    rw [hm, smxRow_eq]
    refine row.trans (if_ctx_congr (here n' r').symm (fun this => ?_) fun _ => rfl)
    rw [((here n' r').1 this).1, ((here n' r').1 this).2]
  · rw [tileByte_smxTiles i rs _ _ hrows hb h1 h2, smxRow_eq]
    rfl

theorem smxDone_rows (i : Insn) (n r : Nat) (rs : List Rnd) (k : Core) (hr : r + n ≤ 64)
    (hrows : r + n ≤ i.fmtA.tileRows false) : SmxDone i k r n (smxRows i n r rs k) := by
  induction n generalizing r rs k with
  | zero => exact SmxDone.none i k r
  | succ n ih =>
    rw [smxRows_succ, Nat.add_comm n 1]
    exact (smxDone_row i rs k (by omega) (by omega)).trans (ih _ _ _ (by omega) (by omega))

theorem Insn.tileRows_of_legal_smx {i : Insn} (hop : i.opc = 0x48) (h : i.legal = true) : i.fmtA.tileRows false = 64 := by
  have width : i.fmtA.width = 8 ∨ i.fmtA.width = 4 := by
    simp only [Insn.legal, hop, Bool.and_eq_true, Bool.or_eq_true, beq_iff_eq] at h
    exact h.2.1.1.2
  unfold Fmt.tileRows
  obtain width | width := width <;> rw [width] <;> rfl

/-- SMX, its mask in the scratchpad. -/
theorem opSmx_done (i : Insn) (k : Core) (htile : i.fmtA.tileRows false = 64)
    (hspad : bits i.mod 0 2 = 1 → (k.ar (32 + bits i.imm 8 4)).toNat + 8 * i.rows ≤ spadBytes) :
    ∃ k', opSmx i k = .ok k' ∧
      SmxDone i { k with lanes := (roundings (i.rnd == 1) k.lanes (64 * i.rows)).1 } 0 i.rows k' := by
  have rows := i.rows_le
  refine ⟨_, ?_, smxDone_rows i i.rows 0 (roundings (i.rnd == 1) k.lanes (64 * i.rows)).2 _ (by omega) (by omega)⟩
  unfold opSmx
  split_ifs with mask
  · exact needSpad_fits _ fun x hx => by have := hspad mask; omega
  · rfl

/-! SMXF. -/

/-- The first m rows of SMXF have been computed from the core k. -/
structure SmxfDone (n : Nat) (k : Core) (m : Nat) (k' : Core) : Prop where
  frame : k' = { k with acc := k'.acc, rowMax := k'.rowMax, rowSum := k'.rowSum }
  max : ∀ n' r, r < 64 → k'.maxGet n' r = if n' = n ∧ r < m then f32ninf else k.maxGet n' r
  sum : ∀ n' r, r < 64 → k'.sumGet n' r = if n' = n ∧ r < m then 0 else k.sumGet n' r
  acc : ∀ n' r j, r < 64 → j < 64 → k'.accGet n' r j =
    if n' = n ∧ r < m then (if k.sumGet n r = 0 then 0 else fdiv (k.accGet n r j) (k.sumGet n r)) else k.accGet n' r j

/-- A row divided by its sum; all +0 where the sum is +0. -/
def smxfVals (n : Nat) (k : Core) (r : Nat) : List W32 :=
  (k.accRow n r).map (fun x => if k.sumGet n r = 0 then 0 else fdiv x (k.sumGet n r))

theorem smxfRow_eq (n : Nat) (k : Core) (r : Nat) : smxfRow n k r = k.putRow n r (smxfVals n k r) f32ninf 0 := by
  unfold smxfRow
  simp only [accPut_eq]
  rfl

theorem smxfDone_row {n m : Nat} {k k' : Core} (h : SmxfDone n k m k') (hm : m < 64) : SmxfDone n k (m + 1) (smxfRow n k' m) := by
  have split (n' r : Nat) : n' = n ∧ r < m + 1 ↔ n' = n ∧ r = m ∨ n' = n ∧ r < m := by omega
  have sum : k'.sumGet n m = k.sumGet n m := by rw [h.sum n m hm, if_neg (by omega)]
  have acc (j : Nat) (hj : j < 64) : k'.accGet n m j = k.accGet n m j := by rw [h.acc n m j hm hj, if_neg (by omega)]
  rw [smxfRow_eq]
  refine ⟨?_, fun n' r hr => ?_, fun n' r hr => ?_, fun n' r j hr hj => ?_⟩
  · rw [h.frame]
    rfl
  · rw [maxGet_putRow k' n _ _ _ hm n' hr, h.max n' r hr]
    simp only [split, ite_or]
  · rw [sumGet_putRow k' n _ _ _ hm n' hr, h.sum n' r hr]
    simp only [split, ite_or]
  · rw [accGet_putRow k' n _ _ (by simp [smxfVals, accRow_length]) hm n' hr hj, h.acc n' r j hr hj, smxfVals,
      accRow_map_getD _ _ _ _ hj, sum, acc j hj]
    simp only [split, ite_or]
    refine if_ctx_congr Iff.rfl (fun this => ?_) fun _ => rfl
    rw [this.2]

theorem smxfDone_rows (n : Nat) (k : Core) {m : Nat} (hm : m ≤ 64) : SmxfDone n k m ((List.range m).foldl (smxfRow n) k) := by
  induction m with
  | zero => exact ⟨rfl, fun _ _ _ => by simp, fun _ _ _ => by simp, fun _ _ _ _ _ => by simp⟩
  | succ m ih =>
    rw [List.range_succ, List.foldl_append]
    exact smxfDone_row (ih (by omega)) (by omega)

/-- Settles O8: a row of SMX or SMXF depends on its own row alone, so each is computed from the core before the first. -/
theorem onlineSoftmaxUpdatesStatistics : Obligations.OnlineSoftmaxUpdatesStatistics := by
  unfold Obligations.OnlineSoftmaxUpdatesStatistics
  intro s c w ecc hi hgo he
  have legal : (Insn.ofWord w).legal = true := hi.2.2.2.2.2.2.2
  dsimp only
  refine ⟨fun hop hspad => ?_, fun hop => ?_⟩
  · have from0 (n r : Nat) : n = opIx (Insn.ofWord w).s2 ∧ 0 ≤ r ∧ r < 0 + (Insn.ofWord w).rows ↔
        n = opIx (Insn.ofWord w).s2 ∧ r < (Insn.ofWord w).rows := by omega
    obtain ⟨k', hk, done⟩ := opSmx_done _ (getCore s c) (Insn.tileRows_of_legal_smx hop legal) hspad
    refine Completes.of_pure hi hop he hgo hk (by rw [done.frame]) (by rw [done.frame]) rfl fun t went only core => ?_
    rw [core]
    refine ⟨went, only, ?_, done.tiles, fun n r _ hr => ⟨?_, ?_, fun j hj => ?_⟩⟩
    · rw [done.frame]
      rfl
    · exact (done.max n r hr).trans (if_congr (from0 n r) rfl rfl)
    · exact (done.sum n r hr).trans (if_congr (from0 n r) rfl rfl)
    · exact (done.acc n r j hr hj).trans (if_congr (from0 n r) rfl rfl)
  · have done := smxfDone_rows (opIx (Insn.ofWord w).dst) (getCore s c) (Insn.ofWord w).rows_le
    refine Completes.of_pure hi hop he hgo (f := opSmxf) rfl (by rw [done.frame]) (by rw [done.frame]) rfl
      fun t went only core => ?_
    rw [core]
    refine ⟨went, only, ?_, fun n r _ hr => ⟨done.max n r hr, done.sum n r hr, fun j hj => ?_⟩⟩
    · rw [done.frame]
      rfl
    · refine (done.acc n r j hr hj).trans (if_ctx_congr Iff.rfl (fun this => ?_) fun _ => rfl)
      rw [← this.1]

end Sys2Proof.Machine
end

section
/-! PROOFS. Issue (R64, R99, R107, R108): what each outcome of an instruction's effect leaves of the state, for effects that
reach beyond the core's own registers. -/
namespace Sys2Proof.Machine

/-! The instruction a core issues, legal or not. -/

theorem nextInsn_eq {s : State} {c : Nat} {w : BitVec 128} (hrun : coreState s c = stRunning) (hwait : (getCore s c).wait = .none)
    (hfence : (getCore s c).fencing = false) (hon : stnPower s (coreStn c) = domOn) (hreset : inReset s (coreStn c) = false)
    (hcode : (getCore s c).code[fget s .SAGE_PC_PC c]? = some w) (hhaz : hazard (getCore s c) (Insn.ofWord w) = false) :
    nextInsn s c = some (getCore s c, Insn.ofWord w, fget s .SAGE_PC_PC c) := by
  simp [nextInsn, hrun, hwait, hfence, hon, hreset, hcode, hhaz]

theorem issueEcc_eq (s : State) (c : Nat) {ecc : Ecc} (pc : Nat) (f : State → State) (he : ecc ≠ .uncorrectable) :
    issueEcc s c ecc pc (fun s => f (retire s c)) = f (issued s c ecc) := by
  cases ecc with
  | uncorrectable => exact absurd rfl he
  | clean | corrected => rfl

/-! Faults. -/

theorem coreState_faultCore (s : State) (c code detail pc : Nat) : coreState (faultCore s c code detail pc) c = stFaulted := by
  simp only [coreState, faultCore, setCoreState, fget_fset_same]
  decide

theorem fget_faultCore_code (s : State) (c code detail pc : Nat) :
    fget (faultCore s c code detail pc) .SAGE_FAULT_CODE c = code % 2 ^ F.SAGE_FAULT_CODE.spec.w := by
  simp [faultCore, setCoreState]

theorem fget_faultCore_pc (s : State) (c code detail pc : Nat) :
    fget (faultCore s c code detail pc) .SAGE_FAULT_FAULT_PC c = pc % 2 ^ F.SAGE_FAULT_FAULT_PC.spec.w := by
  simp [faultCore, setCoreState]

theorem fget_faultCore_detail (s : State) (c code detail pc : Nat) :
    fget (faultCore s c code detail pc) .SAGE_FAULT_DETAIL c = detail % 2 ^ 32 % 2 ^ F.SAGE_FAULT_DETAIL.spec.w := by
  simp [faultCore, setCoreState]

theorem fget_faultCore_other (s : State) (c code detail pc : Nat) {f : F} (j : Nat)
    (hf : f ∉ [.SAGE_FAULT_CODE, .SAGE_FAULT_FAULT_PC, .SAGE_FAULT_DETAIL, .SAGE_STATUS_STATE]) :
    fget (faultCore s c code detail pc) f j = fget s f j := by
  simp only [List.mem_cons, List.not_mem_nil, not_or, or_false] at hf
  obtain ⟨h1, h2, h3, h4⟩ := hf
  simp [faultCore, setCoreState, h1, h2, h3, h4]

@[simp] theorem getCore_fset (s : State) (f : F) (i v d : Nat) : getCore (fset s f i v) d = getCore s d := rfl
@[simp] theorem getCore_faultCore (s : State) (c code detail pc d : Nat) :
    getCore (faultCore s c code detail pc) d = getCore s d := rfl
@[simp] theorem faultCore_mem (s : State) (c code detail pc : Nat) : (faultCore s c code detail pc).mem = s.mem := rfl

/-- Settles O16: the instruction counts as issued, and its fault is recorded with its opcode. -/
theorem sageFaultsAreRecorded : Obligations.SageFaultsAreRecorded := by
  unfold Obligations.SageFaultsAreRecorded
  intro s c w ecc k hrun hwait hfence hon hreset hcode hhaz hillegal he
  have opc : (Insn.ofWord w).opc < 2 ^ 8 := bits_lt _ _ _
  refine ⟨faultCore (issued s c ecc) c fIllegal (Insn.ofWord w).opc (fget s .SAGE_PC_PC c), ?_, coreState_faultCore ..,
    fget_faultCore_code .., fget_faultCore_pc .., ?_, ?_, fun d => ?_, fun a => ?_⟩
  · show execIllegalOp c ecc s = _
    unfold execIllegalOp
    simp only [nextInsn_eq hrun hwait hfence hon hreset hcode hhaz, hillegal, Bool.false_eq_true, if_false]
    exact congrArg _ (issueEcc_eq s c _ (fun s => faultCore s c _ _ _) he)
  · rw [fget_faultCore_detail]
    show (Insn.ofWord w).opc % 2 ^ 32 % 2 ^ 32 = (Insn.ofWord w).opc
    omega
  · rw [fget_faultCore_other _ _ _ _ _ _ (by decide), fget_issued _ (by decide) (by decide)]
  · rw [getCore_faultCore, getCore_issued]
  · rw [faultCore_mem, issued_mem]

end Sys2Proof.Machine
end

section
/-! PROOFS. Going on in sequence (R99, R100, R108), for instructions whose effect is not on the core's registers alone. -/
namespace Sys2Proof.Machine

/-- The core's program goes on at an index with the loops given. -/
def movedTo (u : State) (c : Nat) (ls : List Loop) (next : Nat) : State :=
  fset (setCore u c { getCore u c with loops := ls }) .SAGE_PC_PC c next

/-- A state that differs from that of the issuing instruction in nothing that its frame counts but the core itself. -/
structure CoreOnly (s : State) (c : Nat) (ecc : Ecc) (u : State) : Prop where
  regs : u.regs = (issued s c ecc).regs
  mem : u.mem = s.mem
  cores : ∀ d, d ≠ c → getCore u d = getCore s d

theorem CoreOnly.issued (s : State) (c : Nat) (ecc : Ecc) : CoreOnly s c ecc (issued s c ecc) :=
  ⟨rfl, issued_mem s c ecc, fun d _ => getCore_issued s c ecc d⟩

theorem CoreOnly.fget {s u : State} {c : Nat} {ecc : Ecc} (h : CoreOnly s c ecc u) (f : F) (j : Nat) :
    fget u f j = fget (Machine.issued s c ecc) f j := by
  simp only [Machine.fget, h.regs]

theorem CoreOnly.setCore {s u : State} {c : Nat} {ecc : Ecc} (h : CoreOnly s c ecc u) (k : Core) :
    CoreOnly s c ecc (setCore u c k) :=
  ⟨h.regs, h.mem, fun d hd => (getCore_setCore_other u k hd).trans (h.cores d hd)⟩

theorem getCore_movedTo_same (u : State) (c : Nat) (ls : List Loop) (next : Nat) :
    getCore (movedTo u c ls next) c = { getCore u c with loops := ls } := by
  rw [movedTo, getCore_fset, getCore_setCore_same]

theorem getCore_movedTo_other (u : State) {c d : Nat} (ls : List Loop) (next : Nat) (h : d ≠ c) :
    getCore (movedTo u c ls next) d = getCore u d := by
  rw [movedTo, getCore_fset, getCore_setCore_other _ _ h]

theorem fget_movedTo_pc (u : State) (c : Nat) (ls : List Loop) (next : Nat) :
    fget (movedTo u c ls next) .SAGE_PC_PC c = next % 2 ^ 11 := by
  rw [movedTo, fget_fset_same]
  rfl

theorem fget_movedTo_field (u : State) (c : Nat) (ls : List Loop) (next : Nat) {f : F} (j : Nat) (h : f ≠ .SAGE_PC_PC) :
    fget (movedTo u c ls next) f j = fget u f j := by
  rw [movedTo, fget_fset_field _ _ _ _ h, fget_setCore]

theorem coreState_issued (s : State) (c : Nat) (ecc : Ecc) (d : Nat) : coreState (issued s c ecc) d = coreState s d :=
  fget_issued d (by decide) (by decide)

theorem onlyCore_movedTo {s u : State} {c : CoreId} {ecc : Ecc} (h : CoreOnly s c ecc u) (ls : List Loop) (next : Nat) :
    OnlyCore s (movedTo u c ls next) c := by
  have hc : c.val < 65536 := by have := c.isLt; omega
  refine ⟨?_, fun a => ?_, fun d hd => ?_⟩
  · have regs : (setCore u c { getCore u c with loops := ls }).regs = (issued s c ecc).regs := h.regs
    exact ((sameRegs_issued s hc ecc).trans (SameRegs.of_regs regs)).trans (SameRegs.fset _ _ hc (by simp))
  · simp only [movedTo, fset_mem, setCore_mem, h.mem]
  · rw [getCore_movedTo_other _ _ _ hd, h.cores d hd]

/-- The core went on where its state and its count of retired instructions are those of the issue. -/
theorem wentOn_movedTo {s u : State} {c : Nat} {ecc : Ecc} (hst : coreState u c = coreState s c)
    (hret : fget u .SAGE_RETIRED_COUNT c = fget (issued s c ecc) .SAGE_RETIRED_COUNT c) :
    WentOn s (movedTo u c (nextOf s c).1 (nextOf s c).2) c := by
  refine ⟨?_, fget_movedTo_pc .., ?_, ?_⟩
  · exact (fget_movedTo_field _ _ _ _ _ (by decide)).trans hst
  · rw [getCore_movedTo_same]
  · rw [fget_movedTo_field _ _ _ _ _ (by decide), hret, issued_retired]

theorem CoreOnly.wentOn {s u : State} {c : Nat} {ecc : Ecc} (h : CoreOnly s c ecc u) :
    WentOn s (movedTo u c (nextOf s c).1 (nextOf s c).2) c :=
  wentOn_movedTo ((h.fget _ _).trans (coreState_issued s c ecc c)) (h.fget _ _)

theorem goTo_eq_movedTo {u : State} {c : Nat} {ls : List Loop} {next : Nat} (i : Insn) (pc : Nat)
    (h : next < (getCore u c).code.length) : goTo u c i pc ls next = movedTo u c ls next := if_pos h

/-- An instruction after which the core goes on in sequence. -/
theorem Completes.of_seq {ins : Instr} {s : State} {c : CoreId} {w : BitVec 128} {ecc : Ecc} {op : Nat}
    {eff : State → Core → Insn → Nat → Issue} {P : State → Prop} {u : State} (hi : Issues s c w)
    (hop : (Insn.ofWord w).opc = op) (he : ecc ≠ .uncorrectable) (hgo : Proceeds s c)
    (heff : eff (issued s c ecc) (getCore s c) (Insn.ofWord w) (fget s .SAGE_PC_PC c) = .seq u)
    (hl : (getCore u c).loops = (getCore s c).loops) (hk : (getCore u c).code = (getCore s c).code)
    (hrun : exec ins s = issue op c ecc s eff) (hP : P (movedTo u c (nextOf s c).1 (nextOf s c).2)) :
    Completes ins s P := by
  refine ⟨_, ?_, hP⟩
  rw [hrun, issue_eq eff hi hop he, heff]
  have next : seqPc (getCore u c).loops (fget s .SAGE_PC_PC c + 1) = nextOf s c := by rw [hl]
  simp only [goNext, next]
  rw [goTo_eq_movedTo _ _ (by rw [hk]; exact hgo)]

/-- One that sets the program counter or the core's state itself. -/
theorem Completes.of_done {ins : Instr} {s : State} {c : CoreId} {w : BitVec 128} {ecc : Ecc} {op : Nat}
    {eff : State → Core → Insn → Nat → Issue} {P : State → Prop} {u : State} (hi : Issues s c w)
    (hop : (Insn.ofWord w).opc = op) (he : ecc ≠ .uncorrectable)
    (heff : eff (issued s c ecc) (getCore s c) (Insn.ofWord w) (fget s .SAGE_PC_PC c) = .done u)
    (hrun : exec ins s = issue op c ecc s eff) (hP : P u) : Completes ins s P :=
  ⟨u, by rw [hrun, issue_eq eff hi hop he, heff], hP⟩

end Sys2Proof.Machine
end

section
/-! PROOFS. The range table (R92): what an access enters as it issues. -/
namespace Sys2Proof.Machine

/-! The lines of an entry. -/

theorem foldl_min_le (as : List Nat) (m : Nat) : as.foldl min m ≤ m ∧ ∀ a ∈ as, as.foldl min m ≤ a := by
  induction as generalizing m with
  | nil => exact ⟨le_refl m, fun a h => absurd h List.not_mem_nil⟩
  | cons b as ih =>
    obtain ⟨least, each⟩ := ih (min m b)
    refine ⟨least.trans (Nat.min_le_left m b), fun a h => ?_⟩
    obtain rfl | h := List.mem_cons.1 h
    · exact least.trans (Nat.min_le_right m a)
    · exact each a h

theorem le_foldl_max (as : List Nat) (m : Nat) : m ≤ as.foldl max m ∧ ∀ a ∈ as, a ≤ as.foldl max m := by
  induction as generalizing m with
  | nil => exact ⟨le_refl m, fun a h => absurd h List.not_mem_nil⟩
  | cons b as ih =>
    obtain ⟨greatest, each⟩ := ih (max m b)
    refine ⟨(Nat.le_max_left m b).trans greatest, fun a h => ?_⟩
    obtain rfl | h := List.mem_cons.1 h
    · exact (Nat.le_max_right m a).trans greatest
    · exact each a h

/-- The range of an entry runs from the lowest to the highest byte of its accesses, outward to 64-byte lines; what the
entry captures (`p`) has no part in it. -/
theorem mkEntry_covers (i : Insn) (c n : Nat) (addrs : List Int) (rd wr : Bool) (p : Payload) :
    ∀ a ∈ addrs.map (placeAddr i c), 64 * (mkEntry i c n addrs rd wr p).lo ≤ a ∧ a + n ≤ 64 * (mkEntry i c n addrs rd wr p).hi := by
  intro a ha
  have low := (foldl_min_le (addrs.map (placeAddr i c)) ((addrs.map (placeAddr i c)).headD 0)).2 a ha
  have high := (le_foldl_max (addrs.map (placeAddr i c)) 0).2 a ha
  simp only [mkEntry]
  omega

/-! Dill's streams, which a STREAM load declares, are apart from what a core's frame counts. -/

/-- The state with Dill's streams as given. -/
def withDill (s : State) (d : List Stream) : State := { s with dill := d }

theorem dillTake_dill (s : State) (t : Stream) (r : Bool) : ∃ d, (dillTake s t r).getD s = withDill s d := by
  unfold dillTake
  split_ifs
  · exact ⟨_, rfl⟩
  · exact ⟨s.dill, rfl⟩
  · split
    · exact ⟨_, rfl⟩
    · exact ⟨s.dill, rfl⟩

theorem dillStream_dill (s : State) (p sub core k rows : Nat) (st : Int) (base : Nat) :
    ∃ d, dillStream s p sub core k rows st base = withDill s d := by
  unfold dillStream
  dsimp only
  split
  · split
    · exact ⟨s.dill, rfl⟩
    · exact ⟨_, rfl⟩
  · exact dillTake_dill s _ _

theorem declareStream_dill (s : State) (k : Core) (c : Nat) (i : Insn) : ∃ d, declareStream s k c i = withDill s d := by
  unfold declareStream
  split_ifs
  · split
    · exact dillStream_dill ..
    · exact ⟨s.dill, rfl⟩
  · exact ⟨s.dill, rfl⟩

/-! Entering the table. -/

theorem enter_eq {s : State} {k : Core} {c : Nat} {e : Entry} (hk : getCore s c = k) (h : tableRoom (devNum s) k.table = true) :
    enter s k c e = .seq (setCore s c { k with table := k.table ++ [{ e with slot := freeSlot k }] }) := by
  simp only [enter, h, Bool.not_true, Bool.false_eq_true, if_false, setTable, hk]

theorem devNum_issued (s : State) (c : Nat) (ecc : Ecc) : devNum (issued s c ecc) = devNum s :=
  fget_issued 0 (by decide) (by decide)

/-- The core has gained one entry and gone on: what the statement says of every access. -/
def GainsEntry (s : State) (c : Nat) (P : Entry → Prop) (t : State) : Prop :=
  WentOn s t c ∧ OnlyCore s t c ∧ ∃ e : Entry, P e ∧
    getCore t c = { getCore s c with table := (getCore s c).table ++ [e], loops := (getCore t c).loops }

theorem Completes.of_enter {ins : Instr} {s : State} {c : CoreId} {w : BitVec 128} {ecc : Ecc} {op : Nat}
    {eff : State → Core → Insn → Nat → Issue} {P : Entry → Prop} {u : State} {e : Entry} (hi : Issues s c w)
    (hop : (Insn.ofWord w).opc = op) (he : ecc ≠ .uncorrectable) (hgo : Proceeds s c)
    (hroom : tableRoom (devNum s) (getCore s c).table = true) (hu : ∃ d, u = withDill (issued s c ecc) d)
    (heff : eff (issued s c ecc) (getCore s c) (Insn.ofWord w) (fget s .SAGE_PC_PC c) = enter u (getCore s c) c e)
    (hrun : exec ins s = issue op c ecc s eff) (hP : P { e with slot := freeSlot (getCore s c) }) :
    Completes ins s (GainsEntry s c P) := by
  obtain ⟨d, rfl⟩ := hu
  have core : CoreOnly s c ecc (withDill (issued s c ecc) d) :=
    ⟨rfl, issued_mem s c ecc, fun d _ => getCore_issued s c ecc d⟩
  have own : getCore (withDill (issued s c ecc) d) c = getCore s c := getCore_issued s c ecc c
  have room : tableRoom (devNum (withDill (issued s c ecc) d)) (getCore s c).table = true := by
    rwa [show devNum (withDill (issued s c ecc) d) = devNum s from devNum_issued s c ecc]
  rw [enter_eq own room] at heff
  refine Completes.of_seq hi hop he hgo heff (by rw [getCore_setCore_same]) (by rw [getCore_setCore_same]) hrun
    ⟨(core.setCore _).wentOn, onlyCore_movedTo (core.setCore _) _ _, _, hP, ?_⟩
  rw [getCore_movedTo_same, getCore_setCore_same]

/-- A transfer of rows, in range. -/
theorem issueRows_eq {i : Insn} {k : Core} {n : Nat} (h : rangeFault i.space n (rowAddrs k i) = none) (s : State) (c : Nat)
    (load : Bool) (p : List Nat → Payload) : issueRows s k c i n load p =
      enter (if load then declareStream s k c i else s) k c
        (mkEntry i c n (rowAddrs k i) load (!load) (p ((rowAddrs k i).map (placeAddr i c)))) := by
  simp only [issueRows, h]

/-- A word access, aligned and in range. -/
theorem issueWord_eq {i : Insn} {k : Core} {n : Nat} (h : memBase k i % n = 0 ∧ rangeFault i.space n [(memBase k i : Int)] = none)
    (s : State) (c : Nat) (rd wr release acquire : Bool) (p : Nat → Payload) : issueWord s k c i n rd wr release acquire p =
      enter s k c { mkEntry i c n [(memBase k i : Int)] rd wr (p (placeAddr i c (memBase k i))) with
        release := release, acquire := acquire, scope := i.scope } := by
  simp only [issueWord, h.1, h.2, ne_eq, not_true_eq_false, if_false]

/-- An entry for the accesses at these addresses, of n bytes each. -/
def CoversAt (i : Insn) (as : List Nat) (n : Nat) (e : Entry) : Prop :=
  e.space = accessSpace i ∧ ∀ a ∈ as, 64 * e.lo ≤ a ∧ a + n ≤ 64 * e.hi

theorem Completes.of_issueRows {ins : Instr} {s : State} {c : CoreId} {w : BitVec 128} {ecc : Ecc} {op : Nat} {len : Insn → Nat}
    {load : Bool} {p : Core → Insn → List Nat → Payload} {P : Entry → Prop} (hi : Issues s c w)
    (hrun : exec ins s = issue op c ecc s (fun s k i _ => issueRows s k c i (len i) load (p k i)))
    (hop : (Insn.ofWord w).opc = op) (he : ecc ≠ .uncorrectable) (hgo : Proceeds s c)
    (hroom : tableRoom (devNum s) (getCore s c).table = true)
    (hfit : rangeFault (Insn.ofWord w).space (len (Insn.ofWord w)) (rowAddrs (getCore s c) (Insn.ofWord w)) = none)
    (hP : ∀ lo hi slot, P { mkEntry (Insn.ofWord w) c 0 [] load (!load) (p (getCore s c) (Insn.ofWord w)
      ((rowAddrs (getCore s c) (Insn.ofWord w)).map (placeAddr (Insn.ofWord w) c))) with lo := lo, hi := hi, slot := slot }) :
    Completes ins s (GainsEntry s c (fun e => CoversAt (Insn.ofWord w)
      ((rowAddrs (getCore s c) (Insn.ofWord w)).map (placeAddr (Insn.ofWord w) c)) (len (Insn.ofWord w)) e ∧ P e)) := by
  have heff := issueRows_eq hfit (issued s c ecc) c load (p (getCore s c) (Insn.ofWord w))
  refine Completes.of_enter hi hop he hgo hroom ?_ heff hrun ?_
  · cases load with
    | true => exact declareStream_dill ..
    | false => exact ⟨_, rfl⟩
  · exact ⟨⟨rfl, mkEntry_covers (Insn.ofWord w) c _ (rowAddrs (getCore s c) (Insn.ofWord w)) load (!load) (.flush 0)⟩, hP _ _ _⟩

theorem Completes.of_issueWord {ins : Instr} {s : State} {c : CoreId} {w : BitVec 128} {ecc : Ecc} {op : Nat} {len : Insn → Nat}
    {rd wr : Bool} {rel acq : Insn → Bool} {p : Core → Insn → Nat → Payload} {P : Entry → Prop} (hi : Issues s c w)
    (hrun : exec ins s = issue op c ecc s (fun s k i _ => issueWord s k c i (len i) rd wr (rel i) (acq i) (p k i)))
    (hop : (Insn.ofWord w).opc = op) (he : ecc ≠ .uncorrectable) (hgo : Proceeds s c)
    (hroom : tableRoom (devNum s) (getCore s c).table = true)
    (hfit : memBase (getCore s c) (Insn.ofWord w) % len (Insn.ofWord w) = 0 ∧
      rangeFault (Insn.ofWord w).space (len (Insn.ofWord w)) [(memBase (getCore s c) (Insn.ofWord w) : Int)] = none)
    (hP : ∀ lo hi slot, P { mkEntry (Insn.ofWord w) c 0 [] rd wr
        (p (getCore s c) (Insn.ofWord w) (placeAddr (Insn.ofWord w) c (memBase (getCore s c) (Insn.ofWord w)))) with
      release := rel (Insn.ofWord w), acquire := acq (Insn.ofWord w), scope := (Insn.ofWord w).scope,
      lo := lo, hi := hi, slot := slot }) :
    Completes ins s (GainsEntry s c (fun e => CoversAt (Insn.ofWord w)
      [placeAddr (Insn.ofWord w) c (memBase (getCore s c) (Insn.ofWord w))] (len (Insn.ofWord w)) e ∧ P e)) := by
  have heff := issueWord_eq hfit (issued s c ecc) c rd wr (rel (Insn.ofWord w)) (acq (Insn.ofWord w)) (p (getCore s c) (Insn.ofWord w))
  refine Completes.of_enter hi hop he hgo hroom ⟨_, rfl⟩ heff hrun ?_
  exact ⟨⟨rfl, mkEntry_covers (Insn.ofWord w) c _ [(memBase (getCore s c) (Insn.ofWord w) : Int)] rd wr (.flush 0)⟩, hP _ _ _⟩

/-- What FLUSH enters: the lines of its range, its action. -/
def flushEntry (i : Insn) (k : Core) (c : Nat) : Entry :=
  { mkEntry i c 0 [] true true (.flush i.mod) with
    space := .device, ownStn := false, lo := (k.ar i.s1).toNat / 64, hi := ((k.ar i.s1).toNat + (k.s i.s2).toNat + 63) / 64 }

theorem exec_flush (c : CoreId) (ecc : Ecc) (s : State) :
    exec (.flush c ecc) s = issue 0x50 c ecc s (fun s k i _ => enter s k c (flushEntry i k c)) := rfl

/-- Settles O10: each access enters through `enter`, whose entry stands at the table's end. -/
theorem accessesEnterTheRangeTable : Obligations.AccessesEnterTheRangeTable := by
  unfold Obligations.AccessesEnterTheRangeTable
  intro s c w ecc hi hgo he
  dsimp only
  intro hroom
  refine ⟨fun hop fit => ?_, fun hop fit => ?_, fun hop fit => ?_, fun hop fit => ?_, fun hop fit => ?_, fun hop fit => ?_,
    fun hop fit => ?_, fun hop fit => ?_, fun hop fit => ?_, fun hop fit => ?_, fun hop => ?_⟩
  · exact Completes.of_issueRows (len := Insn.rowLen) (p := fun _ i => .tileLoad (opIx i.dst) i.fmtA i.trans)
      hi rfl hop he hgo hroom fit fun _ _ _ => ⟨rfl, rfl, rfl⟩
  · exact Completes.of_issueRows (len := Insn.rowLen) (p := fun k i as => .store (as.zip ((List.range i.rows).map (fun r =>
      if i.trans then k.memCol i.fmtA (opIx i.s3) r else k.memRow i.fmtA (opIx i.s3) r))))
      hi rfl hop he hgo hroom fit fun _ _ _ => ⟨rfl, rfl, rfl⟩
  · exact Completes.of_issueRows (len := fun _ => 256) (p := fun _ i => .accLoad (opIx i.dst))
      hi rfl hop he hgo hroom fit fun _ _ _ => ⟨rfl, rfl, rfl⟩
  · exact Completes.of_issueRows (len := fun _ => 256)
      (p := fun k i as => .store (as.zip ((List.range i.rows).map (k.accMemRow (opIx i.s3)))))
      hi rfl hop he hgo hroom fit fun _ _ _ => ⟨rfl, rfl, rfl⟩
  · exact Completes.of_issueWord (len := Insn.wordBytes) (rel := fun _ => false) (acq := fun _ => false)
      (p := fun _ i a => .scalarLoad i.dst a i.wordBytes) hi rfl hop he hgo hroom fit fun _ _ _ => ⟨rfl, rfl, rfl, rfl, rfl⟩
  · exact Completes.of_issueWord (len := Insn.wordBytes) (rel := fun _ => false) (acq := fun _ => false)
      (p := scalarStore) hi rfl hop he hgo hroom fit fun _ _ _ => ⟨rfl, rfl, rfl, rfl, rfl⟩
  · exact Completes.of_issueWord (len := Insn.wordBytes) (rel := fun i => i.scope != 0) (acq := fun _ => false)
      (p := scalarStore) hi rfl hop he hgo hroom fit fun _ _ _ => ⟨rfl, rfl, bne_iff_ne, rfl, rfl⟩
  · exact Completes.of_issueWord (len := Insn.wordBytes) (rel := fun _ => false) (acq := fun _ => true)
      (p := fun _ i a => .scalarLoad i.dst a i.wordBytes) hi rfl hop he hgo hroom fit fun _ _ _ => ⟨rfl, rfl, rfl, rfl, rfl⟩
  · exact Completes.of_issueWord (len := fun i => atomBytes (bits i.mod 0 4)) (rel := fun i => i.scope != 0)
      (acq := fun i => i.scope != 0 && i.atomDst.isSome) (p := fun k i a => .atomic (bits i.mod 0 4) a (k.s i.s3) i.atomDst)
      hi rfl hop he hgo hroom fit fun _ _ _ => ⟨rfl, rfl, rfl, rfl⟩
  · exact Completes.of_issueWord (len := fun _ => 8) (rel := fun i => i.scope != 0)
      (acq := fun i => i.scope != 0 && i.atomDst.isSome) (p := fun k i a => .cas a (k.s i.s3) (k.s (bits i.imm 32 8)) i.atomDst)
      hi rfl hop he hgo hroom fit fun _ _ _ => ⟨rfl, rfl, rfl, rfl⟩
  · exact Completes.of_enter (e := flushEntry (Insn.ofWord w) (getCore s c) c) hi hop he hgo hroom ⟨_, rfl⟩ rfl
      (exec_flush c ecc s) ⟨rfl, rfl, rfl, rfl, rfl, rfl⟩

end Sys2Proof.Machine
end

section
/-! PROOFS. The control instructions (R95, R96, R99, R100, R101): where the program goes on, and what the core waits at. -/
namespace Sys2Proof.Machine

/-! What they test. -/

theorem brCond_iff (c : Nat) (a b : W64) : brCond c a b = true ↔
    (match c with
     | 0 => True
     | 1 => a = b
     | 2 => a ≠ b
     | 3 => a.toInt < b.toInt
     | 4 => b.toInt ≤ a.toInt
     | 5 => a.toNat < b.toNat
     | _ => b.toNat ≤ a.toNat) := by
  unfold brCond
  split <;> simp [BitVec.slt, BitVec.ult]

theorem branchLoops_eq (ls : List Loop) (t : Nat) :
    branchLoops ls t = (ls.reverse.takeWhile (fun l => decide (l.first ≤ t ∧ t < l.first + l.len))).reverse := by
  simp only [branchLoops, Bool.decide_and]

/-! Where the core goes on. -/

/-- The core runs on at an index with the loops given, and nothing else has changed: what the statement says of a jump. -/
def GoesOn (s : State) (c : Nat) (t : State) (next : Nat) (ls : List Loop) : Prop :=
  fget t .SAGE_PC_PC c = next % 2 ^ 11 ∧ getCore t c = { getCore s c with loops := ls } ∧ coreState t c = stRunning ∧
  OnlyCore s t c

theorem goesOn_movedTo {s : State} {c : CoreId} (hst : coreState s c = stRunning) (ecc : Ecc) (ls : List Loop) (next : Nat) :
    GoesOn s c (movedTo (issued s c ecc) c ls next) next ls := by
  refine ⟨fget_movedTo_pc .., ?_, ?_, onlyCore_movedTo (.issued s c ecc) ls next⟩
  · rw [getCore_movedTo_same, getCore_issued]
  · exact (fget_movedTo_field _ _ _ _ _ (by decide)).trans ((coreState_issued s c ecc c).trans hst)

/-- An instruction that jumps to an index of the program. -/
theorem Completes.of_jump {ins : Instr} {s : State} {c : CoreId} {w : BitVec 128} {ecc : Ecc} {op : Nat}
    {eff : State → Core → Insn → Nat → Issue} {ls : List Loop} {next : Nat} (hi : Issues s c w)
    (hop : (Insn.ofWord w).opc = op) (he : ecc ≠ .uncorrectable)
    (heff : eff (issued s c ecc) (getCore s c) (Insn.ofWord w) (fget s .SAGE_PC_PC c) =
      .done (goTo (issued s c ecc) c (Insn.ofWord w) (fget s .SAGE_PC_PC c) ls next))
    (hrun : exec ins s = issue op c ecc s eff) (hnext : next < (getCore s c).code.length) :
    Completes ins s (fun t => GoesOn s c t next ls) := by
  rw [goTo_eq_movedTo _ _ (by rwa [getCore_issued])] at heff
  exact Completes.of_done hi hop he heff hrun (goesOn_movedTo hi.1 ecc ls next)

/-- One that does nothing but go on in sequence. -/
theorem Completes.of_step {ins : Instr} {s : State} {c : CoreId} {w : BitVec 128} {ecc : Ecc} {op : Nat}
    {eff : State → Core → Insn → Nat → Issue} (hi : Issues s c w) (hop : (Insn.ofWord w).opc = op)
    (he : ecc ≠ .uncorrectable) (hgo : Proceeds s c)
    (heff : eff (issued s c ecc) (getCore s c) (Insn.ofWord w) (fget s .SAGE_PC_PC c) = .seq (issued s c ecc))
    (hrun : exec ins s = issue op c ecc s eff) :
    Completes ins s (fun t => WentOn s t c ∧ GoesOn s c t (nextOf s c).2 (nextOf s c).1) :=
  Completes.of_seq hi hop he hgo heff (by rw [getCore_issued]) (by rw [getCore_issued]) hrun
    ⟨(CoreOnly.issued s c ecc).wentOn, goesOn_movedTo hi.1 ecc _ _⟩

/-! Beginning to wait (R95, R96). -/

theorem startWait_next {s : State} {c pc : Nat} {k : Core} (hk : getCore s c = k) (h : (seqPc k.loops (pc + 1)).2 < k.code.length)
    (w : Bool → Wait) : startWait s c pc w =
      fset (setCore s c { k with loops := (seqPc k.loops (pc + 1)).1, wait := w false }) .SAGE_PC_PC c (seqPc k.loops (pc + 1)).2 := by
  subst hk
  exact if_pos h

theorem startWait_past {s : State} {c pc : Nat} {k : Core} (hk : getCore s c = k) (h : ¬(seqPc k.loops (pc + 1)).2 < k.code.length)
    (w : Bool → Wait) : startWait s c pc w = setCore s c { k with wait := w true } := by
  subst hk
  exact if_neg h

theorem startWait_mem (s : State) (c pc : Nat) (w : Bool → Wait) : (startWait s c pc w).mem = s.mem := by
  unfold startWait
  dsimp only
  split_ifs <;> rfl

theorem fget_startWait_field (s : State) (c pc : Nat) (w : Bool → Wait) {f : F} (j : Nat) (h : f ≠ .SAGE_PC_PC) :
    fget (startWait s c pc w) f j = fget s f j := by
  unfold startWait
  dsimp only
  split_ifs
  · rw [fget_fset_field _ _ _ _ h, fget_setCore]
  · rw [fget_setCore]

/-- The core waits at a barrier it has reached: what the statement says of BAR. -/
def WaitsAt (s : State) (c : Nat) (w : Bool → Wait) (t : State) : Prop :=
  SameMem s t ∧ coreState t c = stRunning ∧
  (Proceeds s c → getCore t c = { getCore s c with wait := w false, loops := (nextOf s c).1 } ∧
    fget t .SAGE_PC_PC c = (nextOf s c).2 % 2 ^ 11) ∧
  (¬Proceeds s c → getCore t c = { getCore s c with wait := w true } ∧ fget t .SAGE_PC_PC c = fget s .SAGE_PC_PC c)

theorem waitsAt_startWait {s : State} {c : Nat} (hst : coreState s c = stRunning) (ecc : Ecc) (w : Bool → Wait) :
    WaitsAt s c w (startWait (issued s c ecc) c (fget s .SAGE_PC_PC c) w) := by
  have own := getCore_issued s c ecc c
  refine ⟨fun a => ?_, ?_, fun hgo => ?_, fun hgo => ?_⟩
  · rw [startWait_mem, issued_mem]
  · exact (fget_startWait_field _ _ _ _ _ (by decide)).trans ((coreState_issued s c ecc c).trans hst)
  · rw [startWait_next own hgo]
    refine ⟨?_, fget_fset_same ..⟩
    rw [getCore_fset, getCore_setCore_same]
  · rw [startWait_past own hgo]
    refine ⟨getCore_setCore_same .., ?_⟩
    rw [fget_setCore, fget_issued _ (by decide) (by decide)]

/-- Telling the collector of arrivals changes neither a core nor memory. -/
theorem WaitsAt.signal {s t : State} {c : Nat} {w : Bool → Wait} (h : WaitsAt s c w t) (cls die stop part : Nat)
    (payload : List W32) : WaitsAt s c w (coreSignal t c cls die stop part payload) := h

/-! The instructions' meanings. -/

theorem exec_br (c : CoreId) (ecc : Ecc) (s : State) : exec (.br c ecc) s = issue 0x70 c ecc s (fun s k i pc =>
    if brCond (bits i.mod 0 3) (k.s i.s1) (k.s i.s2) then
      if (pc : Int) + signed 16 i.imm < 0 then .fault fPc i.opc
      else .done (goTo s c i pc (branchLoops k.loops ((pc : Int) + signed 16 i.imm).toNat) ((pc : Int) + signed 16 i.imm).toNat)
    else .seq s) := rfl

theorem exec_loopOp (c : CoreId) (ecc : Ecc) (s : State) : exec (.loopOp c ecc) s = issue 0x71 c ecc s (fun s k i pc =>
    if (if isNo i.s1 then bits i.imm 0 32 else (k.s i.s1).toNat) = 0 then
      .done (goTo s c i pc (seqPc k.loops (pc + 1 + bits i.imm 32 12)).1 (seqPc k.loops (pc + 1 + bits i.imm 32 12)).2)
    else if 4 ≤ k.loops.length then .fault fLoop 0
    else .done (goTo s c i pc
      (⟨pc + 1, bits i.imm 32 12, if isNo i.s1 then bits i.imm 0 32 else (k.s i.s1).toNat, 0⟩ :: k.loops) (pc + 1))) := rfl

theorem exec_endProg (c : CoreId) (ecc : Ecc) (s : State) : exec (.endProg c ecc) s =
    issue 0xFF c ecc s (fun s _ _ _ => .done (setCoreState s c stEnding)) := rfl

/-- What issuing a BAR comes to (R96, R126). -/
def barIssue (c : Nat) (s : State) (k : Core) (i : Insn) (pc : Nat) : Issue :=
  if i.scope != 0 && k.table.any (releaseWaits i.scope) then .hold else
  let s := startWait s c pc (Wait.bar i.scope (bits i.imm 0 4) pc)
  match k.launch with
  | none => .done s
  | some cl =>
    if i.scope ≤ 1 then .done s else
    match getLaunch s cl.id with
    | none => .done s
    | some l => .done (coreSignal s c clsBarrier (barrierDie s l i.scope c) ccStop cl.part
        [BitVec.ofNat 32 c, BitVec.ofNat 32 (bits i.imm 0 4)])

theorem exec_bar (c : CoreId) (ecc : Ecc) (s : State) : exec (.bar c ecc) s = issue 0x79 c ecc s (barIssue c) := rfl

/-- Whether or not the arrival is told to a collector, the core waits. -/
theorem barIssue_waits {s : State} {c : Nat} (hst : coreState s c = stRunning) (ecc : Ecc) (k : Core) (i : Insn)
    (calm : i.scope = 0 ∨ k.table.any (releaseWaits i.scope) = false) :
    ∃ u, barIssue c (issued s c ecc) k i (fget s .SAGE_PC_PC c) = .done u ∧
      WaitsAt s c (Wait.bar i.scope (bits i.imm 0 4) (fget s .SAGE_PC_PC c)) u := by
  have passes : ¬(i.scope != 0 && k.table.any (releaseWaits i.scope)) = true := by
    rcases calm with core | none
    · simp [core]
    · simp [none]
  have waits := waitsAt_startWait hst ecc (Wait.bar i.scope (bits i.imm 0 4) (fget s .SAGE_PC_PC c))
  simp only [barIssue, if_neg passes]
  split
  · exact ⟨_, rfl, waits⟩
  · split_ifs
    · exact ⟨_, rfl, waits⟩
    · split
      · exact ⟨_, rfl, waits⟩
      · exact ⟨_, rfl, waits.signal ..⟩

/-- What issuing a WAITR on a range comes to (R95). -/
theorem exec_waitr (c : CoreId) (ecc : Ecc) (s : State) : exec (.waitr c ecc) s = issue 0x78 c ecc s (fun s k i pc =>
    if !bit i.mod 0 then
      if k.table.any (fun e => e.space.at (devNum s) == (accessSpace i).at (devNum s) &&
          decide (64 * e.lo < placeAddr i c (k.ar i.s1).toNat + (k.s i.s2).toNat) &&
          decide (placeAddr i c (k.ar i.s1).toNat < 64 * e.hi))
      then .hold else .seq s
    else if (k.ar i.s1).toNat % 8 ≠ 0 then .fault fMisaligned ((k.ar i.s1).toNat % 2 ^ 32)
    else match rangeFault i.space 8 [((k.ar i.s1).toNat : Int)] with
      | some f => .fault f.1 f.2
      | none =>
        .done (pollOnce (startWait s c pc (Wait.poll k.cycles k.cycles pc)) c i k.cycles pc
          (decide (k.code.length ≤ (seqPc k.loops (pc + 1)).2)))) := rfl

/-- Settles O12. -/
theorem controlInstructionsMoveTheProgram : Obligations.ControlInstructionsMoveTheProgram := by
  unfold Obligations.ControlInstructionsMoveTheProgram
  intro s c w ecc hi he
  dsimp only
  refine ⟨fun hop holds low high => ?_, fun hop fails hgo => ?_, fun hop some free fits => ?_, fun hop zero fits => ?_,
    fun hop => ?_, fun hop calm => ?_, fun hop range hgo apart => ?_⟩
  · rw [← branchLoops_eq]
    refine Completes.of_jump hi hop he ?_ (exec_br c ecc s) high
    rw [if_pos ((brCond_iff _ _ _).2 holds), if_neg (not_lt.2 low)]
  · refine Completes.of_step hi hop he hgo ?_ (exec_br c ecc s)
    rw [if_neg (fun taken => fails ((brCond_iff _ _ _).1 taken))]
  · refine Completes.of_jump hi hop he ?_ (exec_loopOp c ecc s) fits
    rw [if_neg some, if_neg (not_le.2 free)]
  · refine Completes.of_jump hi hop he ?_ (exec_loopOp c ecc s) fits
    rw [if_pos zero]
  · refine Completes.of_done hi hop he rfl (exec_endProg c ecc s) ⟨?_, ?_, ?_, fun a => ?_⟩
    · exact fget_fset_same ..
    · rw [setCoreState, fget_fset_field _ _ _ _ (by decide), fget_issued _ (by decide) (by decide)]
    · rw [setCoreState, getCore_fset, getCore_issued]
    · rw [setCoreState, fset_mem, issued_mem]
  · obtain ⟨u, heff, waits⟩ := barIssue_waits hi.1 ecc (getCore s c) (Insn.ofWord w) calm
    exact Completes.of_done hi hop he heff (exec_bar c ecc s) waits
  · refine Completes.of_step hi hop he hgo ?_ (exec_waitr c ecc s)
    rw [range, devNum_issued, Bool.not_false, if_pos rfl, if_neg]
    simp only [List.any_eq_true, Bool.and_eq_true, beq_iff_eq, decide_eq_true_eq, not_exists, not_and]
    intro e he space_low high
    obtain ⟨space, low⟩ := space_low
    rcases apart e he with other | below | above
    · exact other space
    · omega
    · omega

end Sys2Proof.Machine
end

section
/-! PROOFS. Polling (R95): reading a word of the core's own station memory, and how the wait goes on or ends. -/
namespace Sys2Proof.Machine

/-! A station's own memory (R110, R111). -/

theorem coreStn_lt (c : CoreId) : coreStn c < 256 := by
  have := c.isLt
  unfold coreStn
  omega

theorem regionOf_stnAddr {stn off : Nat} (hs : stn < 256) (ho : off < 0x1000000) : regionOf (stnAddr stn off) = .station stn off := by
  have place : (stnAddr stn off - stnBase) / 0x1000000 = stn ∧ (stnAddr stn off - stnBase) % 0x1000000 = off := by
    unfold stnAddr
    omega
  have above : ¬ stnAddr stn off < 0x10000000000 := by
    simp only [stnAddr, stnBase]
    omega
  have within : stnBase ≤ stnAddr stn off ∧ stnAddr stn off < stnBase + 0x100000000 := by
    unfold stnAddr
    omega
  unfold regionOf
  rw [if_neg above, if_pos within, place.1, place.2]

/-- Bytes within one 64-byte line are one piece. -/
theorem pieces_one {a n : Nat} (hn : 0 < n) (hl : a % 64 + n ≤ 64) : pieces a n = [⟨a, n⟩] := by
  have all : min n (64 - a % 64) = n := by omega
  have some : n ≠ 0 := by omega
  simp only [pieces, piecesFrom, if_neg some, all, Nat.sub_self, if_true]

theorem stationRead_eq {s : State} {w : Who} {stn off : Nat} (ho : off < 0x800000) (hon : stnPower s stn = domOn)
    (hw : boundTo s stn = some w.part) (p : Piece) : stationRead s w stn off p = (s, Bytes.read s.mem p.addr p.len, false) := by
  have lit : ¬ stnPower s stn = domOff := by rw [hon]; decide
  have accepts : ¬ (!stopAccepts s w stn) = true := by simp [stopAccepts, hw]
  have within : ¬ 0x800000 ≤ off := Nat.not_le.2 ho
  simp only [stationRead, if_neg lit, if_neg accepts, if_neg within]

theorem pieceRead_station {s : State} {w : Who} {stn off : Nat} {p : Piece} (hp : regionOf p.addr = .station stn off)
    (ho : off < 0x800000) (hon : stnPower s stn = domOn) (hw : boundTo s stn = some w.part) (c nt str : Bool) :
    pieceRead s w none c nt str p = (s, Bytes.read s.mem p.addr p.len, false) := by
  simp only [pieceRead, readAt, hp]
  exact stationRead_eq ho hon hw p

/-- A read by a core of memory of its own station. -/
theorem readPieces_station {s : State} {w : Who} {stn off : Nat} {p : Piece} (hp : regionOf p.addr = .station stn off)
    (ho : off < 0x800000) (hon : stnPower s stn = domOn) (hw : boundTo s stn = some w.part) (c nt str : Bool) :
    readPieces w none c nt str (fun _ => true) [p] s = (s, Bytes.read s.mem p.addr p.len, false) := by
  simp only [readPieces, if_true, pieceRead_station hp ho hon hw, List.append_nil, Bool.or_self]

theorem coreWho_part {k : Core} {c : Nat} {p : Option Nat} (h : p = k.launch.map (·.part)) (hp : p ≠ none) :
    p = some (coreWho k c).part := by
  cases hl : k.launch with
  | none => rw [hl] at h; exact absurd h hp
  | some l => rw [h, hl]; simp [coreWho, hl]

/-! The condition. -/

theorem leNat_lt (bs : List Byte) : leNat bs < 2 ^ (8 * bs.length) := by
  induction bs with
  | nil => exact Nat.one_pos
  | cons b bs ih =>
    have byte := b.isLt
    have shift : 2 ^ (8 * (bs.length + 1)) = 256 * 2 ^ (8 * bs.length) := by ring
    simp only [leNat, List.length_cons, shift]
    omega

theorem Bytes.le_lt (m : Bytes) (a n : Nat) : Bytes.le m a n < 2 ^ (8 * n) := by
  have h := leNat_lt (Bytes.read m a n)
  rwa [Bytes.read, List.length_map, List.length_range] at h

theorem toInt_eq_signed (v : W64) : v.toInt = signed 64 v.toNat := by
  have h := v.isLt
  simp only [signed, BitVec.toInt]
  split_ifs <;> omega

theorem pollCond_iff (c : Nat) (v b : W64) : pollCond c v b = true ↔
    (match c with
     | 0 => v.toNat = b.toNat
     | 1 => v.toNat ≠ b.toNat
     | 2 => b.toNat ≤ v.toNat
     | _ => signed 64 b.toNat ≤ signed 64 v.toNat) := by
  unfold pollCond
  split <;> simp [BitVec.slt, BitVec.ult, toInt_eq_signed, BitVec.toNat_eq]

/-! The end of a wait. -/

/-- Reading a scalar after a write of a register of any file. -/
theorem s_setS_any (k : Core) (b : Nat) (v : W64) {n : Nat} (hn : n < 32) : (k.setS b v).s n = if n = b ∧ n ≠ 0 then v else k.s n := by
  by_cases hb : b < 32
  · exact s_setS k v hb hn
  · have other : ¬ isS b = true := fun h => hb (lt_of_isS h)
    rw [Core.setS, if_neg (fun h => other h.1), if_neg]
    omega

theorem acquireAt_regs (s : State) (c scope : Nat) : (acquireAt s c scope).regs = s.regs := by unfold acquireAt; split_ifs <;> rfl
theorem acquireAt_mem (s : State) (c scope : Nat) : (acquireAt s c scope).mem = s.mem := by unfold acquireAt; split_ifs <;> rfl
theorem acquireAt_cores (s : State) (c scope : Nat) : (acquireAt s c scope).cores = s.cores := by unfold acquireAt; split_ifs <;> rfl
theorem getCore_acquireAt (s : State) (c scope d : Nat) : getCore (acquireAt s c scope) d = getCore s d := by
  unfold getCore
  rw [acquireAt_cores]

theorem getCore_waitOver_same (s : State) (c pc : Nat) (past : Bool) :
    getCore (waitOver s c pc past) c = { getCore s c with wait := .none } := by
  unfold waitOver
  cases past with
  | false => exact getCore_setCore_same ..
  | true => exact (getCore_faultCore ..).trans (getCore_setCore_same ..)

theorem getCore_waitOver_other (s : State) {c d : Nat} (pc : Nat) (past : Bool) (h : d ≠ c) :
    getCore (waitOver s c pc past) d = getCore s d := by
  unfold waitOver
  cases past with
  | false => exact getCore_setCore_other _ _ h
  | true => exact (getCore_faultCore ..).trans (getCore_setCore_other _ _ h)

theorem waitOver_mem (s : State) (c pc : Nat) (past : Bool) : (waitOver s c pc past).mem = s.mem := by
  unfold waitOver
  cases past <;> rfl

theorem fget_waitOver (s : State) (c pc : Nat) (past : Bool) {f : F} (j : Nat)
    (hf : f ∉ [.SAGE_FAULT_CODE, .SAGE_FAULT_FAULT_PC, .SAGE_FAULT_DETAIL, .SAGE_STATUS_STATE]) :
    fget (waitOver s c pc past) f j = fget s f j := by
  unfold waitOver
  cases past with
  | false => exact fget_setCore ..
  | true => exact (fget_faultCore_other _ _ _ _ _ _ hf).trans (fget_setCore ..)

theorem fget_waitOver_running (s : State) (c pc : Nat) (f : F) (j : Nat) : fget (waitOver s c pc false) f j = fget s f j :=
  fget_setCore ..

theorem waitOver_past (s : State) (c pc : Nat) :
    coreState (waitOver s c pc true) c = stFaulted ∧ fget (waitOver s c pc true) .SAGE_FAULT_CODE c = 5 :=
  ⟨coreState_faultCore .., fget_faultCore_code ..⟩

/-- The wait of core c has ended with a result: what the statement says of it, of a core that was as k. -/
def PollEnds (k : Core) (c dst : Nat) (v : W64) (past : Bool) (t : State) : Prop :=
  (getCore t c).wait = .none ∧ (∀ n, n < 32 → (getCore t c).s n = if n = dst ∧ n ≠ 0 then v else k.s n) ∧
  (past = false → coreState t c = stRunning) ∧
  (past = true → coreState t c = stFaulted ∧ fget t .SAGE_FAULT_CODE c = 5)

theorem getCore_pollEnd (s : State) (c : Nat) (i : Insn) (pc : Nat) (past timeout : Bool) : getCore (pollEnd s c i pc past timeout) c =
    { (getCore s c).setS i.dst (if timeout then 1 else 0) with wait := .none } := by
  rw [pollEnd, getCore_waitOver_same, getCore_acquireAt, getCore_setCore_same]

theorem pollEnd_mem (s : State) (c : Nat) (i : Insn) (pc : Nat) (past timeout : Bool) : (pollEnd s c i pc past timeout).mem = s.mem := by
  rw [pollEnd, waitOver_mem, acquireAt_mem, setCore_mem]

theorem fget_pollEnd_pc (s : State) (c : Nat) (i : Insn) (pc : Nat) (past timeout : Bool) :
    fget (pollEnd s c i pc past timeout) .SAGE_PC_PC c = fget s .SAGE_PC_PC c := by
  rw [pollEnd, fget_waitOver _ _ _ _ _ (by decide), fget, acquireAt_regs, setCore_regs, fget]

theorem pollEnd_ends {s : State} {c : Nat} (hst : coreState s c = stRunning) (i : Insn) (pc : Nat) (past timeout : Bool) :
    PollEnds (getCore s c) c i.dst (if timeout then 1 else 0) past (pollEnd s c i pc past timeout) := by
  rw [PollEnds, getCore_pollEnd]
  refine ⟨rfl, fun n hn => s_setS_any _ _ _ hn, fun here => ?_, fun gone => ?_⟩
  · subst here
    rw [pollEnd, coreState, fget_waitOver_running, fget, acquireAt_regs]
    exact hst
  · subst gone
    exact waitOver_past ..

/-! Reading the word. -/

/-- The WAITR i of core c, which is as k, names an aligned word of its own station's memory that it may read now. -/
structure OwnWord (s : State) (c : CoreId) (k : Core) (i : Insn) : Prop where
  core : getCore s c = k
  space : i.space = 1
  local_ : i.remote = false
  aligned : (k.ar i.s1).toNat % 8 = 0
  inside : (k.ar i.s1).toNat + 8 ≤ 0x800000
  bound : boundTo s (coreStn c) = k.launch.map (·.part)
  claimed : boundTo s (coreStn c) ≠ none
  free : ∀ f ∈ k.table, blocks (devNum s) f (pollEntry i k c) = false
  on : stnPower s (coreStn c) = domOn

/-- The word that the WAITR polls. -/
def polledWord (m : Bytes) (c : Nat) (k : Core) (i : Insn) : Nat := Bytes.le m (stnAddr (coreStn c) (k.ar i.s1).toNat) 8

theorem OwnWord.pollRead {s : State} {c : CoreId} {k : Core} {i : Insn} (h : OwnWord s c k i) :
    pollRead s c i = some (s, BitVec.ofNat 64 (polledWord s.mem c k i)) := by
  have inside := h.inside
  have aligned := h.aligned
  have place : placeAddr i c ((k.ar i.s1).toNat : Int) = stnAddr (coreStn c) (k.ar i.s1).toNat := by
    rw [placeAddr, if_pos h.space, Int.toNat_natCast]
  have base : stnAddr (coreStn c) (k.ar i.s1).toNat % 64 = (k.ar i.s1).toNat % 64 := by
    simp only [stnAddr, stnBase]
    omega
  have region := regionOf_stnAddr (off := (k.ar i.s1).toNat) (coreStn_lt c) (by omega)
  have one : pieces (stnAddr (coreStn c) (k.ar i.s1).toNat) 8 = [⟨stnAddr (coreStn c) (k.ar i.s1).toNat, 8⟩] :=
    pieces_one (by decide) (by omega)
  have bound := coreWho_part (c := c) h.bound h.claimed
  simp only [Machine.pollRead, h.core, place, one, if_pos h.space]
  rw [readPieces_station region (by omega) h.on bound, polledWord, Bytes.le]

/-- What one reading comes to. -/
theorem pollOnce_own {s : State} {c : CoreId} {k : Core} {i : Insn} (h : OwnWord s c k i) (start pc : Nat) (past : Bool) :
    pollOnce s c i start pc past =
      if pollCond (bits i.mod 1 3) (BitVec.ofNat 64 (polledWord s.mem c k i)) (k.s i.s2) then pollEnd s c i pc past false
      else setCore s c { k with wait := .poll start k.cycles pc past } := by
  have calm : ¬ k.table.any (fun f => blocks (devNum s) f (pollEntry i k c)) = true := by
    simp only [List.any_eq_true, not_exists, not_and]
    exact fun f hf => by simp [h.free f hf]
  unfold pollOnce
  simp only [h.core, calm, h.local_, Bool.false_eq_true, if_false]
  rw [h.pollRead]
  simp only [h.core]

/-- What the statement says of a reading: the wait ends where the word meets the condition, and goes on otherwise. -/
theorem pollOnce_spec {s : State} {c : CoreId} {k : Core} {i : Insn} (h : OwnWord s c k i) (hst : coreState s c = stRunning)
    (start pc : Nat) (past : Bool) :
    (pollOnce s c i start pc past).mem = s.mem ∧
    fget (pollOnce s c i start pc past) .SAGE_PC_PC c = fget s .SAGE_PC_PC c ∧
    (getCore (pollOnce s c i start pc past) c).loops = k.loops ∧
    (pollCond (bits i.mod 1 3) (BitVec.ofNat 64 (polledWord s.mem c k i)) (k.s i.s2) = true →
      PollEnds k c i.dst 0 past (pollOnce s c i start pc past)) ∧
    (¬ pollCond (bits i.mod 1 3) (BitVec.ofNat 64 (polledWord s.mem c k i)) (k.s i.s2) = true →
      getCore (pollOnce s c i start pc past) c = { k with wait := .poll start k.cycles pc past }) := by
  rw [pollOnce_own h]
  split_ifs with met
  · refine ⟨pollEnd_mem .., fget_pollEnd_pc .., ?_, fun _ => ?_, fun unmet => absurd met unmet⟩
    · rw [getCore_pollEnd, h.core, setS_sregs]
    · have ends := pollEnd_ends hst i pc past false
      rwa [h.core] at ends
  · exact ⟨rfl, fget_setCore .., by rw [getCore_setCore_same], fun yes => absurd yes met, fun _ => getCore_setCore_same ..⟩

/-- The word's condition as R95 writes it. -/
theorem polled_iff (m : Bytes) (c : Nat) (k : Core) (i : Insn) :
    pollCond (bits i.mod 1 3) (BitVec.ofNat 64 (polledWord m c k i)) (k.s i.s2) = true ↔
    (match bits i.mod 1 3 with
     | 0 => polledWord m c k i = (k.s i.s2).toNat
     | 1 => polledWord m c k i ≠ (k.s i.s2).toNat
     | 2 => (k.s i.s2).toNat ≤ polledWord m c k i
     | _ => signed 64 (k.s i.s2).toNat ≤ signed 64 (polledWord m c k i)) :=
by
  have word : (BitVec.ofNat 64 (polledWord m c k i)).toNat = polledWord m c k i := by
    rw [BitVec.toNat_ofNat]
    exact Nat.mod_eq_of_lt (Bytes.le_lt _ _ 8)
  have h := pollCond_iff (bits i.mod 1 3) (BitVec.ofNat 64 (polledWord m c k i)) (k.s i.s2)
  rwa [word] at h

/-! Issue, and reading again. -/

theorem stnPower_of_regs {s t : State} (h : ∀ j, fget t .PWR_DOM_STATUS_STATE j = fget s .PWR_DOM_STATUS_STATE j) (k : Nat) :
    stnPower t k = stnPower s k := h _

theorem boundTo_of_fields {s t : State} (h1 : ∀ j, fget t .STN_STATUS_BOUND j = fget s .STN_STATUS_BOUND j)
    (h2 : ∀ j, fget t .STN_STATUS_PART j = fget s .STN_STATUS_PART j) (k : Nat) : boundTo t k = boundTo s k := by
  unfold boundTo fbit
  rw [h1, h2]

/-- The fields that the issue of a waiting instruction leaves. -/
theorem fget_startWait_issued (s : State) (c pc : Nat) (ecc : Ecc) (w : Bool → Wait) {f : F} (j : Nat)
    (hf : f ∉ [.SAGE_PC_PC, .SAGE_RETIRED_COUNT, .SAGE_ECC_COUNT_CORRECTED]) :
    fget (startWait (issued s c ecc) c pc w) f j = fget s f j := by
  simp only [List.mem_cons, List.not_mem_nil, not_or, or_false] at hf
  obtain ⟨h1, h2, h3⟩ := hf
  rw [fget_startWait_field _ _ _ _ _ h1, fget_issued _ h2 h3]

/-- A core that issues such a WAITR may read its word from the state in which it begins to wait. -/
theorem OwnWord.startWait {s : State} {c : CoreId} {k : Core} {i : Insn} (h : OwnWord s c k i) (hgo : Proceeds s c) (ecc : Ecc)
    (w : Bool → Wait) : OwnWord (startWait (issued s c ecc) c (fget s .SAGE_PC_PC c) w) c
      { k with loops := (nextOf s c).1, wait := w false } i := by
  have own : getCore (issued s c ecc) c = k := (getCore_issued s c ecc c).trans h.core
  have same : ∀ f j, f ∉ [.SAGE_PC_PC, .SAGE_RETIRED_COUNT, .SAGE_ECC_COUNT_CORRECTED] →
      fget (Machine.startWait (issued s c ecc) c (fget s .SAGE_PC_PC c) w) f j = fget s f j :=
    fun f j hf => fget_startWait_issued s c _ ecc w j hf
  have bound := boundTo_of_fields (fun j => same .STN_STATUS_BOUND j (by decide)) (fun j => same .STN_STATUS_PART j (by decide))
    (coreStn c)
  refine ⟨?_, h.space, h.local_, h.aligned, h.inside, bound.trans h.bound, bound ▸ h.claimed, fun f hf => ?_, ?_⟩
  · obtain rfl := h.core
    rw [startWait_next own hgo, getCore_fset, getCore_setCore_same]
  · have device : devNum (Machine.startWait (issued s c ecc) c (fget s .SAGE_PC_PC c) w) = devNum s := same _ 0 (by decide)
    rw [device]
    exact h.free f hf
  · exact (stnPower_of_regs (fun j => same .PWR_DOM_STATUS_STATE j (by decide)) _).trans h.on

/-- A WAITR's first reading, as it issues. -/
theorem OwnWord.pollOnce_issued {s t : State} {c : CoreId} {i : Insn} (h : OwnWord s c (getCore s c) i)
    (hst : coreState s c = stRunning) (hgo : Proceeds s c) (ecc : Ecc)
    (ht : t = pollOnce (Machine.startWait (issued s c ecc) c (fget s .SAGE_PC_PC c)
      (Wait.poll (getCore s c).cycles (getCore s c).cycles (fget s .SAGE_PC_PC c))) c i (getCore s c).cycles
      (fget s .SAGE_PC_PC c) false) :
    t.mem = s.mem ∧ fget t .SAGE_PC_PC c = (nextOf s c).2 % 2 ^ 11 ∧ (getCore t c).loops = (nextOf s c).1 ∧
    (pollCond (bits i.mod 1 3) (BitVec.ofNat 64 (polledWord s.mem c (getCore s c) i)) ((getCore s c).s i.s2) = true →
      PollEnds (getCore s c) c i.dst 0 false t) ∧
    (¬ pollCond (bits i.mod 1 3) (BitVec.ofNat 64 (polledWord s.mem c (getCore s c) i)) ((getCore s c).s i.s2) = true →
      getCore t c = { getCore s c with
        wait := .poll (getCore s c).cycles (getCore s c).cycles (fget s .SAGE_PC_PC c) false, loops := (nextOf s c).1 }) := by
  have own := h.startWait hgo ecc (Wait.poll (getCore s c).cycles (getCore s c).cycles (fget s .SAGE_PC_PC c))
  have running := (fget_startWait_issued s c (fget s .SAGE_PC_PC c) ecc
    (Wait.poll (getCore s c).cycles (getCore s c).cycles (fget s .SAGE_PC_PC c)) c (f := .SAGE_STATUS_STATE) (by decide)).trans hst
  obtain ⟨mem, at_pc, loops, ends, waits⟩ := pollOnce_spec own running (getCore s c).cycles (fget s .SAGE_PC_PC c) false
  rw [startWait_mem, issued_mem] at mem ends waits
  refine ht ▸ ⟨mem, ?_, loops, ends, waits⟩
  rw [at_pc, startWait_next (getCore_issued s c ecc c) hgo, fget_fset_same]
  rfl

theorem rangeFault_word {i : Insn} {a : Nat} (hs : i.space = 1) (ha : a + 8 ≤ 0x800000) : rangeFault i.space 8 [(a : Int)] = none := by
  have inside : ¬ ((a : Int) < 0 ∨ ((0x800000 : Nat) : Int) < (a : Int) + (8 : Nat)) := by omega
  simp only [rangeFault, hs, spaceLimit, Option.map_eq_none_iff, List.find?_eq_none, List.mem_singleton, forall_eq, Bool.or_eq_true,
    decide_eq_true_eq]
  exact inside

/-- The WAITR in which a running core waits, by whether its time has passed. -/
theorem polling_eq {s : State} {c start last pc : Nat} {past : Bool} {w : BitVec 128} (hst : coreState s c = stRunning)
    (hfence : (getCore s c).fencing = false) (hreset : inReset s (coreStn c) = false)
    (hwait : (getCore s c).wait = .poll start last pc past) (hcode : (getCore s c).code[pc]? = some w) :
    polling s c (decide (start + bits (Insn.ofWord w).imm 32 32 ≤ (getCore s c).cycles)) =
      some (Insn.ofWord w, start, last, pc, past) := by
  simp [polling, hwait, hcode, hst, hfence, hreset]

/-- Settles O13. -/
theorem pollingWaitsForTheWord : Obligations.PollingWaitsForTheWord := by
  unfold Obligations.PollingWaitsForTheWord
  intro s c w ecc
  dsimp only
  refine ⟨fun hi he hgo hop polls word => ?_, fun start last pc past hst hfence hreset hwait hcode =>
    ⟨fun hon again early word => ?_, fun late => ?_⟩⟩
  · obtain ⟨space, near, aligned, inside, bound, some, free⟩ := word
    have issue : OwnWord s c (getCore s c) (Insn.ofWord w) :=
      ⟨rfl, space, near, aligned, inside, bound, some, free, hi.2.2.2.1⟩
    obtain ⟨mem, at_pc, loops, ends, waits⟩ := issue.pollOnce_issued hi.1 hgo ecc rfl
    have condition := polled_iff s.mem c (getCore s c) (Insn.ofWord w)
    refine Completes.of_done hi hop he ?_ (exec_waitr c ecc s) ⟨fun a => by rw [mem], at_pc, loops,
      fun met => ends (condition.2 met), fun unmet => waits (fun met => unmet (condition.1 met))⟩
    have proceeds : decide ((getCore s c).code.length ≤ (nextOf s c).2) = false := decide_eq_false (Nat.not_le.2 hgo)
    simp only [polls, Bool.not_true, Bool.false_eq_true, if_false, aligned, ne_eq, not_true_eq_false, rangeFault_word space inside]
    rw [proceeds]
  · obtain ⟨space, near, aligned, inside, bound, some, free⟩ := word
    have own : OwnWord s c (getCore s c) (Insn.ofWord w) := ⟨rfl, space, near, aligned, inside, bound, some, free, hon⟩
    obtain ⟨mem, at_pc, -, ends, waits⟩ := pollOnce_spec own hst start pc past
    have condition := polled_iff s.mem c (getCore s c) (Insn.ofWord w)
    have waiting := polling_eq hst hfence hreset hwait hcode
    rw [decide_eq_false (Nat.not_le.2 early)] at waiting
    refine ⟨pollOnce s c (Insn.ofWord w) start pc past, ?_, fun a => by rw [mem], at_pc, fun met => ends (condition.2 met),
      fun unmet => waits (fun met => unmet (condition.1 met))⟩
    show execWaitrPollRead c s = _
    simp only [execWaitrPollRead, waiting, if_pos again]
  · have waiting := polling_eq hst hfence hreset hwait hcode
    rw [decide_eq_true late] at waiting
    have running : coreState (orphanRemotes s c (· == pollSlot)) c = stRunning := hst
    refine ⟨pollEnd (orphanRemotes s c (· == pollSlot)) c (Insn.ofWord w) pc past true, ?_, fun a => ?_, ?_,
      pollEnd_ends running (Insn.ofWord w) pc past true⟩
    · show execWaitrTimeout c s = _
      simp only [execWaitrTimeout, waiting]
    · rw [pollEnd_mem]
      rfl
    · rw [fget_pollEnd_pc]
      rfl

end Sys2Proof.Machine
end

section
/-! PROOFS. Messages over the links (R365-R382) disturb neither a core nor memory. -/
namespace Sys2Proof.Machine

/-- Memory and every core are as before. -/
structure Undisturbed (s t : State) : Prop where
  mem : t.mem = s.mem
  cores : t.cores = s.cores

theorem Undisturbed.refl (s : State) : Undisturbed s s := ⟨rfl, rfl⟩

theorem Undisturbed.trans {s t u : State} (h : Undisturbed s t) (h' : Undisturbed t u) : Undisturbed s u :=
  ⟨h'.mem.trans h.mem, h'.cores.trans h.cores⟩

theorem Undisturbed.foldl {α : Type} (f : State → α → State) (h : ∀ s a, Undisturbed s (f s a)) (xs : List α) (s : State) :
    Undisturbed s (xs.foldl f s) := by
  induction xs generalizing s with
  | nil => exact Undisturbed.refl s
  | cons x xs ih => exact (h s x).trans (ih _)

theorem Undisturbed.getCore {s t : State} (h : Undisturbed s t) (d : Nat) : getCore t d = getCore s d := by
  unfold Machine.getCore
  rw [h.cores]

theorem Undisturbed.sameMem {s t : State} (h : Undisturbed s t) : SameMem s t := fun a => by rw [h.mem]

/-! The egress of a port. -/

theorem aged_undisturbed (s : State) (yes : Bool) : Undisturbed s (aged s yes) := by
  unfold aged
  split_ifs
  · exact ⟨rfl, rfl⟩
  · exact Undisturbed.refl s

theorem byClass_undisturbed {s : State} {port : Nat} {q : List Queued} {r : Queued × State} (h : byClass s port q = some r) :
    Undisturbed s r.2 := by
  unfold byClass at h
  dsimp only at h
  split at h
  · exact absurd h (by simp)
  · next x _ =>
    obtain ⟨e, -, rfl⟩ := Option.map_eq_some_iff.1 h
    exact (aged_undisturbed s x.2.2).trans ⟨rfl, rfl⟩

theorem byPart_undisturbed {s : State} {port : Nat} {q : List Queued} {r : Queued × State} (h : byPart s port q = some r) :
    Undisturbed s r.2 := by
  unfold byPart at h
  dsimp only at h
  split at h
  · exact absurd h (by simp)
  · obtain ⟨x, hx, rfl⟩ := Option.map_eq_some_iff.1 h
    exact (byClass_undisturbed hx).trans ⟨rfl, rfl⟩

theorem setArb_undisturbed (s : State) (port : Nat) (a : PortArb) : Undisturbed s (setArb s port a) := ⟨rfl, rfl⟩

theorem portNext_undisturbed {s : State} {port : Nat} {r : Queued × State} (h : portNext s port = some r) :
    Undisturbed s r.2 := by
  unfold portNext at h
  extract_lets waiting at h
  split at h
  · obtain rfl := Option.some.inj h
    exact Undisturbed.refl s
  · next fw op own a a' a'' s' count share _ _ =>
    have first : Undisturbed s s' := setArb_undisturbed s port _
    have last : ∀ x isFwd isOper, Undisturbed x.2 (count x isFwd isOper).2 := fun x _ _ => setArb_undisturbed x.2 port _
    split_ifs at h
    all_goals obtain ⟨x, hx, rfl⟩ := Option.map_eq_some_iff.1 h
    · exact first.trans ((byClass_undisturbed hx).trans (last x _ _))
    · exact first.trans ((byClass_undisturbed hx).trans (last x _ _))
    · exact first.trans ((byPart_undisturbed hx).trans (last x _ _))

theorem portLeave_undisturbed (s : State) (e : Queued) : Undisturbed s (portLeave s e) := by
  unfold portLeave
  dsimp only
  split_ifs <;> exact ⟨rfl, rfl⟩

theorem portGo_undisturbed (port n : Nat) (s : State) : Undisturbed s (portGo port n s) := by
  induction n generalizing s with
  | zero => exact Undisturbed.refl s
  | succ n ih =>
    unfold portGo
    split_ifs
    · exact Undisturbed.refl s
    · split
      · exact Undisturbed.refl s
      · next r hr =>
        split_ifs
        · exact (portNext_undisturbed hr).trans ((portLeave_undisturbed _ _).trans (ih _))
        · exact Undisturbed.refl s

/-! Packets and messages. -/

theorem meter_undisturbed (s : State) (p : Nat) (o : Bool) (m n : Nat) : Undisturbed s (meter s p o m n) :=
  ⟨meter_mem s p o m n, (meter_home s p o m n).cores⟩

theorem portSend_undisturbed (s : State) (port : Nat) (k : Packet) : Undisturbed s (portSend s port k) := by
  unfold portSend
  dsimp only
  split_ifs
  · exact ⟨(portGo_undisturbed port portFuel _).mem, (portGo_undisturbed port portFuel _).cores⟩
  · exact ⟨rfl, rfl⟩

theorem blyInject_undisturbed (s : State) (p : Packet) : Undisturbed s (blyInject s p) := by
  unfold blyInject
  dsimp only
  refine (meter_undisturbed s p.part p.oper mLink (lineUnits p.payload.length)).trans ?_
  split
  · exact portSend_undisturbed _ _ _
  · exact ⟨rfl, rfl⟩

theorem signalPacket_undisturbed (s : State) (dev consist : Nat) (m : Signal) : Undisturbed s (signalPacket s dev consist m) :=
  blyInject_undisturbed _ _

theorem sendSignal_undisturbed (s : State) (die stop : Nat) (m : Signal) : Undisturbed s (sendSignal s die stop m) := ⟨rfl, rfl⟩

theorem setLaunch_undisturbed (s : State) (l : Launch) : Undisturbed s (setLaunch s l) := ⟨rfl, rfl⟩

theorem barSignal_undisturbed (s : State) (l : Launch) (id : Nat) (devs : List Nat) : Undisturbed s (barSignal s l id devs) :=
  Undisturbed.foldl _ (fun s d => signalPacket_undisturbed s d _ _) devs s

theorem barTell_undisturbed (s : State) (l : Launch) (id : Nat) : Undisturbed s (barTell s l id) := by
  unfold barTell
  split_ifs
  · exact Undisturbed.refl s
  · exact (barSignal_undisturbed s l id _).trans (setLaunch_undisturbed _ _)

end Sys2Proof.Machine
end

section
/-! PROOFS. Fences and barriers (R96, R126, R264, R290). -/
namespace Sys2Proof.Machine

/-! FENCE clears the clean lines of its station (R264). -/

theorem SMap.mem_of_get {α : Type} (d : Nat → α) {m : SMap α} {k : Nat} (h : SMap.get d m k ≠ d k) : (k, SMap.get d m k) ∈ m := by
  induction m with
  | nil => exact absurd rfl h
  | cons e m ih =>
    rw [SMap.get] at h ⊢
    split_ifs at h ⊢ with hk
    · subst hk
      exact List.mem_cons_self
    · exact List.mem_cons_of_mem _ (ih h)

theorem scClearClean_clean {s : State} {st set way : Nat} {l : CLine} (h : scGet (scClearClean s st) st set way = some l)
    (hs : set < 2048) (hw : way < 8) : l.dirty ≠ 0 := by
  have here : (scKey st set way, some l) ∈ (scClearClean s st).scache := by
    have read := SMap.mem_of_get (fun _ => none) (m := (scClearClean s st).scache) (k := scKey st set way) (by
      change scGet (scClearClean s st) st set way ≠ none
      rw [h]
      exact Option.some_ne_none l)
    change (scKey st set way, scGet (scClearClean s st) st set way) ∈ _ at read
    rwa [h] at read
  have station : scKey st set way / 16384 = st := by
    unfold scKey
    omega
  have kept := (List.mem_filter.1 here).2
  simpa [station] using kept

theorem mem_scClearClean {s : State} {st key : Nat} {l : CLine} (h : (key, some l) ∈ s.scache) (hd : l.dirty ≠ 0) :
    (key, some l) ∈ (scClearClean s st).scache := by
  refine List.mem_filter.2 ⟨h, ?_⟩
  simp [hd]

theorem mem_acquireAt {s : State} {c scope key : Nat} {l : CLine} (h : (key, some l) ∈ s.scache) (hd : l.dirty ≠ 0) :
    (key, some l) ∈ (acquireAt s c scope).scache := by
  unfold acquireAt
  split_ifs
  · exact mem_scClearClean h hd
  · exact h

theorem issued_scache (s : State) (c : Nat) (ecc : Ecc) : (issued s c ecc).scache = s.scache := by
  cases ecc <;> rfl

theorem CoreOnly.acquireAt {s u : State} {c : Nat} {ecc : Ecc} (h : CoreOnly s c ecc u) (scope : Nat) :
    CoreOnly s c ecc (acquireAt u c scope) :=
  ⟨(acquireAt_regs u c scope).trans h.regs, (acquireAt_mem u c scope).trans h.mem,
    fun d hd => (getCore_acquireAt u c scope d).trans (h.cores d hd)⟩

theorem exec_sageFence (c : CoreId) (ecc : Ecc) (s : State) : exec (.sageFence c ecc) s = issue 0x51 c ecc s (fun s k i _ =>
    if k.table.any (releaseWaits i.scope) then .hold else .seq (acquireAt s c i.scope)) := rfl

theorem releaseWaits_iff (scope : Nat) (e : Entry) : releaseWaits scope e = true ↔ scope = 4 ∨ e.isRemote = false := by
  simp [releaseWaits]

/-! Arrival and release. -/

theorem barHere_iff (s : State) (l : Launch) (scope id c : Nat) : barHere s l scope id c = true ↔
    (∀ p ∈ l.cores.filter (fun p => inScope scope c p.1),
      p.2 ≠ .running ∨ coreState s p.1 = stFaulted ∨ (getCore s p.1).wait.barId id = true) ∧
    (scope = 0 ∨ l.cores.length = l.here) := by
  simp only [barHere, arrived, Bool.and_eq_true, List.all_eq_true, Bool.or_eq_true, bne_iff_ne, beq_iff_eq, decide_eq_true_eq, or_assoc]

theorem barSpans_iff (l : Launch) (scope : Nat) : barSpans l scope = true ↔ 2 < scope ∧ l.here ≠ l.size := by
  simp [barSpans]

/-- No wait of this barrier. -/
def Off (scope id : Nat) (w : Wait) : Prop := ∀ n b, w ≠ .bar scope id n b

theorem leaveBar_other (s : State) (scope id : Nat) {c d : Nat} (h : d ≠ c) : getCore (leaveBar s scope id c) d = getCore s d := by
  unfold leaveBar
  split
  · split_ifs
    · rw [getCore_waitOver_other _ _ _ h, getCore_acquireAt]
    · rfl
  · rfl

theorem leaveBar_same (s : State) (scope id c : Nat) : Off scope id (getCore (leaveBar s scope id c) c).wait := by
  unfold leaveBar
  split
  · next sc n pc past hw =>
    split_ifs with at_bar
    · rw [getCore_waitOver_same]
      exact fun n b => Wait.noConfusion
    · rw [hw]
      intro m b same
      injection same with scope_eq id_eq
      exact at_bar ⟨scope_eq, id_eq⟩
  · next other => exact fun n b hw => other scope id n b hw

theorem leaveBar_mem (s : State) (scope id c : Nat) : (leaveBar s scope id c).mem = s.mem := by
  unfold leaveBar
  split
  · split_ifs
    · rw [waitOver_mem, acquireAt_mem]
    · rfl
  · rfl

theorem leaveBar_off {s : State} {scope id c d : Nat} (h : Off scope id (getCore s d).wait) :
    Off scope id (getCore (leaveBar s scope id c) d).wait := by
  by_cases hd : d = c
  · subst hd
    exact leaveBar_same s scope id d
  · rwa [leaveBar_other s scope id hd]

/-- Each core of a group has left the barrier once all of them have been told. -/
theorem leaveAll_off (scope id : Nat) (group : List (Nat × CoreEnd)) (s : State) :
    (group.foldl (fun s p => leaveBar s scope id p.1) s).mem = s.mem ∧
    (∀ d, Off scope id (getCore s d).wait → Off scope id (getCore (group.foldl (fun s p => leaveBar s scope id p.1) s) d).wait) ∧
    ∀ p ∈ group, Off scope id (getCore (group.foldl (fun s p => leaveBar s scope id p.1) s) p.1).wait := by
  induction group generalizing s with
  | nil => exact ⟨rfl, fun d h => h, fun p h => absurd h List.not_mem_nil⟩
  | cons q group ih =>
    obtain ⟨mem, stays, off⟩ := ih (leaveBar s scope id q.1)
    refine ⟨mem.trans (leaveBar_mem s scope id q.1), fun d h => stays d (leaveBar_off h), fun p hp => ?_⟩
    obtain rfl | hp := List.mem_cons.1 hp
    · exact stays p.1 (leaveBar_same s scope id p.1)
    · exact off p hp

theorem barRelease_off (s : State) (l : Launch) (scope id c : Nat) : SameMem s (barRelease s l scope id c) ∧
    ∀ p ∈ l.cores.filter (fun p => inScope scope c p.1), Off scope id (getCore (barRelease s l scope id c) p.1).wait := by
  unfold barRelease
  extract_lets group dies s' s''
  have first : Undisturbed s s' := Undisturbed.foldl _ (fun s d => sendSignal_undisturbed s _ _ _) dies s
  have second : Undisturbed s' s'' := by
    simp only [s'']
    split_ifs
    · exact Undisturbed.refl s'
    · exact barSignal_undisturbed _ _ _ _
    · exact setLaunch_undisturbed _ _
  obtain ⟨mem, -, off⟩ := leaveAll_off scope id group s''
  exact ⟨fun a => by rw [mem, (first.trans second).mem], off⟩

/-- What a core that waits at a barrier of its launch asks of it. -/
theorem exec_barrierRelease {s : State} {c : CoreId} {scope id pc : Nat} {past far : Bool} {cl : CoreLaunch} {l : Launch}
    (hwait : (getCore s c).wait = .bar scope id pc past) (hcl : (getCore s c).launch = some cl) (hl : getLaunch s cl.id = some l) :
    exec (.barrierRelease c far) s =
      if !barHere s l scope id c then .next s
      else if barSpans l scope && !far then .next (barTell s l id)
      else .next (barRelease s l scope id c) := by
  have told : exec (.barrierRelease c far) s = execBarrierRelease c far s := rfl
  rw [told]
  unfold execBarrierRelease
  simp only [hwait, hcl, hl]

/-- Settles O14. -/
theorem fencesAndBarriersOrderACore : Obligations.FencesAndBarriersOrderACore := by
  unfold Obligations.FencesAndBarriersOrderACore
  intro s c
  dsimp only
  refine ⟨fun w ecc hi he hop => ⟨fun far hgo => ?_, fun near => ?_⟩, fun scope id pc past cl l far hwait hcl hl =>
    ⟨fun here free => ?_, fun here wide part lone => ?_, fun away => ?_⟩⟩
  · have calm : ¬ (getCore s c).table.any (releaseWaits (Insn.ofWord w).scope) = true := by
      simp only [List.any_eq_true, releaseWaits_iff, not_exists, not_and, not_or]
      exact fun e he => ⟨(far e he).1, by simp [(far e he).2]⟩
    have core := (CoreOnly.issued s c ecc).acquireAt (Insn.ofWord w).scope
    have own : getCore (acquireAt (issued s c ecc) c (Insn.ofWord w).scope) c = getCore s c :=
      (getCore_acquireAt ..).trans (getCore_issued ..)
    refine Completes.of_seq (u := acquireAt (issued s c ecc) c (Insn.ofWord w).scope) hi hop he hgo (if_neg calm)
      (by rw [own]) (by rw [own]) (exec_sageFence c ecc s)
      ⟨core.wentOn, onlyCore_movedTo core _ _, fun wide set way l hl hs hw => ?_, fun l dirty => ?_⟩
    · rw [acquireAt, if_pos wide] at hl
      exact scClearClean_clean (s := issued s c ecc) hl hs hw
    · obtain ⟨key, here, dirty⟩ := dirty
      exact ⟨key, mem_acquireAt ((issued_scache s c ecc).symm ▸ here) dirty⟩
  · have waits : (getCore s c).table.any (releaseWaits (Insn.ofWord w).scope) = true := by
      simp only [List.any_eq_true, releaseWaits_iff]
      exact near
    refine ⟨_, by rw [exec_sageFence, issue_eq _ hi hop he, if_pos waits], ?_⟩
    cases ecc with
    | uncorrectable => exact absurd rfl he
    | clean => exact ⟨rfl, rfl, fun a => rfl⟩
    | corrected => exact ⟨rfl, fget_fset_field _ _ _ _ (by decide), fun a => rfl⟩
  · have released : ¬ (barSpans l scope && !far) = true := by
      rw [Bool.and_eq_true, barSpans_iff, Bool.not_eq_true']
      rintro ⟨⟨wide, part⟩, lone⟩
      rcases free with narrow | whole | told
      · omega
      · exact part whole
      · rw [lone] at told
        exact absurd told (by decide)
    obtain ⟨mem, off⟩ := barRelease_off s l scope id c
    refine ⟨barRelease s l scope id c, ?_, off, mem⟩
    rw [exec_barrierRelease hwait hcl hl, (barHere_iff s l scope id c).2 here, if_neg released]
    rfl
  · have told : (barSpans l scope && !far) = true := by
      rw [(barSpans_iff l scope).2 ⟨wide, part⟩, lone]
      rfl
    refine ⟨barTell s l id, ?_, (barTell_undisturbed s l id).sameMem, (barTell_undisturbed s l id).getCore⟩
    rw [exec_barrierRelease hwait hcl hl, (barHere_iff s l scope id c).2 here, if_pos told]
    rfl
  · refine ⟨s, ?_, rfl⟩
    have absent : barHere s l scope id c = false := by
      rw [← Bool.not_eq_true, barHere_iff]
      exact away
    rw [exec_barrierRelease hwait hcl hl, absent]
    rfl

end Sys2Proof.Machine
end

section
/-! PROOFS. Launches and core states (R101, R102, R104, R106). -/
namespace Sys2Proof.Machine

/-! Loading. -/

theorem HomeStep.launches {s t : State} (h : HomeStep s t) : t.launches = s.launches := (congrArg State.launches h.rest :)

/-- The code of an acceptable image has at most 2,048 instructions (R103). -/
theorem count_of_imageOk {h code : List Byte} {n : Nat} (ok : imageOk h code n = true) : imageField h 12 4 ≤ 2048 := by
  simp only [imageOk, Bool.and_eq_true, decide_eq_true_eq] at ok
  tauto

/-- The first core of a launch makes its record. -/
theorem addLaunchCore_new {s : State} {r : LaunchReq} (h : getLaunch s r.id = none) (c : Nat) :
    ∃ l ∈ (addLaunchCore s r c).launches, l.id = r.id ∧ (c, CoreEnd.running) ∈ l.cores := by
  unfold addLaunchCore
  rw [h]
  exact ⟨_, List.mem_append_right _ (List.mem_singleton_self _), rfl, List.mem_singleton_self _⟩

/-- What the statement says of a core that has taken up a launch. -/
def Loads (c : Nat) (r : LaunchReq) (head code : List Byte) (t : State) : Prop :=
  coreState t c = stLoading ∧ fget t .SAGE_FAULT_CODE c = 0 ∧
  (getCore t c).code = codeWords (imageField head 12 4) code ∧
  (∃ cl, (getCore t c).launch = some cl ∧ cl.id = r.id ∧ cl.part = r.part ∧ cl.sub = r.sub ∧ cl.rank = r.rank ∧
    cl.size = r.size ∧ cl.args = r.args ∧ cl.entry = imageField head 16 4) ∧
  ∃ l ∈ t.launches, l.id = r.id ∧ (c, CoreEnd.running) ∈ l.cores

/-- The launch is recorded in the core, whose fault record is cleared. -/
theorem loads_record {u : State} {c : Nat} {r : LaunchReq} {head code : List Byte} {cl : CoreLaunch}
    (hl : ∃ l ∈ u.launches, l.id = r.id ∧ (c, CoreEnd.running) ∈ l.cores)
    (hcode : (getCore u c).code = codeWords (imageField head 12 4) code) (hk : (getCore u c).launch = some cl)
    (hcl : cl.id = r.id ∧ cl.part = r.part ∧ cl.sub = r.sub ∧ cl.rank = r.rank ∧ cl.size = r.size ∧ cl.args = r.args ∧
      cl.entry = imageField head 16 4) :
    Loads c r head code (setCoreState (fset (fset (fset u .SAGE_FAULT_CODE c 0) .SAGE_FAULT_FAULT_PC c 0)
      .SAGE_FAULT_DETAIL c 0) c stLoading) := by
  refine ⟨?_, ?_, ?_, ⟨cl, ?_, hcl⟩, ?_⟩
  · rw [coreState, setCoreState, fget_fset_same]
    decide
  · simp [setCoreState]
  · simpa only [setCoreState, getCore_fset] using hcode
  · simpa only [setCoreState, getCore_fset] using hk
  · simpa only [setCoreState, fset_launches] using hl

/-- What assigning does once the image has been read: its header, its code, its initial data (R102-R104). -/
def takeUp (s : State) (c : Nat) (r : LaunchReq) (head code init : List Byte) : State :=
  let s := if launchOnStn s r.id (coreStn c) then s else scClearClean s (coreStn c)
  let s := addLaunchCore s r c
  let k := getCore s c
  let s := setCore s c { k with
    code := codeWords (min (imageField head 12 4) 2048) code, fencing := false, wait := .none,
    launch := some ⟨r.id, r.part, r.sub, r.rank, r.size, imageField head 16 4, imageField head 28 4, init, imageField head 32 4, r.args,
      taskLabel s r.part r.label, r.cnd⟩ }
  setCoreState (fset (fset (fset s .SAGE_FAULT_CODE c 0) .SAGE_FAULT_FAULT_PC c 0) .SAGE_FAULT_DETAIL c 0) c stLoading

theorem takeUp_loads {s : State} {r : LaunchReq} (h : getLaunch s r.id = none) (c : Nat) {head : List Byte} (code init : List Byte)
    (hcount : imageField head 12 4 ≤ 2048) : Loads c r head code (takeUp s c r head code init) := by
  unfold takeUp
  extract_lets s₁ s₂ k s₃
  have new : getLaunch s₁ r.id = none := by
    simp only [s₁]
    split_ifs <;> exact h
  have core : getCore s₃ c = _ := getCore_setCore_same s₂ c _
  have member : ∃ l ∈ s₃.launches, l.id = r.id ∧ (c, CoreEnd.running) ∈ l.cores := by
    simp only [s₃, setCore_launches]
    exact addLaunchCore_new new c
  clear_value s₃
  exact loads_record member (by rw [core, Nat.min_eq_left hcount]) (by rw [core]) ⟨rfl, rfl, rfl, rfl, rfl, rfl, rfl⟩

theorem assignCore_eq {s : State} {r : LaunchReq} (c : Nat) {head code : State × List Byte × Bool}
    (hhead : devRead s (launchWho r) r.image 64 = head)
    (hcode : devRead head.1 (launchWho r) (r.image + imageField head.2.1 8 4) (16 * imageField head.2.1 12 4) = code)
    (hok : imageOk head.2.1 code.2.1 r.args.length = true) :
    ∃ init : State × List Byte × Bool, HomeStep s init.1 ∧ assignCore s c r = takeUp init.1 c r head.2.1 code.2.1 init.2.1 := by
  have first : HomeStep s head.1 := hhead ▸ devRead_home ..
  have second : HomeStep head.1 code.1 := hcode ▸ devRead_home ..
  have count : min (imageField head.2.1 12 4) 2048 = imageField head.2.1 12 4 := Nat.min_eq_left (count_of_imageOk hok)
  refine ⟨devRead code.1 (launchWho r) (r.image + imageField head.2.1 20 4) (imageField head.2.1 24 4),
    (first.trans second).trans (devRead_home ..), ?_⟩
  simp only [assignCore, hhead, count, hcode, hok, Bool.not_true, Bool.false_eq_true, if_false, takeUp]

/-- A launch whose image is acceptable, and none of whose reads is held, is taken up by a free core of its partition. -/
theorem exec_launchAssign {s : State} {c : CoreId} {r : LaunchReq} (hfree : coreState s c = stFree)
    (hbound : boundTo s (coreStn c) = some r.part) (hon : stnPower s (coreStn c) = domOn) (hreset : inReset s (coreStn c) = false)
    (hnew : getLaunch s r.id = none) (hheld : Unheld (assignCore (begun s) c r)) :
    exec (.launchAssign c r) s = .next (assignCore (begun s) c r) := by
  have told : exec (.launchAssign c r) s = execLaunchAssign c r s := rfl
  have asks : coreState (begun s) c = stFree ∧ boundTo (begun s) (coreStn c) = some r.part ∧
      stnPower (begun s) (coreStn c) = domOn ∧ inReset (begun s) (coreStn c) = false ∧
      ((getLaunch (begun s) r.id).all (fun l => !l.refused && decide (l.cores.length < l.here) && l.part == r.part)) = true := by
    refine ⟨hfree, hbound, hon, hreset, ?_⟩
    have new : getLaunch (begun s) r.id = none := hnew
    rw [new]
    rfl
  rw [told, execLaunchAssign]
  exact patient_next (if_pos asks) hheld

/-! Starting. -/

theorem startCore_spec (k : Core) (cl : CoreLaunch) : (startCore k cl).tiles = [] ∧ (startCore k cl).acc = [] ∧
    (startCore k cl).aregs = [] ∧ (startCore k cl).loops = [] ∧ (startCore k cl).table = [] ∧
    (startCore k cl).s 1 = BitVec.ofNat 64 cl.argDest ∧ (startCore k cl).s 2 = BitVec.ofNat 64 cl.rank ∧
    (startCore k cl).s 3 = BitVec.ofNat 64 cl.size ∧ (∀ n, 3 < n → (startCore k cl).s n = 0) ∧
    (startCore k cl).spad = Bytes.write (Bytes.write k.spad cl.initDest cl.init) cl.argDest cl.args := by
  unfold startCore
  generalize hz : ({ k with
    tiles := [], acc := [], rowMax := [], rowSum := [], sregs := [], aregs := [], loops := [], table := [], wait := .none,
    spad := Bytes.write (Bytes.write k.spad cl.initDest cl.init) cl.argDest cl.args } : Core) = z
  dsimp only
  have zero : ∀ n, z.s n = 0 := by
    intro n
    rw [← hz, Core.s]
    split_ifs <;> rfl
  refine ⟨?_, ?_, ?_, ?_, ?_, ?_, ?_, ?_, fun n hn => ?_, ?_⟩
  iterate 5
    · rw [setS_sregs, setS_sregs, setS_sregs, ← hz]
  · rw [s_setS_any _ _ _ (by decide), s_setS_any _ _ _ (by decide), s_setS_any _ _ _ (by decide)]
    simp
  · rw [s_setS_any _ _ _ (by decide), s_setS_any _ _ _ (by decide)]
    simp
  · rw [s_setS_any _ _ _ (by decide)]
    simp
  · by_cases scalar : n < 32
    · rw [s_setS_any _ _ _ scalar, s_setS_any _ _ _ scalar, s_setS_any _ _ _ scalar, zero, if_neg (by omega), if_neg (by omega),
        if_neg (by omega)]
    · rw [Core.s, if_neg (fun h => scalar (lt_of_isS h))]
  · rw [setS_sregs, setS_sregs, setS_sregs, ← hz]

/-! Ending. -/

theorem getCore_drained (s : State) (c v : Nat) (e : CoreEnd) :
    (getCore (setCoreState (retireLanes (dropLaunch (reportCore s c e) c) c) c v) c).launch = none := by
  have dropped : getCore (setCoreState (retireLanes (dropLaunch (reportCore s c e) c) c) c v) c =
      getCore (dropLaunch (reportCore s c e) c) c := rfl
  rw [dropped, dropLaunch, getCore_setCore_same]

/-- Settles O17. -/
theorem launchesTakeACoreThroughItsStates : Obligations.LaunchesTakeACoreThroughItsStates := by
  unfold Obligations.LaunchesTakeACoreThroughItsStates
  intro s c
  dsimp only
  refine ⟨fun r hfree hbound hon hreset hnew hok hheld => ?_, fun cl hcl hload hreset => ?_, fun hcl htable hend hfence => ?_⟩
  · obtain ⟨init, reads, taken⟩ := assignCore_eq c rfl rfl hok
    refine ⟨_, exec_launchAssign hfree hbound hon hreset hnew hheld, ?_⟩
    rw [taken]
    refine takeUp_loads ?_ c _ init.2.1 (count_of_imageOk hok)
    rw [getLaunch, reads.launches]
    exact hnew
  · obtain ⟨tiles, acc, aregs, loops, table, s1, s2, s3, others, spad⟩ := startCore_spec (getCore s c) cl
    have starts : exec (.loadComplete c) s =
        .next (setCoreState (fset (setCore s c (startCore (getCore s c) cl)) .SAGE_PC_PC c cl.entry) c stRunning) := by
      have told : exec (.loadComplete c) s = execLoadComplete c s := rfl
      rw [told]
      simp only [execLoadComplete, hcl, hload, hreset, and_self, if_true]
    have core : getCore (setCoreState (fset (setCore s c (startCore (getCore s c) cl)) .SAGE_PC_PC c cl.entry) c stRunning) c =
        startCore (getCore s c) cl := by
      rw [setCoreState, getCore_fset, getCore_fset, getCore_setCore_same]
    refine ⟨_, starts, ?_⟩
    dsimp only
    rw [core]
    refine ⟨?_, ?_, tiles, acc, aregs, loops, table, s1, s2, s3, others, spad, fun a => rfl⟩
    · rw [coreState, setCoreState, fget_fset_same]
      decide
    · rw [setCoreState, fget_fset_field _ _ _ _ (by decide), fget_fset_same]
      rfl
  · have told : exec (.coreDrained c) s = execCoreDrained c s := rfl
    refine ⟨setCoreState (retireLanes (dropLaunch (reportCore s c .ended) c) c) c stFree, ?_, ?_, getCore_drained ..⟩
    · rw [told]
      simp only [execCoreDrained, htable, Option.isNone_iff_eq_none, hcl, hend, hfence, List.isEmpty_nil, Bool.not_true, Bool.false_or,
        if_true, if_false, Bool.false_eq_true]
    · rw [coreState, setCoreState, fget_fset_same]
      decide

end Sys2Proof.Machine
end

section
/-! PROOFS. The station cache as an access finds it: accesses at homes leave it alone, and a line put into it is found (R261,
R262). -/
namespace Sys2Proof.Machine

/-! Homes leave every station cache as it was. -/

/-- Every station cache holds what it held. -/
structure SameCaches (s t : State) : Prop where
  eq : t.scache = s.scache

theorem SameCaches.refl (s : State) : SameCaches s s := ⟨rfl⟩

theorem SameCaches.trans {s t u : State} (h : SameCaches s t) (h' : SameCaches t u) : SameCaches s u := ⟨h'.eq.trans h.eq⟩

theorem SameCaches.foldl {α : Type} (f : State → α → State) (h : ∀ s a, SameCaches s (f s a)) (xs : List α) (s : State) :
    SameCaches s (xs.foldl f s) := by
  induction xs generalizing s with
  | nil => exact SameCaches.refl s
  | cons x xs ih => exact (h s x).trans (ih _)

theorem fset_caches (s : State) (f : F) (i v : Nat) : SameCaches s (fset s f i v) := ⟨rfl⟩
theorem finc_caches (s : State) (f : F) (i n : Nat) : SameCaches s (finc s f i n) := ⟨rfl⟩
theorem fsat_caches (s : State) (f : F) (i n : Nat) : SameCaches s (fsat s f i n) := ⟨rfl⟩

theorem meter_caches (s : State) (p : Nat) (o : Bool) (m n : Nat) : SameCaches s (meter s p o m n) := by
  unfold meter
  split_ifs <;> exact ⟨rfl⟩

/-- Two counts and the meter of an access. -/
theorem counted_caches (s : State) (f g : F) (i j p : Nat) (o : Bool) (m n : Nat) :
    SameCaches s (meter (finc (finc s f i) g j) p o m n) :=
  (finc_caches s f i 1).trans ((finc_caches _ g j 1).trans (meter_caches _ p o m n))

theorem raiseTrouble_caches (s : State) (p : Option Nat) (o : Bool) (c : Trouble) : SameCaches s (raiseTrouble s p o c) := by
  unfold raiseTrouble
  cases p <;> exact ⟨rfl⟩

theorem ueFound_caches (s : State) (k line : Nat) (w : Bool) (kind : Nat) : SameCaches s (ueFound s k line w kind) := by
  unfold ueFound
  dsimp only
  refine SameCaches.trans ?_ (raiseTrouble_caches _ _ _ _)
  split_ifs <;> exact ⟨rfl⟩

theorem depotFill_caches (s : State) (k a : Nat) : SameCaches s (depotFill s k a) := by
  unfold depotFill
  dsimp only
  split
  · exact SameCaches.refl s
  · split <;> exact ⟨rfl⟩

theorem homeRead_caches (s : State) (w : Who) (k : Nat) (p : Piece) (nt str : Bool) :
    SameCaches s (homeRead s w k p nt str).1 := by
  unfold homeRead
  dsimp only
  split
  · exact SameCaches.refl s
  · split
    · exact fsat_caches _ _ _ _
    · split
      · next way _ =>
        have touched : SameCaches s (depotTouch s k (p.addr / 128 % 16384) way) := ⟨rfl⟩
        exact touched.trans ((finc_caches _ _ _ _).trans (meter_caches _ _ _ _ _))
      · have counted := counted_caches s .DEP_MISSES_COUNT .HBM_READ_BYTES_COUNT k (k / 16) w.part w.oper mHbm 1
        split
        · exact counted.trans (ueFound_caches _ _ _ _ _)
        · split
          · exact counted.trans ((finc_caches _ _ _ _).trans ((meter_caches _ _ _ _ _).trans (depotFill_caches _ _ _)))
          · exact counted

theorem windowRead_caches (s : State) (w : Who) (k off : Nat) (p : Piece) : SameCaches s (windowRead s w k off p).1 := by
  have counted : SameCaches s (meter (finc s .DEP_HITS_COUNT k) w.part w.oper mDepot 1) :=
    (finc_caches _ _ _ _).trans (meter_caches _ _ _ _ _)
  unfold windowRead
  dsimp only
  split
  · exact fsat_caches _ _ _ _
  · split
    · exact SameCaches.refl s
    · split
      · exact counted.trans (ueFound_caches _ _ _ _ _)
      · exact counted

theorem storeLine_caches (s : State) (line : Nat) (d : LineData) : SameCaches s (storeLine s line d) := by
  unfold storeLine
  split_ifs <;> exact ⟨rfl⟩

theorem setHolder_caches (s : State) (h l : Nat) (e : Option HLine) : SameCaches s (setHolder s h l e) := by
  unfold setHolder
  dsimp only
  split_ifs <;> exact ⟨rfl⟩

theorem flushHolder_caches (s : State) (h l : Nat) : SameCaches s (flushHolder s h l) := by
  unfold flushHolder
  split
  · exact (finc_caches _ _ _ _).trans ((finc_caches _ _ _ _).trans (storeLine_caches _ _ _))
  · exact SameCaches.refl s

theorem dirInvalidate_caches (s : State) (l : Nat) : SameCaches s (dirInvalidate s l) := by
  unfold dirInvalidate
  split
  · exact SameCaches.refl s
  · exact (SameCaches.foldl _ (fun s h => (flushHolder_caches s h l).trans (setHolder_caches _ _ _ _)) _ s).trans ⟨rfl⟩

theorem homeWrite_caches (s : State) (w : Who) (k line : Nat) (d : LineData) : SameCaches s (homeWrite s w k line d) := by
  unfold homeWrite
  split
  · exact SameCaches.refl s
  · split
    · exact fsat_caches _ _ _ _
    · exact (counted_caches _ _ _ _ _ _ _ _ _).trans (storeLine_caches _ _ _)

theorem writeNC_caches (s : State) (w : Who) (l : Nat) (d : LineData) : SameCaches s (writeNC s w l d) := by
  unfold writeNC
  dsimp only
  split
  · exact SameCaches.refl s
  · split
    · exact (fsat_caches _ _ _ _).trans (fset_caches _ _ _ _)
    · exact (dirInvalidate_caches s l).trans ((counted_caches _ _ _ _ _ _ _ _ _).trans (storeLine_caches _ _ _))

theorem stationWrite_caches (s : State) (w : Who) (k off : Nat) (d : LineData) : SameCaches s (stationWrite s w k off d) := by
  unfold stationWrite
  split_ifs <;> exact ⟨rfl⟩

theorem windowWrite_caches (s : State) (w : Who) (k off line : Nat) (d : LineData) :
    SameCaches s (windowWrite s w k off line d) := by
  unfold windowWrite
  split
  · exact fsat_caches _ _ _ _
  · split
    · exact SameCaches.refl s
    · exact (finc_caches _ _ _ _).trans ((meter_caches _ _ _ _ _).trans (storeLine_caches _ _ _))

theorem writeAt_caches (s : State) (w : Who) (l : Nat) (d : LineData) : SameCaches s (writeAt s w l d) := by
  unfold writeAt
  split
  · exact homeWrite_caches _ _ _ _ _
  · exact writeNC_caches _ _ _ _
  · exact stationWrite_caches _ _ _ _ _
  · exact windowWrite_caches _ _ _ _ _ _
  · exact SameCaches.refl s
  · exact SameCaches.refl s

theorem scWriteBack_caches (s : State) (st : Nat) (l : CLine) : SameCaches s (scWriteBack s st l) := by
  unfold scWriteBack
  split
  · exact SameCaches.refl s
  · exact (writeAt_caches _ _ _ _).trans (finc_caches _ _ _ _)

/-! The ways of a set. -/

theorem scGet_of_caches {s t : State} (h : SameCaches s t) (st set way : Nat) : scGet t st set way = scGet s st set way := by
  unfold scGet
  rw [h.eq]

theorem scFind_of_caches {s t : State} (h : SameCaches s t) (st line : Nat) : scFind t st line = scFind s st line := by
  unfold scFind
  simp only [scGet_of_caches h]

theorem scGet_scSet (s : State) (st set way : Nat) (l : Option CLine) (w : Nat) :
    scGet (scSet s st set way l) st set w = if w = way then l else scGet s st set w := by
  have key : scKey st set w = scKey st set way ↔ w = way := by
    unfold scKey
    omega
  simp only [scGet, scSet, SMap.get_set, key]

theorem plruVictim_lt (n tree node acc : Nat) : plruVictim n tree node acc < 2 ^ n * (acc + 1) := by
  induction n generalizing node acc with
  | zero => simp [plruVictim]
  | succ n ih =>
    have half : (if bit tree node then 1 else 0 : Nat) ≤ 1 := by split_ifs <;> decide
    calc plruVictim (n + 1) tree node acc
        < 2 ^ n * (2 * acc + (if bit tree node then 1 else 0) + 1) := ih _ _
      _ ≤ 2 ^ n * (2 * (acc + 1)) := Nat.mul_le_mul_left _ (by omega)
      _ = 2 ^ (n + 1) * (acc + 1) := by ring

theorem scVictim_lt (s : State) (st set : Nat) : scVictim s st set < 8 := by
  unfold scVictim
  split
  · next w hw => exact List.mem_range.1 (List.mem_of_find?_eq_some hw)
  · exact plruVictim_lt 3 _ 0 0

theorem scEvict_other (s : State) (st set : Nat) {way w : Nat} (h : w ≠ way) :
    scGet (scEvict s st set way) st set w = scGet s st set w := by
  unfold scEvict
  split
  · rw [scGet_scSet, if_neg h]
    exact scGet_of_caches (scWriteBack_caches _ _ _) ..
  · rfl

/-- The ways of a set after a line has come into it. -/
theorem scGet_scInstall (s : State) (st : Nat) (l : CLine) (w : Nat) :
    scGet (scInstall s st l) st (scIndex l.line) w =
      if w = scVictim s st (scIndex l.line) then some l else scGet s st (scIndex l.line) w := by
  have touched : ∀ u way, SameCaches u (scTouch u st (scIndex l.line) way) := fun _ _ => ⟨rfl⟩
  unfold scInstall
  dsimp only
  rw [scGet_of_caches (touched _ _), scGet_scSet]
  split_ifs with here
  · rfl
  · exact scEvict_other s st _ here

/-- The line that a way holds, where it is the one looked for. -/
def wayHolds (s : State) (st line way : Nat) : Option (Nat × CLine) :=
  match scGet s st (scIndex line) way with
  | some l => if l.line = line then some (way, l) else none
  | none => none

theorem scFind_eq (s : State) (st line : Nat) : scFind s st line = (List.range 8).findSome? (wayHolds s st line) := rfl

/-- A line that was absent is found once it has been put in. -/
theorem scFind_scInstall {s : State} {st : Nat} {l : CLine} (h : scFind s st l.line = none) :
    scFind (scInstall s st l) st l.line = some (scVictim s st (scIndex l.line), l) := by
  have victim := scVictim_lt s st (scIndex l.line)
  have holds : ∀ w < 8, wayHolds (scInstall s st l) st l.line w =
      if w = scVictim s st (scIndex l.line) then some (w, l) else none := by
    intro w hw
    have absent : wayHolds s st l.line w = none := List.findSome?_eq_none_iff.1 h w (List.mem_range.2 hw)
    unfold wayHolds at absent ⊢
    rw [scGet_scInstall s st l w]
    split_ifs with here
    · simp
    · exact absent
  rw [scFind_eq]
  cases found : (List.range 8).findSome? (wayHolds (scInstall s st l) st l.line) with
  | none =>
    have missing := List.findSome?_eq_none_iff.1 found _ (List.mem_range.2 victim)
    rw [holds _ victim, if_pos rfl] at missing
    exact absurd missing (by simp)
  | some x =>
    obtain ⟨w, hw, hx⟩ := List.exists_of_findSome?_eq_some found
    rw [holds w (List.mem_range.1 hw)] at hx
    split_ifs at hx with here
    rw [← here, hx]

end Sys2Proof.Machine
end

section
/-! PROOFS. PREF (R604, R273). -/
namespace Sys2Proof.Machine

/-! The error mark of a read at a home. -/

theorem isUe_of_ueLines {s t : State} (h : t.ueLines = s.ueLines) (line : Nat) : isUe t line = isUe s line := by
  unfold isUe
  rw [h]

theorem meter_ueLines (s : State) (p : Nat) (o : Bool) (m n : Nat) : (meter s p o m n).ueLines = s.ueLines := by
  unfold meter
  split_ifs <;> rfl

theorem homeRead_mark (s : State) (w : Who) (k : Nat) (p : Piece) (nt str : Bool) : (homeRead s w k p nt str).2.2 =
    (!scrubbing s k && homeAccepts s w k && (depotWay s k p.addr).isNone && isUe s (p.addr / 64)) := by
  have counted : isUe (meter (finc (finc s .DEP_MISSES_COUNT k) .HBM_READ_BYTES_COUNT (k / 16)) w.part w.oper mHbm 1) (p.addr / 64) =
      isUe s (p.addr / 64) := isUe_of_ueLines (meter_ueLines _ _ _ _ _) _
  unfold homeRead
  dsimp only
  rw [counted]
  split
  · next busy => simp [busy]
  · next idle =>
    split
    · next refused => simp_all
    · next accepted =>
      split
      · next hit => simp [hit]
      · next miss =>
        split
        · next bad => simp_all
        · next good => split <;> simp_all

theorem windowRead_mark (s : State) (w : Who) (k off : Nat) (p : Piece) : (windowRead s w k off p).2.2 =
    (homeAccepts s w k && !decide (pinWays s k * 0x200000 ≤ off) && isUe s (p.addr / 64)) := by
  have counted : isUe (meter (finc s .DEP_HITS_COUNT k) w.part w.oper mDepot 1) (p.addr / 64) = isUe s (p.addr / 64) :=
    isUe_of_ueLines (meter_ueLines _ _ _ _ _) _
  unfold windowRead
  dsimp only
  rw [counted]
  split
  · next refused => simp_all
  · split
    · next beyond => simp [beyond]
    · split <;> simp_all

/-! What the issue of an instruction leaves of them. -/

theorem slotOf_issued (s : State) (c : Nat) (ecc : Ecc) (p sub : Nat) : slotOf (issued s c ecc) p sub = slotOf s p sub := by
  simp [slotOf, fget_issued]

theorem boundTo_issued (s : State) (c : Nat) (ecc : Ecc) (k : Nat) : boundTo (issued s c ecc) k = boundTo s k :=
  boundTo_of_fields (fun j => fget_issued j (by decide) (by decide)) (fun j => fget_issued j (by decide) (by decide)) k

theorem homeAccepts_issued (s : State) (c : Nat) (ecc : Ecc) (w : Who) (k : Nat) :
    homeAccepts (issued s c ecc) w k = homeAccepts s w k := by
  simp [homeAccepts, boundTo_issued, slotOf_issued, devNum_issued, fbit, fget_issued]

theorem scrubbing_issued (s : State) (c : Nat) (ecc : Ecc) (k : Nat) : scrubbing (issued s c ecc) k = scrubbing s k := by
  simp [scrubbing, fget_issued]

theorem depotWay_issued (s : State) (c : Nat) (ecc : Ecc) (k a : Nat) : depotWay (issued s c ecc) k a = depotWay s k a := by
  cases ecc <;> rfl

theorem isUe_issued (s : State) (c : Nat) (ecc : Ecc) (line : Nat) : isUe (issued s c ecc) line = isUe s line := by
  cases ecc <;> rfl

theorem pinWays_issued (s : State) (c : Nat) (ecc : Ecc) (k : Nat) : pinWays (issued s c ecc) k = pinWays s k := by
  simp [pinWays, fget_issued]

theorem winTable_issued (s : State) (c : Nat) (ecc : Ecc) (p : Nat) : (winTable (issued s c ecc) p).1 = (winTable s p).1 := by
  have same : getWin (issued s c ecc) p = getWin s p ∧ (issued s c ecc).winsNew = s.winsNew ∧ (draw (issued s c ecc)).1 = (draw s).1 := by
    cases ecc <;> exact ⟨rfl, rfl, rfl⟩
  obtain ⟨wins, new, free⟩ := same
  unfold winTable
  dsimp only
  rw [wins, new, free]
  split <;> rfl

theorem prefetchPasses_issued (s : State) (c : Nat) (ecc : Ecc) (w : Who) (line : Nat) :
    prefetchPasses (issued s c ecc) w line = prefetchPasses s w line := by
  have mask : winMask (issued s c ecc) w.part w.sub = winMask s w.part w.sub := by
    simp [winMask, slotOf_issued, fbit, fget_issued]
  rw [prefetchPasses, winTable_issued, mask, prefetchPasses]

/-- The mark and the caches after a read of a cacheable line, as the instruction issues. -/
theorem readAt_issued {p : Piece} (hp : cacheable p.addr = true) (s : State) (c : Nat) (ecc : Ecc) (w : Who) (nt str : Bool) :
    (readAt (issued s c ecc) w p nt str).2.2 = (readAt s w p nt str).2.2 ∧
    SameCaches s (readAt (issued s c ecc) w p nt str).1 := by
  have caches : SameCaches s (issued s c ecc) := ⟨issued_scache s c ecc⟩
  cases region : regionOf p.addr with
  | hbm k =>
    simp only [readAt, region, homeRead_mark, scrubbing_issued, homeAccepts_issued, depotWay_issued, isUe_issued, true_and]
    exact caches.trans (homeRead_caches _ _ _ _ _ _)
  | window k off =>
    simp only [readAt, region, windowRead_mark, homeAccepts_issued, pinWays_issued, isUe_issued, true_and]
    exact caches.trans (windowRead_caches _ _ _ _ _)
  | control _ | station _ _ | register _ | unmapped => simp [cacheable, region] at hp

/-- A prefetch of a line that may come in brings it in clean, and marked as prefetched. -/
theorem scPrefetch_issued {s : State} {w : Who} {st line : Nat} (hc : cacheable (64 * line) = true) (habsent : scFind s st line = none)
    (hpass : prefetchPasses s w line = true) (hread : (readAt s w ⟨64 * line, 64⟩ false true).2.2 = false) (c : Nat) (ecc : Ecc) :
    ∃ way l, scFind (scPrefetch (issued s c ecc) w st line) st line = some (way, l) ∧ l.dirty = 0 ∧ l.prefetched = true := by
  obtain ⟨mark, caches⟩ := readAt_issued (p := ⟨64 * line, 64⟩) hc s c ecc w false true
  have absent : scFind (issued s c ecc) st line = none := (scFind_of_caches ⟨issued_scache s c ecc⟩ st line).trans habsent
  have enters : scPrefetch (issued s c ecc) w st line = scInstall (readAt (issued s c ecc) w ⟨64 * line, 64⟩ false true).1 st
      ⟨line, allBytes, 0, lineBytes (readAt (issued s c ecc) w ⟨64 * line, 64⟩ false true).2.1, w.part, true⟩ := by
    simp only [scPrefetch, hc, absent, prefetchPasses_issued, hpass, mark, hread, Bool.not_true, Option.isSome_none, Bool.or_self,
      Bool.false_eq_true, if_false]
  rw [enters]
  exact ⟨_, _, scFind_scInstall ((scFind_of_caches caches st line).trans habsent), rfl, rfl⟩

/-! The line a PREF names. -/

theorem Insn.rowLen_pos (i : Insn) : 0 < i.rowLen := by
  unfold Insn.rowLen
  split_ifs
  · decide
  · cases i.fmtA <;> decide

theorem memBase_lt (k : Core) (i : Insn) : memBase k i < 2 ^ 48 := BitVec.isLt _

/-- The lines of the rows that a PREF fetches. -/
def prefLines (k : Core) (i : Insn) : List Nat :=
  ((rowAddrs k i).flatMap (fun a => (pieces a.toNat i.rowLen).map (fun p => p.addr / 64))).eraseDups

theorem exec_pref (c : CoreId) (ecc : Ecc) (s : State) : exec (.pref c ecc) s = issue 0x07 c ecc s (fun s k i _ =>
    .seq ((prefLines k i).foldl (fun s l => scPrefetch s (coreWho k c) (coreStn c) l) (declareStream s k c i))) := rfl

theorem rowAddrs_one {k : Core} {i : Insn} (h : i.rows = 1) : rowAddrs k i = [(memBase k i : Int)] := by
  have low : wrap 48 (memBase k i) = memBase k i := by
    have := memBase_lt k i
    unfold wrap
    omega
  simp [rowAddrs, h, low]

theorem prefLines_one {k : Core} {i : Insn} (h : i.rows = 1) (hl : memBase k i % 64 + i.rowLen ≤ 64) :
    prefLines k i = [memBase k i / 64] := by
  have piece := pieces_one i.rowLen_pos hl
  simp [prefLines, rowAddrs_one h, piece, List.eraseDups_cons]

theorem declareStream_home (s : State) (k : Core) (c : Nat) (i : Insn) : HomeStep s (declareStream s k c i) := by
  obtain ⟨d, hd⟩ := declareStream_dill s k c i
  rw [hd]
  exact HomeStep.of_rest rfl rfl

/-- Settles O15. -/
theorem prefetchesEnterNoTable : Obligations.PrefetchesEnterNoTable := by
  unfold Obligations.PrefetchesEnterNoTable
  intro s c w ecc hi hgo he
  dsimp only
  intro hop
  generalize hu : (prefLines (getCore s c) (Insn.ofWord w)).foldl (fun t l => scPrefetch t (coreWho (getCore s c) c) (coreStn c) l)
    (declareStream (issued s c ecc) (getCore s c) c (Insn.ofWord w)) = u
  have home : HomeStep (issued s c ecc) u :=
    hu ▸ (declareStream_home ..).trans (HomeStep.foldl _ (fun t l => scPrefetch_home t _ _ l) _ _)
  have cores : ∀ d, getCore u d = getCore s d := fun d => (home.getCore d).trans (getCore_issued ..)
  have state : coreState u c = coreState s c := (home.fields _ _ (by decide)).trans (coreState_issued ..)
  have retired : fget u .SAGE_RETIRED_COUNT c = fget (issued s c ecc) .SAGE_RETIRED_COUNT c := home.fields _ _ (by decide)
  refine Completes.of_seq (u := u) hi hop he hgo ?_ (by rw [cores]) (by rw [cores]) (exec_pref c ecc s)
    ⟨wentOn_movedTo state retired, ?_, fun d hd => ?_, fun one still within hc absent passes clean => ?_⟩
  · exact congrArg Issue.seq hu
  · rw [getCore_movedTo_same, cores]
  · rw [getCore_movedTo_other _ _ _ (fun same => hd (Fin.ext same)), cores]
  · have undeclared : declareStream (issued s c ecc) (getCore s c) c (Insn.ofWord w) = issued s c ecc := by
      simp [declareStream, still]
    rw [prefLines_one one within, undeclared] at hu
    obtain ⟨way, l, found, dirty, prefetched⟩ := scPrefetch_issued hc absent passes clean c ecc
    refine ⟨way, l, ?_, dirty, prefetched⟩
    have moved : SameCaches u (movedTo u c (nextOf s c).1 (nextOf s c).2) := ⟨rfl⟩
    rw [scFind_of_caches moved, ← hu]
    exact found

end Sys2Proof.Machine
end

section
/-! PROOFS. Completed accesses (R92, R130, R132, R287): a line of a transfer may be a device register whose write acts on the
core itself. -/
namespace Sys2Proof.Machine

/-- A store of two lines: the first is STN_CORE_FENCE of station 0, written 0; the second is a byte of HBM. -/
def releasingStore : Entry :=
  { slot := 0, space := .device, ownStn := false, lo := 0, hi := 0, reads := false, writes := true, release := false,
    acquire := false, scope := 0, nt := false, stream := false, rows := 1, stride := 0,
    payload := .store [(regBase + 0x2008008, [0, 0, 0, 0]), (0, [0])], done := 0, sent := false, await := 0, got := [] }

/-- Core 0 is FENCED with this store still in its table; its station is ON and bound to the launch's partition. -/
def fencedDraining : State :=
  let s := setCore State.reset 0 { Core.reset with table := [releasingStore], launch := some ⟨1, 0, 4, 0, 1, 0, 0, [], 0, [], 0, 0⟩ }
  let s := fset (fset s .SAGE_STATUS_STATE 0 stFenced) .STN_CORE_FENCE_FENCE 0 1
  fset (fset s .STN_STATUS_BOUND 0 1) .PWR_DOM_STATUS_STATE 0 domOn

/-- The first line of the store releases the core (R132), which clears its table. -/
theorem releasingStore_clears : (match exec (.sageAccessComplete 0 0 ⟨1, []⟩) fencedDraining with
    | .next t => (getCore t 0).table
    | _ => [releasingStore]) = [] := by
  decide

/-- Refutes O11: where only some lines of a store are performed first, and one of them writes 0 to the STN_CORE_FENCE bit of
the storing core, which is FENCED while its table drains, the release clears that table, and the entry does not stay. -/
theorem not_completedAccessesLeaveTheTable : ¬ Obligations.CompletedAccessesLeaveTheTable := by
  unfold Obligations.CompletedAccessesLeaveTheTable
  intro h
  have entry : (getCore fencedDraining (0 : CoreId)).table.find? (fun f => f.slot == releasingStore.slot) = some releasingStore := by
    decide
  have free : ¬ (earlier (getCore fencedDraining (0 : CoreId)).table releasingStore.slot).any
      (fun f => blocks (devNum fencedDraining) f releasingStore) = true := by decide
  have on : stnPower fencedDraining (coreStn (0 : CoreId)) = domOn := by decide
  have unheld : accessHeld fencedDraining releasingStore.payload.pieces = false := by decide
  obtain ⟨-, stays, -⟩ := h fencedDraining 0 releasingStore entry rfl (Bool.eq_false_iff.2 free) on
  obtain ⟨t, ran, f, member, -⟩ := stays 1 (Or.inr ⟨rfl, Or.inr unheld⟩) (by decide) (by decide)
  have cleared := releasingStore_clears
  have same : exec (.sageAccessComplete 0 0 ⟨1, []⟩) fencedDraining = .next t := ran
  rw [same] at cleared
  have empty : (getCore t (0 : CoreId)).table = [] := cleared
  rw [empty] at member
  exact List.not_mem_nil member

end Sys2Proof.Machine
end
